-- ==== Sys2Proof/Word.lean ====
section
/-! DEFINITION. The word types and the identities of the part's tables. -/

namespace Sys2Proof

/-- A character's eight data bits, or one byte of a frame (R159, 9.2). -/
abbrev Byte := BitVec 8

/-- A 16-bit field: a check word, a 2-byte argument. -/
abbrev Word16 := BitVec 16

/-- A 32-bit field: a 4-byte argument, the belt totalizer, a notice's value. -/
abbrev Word32 := BitVec 32

/-- Station time: an unsigned count of seconds that wraps after 0xFFFFFFFF (R178). -/
abbrev Time := BitVec 32

/-- The kilns K0 to K5 (00, 5.4). -/
abbrev Kiln := Fin 6

/-- The cadences C0 to C7 (R26). -/
abbrev CadenceId := Fin 8

/-- An index of the Node Table (R17). -/
abbrev NodeIdx := Fin 48

/-- An index of the Route Table (R48). -/
abbrev RouteIdx := Fin 64

end Sys2Proof
end

