-- ==== Sys2Proof/Syntax.lean ====
section
/-! DEFINITION. The commands: one constructor for each row of spec/opcode_table.json.
The table gives the rows no operands and no bits; the operands here are what the row's rule says comes with the event.
A request's arguments stand at the widths of 11.3, so that every value the wire can carry can be given. -/

namespace Sys2Proof

/-- The two ports that receive characters (09, 9.1). -/
inductive Port where
  | upstream
  | field
  deriving DecidableEq, Repr

/-- The commands of the block. `tag` is the second byte of a request's payload (R172). -/
inductive Instr where
  /-- R170. The operands are the levels of ADDR[3:0], UPRATE[1:0] and FPRATE[1:0] that are sampled. -/
  | powerOn (addr : BitVec 4) (upRate fpRate : BitVec 2)
  /-- R170. -/
  | resetPinAssert
  /-- R170. The operands are the strap levels that are sampled. -/
  | resetPinRelease (addr : BitVec 4) (upRate fpRate : BitVec 2)
  /-- R42, R161, R162. The operand is the characters of the reception, at most 55. -/
  | upstreamArrival (chars : List Byte)
  /-- R166. -/
  | linkSilent
  /-- R54. -/
  | upstreamTransmit
  /-- R171, R183. -/
  | upstreamFrameSent
  /-- R178. -/
  | timeSecond
  /-- R38. -/
  | fieldTransactionStart
  /-- R32, R165. -/
  | fieldTransmitDone
  /-- R32. -/
  | fieldReceptionStart
  /-- R47, R161, R162. The operand is the characters of the reception, at most 55. -/
  | fieldArrival (chars : List Byte)
  /-- R32. -/
  | transactionWindowExpiry
  /-- R35. -/
  | broadcastGuardEnd
  /-- R27. -/
  | cadenceExpiry (cadence : CadenceId)
  /-- R62. -/
  | changeoverTimerExpiry
  /-- R60. -/
  | divertWatchExpiry
  /-- R89. -/
  | stepEnd (kiln : Kiln)
  /-- R91. -/
  | rampMinute (kiln : Kiln)
  /-- R92. -/
  | dryToOvertime (kiln : Kiln)
  /-- R103. -/
  | abortCoolingEnd (kiln : Kiln)
  /-- R87. -/
  | refreshTimerExpiry (kiln : Kiln)
  /-- R106. -/
  | converterFrameStart
  /-- R106. The operands are the status byte and the sample, as 11.9 gives them. -/
  | converterFrameComplete (status : Byte) (sample : BitVec 24)
  /-- R108. -/
  | converterFrameTorn
  /-- R115. -/
  | settleTimeout
  /-- R108. -/
  | converterWatchExpiry
  /-- R177. -/
  | status (tag clear page : Byte)
  /-- R175. -/
  | tableRead (tag table index part : Byte)
  /-- R19 to R22. The image of a table write is its bytes as 11.4 lays them out. -/
  | nodeWrite (tag index : Byte) (image : List Byte)
  /-- R49. -/
  | routeWrite (tag index : Byte) (image : List Byte)
  /-- R26. -/
  | cadenceWrite (tag index : Byte) (image : List Byte)
  /-- R79. -/
  | kilnWrite (tag index : Byte) (image : List Byte)
  /-- R82, R85. -/
  | scheduleWrite (tag index : Byte) (image : List Byte)
  /-- R83, R85. -/
  | stepWrite (tag index : Byte) (image : List Byte)
  /-- R11. -/
  | varietyWrite (tag index : Byte) (image : List Byte)
  /-- R129. -/
  | tareWrite (tag index : Byte) (image : List Byte)
  /-- R112. -/
  | scaleSetupWrite (tag index : Byte) (image : List Byte)
  /-- R176. -/
  | stationWrite (tag index : Byte) (image : List Byte)
  /-- R178. -/
  | timeSet (tag : Byte) (time : Word32)
  /-- R40. -/
  | restartField (tag : Byte)
  /-- R180. -/
  | restartStation (tag : Byte)
  /-- R13. -/
  | lotOpen (tag : Byte) (lot grower : Word16) (variety : Byte)
  /-- R14. -/
  | lotRead (tag : Byte) (lot : Word16) (item : Byte)
  /-- R15. -/
  | lotVoid (tag : Byte) (lot : Word16)
  /-- R16. -/
  | lotClose (tag : Byte) (lot : Word16)
  /-- R61. -/
  | lotFeed (tag : Byte) (lot : Word16)
  /-- R76. -/
  | feedHold (tag flag : Byte)
  /-- R69. The count and the kiln numbers, as the request carries them. -/
  | fillOrder (tag count : Byte) (kilns : List Byte)
  /-- R75. -/
  | loadClose (tag : Byte)
  /-- R96. -/
  | kilnStart (tag kiln : Byte)
  /-- R100. -/
  | kilnHold (tag kiln : Byte)
  /-- R101. -/
  | kilnResume (tag kiln mode : Byte)
  /-- R102. -/
  | kilnAbort (tag kiln : Byte)
  /-- R104. -/
  | kilnRead (tag kiln : Byte)
  /-- R120. -/
  | scaleRead (tag : Byte)
  /-- R119. -/
  | scaleZero (tag : Byte)
  /-- R121. -/
  | scaleCommand (tag word : Byte)
  /-- R139. -/
  | baleRead (tag : Byte) (bale : Word32)
  /-- R138. -/
  | baleWeight (tag : Byte) (bale gross : Word32)
  /-- R126. -/
  | unloadDone (tag kiln : Byte)
  /-- R137. -/
  | pressHold (tag flag : Byte)
  /-- R142. -/
  | ticketBase (tag : Byte) (nextTicket nextBale : Word32)
  /-- R151. -/
  | ticketRead (tag : Byte) (ticket : Word32)
  /-- R152. -/
  | ticketTake (tag : Byte) (ticket : Word32)
  /-- R157. -/
  | ticketReprint (tag : Byte) (ticket : Word32)
  /-- R170. -/
  | powerFail
  /-- R161. -/
  | overlongIdleGap (port : Port)
  deriving DecidableEq, Repr

end Sys2Proof
end

