-- ==== Sys2Proof/Decode.lean ====
section
/-! DEFINITION. Reading a command from a word of spec/opcode_table.json's numbering. -/

namespace Sys2Proof

/-- The table gives no row any bits ("fields" is empty in every row and none has "fixed"), so no word spells a command. -/
def decodeTableWord (_nbits _w : Nat) : Option Instr := none

end Sys2Proof
end

