-- ==== Sys2Proof/Config.lean ====
section
/-! DEFINITION. What the spec fixes for this part: its identity, the capacities of its collections and its fixed times.
The spec leaves no result value open, so there is no free value here (INVENTORY.md, 'What the manual leaves open'). -/

namespace Sys2Proof.Config

/-- Family, device and revision codes of the STATUS reply (R177). -/
def family : Byte := 0xB4
/-- R177. -/
def device : Byte := 0x16
/-- R177. -/
def revision : Byte := 0x01

/-- Lot records (R1). -/
def lotCapacity : Nat := 24
/-- Charges of one lot (R4). -/
def chargeCapacity : Nat := 6
/-- Request Buffer (R43). -/
def requestCapacity : Nat := 4
/-- Pass Queue (R44). -/
def passCapacity : Nat := 8
/-- Forward Queue (R53). -/
def forwardCapacity : Nat := 16
/-- Notice Queue (R182). -/
def noticeCapacity : Nat := 32
/-- Ticket Queue (R149). -/
def ticketCapacity : Nat := 16
/-- Bale Store (R127). -/
def baleCapacity : Nat := 256
/-- Scale Command FIFO (R107). -/
def scaleCommandCapacity : Nat := 4
/-- Block history (R111). -/
def historyCapacity : Nat := 8
/-- Lines of one ticket (R146). -/
def ticketLines : Nat := 32

/-- The greatest weight a record holds, in 0.1 kg (R2, R67). -/
def maxWeight : Nat := 2147483646
/-- The greatest ticket or bale number (R141). -/
def maxNumber : Nat := 0xFFFFFFF0
/-- The next number of an exhausted numbering (R141). -/
def exhausted : Nat := 0xFFFFFFF1

/-- Silence count at which a LIVE port goes SILENT, in tenths of a second (R166). -/
def silenceLimit : Nat := 50
/-- The silence count stops here (R166). -/
def silenceMax : Nat := 2147483647
/-- The converter watch, in tenths of a second (R108). -/
def converterWatch : Nat := 10
/-- Ticks of the time base in one second (R178). -/
def ticksPerSecond : Nat := 10
/-- Reply window of a PASS to an address without an entry, in units of 10 ms (R35). -/
def passWindow : Nat := 10
/-- Guard of a BROADCAST, in units of 10 ms (R35). -/
def broadcastGuard : Nat := 2
/-- Four passes in a row, and then a poll (R39). -/
def passStreakLimit : Nat := 4
/-- Characters at which a reception is over-long (R161). -/
def overlong : Nat := 55
/-- Greatest payload of a frame (9.2). -/
def maxPayload : Nat := 48

end Sys2Proof.Config
end

