-- ==== Sys2Proof/Machine/State.lean ====
section
/-! DEFINITION. The state of the part: every record, table, queue, count and flag the spec names, as plain data.
A field's default is its value after power-on or the RESET pin, as the rule cited beside it states. -/

namespace Sys2Proof.Machine

/-! ## Names the records hold -/

/-- Roles of a node (R17, R186). -/
inductive Role where
  | belt | probe | burner | picker | diverter | press | moisture | printer | other
  deriving DecidableEq, Repr

/-- Node states (R18, R24). -/
inductive NodeState where
  | absent | unknown | online | lost
  deriving DecidableEq, Repr

/-- The FEED and PRESS states (R18). -/
inductive RunHold where
  | hold | run
  deriving DecidableEq, Repr

/-- The commanded state of a BURNER (R18). -/
structure BurnerCommand where
  setpoint : Int
  fan : Nat
  enabled : Bool
  deriving DecidableEq, Repr

/-- The commanded state of an actuator, in the form its role fixes (R18). -/
inductive Commanded where
  | feed (state : RunHold)
  | divert (target : Option Kiln)
  | press (state : RunHold)
  | setpoint (command : BurnerCommand)
  deriving DecidableEq, Repr

/-- What the Route Table does with a matched frame (R48); `none` is the unused entry's code 0 (R186). -/
inductive RouteAction where
  | none | drop | forward | green | kilnAir | kilnExhaust | baleEvent | moisture
  deriving DecidableEq, Repr

/-- The press event of a BALE-EVENT route (R48). -/
inductive EventSelector where
  | none | onScale | offScale | unloadDone
  deriving DecidableEq, Repr

/-- The Route Default (R50). -/
inductive RouteDefault where
  | forward | drop
  deriving DecidableEq, Repr

/-- Lot states (R3). -/
inductive LotState where
  | opened | feeding | finished
  deriving DecidableEq, Repr

/-- Charge states (R5). -/
inductive ChargeState where
  | filling | kilning | awaitPress | pressing | pressed | ticketed
  deriving DecidableEq, Repr

/-- Kiln states (R80). -/
inductive KilnState where
  | empty | loading | loaded | drying | hold | cooling | dried | unloading
  deriving DecidableEq, Repr

/-- Step kinds (R83). -/
inductive StepKind where
  | fin | ramp | soak | dryTo | cool
  deriving DecidableEq, Repr

/-- Reasons for holding a kiln (R80, R98). -/
inductive HoldReason where
  | limit | probe | burner | overtime | operator
  deriving DecidableEq, Repr

/-- Modes of KILN-RESUME (R101). -/
inductive ResumeMode where
  | continue | extend | next
  deriving DecidableEq, Repr

/-- Scale states (R113). -/
inductive ScaleState where
  | unconfigured | idle | settling | clearing | fault
  deriving DecidableEq, Repr

/-- Causes of FAULT (R117). -/
inductive FaultCause where
  | ready | overrange | reference
  deriving DecidableEq, Repr

/-- Bale statuses (R128). -/
inductive BaleStatus where
  | weighing | weighed | awaitingWeight
  deriving DecidableEq, Repr

/-- Print states of a ticket (R153). -/
inductive PrintState where
  | unprinted | printing | printed | failed
  deriving DecidableEq, Repr

/-- States of the print process (R153). SCAN is left within the event that enters it. -/
inductive PrintProcess where
  | idle | scan | sending | halted
  deriving DecidableEq, Repr

/-- Notice kinds (10, 10.5.2). -/
inductive NoticeKind where
  | nodeLost | commandRefused | kilnHold | kilnOvertime | feedHeld | pressHeld | scaleFault | baleUnrecorded
  | beltJump | printerFault | chargeLimit | nodeBack | pollOverrun | passDropped | passRefused | passTimeout
  | routeMismatch | linkRestored | spill | shortCharge | kilnDried | baleTolerance | scaleSequence | ticketReady
  deriving DecidableEq, Repr

/-- Results of a request (R172). -/
inductive Result where
  | ok | format | range | state | inUse | full | unknown | conflict | notReady
  deriving DecidableEq, Repr

/-! ## Frames -/

/-- A frame that passed the port's checks or that the part sends (9.2, 11.2). The length field is the payload's length. -/
structure Frame where
  dest : Byte
  src : Byte
  code : Byte
  payload : List Byte
  check : Word16
  deriving DecidableEq, Repr

/-! ## Power, reset and the ports -/

/-- Supply and RESET pin (R170). The reset values are those of the part just after reset. -/
structure Power where
  powered : Bool := true
  resetAsserted : Bool := false
  deriving DecidableEq, Repr

/-- The error counts of one port, saturating at 65535 (R164). -/
structure PortCounts where
  check : Nat := 0
  length : Nat := 0
  torn : Nat := 0
  deriving DecidableEq, Repr

/-- The two ports (09). -/
structure Link where
  /-- ADDR straps as last sampled (R168). DESIGN CHOICE 0 at reset (log 7). -/
  addr : BitVec 4 := 0
  /-- UPRATE straps as last sampled (R159). DESIGN CHOICE 0 at reset (log 7). -/
  upRate : BitVec 2 := 0
  /-- FPRATE straps as last sampled (R159). DESIGN CHOICE 0 at reset (log 7). -/
  fpRate : BitVec 2 := 0
  /-- LIVE (true) or SILENT (R166). -/
  live : Bool := false
  /-- Tenths of a second since the last valid arrival (R166). -/
  silence : Nat := 0
  up : PortCounts := {}
  fp : PortCounts := {}
  /-- R37. -/
  unsolicited : Nat := 0
  /-- The receiver takes no characters until the line has been idle (R161). -/
  upOverlong : Bool := false
  /-- The same, of the Field Port. -/
  fpOverlong : Bool := false
  /-- A reception is in progress on the Field Port (R161, R165). -/
  fpReceiving : Bool := false
  /-- FDRV: the Field Port's line driver is enabled (R165). -/
  driver : Bool := false
  deriving DecidableEq, Repr

/-! ## Frame Classifier -/

/-- One entry of the Route Table (R48). -/
structure Route where
  used : Bool := false
  source : Byte := 0
  code : Byte := 0
  action : RouteAction := .none
  offset : Nat := 0
  width : Nat := 0
  signed : Bool := false
  selector : EventSelector := .none
  copy : Bool := false
  deriving DecidableEq, Repr

/-- The ticket block of an accepted TICKET-READ: the frames not yet sent, and whether the reply has gone (R55). -/
structure TicketBlock where
  frames : List Frame
  inProgress : Bool
  deriving DecidableEq, Repr

/-- Which source a frame on the Upstream Port's transmit line came from (R54). -/
inductive UpSource where
  | reply | segment | notice | forward
  deriving DecidableEq, Repr

/-- The frame being sent upstream (R54). -/
structure UpTransmit where
  source : UpSource
  frame : Frame
  deriving DecidableEq, Repr

/-- The Frame Classifier (03; R56 gives the reset values). -/
structure Classifier where
  requests : List Frame := []
  dropped : Nat := 0
  misdirected : Nat := 0
  routes : Vector Route 64 := Vector.replicate 64 {}
  passQueue : List Frame := []
  forwardQueue : List Frame := []
  reply : Option Frame := none
  block : Option TicketBlock := none
  sending : Option UpTransmit := none
  deriving DecidableEq, Repr

/-! ## Field Master -/

/-- One entry of the Node Table with its runtime fields (R17, R18). `role = none` is the empty entry's role 0. -/
structure Node where
  address : Byte := 0
  role : Option Role := none
  binding : Option Kiln := none
  cadence : Option CadenceId := none
  window : Nat := 0
  missLimit : Nat := 0
  state : NodeState := .absent
  misses : Nat := 0
  lastAnswer : Option Time := none
  lastTotalizer : Word32 := 0
  baseline : Bool := false
  commanded : Option Commanded := none
  confirmed : Bool := false
  deriving DecidableEq, Repr

/-- One cadence (R26). -/
structure Cadence where
  enabled : Bool := false
  period : Nat := 10
  /-- Tenths of a second to the next expiry; 0 while disabled. -/
  countdown : Nat := 0
  deriving DecidableEq, Repr

/-- One entry of the Command Queue (R30). The command code is fixed by the payload's form. -/
structure Command where
  node : NodeIdx
  payload : Commanded
  deriving DecidableEq, Repr

/-- Transaction kinds (R33 to R36), with what the outcome needs: the code a COMMAND carries, the ticket a BLOCK carries. -/
inductive TransactionKind where
  | poll
  | command (code : Byte)
  | pass
  | broadcast
  | block (ticket : Nat)
  deriving DecidableEq, Repr

/-- The outstanding field transaction (R32). -/
structure Transaction where
  kind : TransactionKind
  /-- The address it was sent to. -/
  address : Byte
  /-- The Node Table entry its outcome acts on, fixed at the start (log 13). -/
  node : Option NodeIdx
  /-- A heavy or emptying write has come: the outcome is not applied (R21). -/
  detached : Bool
  /-- What the part sends in it. -/
  frames : List Frame
  /-- The wait, in units of 10 ms, read at the start (R32). -/
  window : Nat
  /-- The last character has not been sent yet: the wait has not begun. -/
  sending : Bool
  /-- The wait has run out while a frame was arriving (R32). -/
  waitRunOut : Bool
  deriving DecidableEq, Repr

/-- The sources of the Field Transmit Arbiter, in its order (R38): the Command Queue, the print request, the Pass Queue, the
Poll Queue. -/
inductive FieldSource where
  | command
  | print
  | pass
  | poll
  deriving DecidableEq, Repr

/-- The Field Master (02; R41 gives the reset values). -/
structure FieldMaster where
  nodes : Vector Node 48 := Vector.replicate 48 {}
  cadences : Vector Cadence 8 := Vector.replicate 8 {}
  pollQueue : List NodeIdx := []
  commandQueue : List Command := []
  transaction : Option Transaction := none
  /-- The ticket whose BLOCK request waits for the arbiter (R36). -/
  printRequest : Option Nat := none
  passStreak : Nat := 0
  /-- The source that the Field Transmit Arbiter has chosen on the free segment, until its transaction starts (R38). -/
  chosen : Option FieldSource := none
  deriving DecidableEq, Repr

/-! ## Lots -/

/-- A charge record (R5). Its index is its place in the lot's list (R4). -/
structure Charge where
  kiln : Kiln
  state : ChargeState
  green : Nat
  fillStart : Time
  fillEnd : Option Time
  dried : Option Time
  short : Bool
  aborted : Bool
  held : Bool
  overtime : Bool
  bales : Nat
  net : Int
  partTickets : Nat
  finalTicket : Option Nat
  deriving DecidableEq, Repr

/-- A lot record (R2). -/
structure Lot where
  number : Nat
  grower : Nat
  variety : Fin 16
  state : LotState
  openTime : Time
  charges : List Charge
  greenTotal : Nat
  spill : Nat
  baleCount : Nat
  netTotal : Int
  releasedBales : Nat
  releasedNet : Int
  ticketsIssued : Nat
  ticketsTaken : Nat
  deriving DecidableEq, Repr

/-- How a charge is named (R4): lot number and charge index. -/
structure ChargeRef where
  lot : Nat
  index : Nat
  deriving DecidableEq, Repr

/-- A Variety entry (R10). -/
structure Variety where
  valid : Bool := false
  schedule : Fin 8 := 0
  endHumidity : Nat := 0
  qualify : Nat := 1
  targetMin : Nat := 0
  targetMax : Nat := 0
  maxMoisture : Nat := 0
  deriving DecidableEq, Repr

/-- The Lot Table, ascending by lot number (R1, log 18), and the Variety Table (R10). -/
structure LotTable where
  lots : List Lot := []
  varieties : Vector Variety 16 := Vector.replicate 16 {}
  deriving DecidableEq, Repr

/-! ## Feed and Loading Unit -/

/-- The changeover (R57). -/
inductive Changeover where
  | steady
  | draining (pending : Option Nat)
  | waiting (pending : Option Nat)
  deriving DecidableEq, Repr

/-- The feed-hold reason set (R58). -/
structure FeedHold where
  stopped : Bool := true
  changeover : Bool := false
  noKiln : Bool := false
  divert : Bool := false
  chargeLimit : Bool := false
  operator : Bool := false
  deriving DecidableEq, Repr

/-- The Feed and Loading Unit (R57). -/
structure Feed where
  feedLot : Option Nat := none
  beltLot : Option Nat := none
  changeover : Changeover := .steady
  /-- Tenths of a second left; counts in DRAINING. -/
  timer : Nat := 0
  hold : FeedHold := {}
  picker : RunHold := .hold
  fillOrder : List Kiln := []
  loading : Option Kiln := none
  divertConfirmed : Bool := false
  /-- Tenths of a second left, or stopped (R60). -/
  divertWatch : Option Nat := none
  unassigned : Nat := 0
  deriving DecidableEq, Repr

/-! ## Kiln Unit -/

/-- A KILN entry (R78). -/
structure KilnEntry where
  capacity : Nat := 0
  minLoad : Nat := 0
  autoStart : Bool := false
  refresh : Nat := 30
  holdFan : Nat := 0
  limitStreak : Nat := 3
  deriving DecidableEq, Repr

/-- A kiln's hold reason set (R80). -/
structure KilnHoldSet where
  limit : Bool := false
  probe : Bool := false
  burner : Bool := false
  overtime : Bool := false
  operator : Bool := false
  deriving DecidableEq, Repr

/-- A kiln runtime record (R80), with the two fractions and the refresh timer that R80 names after its table. -/
structure KilnRun where
  state : KilnState := .empty
  charge : Option ChargeRef := none
  schedule : Option (Fin 8) := none
  stepIndex : Nat := 0
  entrySetpoint : Int := 0
  setpoint : Int := 0
  stepElapsed : Nat := 0
  /-- Tenths beyond the whole seconds of step elapsed (R89). -/
  stepFraction : Nat := 0
  totalElapsed : Nat := 0
  /-- Tenths beyond the whole seconds of total elapsed (R89). -/
  totalFraction : Nat := 0
  lastAir : Option Int := none
  lastAirTime : Option Time := none
  lastExhaust : Option Nat := none
  lastExhaustTime : Option Time := none
  overLimit : Nat := 0
  dryQualify : Nat := 0
  hold : KilnHoldSet := {}
  aborted : Bool := false
  /-- Tenths of a second left, or stopped (R87). -/
  refresh : Option Nat := none
  /-- The model's own: the last whole minute of a RAMP whose setpoint has been computed (R91, log 17). -/
  rampMinute : Nat := 0
  deriving DecidableEq, Repr

/-- A Schedule descriptor (R82). -/
structure Schedule where
  first : Nat := 0
  count : Nat := 0
  startTemp : Int := 0
  abortCoolMinutes : Nat := 0
  abortCoolFan : Nat := 0
  deriving DecidableEq, Repr

/-- A step entry (R83). -/
structure Step where
  kind : StepKind := .fin
  duration : Nat := 0
  target : Int := 0
  limit : Int := 0
  fan : Nat := 0
  deriving DecidableEq, Repr

/-- The Kiln Unit (05; R105 gives the reset values). -/
structure KilnUnit where
  entries : Vector KilnEntry 6 := Vector.replicate 6 {}
  run : Vector KilnRun 6 := Vector.replicate 6 {}
  schedules : Vector Schedule 8 := Vector.replicate 8 {}
  steps : Vector Step 128 := Vector.replicate 128 {}
  deriving DecidableEq, Repr

/-! ## Scale Engine -/

/-- The Scale Setup (R112). -/
structure ScaleSetup where
  zeroOffset : Int := 0
  span : Nat := 0
  watermark : Nat := 4
  stability : Nat := 4
  band : Nat := 5
  zeroTrackBand : Nat := 0
  zeroLimit : Nat := 200
  minGross : Nat := 100
  settleTimeout : Nat := 20
  idleWord : Byte := 0
  deriving DecidableEq, Repr

/-- A converter frame in progress; select is asserted while there is one (R106, R107). -/
structure ConverterFrame where
  /-- The 32 bits that go out, the most significant first: the command word and 24 zero bits (R106). -/
  sends : BitVec 32
  /-- The command word came from the Scale Command FIFO's head (R107). -/
  fromFifo : Bool
  deriving DecidableEq, Repr

/-- A scale block (R110). -/
structure ScaleBlock where
  raw : Int
  weight : Option Int
  deriving DecidableEq, Repr

/-- The Scale Engine (06; R122 gives the reset values). -/
structure Scale where
  setup : ScaleSetup := {}
  state : ScaleState := .unconfigured
  captured : Bool := false
  cycleOpen : Bool := false
  good : Nat := 0
  frame : Option ConverterFrame := none
  commands : List Byte := []
  pendingA : Option Int := none
  samples : List Int := []
  history : List ScaleBlock := []
  lastBlock : Option ScaleBlock := none
  /-- Present exactly when the stable flag is set (R111). -/
  stable : Option Int := none
  /-- Tenths of a second left, or stopped (R115). -/
  settle : Option Nat := none
  /-- Tenths of a second left of the converter watch (R108). -/
  watch : Nat := Config.converterWatch
  deriving DecidableEq, Repr

/-! ## Press Unit -/

/-- A bale record (R128). The TARE-UNKNOWN flag is set exactly when the tare code is unknown, and is computed. -/
structure Bale where
  number : Nat
  lot : Nat
  index : Nat
  kiln : Kiln
  status : BaleStatus
  gross : Option Int
  tareCode : Option (Fin 8)
  tare : Nat
  net : Option Int
  moisture : Option Nat
  time : Time
  manual : Bool
  low : Bool
  high : Bool
  wet : Bool
  ticket : Option Nat
  deriving DecidableEq, Repr

/-- The cycle bale (R130). -/
inductive CycleBale where
  | none
  | bale (number : Nat)
  | unrecorded
  deriving DecidableEq, Repr

/-- The press-hold reason set (R135). -/
structure PressHoldSet where
  store : Bool := false
  operator : Bool := false
  deriving DecidableEq, Repr

/-- The Press Unit (07; R140 gives the reset values). -/
structure Press where
  queue : List Kiln := []
  bales : List Bale := []
  tares : Vector Nat 8 := Vector.replicate 8 0
  cycle : CycleBale := .none
  hold : PressHoldSet := {}
  command : Option RunHold := none
  deriving DecidableEq, Repr

/-! ## Ticket Unit -/

/-- One line of a ticket (R147). -/
structure TicketLine where
  bale : Nat
  net : Int
  manual : Bool
  low : Bool
  high : Bool
  wet : Bool
  tareUnknown : Bool
  deriving DecidableEq, Repr

/-- A ticket (R147). -/
structure Ticket where
  number : Nat
  lot : Nat
  grower : Nat
  variety : Fin 16
  kiln : Kiln
  index : Nat
  part : Nat
  final : Bool
  green : Nat
  lines : List TicketLine
  totalNet : Int
  yield : Option Nat
  short : Bool
  aborted : Bool
  held : Bool
  overtime : Bool
  manual : Bool
  tolerance : Bool
  wet : Bool
  issued : Time
  print : PrintState
  deriving DecidableEq, Repr

/-- The Ticket Unit (08; R141, R144, R149, R153 give the reset values). -/
structure Tickets where
  baseSet : Bool := false
  nextTicket : Nat := 0
  lastTicket : Option Nat := none
  nextBale : Nat := 0
  lastBale : Option Nat := none
  wait : List ChargeRef := []
  queue : List Ticket := []
  process : PrintProcess := .idle
  deriving DecidableEq, Repr

/-! ## Management Unit -/

/-- The STATION entry (R176). -/
structure Station where
  transit : Nat := 90
  maxIncrement : Nat := 5000
  threshold : Nat := 4
  routeDefault : RouteDefault := .forward
  deriving DecidableEq, Repr

/-- An entry of the Notice Queue (R182, R183). Its class is fixed by its kind and is computed. -/
structure Notice where
  kind : NoticeKind
  object : Nat
  /-- Signed 32-bit, or absent. -/
  value : Option Word32
  first : Time
  last : Time
  count : Nat
  /-- In transmission (R183). -/
  sending : Bool
  renewals : Nat
  renewalTime : Time
  deriving DecidableEq, Repr

/-- The Management Unit (10; R181 gives the reset values). -/
structure Management where
  time : Time := 0
  /-- Ticks counted towards the next second; 10 when the second is due (R178). -/
  ticks : Nat := 0
  timeSet : Bool := false
  station : Station := {}
  notices : List Notice := []
  overflow : Bool := false
  deriving DecidableEq, Repr

/-! ## The machine -/

/-- The state of the part, and the commands that wait. -/
structure State where
  pending : List Instr
  power : Power
  link : Link
  classifier : Classifier
  field : FieldMaster
  table : LotTable
  feed : Feed
  kilns : KilnUnit
  scale : Scale
  press : Press
  tickets : Tickets
  mgmt : Management
  deriving DecidableEq, Repr

/-- The part right after reset: powered, RESET released, every block at the value after power-on or the RESET pin, and no
command waiting (log 8). -/
def State.reset : State where
  pending := []
  power := {}
  link := {}
  classifier := {}
  field := {}
  table := {}
  feed := {}
  kilns := {}
  scale := {}
  press := {}
  tickets := {}
  mgmt := {}

/-- Why the machine would stop with a fault. The spec gives every command an effect in every state, so there is no reason:
no command raises a fault (safe: nothing is stopped). -/
inductive Fault where
  deriving DecidableEq, Repr

/-- Why a command would be turned away. -/
inductive Refusal where
  /-- An arm of exec that has no meaning yet answers it. No arm does (safe: a refusal proves nothing). -/
  | notModelled (mnemonic : String)
  deriving DecidableEq, Repr

end Sys2Proof.Machine
end

