-- ==== Sys2Proof/Machine/Bytes.lean ====
section
/-! DEFINITION. Byte order, absent codes, the check word and the judgement of a reception (R163, R162, R185). -/

namespace Sys2Proof.Machine

/-- The low eight bits of a number. -/
def byte (n : Nat) : Byte := BitVec.ofNat 8 n

/-- A 1-byte flag (R185). -/
def flagByte (b : Bool) : Byte := if b then 1 else 0

/-- A 2-byte field, high byte first (R185). -/
def bytes16 (w : Word16) : List Byte := [(w >>> 8).setWidth 8, w.setWidth 8]

/-- A 4-byte field, high byte first (R185). -/
def bytes32 (w : Word32) : List Byte :=
  [(w >>> 24).setWidth 8, (w >>> 16).setWidth 8, (w >>> 8).setWidth 8, w.setWidth 8]

/-- The 2-byte field that two bytes carry. -/
def word16 (hi lo : Byte) : Word16 := hi ++ lo

/-- The 4-byte field that four bytes carry. -/
def word32 (a b c d : Byte) : Word32 := a ++ b ++ c ++ d

/-- An unsigned count in 2 bytes. -/
def be16 (n : Nat) : List Byte := bytes16 (BitVec.ofNat 16 n)

/-- An unsigned count in 4 bytes. -/
def be32 (n : Nat) : List Byte := bytes32 (BitVec.ofNat 32 n)

/-- A signed count in 2 bytes, two's complement. -/
def int16 (i : Int) : List Byte := bytes16 (BitVec.ofInt 16 i)

/-- A signed count in 4 bytes, two's complement. -/
def int32 (i : Int) : List Byte := bytes32 (BitVec.ofInt 32 i)

/-- A signed count in 3 bytes, held at the nearer limit when it lies outside them (R150). -/
def int24 (i : Int) : List Byte :=
  let w : BitVec 24 := BitVec.ofInt 24 (max (-8388608) (min 8388607 i))
  [(w >>> 16).setWidth 8, (w >>> 8).setWidth 8, w.setWidth 8]

/-- A present value that equals the absent code goes one unit toward zero (R185). -/
def offCode {n : Nat} (code w : BitVec n) : BitVec n := if w = code then code - 1 else w

/-- Optional 1-byte field: 0xFF when absent (R185). -/
def optByte (o : Option Nat) : List Byte :=
  match o with
  | none => [0xFF]
  | some n => [byte n]

/-- Optional unsigned 2-byte field (R185). -/
def optU16 (o : Option Nat) : List Byte :=
  match o with
  | none => bytes16 0xFFFF
  | some n => bytes16 (offCode 0xFFFF (BitVec.ofNat 16 n))

/-- Optional signed 2-byte field (R185). -/
def optI16 (o : Option Int) : List Byte :=
  match o with
  | none => bytes16 0x7FFF
  | some i => bytes16 (offCode 0x7FFF (BitVec.ofInt 16 i))

/-- Optional unsigned 4-byte field (R185). -/
def optU32 (o : Option Nat) : List Byte :=
  match o with
  | none => bytes32 0xFFFFFFFF
  | some n => bytes32 (offCode 0xFFFFFFFF (BitVec.ofNat 32 n))

/-- Optional signed 4-byte field (R185). -/
def optI32 (o : Option Int) : List Byte :=
  match o with
  | none => bytes32 0x7FFFFFFF
  | some i => bytes32 (offCode 0x7FFFFFFF (BitVec.ofInt 32 i))

/-- Optional timestamp (R185). -/
def optTime (o : Option Time) : List Byte := optU32 (o.map BitVec.toNat)

/-- A net sum: 32-bit two's complement that wraps modulo 2^32 (R2). -/
def wrap32 (i : Int) : Int := i.bmod 4294967296

/-- A saturating 16-bit count (R164). -/
def sat16 (n : Nat) : Nat := min 65535 n

/-- One bit of the check word's register (R163). -/
def crcBit (r : Word16) (b : Bool) : Word16 :=
  if r.msb = b then r <<< 1 else (r <<< 1) ^^^ 0x1021

/-- One byte, most significant bit first (R163). -/
def crcByte (r : Word16) (b : Byte) : Word16 :=
  [7, 6, 5, 4, 3, 2, 1, 0].foldl (fun r i => crcBit r (b.getLsbD i)) r

/-- The check word of the covered bytes (R163). -/
def crc (bs : List Byte) : Word16 := bs.foldl crcByte 0xFFFF

/-- The header and payload of a frame, as sent (11.2). -/
def Frame.covered (f : Frame) : List Byte :=
  f.dest :: f.src :: f.code :: byte f.payload.length :: f.payload

/-- The bytes of a frame, as sent (11.2). -/
def Frame.bytes (f : Frame) : List Byte := f.covered ++ bytes16 f.check

/-- A frame the part originates: its check word is computed (R160, R163). -/
def mkFrame (dest src code : Byte) (payload : List Byte) : Frame :=
  { dest, src, code, payload
    check := crc (dest :: src :: code :: byte payload.length :: payload) }

/-- The outcome of the judgement of a reception (R162). -/
inductive Judged where
  | torn
  | badLength
  | badCheck
  | valid (f : Frame)
  deriving DecidableEq, Repr

/-- R162, in its order. Characters beyond the 54th are counted and not kept (R161); an over-long reception is judged on its
count alone, since no length field up to 48 matches it. -/
def judge (chars : List Byte) : Judged :=
  match chars with
  | d :: s :: c :: l :: rest =>
    if Config.maxPayload < l.toNat then .badLength
    else if chars.length < l.toNat + 6 then .torn
    else if l.toNat + 6 < chars.length then .badLength
    else
      match rest.drop l.toNat with
      | [hi, lo] =>
        if crc (d :: s :: c :: l :: rest.take l.toNat) = word16 hi lo then
          .valid { dest := d, src := s, code := c, payload := rest.take l.toNat, check := word16 hi lo }
        else .badCheck
      | _ => .badCheck
  | _ => .torn

/-- The number that a run of bytes carries, high byte first. -/
def beNat (bs : List Byte) : Nat := bs.foldl (fun n b => n * 256 + b.toNat) 0

/-- `n` as a signed number of `w` bits. -/
def signedOf (w n : Nat) : Int := if n < 2 ^ (w - 1) then (n : Int) else (n : Int) - 2 ^ w

end Sys2Proof.Machine
end

