-- ==== Sys2Proof/Machine/Flags.lean ====
section
/-! DEFINITION. Codes of the enumerated fields, and the bytes that carry sets and flags (R186, R169, R172). -/

namespace Sys2Proof.Machine

/-! ## Frame codes (R169) -/

def codePoll : Byte := 0x40
def codeNil : Byte := 0x41
def codeSetpoint : Byte := 0x44
def codeFeed : Byte := 0x45
def codeDivert : Byte := 0x46
def codePress : Byte := 0x47
def codeAck : Byte := 0x4E
def codeNak : Byte := 0x4F
def codeBlock : Byte := 0x50
def codePrinted : Byte := 0x51
def codeRejected : Byte := 0x52
def codeRequest : Byte := 0x60
def codeReply : Byte := 0x61
def codeNotice : Byte := 0x62
def codeTicket : Byte := 0x63

/-- Node data codes, 0x01 to 0x3F (R169). -/
def isNodeData (c : Byte) : Bool := 1 ≤ c.toNat && c.toNat ≤ 0x3F

/-- The four command codes (R45, R169). -/
def isCommandCode (c : Byte) : Bool :=
  c = codeSetpoint || c = codeFeed || c = codeDivert || c = codePress

/-- A field node's address, 0x01 to 0xDF (R17). -/
def isFieldAddress (a : Byte) : Bool := 1 ≤ a.toNat && a.toNat ≤ 0xDF

/-! ## Enumerations: the code of a value, and the value of a code (R186) -/

def Role.code : Role → Nat
  | .belt => 1 | .probe => 2 | .burner => 3 | .picker => 4 | .diverter => 5
  | .press => 6 | .moisture => 7 | .printer => 8 | .other => 9

def Role.ofCode : Nat → Option Role
  | 1 => some .belt | 2 => some .probe | 3 => some .burner | 4 => some .picker | 5 => some .diverter
  | 6 => some .press | 7 => some .moisture | 8 => some .printer | 9 => some .other | _ => none

def NodeState.code : NodeState → Nat
  | .absent => 0 | .unknown => 1 | .online => 2 | .lost => 3

def RunHold.code : RunHold → Nat
  | .hold => 0 | .run => 1

def RouteAction.code : RouteAction → Nat
  | .none => 0 | .drop => 1 | .forward => 2 | .green => 3 | .kilnAir => 4 | .kilnExhaust => 5
  | .baleEvent => 6 | .moisture => 7

/-- The seven actions of a used entry. -/
def RouteAction.ofCode : Nat → Option RouteAction
  | 1 => some .drop | 2 => some .forward | 3 => some .green | 4 => some .kilnAir | 5 => some .kilnExhaust
  | 6 => some .baleEvent | 7 => some .moisture | _ => Option.none

def EventSelector.code : EventSelector → Nat
  | .none => 0 | .onScale => 1 | .offScale => 2 | .unloadDone => 3

def EventSelector.ofCode : Nat → Option EventSelector
  | 0 => some .none | 1 => some .onScale | 2 => some .offScale | 3 => some .unloadDone | _ => Option.none

def RouteDefault.code : RouteDefault → Nat
  | .forward => 0 | .drop => 1

def RouteDefault.ofCode : Nat → Option RouteDefault
  | 0 => some .forward | 1 => some .drop | _ => none

def LotState.code : LotState → Nat
  | .opened => 0 | .feeding => 1 | .finished => 2

def ChargeState.code : ChargeState → Nat
  | .filling => 0 | .kilning => 1 | .awaitPress => 2 | .pressing => 3 | .pressed => 4 | .ticketed => 5

def KilnState.code : KilnState → Nat
  | .empty => 0 | .loading => 1 | .loaded => 2 | .drying => 3 | .hold => 4 | .cooling => 5 | .dried => 6
  | .unloading => 7

def StepKind.code : StepKind → Nat
  | .fin => 0 | .ramp => 1 | .soak => 2 | .dryTo => 3 | .cool => 4

def StepKind.ofCode : Nat → Option StepKind
  | 0 => some .fin | 1 => some .ramp | 2 => some .soak | 3 => some .dryTo | 4 => some .cool | _ => none

def ResumeMode.ofCode : Nat → Option ResumeMode
  | 0 => some .continue | 1 => some .extend | 2 => some .next | _ => none

/-- The changeover phase (R57). -/
def Changeover.code : Changeover → Nat
  | .steady => 0 | .draining _ => 1 | .waiting _ => 2

def ScaleState.code : ScaleState → Nat
  | .unconfigured => 0 | .idle => 1 | .settling => 2 | .clearing => 3 | .fault => 4

def FaultCause.code : FaultCause → Nat
  | .ready => 1 | .overrange => 2 | .reference => 3

def BaleStatus.code : BaleStatus → Nat
  | .weighing => 0 | .weighed => 1 | .awaitingWeight => 2

def PrintState.code : PrintState → Nat
  | .unprinted => 0 | .printing => 1 | .printed => 2 | .failed => 3

def Result.code : Result → Byte
  | .ok => 0 | .format => 1 | .range => 2 | .state => 3 | .inUse => 4 | .full => 5 | .unknown => 6
  | .conflict => 7 | .notReady => 8

/-- 11.7. -/
def NoticeKind.code : NoticeKind → Nat
  | .nodeLost => 0x01 | .commandRefused => 0x02 | .kilnHold => 0x03 | .kilnOvertime => 0x04 | .feedHeld => 0x05
  | .pressHeld => 0x06 | .scaleFault => 0x07 | .baleUnrecorded => 0x08 | .beltJump => 0x09 | .printerFault => 0x0A
  | .chargeLimit => 0x0B | .nodeBack => 0x0C | .pollOverrun => 0x0D | .passDropped => 0x0E | .passRefused => 0x0F
  | .passTimeout => 0x10 | .routeMismatch => 0x11 | .linkRestored => 0x12 | .spill => 0x13 | .shortCharge => 0x14
  | .kilnDried => 0x15 | .baleTolerance => 0x16 | .scaleSequence => 0x17 | .ticketReady => 0x18

/-- The class of a kind: ALARM (true) or INFO (10, 10.5.2). -/
def NoticeKind.isAlarm : NoticeKind → Bool
  | .nodeLost => true | .commandRefused => true | .kilnHold => true | .kilnOvertime => true | .feedHeld => true
  | .pressHeld => true | .scaleFault => true | .baleUnrecorded => true | .beltJump => true | .printerFault => true
  | .chargeLimit => true | .nodeBack => false | .pollOverrun => false | .passDropped => false | .passRefused => false
  | .passTimeout => false | .routeMismatch => false | .linkRestored => false | .spill => false | .shortCharge => false
  | .kilnDried => false | .baleTolerance => false | .scaleSequence => false | .ticketReady => false

/-! ## Sets and flags -/

/-- One byte, bit 0 first. -/
def bitsByte (bs : List Bool) : Byte :=
  byte (bs.foldr (fun b n => (if b then 1 else 0) + 2 * n) 0)

/-- The feed-hold reason set. -/
def FeedHold.byte (h : FeedHold) : Byte :=
  bitsByte [h.stopped, h.changeover, h.noKiln, h.divert, h.chargeLimit, h.operator]

/-- The set is empty (R59). -/
def FeedHold.isEmpty (h : FeedHold) : Bool :=
  !(h.stopped || h.changeover || h.noKiln || h.divert || h.chargeLimit || h.operator)

/-- Bit numbers of the feed-hold reasons that FEED-HELD carries (R186). -/
def reasonNoKiln : Nat := 2
def reasonDivert : Nat := 3
def reasonChargeLimit : Nat := 4

/-- The press-hold reason set. -/
def PressHoldSet.byte (h : PressHoldSet) : Byte := bitsByte [h.store, h.operator]

/-- The set is empty (R136). -/
def PressHoldSet.isEmpty (h : PressHoldSet) : Bool := !(h.store || h.operator)

/-- The kiln hold reason set. -/
def KilnHoldSet.byte (h : KilnHoldSet) : Byte :=
  bitsByte [h.limit, h.probe, h.burner, h.overtime, h.operator]

/-- A reason is a member of a kiln's set. -/
def KilnHoldSet.has (h : KilnHoldSet) : HoldReason → Bool
  | .limit => h.limit | .probe => h.probe | .burner => h.burner | .overtime => h.overtime | .operator => h.operator

/-- A kiln's set with a reason added. -/
def KilnHoldSet.add (h : KilnHoldSet) : HoldReason → KilnHoldSet
  | .limit => { h with limit := true }
  | .probe => { h with probe := true }
  | .burner => { h with burner := true }
  | .overtime => { h with overtime := true }
  | .operator => { h with operator := true }

/-- The bit number of a kiln hold reason. -/
def HoldReason.code : HoldReason → Nat
  | .limit => 0 | .probe => 1 | .burner => 2 | .overtime => 3 | .operator => 4

/-- Charge flags. -/
def Charge.flags (c : Charge) : Byte := bitsByte [c.short, c.aborted, c.held, c.overtime]

/-- TARE-UNKNOWN: the tare code was outside 0 to 7 (R128). -/
def Bale.tareUnknown (b : Bale) : Bool := b.tareCode.isNone

/-- Bale flags. -/
def Bale.flags (b : Bale) : Byte := bitsByte [b.manual, b.low, b.high, b.wet, b.tareUnknown]

/-- Line flags. -/
def TicketLine.flags (l : TicketLine) : Byte := bitsByte [l.manual, l.low, l.high, l.wet, l.tareUnknown]

/-- Ticket flags, the low byte of two (R186). -/
def Ticket.flags (t : Ticket) : Byte :=
  bitsByte [t.final, t.short, t.aborted, t.held, t.overtime, t.manual, t.tolerance, t.wet]

/-! ## Commanded states -/

/-- The command code of a commanded state (R18, R30). -/
def Commanded.code : Commanded → Byte
  | .feed _ => codeFeed
  | .divert _ => codeDivert
  | .press _ => codePress
  | .setpoint _ => codeSetpoint

/-- A kiln or none in one byte (R186). -/
def kilnByte (k : Option Kiln) : Byte :=
  match k with
  | none => 0xFF
  | some k => byte k.val

/-- The payload of a field command (11.2). -/
def Commanded.payload : Commanded → List Byte
  | .feed v => [byte v.code]
  | .divert k => [kilnByte k]
  | .press v => [byte v.code]
  | .setpoint b => int16 b.setpoint ++ [byte b.fan, flagByte b.enabled]

/-- The commanded state field of a runtime image: the payload left-aligned in 4 bytes, or absent (11.2, R185). -/
def commandedField (c : Option Commanded) : List Byte :=
  match c with
  | none => bytes32 0xFFFFFFFF
  | some c => (c.payload ++ [0, 0, 0]).take 4

/-- A kiln number in an argument (R186). -/
def kilnOf (b : Byte) : Option Kiln := if h : b.toNat < 6 then some ⟨b.toNat, h⟩ else none

/-- A list of kiln numbers; none when one of them is above 5 (R69). -/
def kilnsOf : List Byte → Option (List Kiln)
  | [] => some []
  | b :: bs =>
    match kilnOf b, kilnsOf bs with
    | some k, some ks => some (k :: ks)
    | _, _ => none

end Sys2Proof.Machine
end

