-- ==== Sys2Proof/Machine/Ops.lean ====
section
/-! DEFINITION. The shared operations over the central records: notices, lots and charges, nodes and their commanded states,
kiln records. Every block reads and writes them through these. -/

namespace Sys2Proof.Machine

/-! ## The part as a whole -/

/-- The part is active: powered, and RESET not asserted (R170). -/
def State.active (s : State) : Bool := s.power.powered && !s.power.resetAsserted

/-- The station time (R178). -/
def State.now (s : State) : Time := s.mgmt.time

/-- The own address: 0xE0 plus the ADDR straps (R168). -/
def State.ownAddress (s : State) : Byte := 0xE0 + s.link.addr.setWidth 8

/-! ## Notices (R182 to R184) -/

/-- The entry has this key (R182). -/
def Notice.hasKey (k : NoticeKind) (o : Nat) (n : Notice) : Bool := n.kind = k && n.object = o

/-- A further raise of an entry held: coalesced, or renewed while in transmission (R182, R183). -/
def Notice.touch (now : Time) (v : Option Word32) (n : Notice) : Notice :=
  if n.sending then
    { n with value := v, last := now, renewals := min 255 (n.renewals + 1)
             renewalTime := if n.renewals = 0 then now else n.renewalTime }
  else { n with value := v, last := now, count := min 255 (n.count + 1) }

/-- An entry that a raise appends (R182). -/
def Notice.fresh (k : NoticeKind) (o : Nat) (v : Option Word32) (now : Time) : Notice :=
  { kind := k, object := o, value := v, first := now, last := now, count := 1
    sending := false, renewals := 0, renewalTime := 0 }

/-- An ALARM may take the place of this entry (R184). -/
def Notice.evictable (n : Notice) : Bool := !n.kind.isAlarm && !n.sending

/-- Raising a notice: the queue and the overflow flag after it (R182, R183, R184). -/
def raiseIn (k : NoticeKind) (o : Nat) (v : Option Word32) (now : Time) (q : List Notice) (overflow : Bool) :
    List Notice × Bool :=
  if q.any (Notice.hasKey k o) then
    (q.map (fun n => if n.hasKey k o then n.touch now v else n), overflow)
  else if q.length < Config.noticeCapacity then (q ++ [Notice.fresh k o v now], overflow)
  else if k.isAlarm && q.any Notice.evictable then
    (q.eraseP Notice.evictable ++ [Notice.fresh k o v now], overflow)
  else (q, true)

/-- Raise a notice whose value may be absent. -/
def State.raiseOpt (s : State) (k : NoticeKind) (o : Nat) (v : Option Word32) : State :=
  let r := raiseIn k o v s.now s.mgmt.notices s.mgmt.overflow
  { s with mgmt := { s.mgmt with notices := r.1, overflow := r.2 } }

/-- Raise a notice with a value. A value above 2147483647 (a ticket number, a kiln's total elapsed time) stands in the signed
32-bit field (R182) as its low 32 bits: the model's choice (log 35). -/
def State.raise (s : State) (k : NoticeKind) (o : Nat) (v : Int) : State :=
  s.raiseOpt k o (some (BitVec.ofInt 32 v))

/-! ## Lots and charges (R1, R4) -/

/-- The record of a lot number. -/
def State.lot? (s : State) (n : Nat) : Option Lot := s.table.lots.find? (fun l => l.number = n)

/-- Change the record of a lot number. -/
def State.updLot (s : State) (n : Nat) (f : Lot → Lot) : State :=
  { s with table := { s.table with lots := s.table.lots.map (fun l => if l.number = n then f l else l) } }

/-- Change one charge of a lot. -/
def Lot.updCharge (i : Nat) (f : Charge → Charge) (l : Lot) : Lot := { l with charges := l.charges.modify i f }

/-- The charge a reference names. -/
def State.charge? (s : State) (r : ChargeRef) : Option Charge := (s.lot? r.lot).bind (fun l => l.charges[r.index]?)

/-- Change the charge a reference names. -/
def State.updCharge (s : State) (r : ChargeRef) (f : Charge → Charge) : State :=
  s.updLot r.lot (Lot.updCharge r.index f)

/-- The record joins the table in ascending order of lot number (R1, R14). -/
def insertLot (new : Lot) : List Lot → List Lot
  | [] => [new]
  | l :: ls => if new.number < l.number then new :: l :: ls else l :: insertLot new ls

/-- The record leaves the table with its charge list (R9). -/
def State.removeLot (s : State) (n : Nat) : State :=
  { s with table := { s.table with lots := s.table.lots.filter (fun l => l.number ≠ n) } }

/-- The Variety entry of a lot (R12). -/
def State.varietyOf (s : State) (l : Lot) : Variety := s.table.varieties[l.variety]

/-! ## Nodes (R17, R18) -/

/-- A Node Table entry. -/
def State.node (s : State) (i : NodeIdx) : Node := s.field.nodes[i]

/-- Write a Node Table entry. -/
def State.setNode (s : State) (i : NodeIdx) (n : Node) : State :=
  { s with field := { s.field with nodes := s.field.nodes.set i n } }

/-- The entry of lowest index with a property. -/
def State.findNode (s : State) (p : Node → Bool) : Option NodeIdx :=
  (List.finRange 48).find? (fun i => p (s.node i))

/-- The entry that holds a role of which there is at most one (R19). -/
def State.roleNode (s : State) (r : Role) : Option NodeIdx := s.findNode (fun n => n.role = some r)

/-- The PROBE or BURNER entry bound to a kiln (R19). -/
def State.boundNode (s : State) (r : Role) (k : Kiln) : Option NodeIdx :=
  s.findNode (fun n => n.role = some r && n.binding = some k)

/-- The non-empty entry that holds an address (R19). -/
def State.addressNode (s : State) (a : Byte) : Option NodeIdx :=
  s.findNode (fun n => n.address ≠ 0 && n.address = a)

/-- The entry found is ONLINE. -/
def State.isOnline (s : State) (i : Option NodeIdx) : Bool :=
  match i with
  | none => false
  | some i => (s.node i).state = .online

/-- The state of the node found, ABSENT when there is none (R104). -/
def State.nodeStateOf (s : State) (i : Option NodeIdx) : NodeState :=
  match i with
  | none => .absent
  | some i => (s.node i).state

/-- A command joins the Command Queue, or replaces the payload of the entry for the same node and code (R30). -/
def placeIn (i : NodeIdx) (c : Commanded) (q : List Command) : List Command :=
  if q.any (fun e => e.node = i && e.payload.code = c.code) then
    q.map (fun e => if e.node = i && e.payload.code = c.code then { e with payload := c } else e)
  else q ++ [{ node := i, payload := c }]

/-- R30. -/
def State.placeCommand (s : State) (i : NodeIdx) (c : Commanded) : State :=
  { s with field := { s.field with commandQueue := placeIn i c s.field.commandQueue } }

/-- A job writes an actuator's commanded state (R29). Without an entry for the role there is no effect. -/
def State.writeCommanded (s : State) (i : Option NodeIdx) (c : Commanded) : State :=
  match i with
  | none => s
  | some i => (s.setNode i { s.node i with commanded := some c, confirmed := false }).placeCommand i c

/-- A job makes a commanded state absent (R29). -/
def State.clearCommanded (s : State) (i : Option NodeIdx) : State :=
  match i with
  | none => s
  | some i => s.setNode i { s.node i with commanded := none, confirmed := false }

/-! ## Kiln records (R78, R80, R82, R83) -/

/-- A kiln's runtime record. -/
def State.kiln (s : State) (k : Kiln) : KilnRun := s.kilns.run[k]

/-- A kiln's KILN entry. -/
def State.kilnEntry (s : State) (k : Kiln) : KilnEntry := s.kilns.entries[k]

/-- Change a kiln's runtime record. -/
def State.updKiln (s : State) (k : Kiln) (f : KilnRun → KilnRun) : State :=
  { s with kilns := { s.kilns with run := s.kilns.run.set k (f s.kilns.run[k]) } }

/-- Change the charge in a kiln. -/
def State.updKilnCharge (s : State) (k : Kiln) (f : Charge → Charge) : State :=
  match (s.kiln k).charge with
  | none => s
  | some r => s.updCharge r f

/-- The lot of the charge in a kiln. -/
def State.kilnLot (s : State) (k : Kiln) : Option Lot := (s.kiln k).charge.bind (fun r => s.lot? r.lot)

/-- The Variety entry of the charge in a kiln (R12). -/
def State.kilnVariety (s : State) (k : Kiln) : Option Variety := (s.kilnLot k).map s.varietyOf

/-- The Step Store entry at an index; beyond the store the reset entry (log 30). -/
def State.stepAt (s : State) (n : Nat) : Step := if h : n < 128 then s.kilns.steps[n] else {}

/-- The kiln's current step: first step plus step index of the descriptor it copied (R84). -/
def State.currentStep (s : State) (k : Kiln) : Step :=
  match (s.kiln k).schedule with
  | none => {}
  | some d => s.stepAt (s.kilns.schedules[d].first + (s.kiln k).stepIndex)

/-! ## The Bale Store -/

/-- The free count (R127). -/
def State.freeCount (s : State) : Nat := Config.baleCapacity - s.press.bales.length

/-- The record of a bale number. -/
def State.bale? (s : State) (n : Nat) : Option Bale := s.press.bales.find? (fun b => b.number = n)

/-- Change the record of a bale number. -/
def State.updBale (s : State) (n : Nat) (f : Bale → Bale) : State :=
  { s with press := { s.press with bales := s.press.bales.map (fun b => if b.number = n then f b else b) } }

/-! ## Requests -/

/-- What a request answers: the state after it, its result, and the data of an OK reply (R171, R172). -/
structure Answer where
  state : State
  result : Result
  data : List Byte
  deriving DecidableEq, Repr

/-- A refused request changes no state and carries no data (R172). -/
def refuse (s : State) (r : Result) : Answer := { state := s, result := r, data := [] }

/-- An accepted request. -/
def accept (s : State) (data : List Byte) : Answer := { state := s, result := .ok, data }

end Sys2Proof.Machine
end

