-- ==== Sys2Proof/Machine/PowerReset.lean ====
section
/-! DEFINITION. Power and the RESET pin (R170). -/

namespace Sys2Proof.Machine

/-- The reset state with the straps sampled and the waiting commands kept (R159, R168, R170). -/
def State.started (s : State) (addr : BitVec 4) (upRate fpRate : BitVec 2) : State :=
  { State.reset with
    pending := s.pending, link := { addr, upRate, fpRate } }

/-- Every block at its reset value, with the part inactive as the power record says (R170, log 6). -/
def State.inactive (s : State) (p : Power) : State := { State.reset with pending := s.pending, power := p }

/-- Power-on ends: the part begins, or stays inactive while RESET is asserted (R170). -/
def State.powerOn (s : State) (addr : BitVec 4) (upRate fpRate : BitVec 2) : State :=
  if s.power.resetAsserted then s.inactive { powered := true, resetAsserted := true }
  else s.started addr upRate fpRate

/-- The RESET pin is released: a powered part begins (R170). -/
def State.resetRelease (s : State) (addr : BitVec 4) (upRate fpRate : BitVec 2) : State :=
  if s.power.powered then s.started addr upRate fpRate
  else { s with power := { s.power with resetAsserted := false } }

/-- The RESET pin is asserted: frames being sent are cut off, the driver is disabled, a converter frame is torn (R170). -/
def State.resetAssert (s : State) : State :=
  { s with
    power := { s.power with resetAsserted := true }
    link := { s.link with driver := false, fpReceiving := false }
    classifier := { s.classifier with sending := none }
    field := { s.field with transaction := none }
    scale := { s.scale with frame := none } }

/-- The supply fails: every record is lost, and the part is inactive (R170, log 6). -/
def State.powerFail (s : State) : State :=
  s.inactive { powered := false, resetAsserted := s.power.resetAsserted }

end Sys2Proof.Machine
end

