-- ==== Sys2Proof/Machine/Lots.lean ====
section
/-! DEFINITION. The four lot requests (01, 1.7). -/

namespace Sys2Proof.Machine

/-! ## LOT-OPEN (R13) -/

/-- A new lot record (R13). -/
def newLot (number grower : Nat) (variety : Fin 16) (now : Time) : Lot :=
  { number, grower, variety, state := .opened, openTime := now, charges := []
    greenTotal := 0, spill := 0, baleCount := 0, netTotal := 0, releasedBales := 0, releasedNet := 0
    ticketsIssued := 0, ticketsTaken := 0 }

/-- The Variety entry that a LOT-OPEN names, when it is one of the 16 and has its valid flag set (R13, check 2). -/
def State.openVariety (s : State) (v : Byte) : Option (Fin 16) :=
  if h : v.toNat < 16 then if s.table.varieties[v.toNat].valid then some ⟨v.toNat, h⟩ else none else none

/-- A record joins the table. -/
def State.addLot (s : State) (l : Lot) : State :=
  { s with table := { s.table with lots := insertLot l s.table.lots } }

/-- LOT-OPEN (R13). -/
def performLotOpen (lot grower : Word16) (variety : Byte) (s : State) : Answer :=
  if !s.mgmt.timeSet || !s.tickets.baseSet then refuse s .notReady
  else if lot = 0 || grower = 0 then refuse s .range
  else
    match s.openVariety variety with
    | none => refuse s .range
    | some v =>
      if (s.lot? lot.toNat).isSome then refuse s .conflict
      else if Config.lotCapacity ≤ s.table.lots.length then refuse s .full
      else
        accept (s.addLot (newLot lot.toNat grower.toNat v s.now)) (bytes16 lot ++ bytes32 s.now)

/-! ## LOT-READ (R14) -/

/-- The record that a LOT-READ names: 0 names the lowest lot number, and the table ascends (R14). -/
def State.lotNamed (s : State) (n : Nat) : Option Lot := if n = 0 then s.table.lots.head? else s.lot? n

/-- The next lot number: the lowest in the table above n (R14). -/
def State.nextLotNumber (s : State) (n : Nat) : Option Nat :=
  (s.table.lots.find? (fun l => n < l.number)).map (fun l => l.number)

/-- The lot record of LOT-READ, 39 bytes (11.6). -/
def Lot.image (l : Lot) (next : Option Nat) : List Byte :=
  be16 l.number ++ be16 l.grower ++ [byte l.variety.val, byte l.state.code] ++ be32 l.openTime.toNat
  ++ [byte l.charges.length] ++ be32 l.greenTotal ++ be32 l.spill ++ be16 l.baleCount ++ int32 l.netTotal
  ++ be16 l.releasedBales ++ int32 l.releasedNet ++ be16 l.ticketsIssued ++ be16 l.ticketsTaken ++ optU32 next

/-- The charge record of LOT-READ, 33 bytes (11.6). -/
def Charge.image (lot index : Nat) (c : Charge) : List Byte :=
  be16 lot ++ [byte index, byte c.kiln.val, byte c.state.code, c.flags] ++ be32 c.green
  ++ be32 c.fillStart.toNat ++ optTime c.fillEnd ++ optTime c.dried ++ be16 c.bales ++ int32 c.net
  ++ [byte c.partTickets] ++ optU32 c.finalTicket

/-- LOT-READ (R14). -/
def performLotRead (lot : Word16) (item : Byte) (s : State) : Answer :=
  match s.lotNamed lot.toNat with
  | none => refuse s .unknown
  | some l =>
    if item = 0xFF then accept s (l.image (s.nextLotNumber l.number))
    else if 5 < item.toNat then refuse s .range
    else
      match l.charges[item.toNat]? with
      | none => refuse s .unknown
      | some c => accept s (c.image l.number item.toNat)

/-! ## LOT-VOID and LOT-CLOSE (R15, R16) -/

/-- LOT-VOID (R15). -/
def performLotVoid (lot : Word16) (s : State) : Answer :=
  match s.lot? lot.toNat with
  | none => refuse s .unknown
  | some l => if l.state = .opened then accept (s.removeLot lot.toNat) (bytes16 lot) else refuse s .state

/-- The lot's summary (R16, 11.3). -/
def Lot.summary (l : Lot) : List Byte :=
  be16 l.number ++ be16 l.grower ++ [byte l.variety.val] ++ be32 l.greenTotal ++ be32 l.spill ++ be16 l.baleCount
  ++ int32 l.netTotal ++ be16 l.ticketsIssued ++ [byte l.charges.length]

/-- Every charge of the lot is TICKETED (R16). -/
def Lot.allTicketed (l : Lot) : Bool := l.charges.all (fun c => c.state = .ticketed)

/-- LOT-CLOSE (R16). -/
def performLotClose (lot : Word16) (s : State) : Answer :=
  match s.lot? lot.toNat with
  | none => refuse s .unknown
  | some l =>
    if l.state = .finished && l.allTicketed then accept (s.removeLot lot.toNat) l.summary else refuse s .state

end Sys2Proof.Machine
end

