-- ==== Sys2Proof/Machine/Arbiter.lean ====
section
/-! DEFINITION. The choice of the Field Transmit Arbiter, and the end of an event, at which it is made (R38, R39, R160). -/

namespace Sys2Proof.Machine

/-- The segment is free: no transaction is outstanding, and no frame of an abandoned one is still being sent (R32, R40). -/
def State.segmentFree (s : State) : Bool := s.field.transaction.isNone && !s.link.driver

/-- The source has work (R38). -/
def State.holdsWork (s : State) : FieldSource → Bool
  | .command => !s.field.commandQueue.isEmpty
  | .print => s.field.printRequest.isSome
  | .pass => !s.classifier.passQueue.isEmpty
  | .poll => !s.field.pollQueue.isEmpty

/-- A waiting poll goes before a waiting pass: four passes have been started since the last poll (R39). -/
def State.pollTurn (s : State) : Bool := s.holdsWork .poll && s.field.passStreak = Config.passStreakLimit

/-- The first source that has work, in the order of R38 with the streak of R39. -/
def State.firstSource (s : State) : Option FieldSource :=
  if s.holdsWork .command then some .command
  else if s.holdsWork .print then some .print
  else if s.holdsWork .pass && !s.pollTurn then some .pass
  else if s.holdsWork .poll then some .poll
  else none

/-- The choice on a free segment: the source chosen before, when the segment became free or when the first work came to it, and
no other while that source has work; there is none while a transaction is outstanding (R38, R160). That a choice whose work has
been deleted is made again is the model's choice (log 36). -/
def State.choice (s : State) (before : Option FieldSource) : Option FieldSource :=
  if s.segmentFree then (before.filter s.holdsWork).or s.firstSource else none

/-- The state with this choice standing. -/
def State.choosing (c : Option FieldSource) (s : State) : State := { s with field := { s.field with chosen := c } }

/-- The arbiter's choice is made, from what the sources hold now and the choice before (R38). -/
def State.arbitrated (before : Option FieldSource) (s : State) : State := s.choosing (s.choice before)

/-- An event that reaches an active part; an inactive part takes none (R170, log 6). At the end of the event the Field Transmit
Arbiter makes its choice, if the segment is free (R38). That a choice is made at an event's end, with all that the event has
put into the sources, is the model's choice (log 36). -/
def whileActive (f : State → State) (s : State) : Host.Outcome State Fault Refusal :=
  .next (if s.active then (f s).arbitrated s.field.chosen else s)

end Sys2Proof.Machine
end

