-- ==== Sys2Proof/Machine/PressQueue.lean ====
section
/-! DEFINITION. The Press Queue's head, the press-hold reason set and the press command (R123, R124, R135, R136). -/

namespace Sys2Proof.Machine

/-- The press command called for (R136). -/
def State.pressWanted (s : State) : Option RunHold :=
  if s.press.queue = [] then none
  else if s.press.hold.isEmpty then some .run
  else some .hold

/-- The press command takes the value called for and is written when they differ (R136, R29). -/
def State.judgePress (s : State) : State :=
  if s.press.command = s.pressWanted then s
  else
    let s1 := { s with press := { s.press with command := s.pressWanted } }
    match s.pressWanted with
    | none => s1.clearCommanded (s1.roleNode .press)
    | some v => s1.writeCommanded (s1.roleNode .press) (.press v)

/-- STORE is judged against the free count and the threshold (R135), and then the press command (R136). -/
def State.judgeStore (s : State) : State :=
  let present := decide (s.freeCount ≤ s.mgmt.station.threshold)
  let s1 := { s with press := { s.press with hold := { s.press.hold with store := present } } }
  let s2 := if present && !s.press.hold.store then s1.raise .pressHeld 0 s.freeCount else s1
  s2.judgePress

/-- A kiln becomes the Press Queue's head: UNLOADING, its charge PRESSING (R124). -/
def State.becomeHead (s : State) (k : Kiln) : State :=
  (s.updKiln k (fun r => { r with state := .unloading })).updKilnCharge k
    (fun c => { c with state := .pressing })

/-- A DRIED kiln joins the Press Queue's tail, and becomes its head when the queue was empty (R123, R124). -/
def State.joinPressQueue (s : State) (k : Kiln) : State :=
  let s1 := { s with press := { s.press with queue := s.press.queue ++ [k] } }
  if s.press.queue = [] then (s1.becomeHead k).judgePress else s1

end Sys2Proof.Machine
end

