-- ==== Sys2Proof/Machine/Kilns.lean ====
section
/-! DEFINITION. The Kiln Unit: burner command, steps, samples, start, hold, resume and abort (05). -/

namespace Sys2Proof.Machine

/-! ## The burner command -/

/-- The present burner command of a kiln (R86). Abort cooling is COOLING with the abort flag set (R103). -/
def State.presentBurner (s : State) (k : Kiln) : BurnerCommand :=
  let r := s.kiln k
  match r.state with
  | .drying => { setpoint := r.setpoint, fan := (s.currentStep k).fan, enabled := true }
  | .hold => { setpoint := 0, fan := (s.kilnEntry k).holdFan, enabled := false }
  | .cooling =>
    if r.aborted then
      { setpoint := 0
        fan := match r.schedule with
          | none => 0
          | some d => s.kilns.schedules[d].abortCoolFan
        enabled := false }
    else { setpoint := 0, fan := (s.currentStep k).fan, enabled := false }
  | .empty => { setpoint := 0, fan := 0, enabled := false }
  | .loading => { setpoint := 0, fan := 0, enabled := false }
  | .loaded => { setpoint := 0, fan := 0, enabled := false }
  | .dried => { setpoint := 0, fan := 0, enabled := false }
  | .unloading => { setpoint := 0, fan := 0, enabled := false }

/-- The refresh timer runs in these states (R87). -/
def KilnState.refreshes : KilnState → Bool
  | .drying => true | .hold => true | .cooling => true
  | .empty => false | .loading => false | .loaded => false | .dried => false | .unloading => false

/-- A kiln has a descriptor copied that it references (R85). -/
def KilnState.runsSchedule (st : KilnState) : Bool := st.refreshes

/-- The Kiln Unit writes the present burner command; the refresh timer restarts, or stops (R87). -/
def State.writeBurner (s : State) (k : Kiln) : State :=
  let s1 := s.updKiln k (fun r => { r with
    refresh := if r.state.refreshes then some (10 * (s.kilnEntry k).refresh) else none })
  s1.writeCommanded (s1.boundNode .burner k) (.setpoint (s1.presentBurner k))

/-! ## Dried, steps -/

/-- A kiln goes DRIED and joins the Press Queue (R88). A total elapsed above 2147483647 stands in KILN-DRIED's value as its
low 32 bits (log 35). -/
def State.kilnDried (s : State) (k : Kiln) : State :=
  let s1 := s.updKiln k (fun r => { r with state := .dried, overLimit := 0, dryQualify := 0, hold := {} })
  let s2 := s1.updKilnCharge k (fun c => { c with state := .awaitPress, dried := some s.now })
  let s3 := (s2.writeBurner k).raise .kilnDried k.val (s.kiln k).totalElapsed
  s3.joinPressQueue k

/-- What every step entry sets to 0, and the step entry setpoint (R90). -/
def KilnRun.beginStep (r : KilnRun) : KilnRun :=
  { r with stepElapsed := 0, stepFraction := 0, rampMinute := 0, overLimit := 0, dryQualify := 0
           entrySetpoint := r.setpoint }

/-- Entering the step that the step index names (R90). -/
def State.enterStep (s : State) (k : Kiln) : State :=
  let st := s.currentStep k
  let s1 := s.updKiln k KilnRun.beginStep
  match st.kind with
  | .ramp => (s1.updKiln k (fun r => { r with state := .drying })).writeBurner k
  | .soak => (s1.updKiln k (fun r => { r with state := .drying, setpoint := st.target })).writeBurner k
  | .dryTo => (s1.updKiln k (fun r => { r with state := .drying, setpoint := st.target })).writeBurner k
  | .cool => (s1.updKiln k (fun r => { r with state := .cooling })).writeBurner k
  | .fin => s1.kilnDried k

/-- The step index rises by 1 and the next step is entered (R89). -/
def State.nextStep (s : State) (k : Kiln) : State :=
  (s.updKiln k (fun r => { r with stepIndex := r.stepIndex + 1 })).enterStep k

/-- The setpoint of a RAMP at minute m: e + (t - e) * m / d, the division truncated toward e (R91). -/
def rampSetpoint (e t : Int) (m d : Nat) : Int := e + Int.tdiv ((t - e) * m) d

/-! ## Holding -/

/-- A hold cause acts on a kiln (R98, R99). -/
def State.holdKiln (s : State) (k : Kiln) (reason : HoldReason) : State :=
  let r := s.kiln k
  match r.state with
  | .drying =>
    let s1 := s.updKiln k (fun r => { r with state := .hold, hold := r.hold.add reason, overLimit := 0, dryQualify := 0 })
    (s1.writeBurner k).raise .kilnHold k.val reason.code
  | .hold =>
    if r.hold.has reason then s
    else (s.updKiln k (fun r => { r with hold := r.hold.add reason })).raise .kilnHold k.val reason.code
  | .empty => s
  | .loading => s
  | .loaded => s
  | .cooling => s
  | .dried => s
  | .unloading => s

/-! ## Samples -/

/-- A value held at the nearer of two limits. -/
def clamp (lo hi i : Int) : Int := max lo (min hi i)

/-- A KILN-AIR reading (R93). -/
def State.kilnAir (s : State) (k : Kiln) (value : Int) : State :=
  let v := clamp (-32768) 32767 value
  let s1 := s.updKiln k (fun r => { r with lastAir := some v, lastAirTime := some s.now })
  if (s.kiln k).state = .drying then
    if (s.currentStep k).limit < v then
      let s2 := s1.updKiln k (fun r => { r with overLimit := r.overLimit + 1 })
      if (s.kilnEntry k).limitStreak ≤ (s.kiln k).overLimit + 1 then s2.holdKiln k .limit else s2
    else s1.updKiln k (fun r => { r with overLimit := 0 })
  else s1

/-- A KILN-EXHAUST reading (R94). -/
def State.kilnExhaust (s : State) (k : Kiln) (value : Int) : State :=
  let v := (clamp 0 65535 value).toNat
  let s1 := s.updKiln k (fun r => { r with lastExhaust := some v, lastExhaustTime := some s.now })
  if (s.kiln k).state = .drying && (s.currentStep k).kind = .dryTo then
    match s.kilnVariety k with
    | none => s1
    | some w =>
      if v ≤ w.endHumidity then
        let s2 := s1.updKiln k (fun r => { r with dryQualify := r.dryQualify + 1 })
        if w.qualify ≤ (s.kiln k).dryQualify + 1 then s2.nextStep k else s2
      else s1.updKiln k (fun r => { r with dryQualify := 0 })
  else s1

/-! ## Starting -/

/-- Some step entry within the count is END (R84). -/
def State.hasEnd (s : State) (d : Schedule) : Bool :=
  (List.range d.count).any (fun i => (s.stepAt (d.first + i)).kind = .fin)

/-- The descriptor is runnable (R84). -/
def State.runnable (s : State) (d : Schedule) : Bool := d.count ≠ 0 && s.hasEnd d

/-- Checks 3 to 6 of KILN-START, on the descriptor that the charge's variety names (R96). -/
def State.startRefusal (s : State) (k : Kiln) (d : Fin 8) : Option Result :=
  if s.kilns.schedules[d].count = 0 then some .state
  else if !s.hasEnd s.kilns.schedules[d] then some .format
  else if !s.isOnline (s.boundNode .probe k) then some .state
  else if !s.isOnline (s.boundNode .burner k) then some .state
  else none

/-- A start (R95). -/
def State.startRun (s : State) (k : Kiln) (d : Fin 8) : State :=
  (s.updKiln k (fun r => { r with
    schedule := some d, stepIndex := 0, stepElapsed := 0, stepFraction := 0, totalElapsed := 0, totalFraction := 0
    setpoint := s.kilns.schedules[d].startTemp, hold := {}, aborted := false, overLimit := 0, dryQualify := 0 })).enterStep k

/-- Auto-start at fill close (R97). -/
def State.autoStart (s : State) (k : Kiln) : State :=
  if (s.kilnEntry k).autoStart then
    match s.kilnVariety k with
    | none => s
    | some w => if s.startRefusal k w.schedule = none then s.startRun k w.schedule else s
  else s

/-- The kiln takes LOADED at fill close, its burner command is written, and auto-start is attempted (R81). -/
def State.kilnLoaded (s : State) (k : Kiln) : State :=
  ((s.updKiln k (fun r => { r with state := .loaded })).writeBurner k).autoStart k

/-- The kiln goes EMPTY at unload done: every field its reset value but the last samples (R81). -/
def State.kilnEmptied (s : State) (k : Kiln) : State :=
  (s.updKiln k (fun r => { ({} : KilnRun) with
    lastAir := r.lastAir, lastAirTime := r.lastAirTime
    lastExhaust := r.lastExhaust, lastExhaustTime := r.lastExhaustTime })).writeBurner k

/-! ## Events of a kiln's own timers -/

/-- The kiln is in a COOL step and not in abort cooling. -/
def State.inCoolStep (s : State) (k : Kiln) : Bool :=
  (s.kiln k).state = .cooling && !(s.kiln k).aborted && (s.currentStep k).kind = .cool

/-- The kiln is DRYING in a step of this kind. -/
def State.dryingIn (s : State) (k : Kiln) (kind : StepKind) : Bool :=
  (s.kiln k).state = .drying && (s.currentStep k).kind = kind

/-- A RAMP, SOAK or COOL step ends (R89). A RAMP ends on its target (R91). -/
def State.stepEnd (s : State) (k : Kiln) : State :=
  if s.dryingIn k .ramp then
    (s.updKiln k (fun r => { r with setpoint := (s.currentStep k).target })).nextStep k
  else if s.dryingIn k .soak || s.inCoolStep k then s.nextStep k
  else s

/-- The next whole minute m of a RAMP step: the setpoint is recomputed, and written if it changed (R91).
At m = d the step ends in the same event (R89). -/
def State.rampMinute (s : State) (k : Kiln) : State :=
  if s.dryingIn k .ramp then
    let m := (s.kiln k).rampMinute + 1
    let st := s.currentStep k
    if st.duration ≤ m then s.stepEnd k
    else
      let sp := rampSetpoint (s.kiln k).entrySetpoint st.target m st.duration
      let s1 := s.updKiln k (fun r => { r with
        rampMinute := m, setpoint := sp
        stepElapsed := max r.stepElapsed (60 * m)
        stepFraction := if r.stepElapsed < 60 * m then 0 else r.stepFraction })
      if sp = (s.kiln k).setpoint then s1 else s1.writeBurner k
  else s

/-- A DRY-TO step reaches its maximum while DRYING: HOLD with OVERTIME, and KILN-OVERTIME (R92). -/
def State.dryToOvertime (s : State) (k : Kiln) : State :=
  if s.dryingIn k .dryTo then
    ((s.updKiln k (fun r => { r with stepElapsed := 60 * (s.currentStep k).duration, stepFraction := 0 })).raise
      .kilnOvertime k.val (s.kiln k).stepIndex).holdKiln k .overtime
  else s

/-- The abort cool minutes of the descriptor a kiln copied (R103). -/
def State.abortMinutes (s : State) (k : Kiln) : Nat :=
  match (s.kiln k).schedule with
  | none => 0
  | some d => s.kilns.schedules[d].abortCoolMinutes

/-- Abort cooling ends: the kiln goes DRIED (R103). -/
def State.abortCoolingEnd (s : State) (k : Kiln) : State :=
  if (s.kiln k).state = .cooling && (s.kiln k).aborted then
    (s.updKiln k (fun r => { r with stepElapsed := 60 * s.abortMinutes k, stepFraction := 0 })).kilnDried k
  else s

/-- The refresh timer expires: the present command is written unchanged and the timer starts again (R87). -/
def State.refreshExpiry (s : State) (k : Kiln) : State :=
  if (s.kiln k).refresh.isSome then s.writeBurner k else s

/-! ## Requests -/

/-- KILN-START (R96). -/
def performKilnStart (kiln : Byte) (s : State) : Answer :=
  match kilnOf kiln with
  | none => refuse s .range
  | some k =>
    if (s.kiln k).state ≠ .loaded then refuse s .state
    else
      match s.kilnVariety k with
      | none => refuse s .state
      | some w =>
        match s.startRefusal k w.schedule with
        | some r => refuse s r
        | none =>
          let t := s.startRun k w.schedule
          accept t ([kiln, byte w.schedule.val, byte (t.kiln k).state.code, byte (t.kiln k).stepIndex]
            ++ int16 (t.kiln k).setpoint)

/-- KILN-HOLD (R100). -/
def performKilnHold (kiln : Byte) (s : State) : Answer :=
  match kilnOf kiln with
  | none => refuse s .range
  | some k =>
    if (s.kiln k).state = .drying || (s.kiln k).state = .hold then
      let t := s.holdKiln k .operator
      accept t [(t.kiln k).hold.byte]
    else refuse s .state

/-- Checks 3 to 6 of KILN-RESUME pass (R101). -/
def State.resumable (s : State) (k : Kiln) (m : ResumeMode) : Bool :=
  ((s.kiln k).hold.overtime == (m ≠ .continue)) &&
  s.isOnline (s.boundNode .probe k) &&
  s.isOnline (s.boundNode .burner k) &&
  (match (s.kiln k).lastAir with
   | none => true
   | some a => a ≤ (s.currentStep k).limit)

/-- What an accepted KILN-RESUME does (R101). -/
def State.resume (s : State) (k : Kiln) (m : ResumeMode) : State :=
  let overtime := (s.kiln k).hold.overtime
  let s1 := s.updKilnCharge k (fun c => { c with held := true, overtime := c.overtime || overtime })
  let s2 := s1.updKiln k (fun r => { r with hold := {}, overLimit := 0, dryQualify := 0 })
  match m with
  | .continue => (s2.updKiln k (fun r => { r with state := .drying })).writeBurner k
  | .extend => (s2.updKiln k (fun r => { r with state := .drying, stepElapsed := 0, stepFraction := 0 })).writeBurner k
  | .next => s2.nextStep k

/-- KILN-RESUME (R101). -/
def performKilnResume (kiln mode : Byte) (s : State) : Answer :=
  match kilnOf kiln, ResumeMode.ofCode mode.toNat with
  | some k, some m =>
    if (s.kiln k).state = .hold && s.resumable k m then
      let t := s.resume k m
      accept t [byte (t.kiln k).state.code, byte (t.kiln k).stepIndex]
    else refuse s .state
  | _, _ => refuse s .range

/-- What an accepted KILN-ABORT does (R102). -/
def State.abort (s : State) (k : Kiln) : State :=
  let s1 :=
    if (s.kiln k).state = .loaded then
      s.updKiln k (fun r => { r with
        schedule := (s.kilnVariety k).map (fun w => w.schedule), totalElapsed := 0, totalFraction := 0 })
    else s
  let s2 := s1.updKilnCharge k (fun c => { c with aborted := true })
  let s3 := s2.updKiln k (fun r => { r with
    aborted := true, hold := {}, overLimit := 0, dryQualify := 0, stepElapsed := 0, stepFraction := 0 })
  if s3.abortMinutes k = 0 then s3.kilnDried k
  else (s3.updKiln k (fun r => { r with state := .cooling })).writeBurner k

/-- KILN-ABORT (R102). -/
def performKilnAbort (kiln : Byte) (s : State) : Answer :=
  match kilnOf kiln with
  | none => refuse s .range
  | some k =>
    let st := (s.kiln k).state
    if st = .loaded || st = .drying || st = .hold then
      let t := s.abort k
      accept t [byte (t.kiln k).state.code]
    else refuse s .state

/-- The kind of the current step, absent when the kiln references no descriptor through its runtime schedule index
(R104, R85). -/
def State.stepKindField (s : State) (k : Kiln) : Option Nat :=
  if (s.kiln k).state.runsSchedule && (s.kiln k).schedule.isSome then some (s.currentStep k).kind.code else none

/-- The kiln runtime image, 42 bytes (11.4, R104). -/
def State.kilnImage (s : State) (k : Kiln) : List Byte :=
  let r := s.kiln k
  let b := s.boundNode .burner k
  [byte r.state.code]
  ++ (match r.charge with
      | none => be16 0 ++ [0xFF]
      | some c => be16 c.lot ++ [byte c.index])
  ++ optByte (r.schedule.map (fun d => d.val))
  ++ [byte r.stepIndex]
  ++ int16 r.entrySetpoint ++ int16 r.setpoint
  ++ be32 r.stepElapsed ++ be32 r.totalElapsed
  ++ optI16 r.lastAir ++ optTime r.lastAirTime
  ++ optU16 r.lastExhaust ++ optTime r.lastExhaustTime
  ++ [byte r.overLimit, byte r.dryQualify, r.hold.byte, flagByte r.aborted]
  ++ optByte (s.stepKindField k)
  ++ [byte (s.nodeStateOf (s.boundNode .probe k)).code, byte (s.nodeStateOf b).code]
  ++ (match b with
      | none => bytes32 0xFFFFFFFF ++ [0xFF]
      | some i => commandedField (s.node i).commanded ++ [flagByte (s.node i).confirmed])

/-- KILN-READ (R104). -/
def performKilnRead (kiln : Byte) (s : State) : Answer :=
  match kilnOf kiln with
  | none => refuse s .range
  | some k => accept s (s.kilnImage k)

end Sys2Proof.Machine
end

