-- ==== Sys2Proof/Machine/FeedUnit.lean ====
section
/-! DEFINITION. The Feed and Loading Unit: reasons, kiln selection, fills, changeover, belt crediting (04). -/

namespace Sys2Proof.Machine

/-! ## The reason set and the picker -/

/-- Change the unit's own state. -/
def State.updFeed (s : State) (f : Feed → Feed) : State := { s with feed := f s.feed }

/-- Change the feed-hold reason set. -/
def State.updHold (s : State) (f : FeedHold → FeedHold) : State := s.updFeed (fun u => { u with hold := f u.hold })

/-- FEED-HELD, whose object is the belt lot (R58). -/
def State.raiseFeedHeld (s : State) (reason : Nat) : State := s.raise .feedHeld (s.feed.beltLot.getD 0) reason

/-- FEED-HELD for NO-KILN or CHARGE-LIMIT when it is a member at the end of an event and was not at its start (R58). That it is
not raised at a changeover completion that finds the reason again, with the reason in the set at the event's start (R63: such a
completion ends with FEED-HELD raised), is the model's choice (log 37). -/
def State.judgeHeld (s : State) (before : FeedHold) : State :=
  let s1 := if s.feed.hold.noKiln && !before.noKiln then s.raiseFeedHeld reasonNoKiln else s
  if s.feed.hold.chargeLimit && !before.chargeLimit then s1.raiseFeedHeld reasonChargeLimit else s1

/-- The picker command called for (R59). -/
def State.pickerWanted (s : State) : RunHold := if s.feed.hold.isEmpty then .run else .hold

/-- The picker command is compared with the set, and written when it changes (R59). -/
def State.judgePicker (s : State) : State :=
  if s.feed.picker = s.pickerWanted then s
  else
    let s1 := s.updFeed (fun u => { u with picker := s.pickerWanted })
    s1.writeCommanded (s1.roleNode .picker) (.feed s.pickerWanted)

/-- An event of the unit: at its end the set is judged and the picker command compared (R58, R59). -/
def feedEvent (f : State → State) (s : State) : State := ((f s).judgeHeld s.feed.hold).judgePicker

/-! ## Kiln selection -/

/-- The first kiln of the Fill Order that is EMPTY with a capacity above 0 (R71). -/
def State.kilnFound (s : State) : Option Kiln :=
  s.feed.fillOrder.find? (fun k => (s.kiln k).state = .empty && 0 < (s.kilnEntry k).capacity)

/-- A new charge (R4). -/
def newCharge (k : Kiln) (now : Time) : Charge :=
  { kiln := k, state := .filling, green := 0, fillStart := now, fillEnd := none, dried := none
    short := false, aborted := false, held := false, overtime := false
    bales := 0, net := 0, partTickets := 0, finalTicket := none }

/-- The divert watch starts, or FEED-HELD with DIVERT is raised at once (R60). -/
def State.startDivertWatch (s : State) : State :=
  match (s.roleNode .diverter).bind (fun i => (s.node i).cadence) with
  | none => (s.updFeed (fun u => { u with divertWatch := none })).raiseFeedHeld reasonDivert
  | some c => s.updFeed (fun u => { u with divertWatch := some s.field.cadences[c].period })

/-- Taking kiln k for the belt lot b (R72). -/
def State.takeKiln (s : State) (b : Nat) (k : Kiln) : State :=
  let index := ((s.lot? b).map (fun l => l.charges.length)).getD 0
  let s1 := s.updLot b (fun l => { l with charges := l.charges ++ [newCharge k s.now] })
  let s2 := s1.updKiln k (fun r => { r with state := .loading, charge := some { lot := b, index } })
  let s3 := s2.updFeed (fun u => { u with loading := some k, divertConfirmed := false })
  let s4 := s3.writeCommanded (s3.roleNode .diverter) (.divert (some k))
  (s4.updHold (fun h => { h with divert := true })).startDivertWatch

/-- CHARGE-LIMIT: a kiln is found but the belt lot holds 6 charges (R71). -/
def State.hitChargeLimit (s : State) (b : Nat) (k : Kiln) : State :=
  let s1 := if s.feed.hold.chargeLimit then s else s.raise .chargeLimit b k.val
  s1.updHold (fun h => { h with noKiln := false, chargeLimit := true })

/-- A kiln selection for the belt lot b (R71). -/
def State.selectKiln (s : State) (b : Nat) : State :=
  match s.kilnFound with
  | none => s.updHold (fun h => { h with noKiln := true })
  | some k =>
    if ((s.lot? b).map (fun l => l.charges.length)).getD 0 < Config.chargeCapacity then
      (s.updHold (fun h => { h with noKiln := false })).takeKiln b k
    else s.hitChargeLimit b k

/-- The changeover is WAITING (R64). -/
def Changeover.isWaiting : Changeover → Bool
  | .waiting _ => true
  | .steady => false
  | .draining _ => false

/-- The pending lot of a changeover (R57). -/
def Changeover.pending : Changeover → Option Nat
  | .waiting p => p
  | .draining p => p
  | .steady => none

/-- An attempt at a kiln selection (R70). -/
def State.attemptSelection (s : State) : State :=
  match s.feed.beltLot, s.feed.loading with
  | some b, none => if s.feed.changeover.isWaiting then s else s.selectKiln b
  | _, _ => s

/-! ## Fill close -/

/-- The SHORT test on exact products (R74). -/
def isShort (green : Nat) (e : KilnEntry) : Bool := green * 100 < e.minLoad * e.capacity

/-- The charge closes: KILNING, its fill end time, SHORT and SHORT-CHARGE (R74). -/
def State.closeCharge (s : State) (k : Kiln) : State :=
  match (s.kiln k).charge.bind s.charge? with
  | none => s
  | some c =>
    let short := isShort c.green (s.kilnEntry k)
    let s1 := s.updKilnCharge k (fun c => { c with state := .kilning, fillEnd := some s.now, short := c.short || short })
    if short then s1.raise .shortCharge k.val c.green else s1

/-- The fill of the loading kiln k closes, without the selection that may follow (R74). -/
def State.closeFill (s : State) (k : Kiln) : State :=
  let s2 := (s.closeCharge k).kilnLoaded k
  let s3 := s2.updFeed (fun u => { u with loading := none, divertConfirmed := false })
  let s4 := s3.writeCommanded (s3.roleNode .diverter) (.divert none)
  s4.updFeed (fun u => { u with hold := { u.hold with divert := false }, divertWatch := none })

/-- The fill closes at capacity or on LOAD-CLOSE, and a selection is attempted (R74, R70). -/
def State.closeAndSelect (s : State) (k : Kiln) : State := (s.closeFill k).attemptSelection

/-! ## Changeover -/

/-- The old belt lot goes FINISHED when it is neither feed lot nor pending lot (R63, step 2). -/
def State.finishOldLot (s : State) : State :=
  match s.feed.beltLot with
  | none => s
  | some b =>
    if s.feed.feedLot = some b || s.feed.changeover.pending = some b then s
    else s.updLot b (fun l => { l with state := .finished })

/-- Changeover completion (R63). -/
def State.completeChangeover (s : State) : State :=
  let s1 := match s.feed.loading with
    | none => s
    | some k => s.closeFill k
  let s2 := s1.finishOldLot
  let s3 := s2.updFeed (fun u => { u with
    beltLot := u.changeover.pending, changeover := .steady
    hold := { u.hold with changeover := false, noKiln := false, chargeLimit := false } })
  s3.attemptSelection

/-- The changeover timer expires in DRAINING (R62). -/
def State.changeoverExpiry (s : State) : State :=
  match s.feed.changeover with
  | .draining p =>
    let s1 := s.updFeed (fun u => { u with timer := 0 })
    if s.feed.beltLot = none || s.isOnline (s.roleNode .belt) then s1.completeChangeover
    else s1.updFeed (fun u => { u with changeover := .waiting p })
  | .steady => s
  | .waiting _ => s

/-- The report of a valid answer from the BELT node completes a WAITING changeover (R64). -/
def State.beltAnswered (s : State) : State :=
  if s.feed.changeover.isWaiting then s.completeChangeover else s

/-- The divert watch runs out with DIVERT still in the set (R60). -/
def State.divertWatchExpiry (s : State) : State :=
  if s.feed.divertWatch.isSome && s.feed.hold.divert then
    (s.updFeed (fun u => { u with divertWatch := none })).raiseFeedHeld reasonDivert
  else s

/-- The Field Master reports a confirmation of the DIVERTER (R73). -/
def State.divertReport (s : State) (target : Option Kiln) : State :=
  if s.feed.loading.isSome && target = s.feed.loading then
    s.updFeed (fun u => { u with divertConfirmed := true, hold := { u.hold with divert := false }, divertWatch := none })
  else s

/-! ## Belt crediting -/

/-- A credited increment finds its destination (R67), and may close the fill at capacity (R68). -/
def State.credit (s : State) (inc : Nat) : State :=
  match s.feed.beltLot with
  | none => s.updFeed (fun u => { u with unassigned := min Config.maxWeight (u.unassigned + inc) })
  | some b =>
    match s.feed.loading, s.feed.divertConfirmed with
    | some k, true =>
      let s1 := (s.updLot b (fun l => { l with greenTotal := l.greenTotal + inc })).updKilnCharge k
        (fun c => { c with green := c.green + inc })
      match (s1.kiln k).charge.bind s1.charge? with
      | none => s1
      | some c => if (s1.kilnEntry k).capacity ≤ c.green then s1.closeAndSelect k else s1
    | _, _ =>
      let s1 := s.updLot b (fun l => { l with greenTotal := l.greenTotal + inc, spill := l.spill + inc })
      s1.raise .spill b (((s1.lot? b).map (fun l => l.spill)).getD 0)

/-- The green total of the belt lot (R66). -/
def State.beltGreen (s : State) : Option Nat := (s.feed.beltLot.bind s.lot?).map (fun l => l.greenTotal)

/-- An increment is a jump (R66). -/
def State.isJump (s : State) (inc : Nat) : Bool :=
  s.mgmt.station.maxIncrement < inc || s.beltGreen.any (fun g => Config.maxWeight < g + inc)

/-- A GREEN reading of the BELT node i (R65, R66). -/
def State.green (s : State) (i : NodeIdx) (value : Word32) : State :=
  let n := s.node i
  let s1 := s.setNode i { n with lastTotalizer := value, baseline := true }
  if n.baseline then
    let inc := value - n.lastTotalizer
    if inc = 0 then s1
    else if s.isJump inc.toNat then s1.raiseOpt .beltJump n.address.toNat (some inc)
    else s1.credit inc.toNat
  else s1

/-! ## Requests -/

/-- What an accepted LOT-FEED does (R61); a transit time of 0 expires at once (R62). -/
def State.feedLot (s : State) (new : Option Nat) : State :=
  let s1 := s.updFeed (fun u => { u with
    feedLot := new, changeover := .draining new, timer := 10 * s.mgmt.station.transit
    hold := { u.hold with changeover := true, stopped := new.isNone } })
  let s2 := match new with
    | none => s1
    | some n => s1.updLot n (fun l => { l with state := .feeding })
  if s.mgmt.station.transit = 0 then s2.changeoverExpiry else s2

/-- LOT-FEED (R61). -/
def performLotFeed (lot : Word16) (s : State) : Answer :=
  let new := if lot.toNat = 0 then none else some lot.toNat
  if s.feed.changeover ≠ .steady then refuse s .state
  else if new.any (fun n => (s.lot? n).isNone) then refuse s .unknown
  else if s.feed.feedLot = new then refuse s .state
  else if (new.bind s.lot?).any (fun l => Config.chargeCapacity ≤ l.charges.length) then refuse s .state
  else
    let t := feedEvent (fun s => s.feedLot new) s
    accept t (bytes16 lot ++ be16 s.mgmt.station.transit ++ [t.feed.hold.byte])

/-- FEED-HOLD (R76). -/
def performFeedHold (flag : Byte) (s : State) : Answer :=
  if 1 < flag.toNat then refuse s .range
  else
    let t := feedEvent (fun s => s.updHold (fun h => { h with operator := flag.toNat = 1 })) s
    accept t [t.feed.hold.byte]

/-- FILL-ORDER (R69). -/
def performFillOrder (count : Byte) (kilns : List Byte) (s : State) : Answer :=
  if kilns.length ≠ count.toNat then refuse s .format
  else if 6 < count.toNat then refuse s .range
  else
    match kilnsOf kilns with
    | none => refuse s .range
    | some ks =>
      if !ks.Nodup then refuse s .conflict
      else
        accept (feedEvent (fun s => (s.updFeed (fun u => { u with fillOrder := ks })).attemptSelection) s)
          (count :: kilns)

/-- LOAD-CLOSE (R75). -/
def performLoadClose (s : State) : Answer :=
  match s.feed.loading with
  | none => refuse s .state
  | some k =>
    let t := feedEvent (fun s => s.closeAndSelect k) s
    let r := ((s.kiln k).charge).getD { lot := 0, index := 0 }
    accept t ([byte k.val] ++ be16 r.lot ++ [byte r.index] ++
      be32 (((t.charge? r).map (fun c => c.green)).getD 0) ++
      [flagByte (((t.charge? r).map (fun c => c.short)).getD false)])

end Sys2Proof.Machine
end

