-- ==== Sys2Proof/Machine/TicketUnit.lean ====
section
/-! DEFINITION. The Ticket Unit: readiness, composition, the ticket image, the print process and the ticket requests (08). -/

namespace Sys2Proof.Machine

/-! ## The print process -/

/-- Change the print state of the ticket with a number. -/
def State.setPrint (s : State) (n : Nat) (p : PrintState) : State :=
  { s with tickets := { s.tickets with
      queue := s.tickets.queue.map (fun t => if t.number = n then { t with print := p } else t) } }

/-- The print process takes a state. -/
def State.setProcess (s : State) (p : PrintProcess) : State :=
  { s with tickets := { s.tickets with process := p } }

/-- The UNPRINTED ticket with the lowest number: the queue stands in ascending order (R149, R154). -/
def State.nextUnprinted (s : State) : Option Ticket :=
  s.tickets.queue.find? (fun t => t.print = .unprinted)

/-- SCAN (R154). -/
def State.printScan (s : State) : State :=
  match s.roleNode .printer with
  | none => s.setProcess .idle
  | some i =>
    if (s.node i).state = .lost then s.setProcess .halted
    else
      match s.nextUnprinted with
      | none => s.setProcess .idle
      | some t =>
        let s1 := (s.setPrint t.number .printing).setProcess .sending
        { s1 with field := { s1.field with printRequest := some t.number } }

/-- The print process is prompted (R154). -/
def State.promptPrint (s : State) : State :=
  match s.tickets.process with
  | .idle => s.printScan
  | .scan => s.printScan
  | .sending => s
  | .halted => s

/-! ## Readiness and composition -/

/-- The unticketed bales of a charge, in ascending bale number (R143). -/
def State.unticketed (s : State) (r : ChargeRef) : List Bale :=
  s.press.bales.filter (fun b => b.lot = r.lot && b.index = r.index && b.ticket.isNone)

/-- The bale is WEIGHED. -/
def Bale.isWeighed (b : Bale) : Bool := b.status = .weighed

/-- The run of a charge (R143). -/
def State.runOf (s : State) (r : ChargeRef) : List Bale := (s.unticketed r).takeWhile Bale.isWeighed

/-- The charge is ready for composition (R143). -/
def State.chargeReady (s : State) (r : ChargeRef) : Bool :=
  match s.charge? r with
  | none => false
  | some c =>
    c.finalTicket.isNone &&
    ((c.state = .pressing && Config.ticketLines ≤ (s.runOf r).length) ||
     (c.state = .pressed && (s.unticketed r).all Bale.isWeighed))

/-- The composition test: a ready charge joins the Compose Wait list (R143, R144). -/
def State.testComposition (s : State) (r : ChargeRef) : State :=
  if s.chargeReady r && !s.tickets.wait.contains r then
    { s with tickets := { s.tickets with wait := s.tickets.wait ++ [r] } }
  else s

/-- A ticket line of a bale (R147). -/
def lineOf (b : Bale) : TicketLine :=
  { bale := b.number, net := b.net.getD 0
    manual := b.manual, low := b.low, high := b.high, wet := b.wet, tareUnknown := b.tareUnknown }

/-- The yield of a final ticket (R147). -/
def yieldOf (final : Bool) (net : Int) (green : Nat) : Option Nat :=
  if final && green ≠ 0 then some (max 0 (min 65534 (Int.tdiv (net * 1000) green))).toNat else none

/-- The ticket that composition makes of some bales of a charge (R147). -/
def makeTicket (number : Nat) (l : Lot) (i : Nat) (c : Charge) (bales : List Bale) (final : Bool) (now : Time) : Ticket :=
  let lines := bales.map lineOf
  { number, lot := l.number, grower := l.grower, variety := l.variety, kiln := c.kiln, index := i
    part := c.partTickets, final, green := c.green, lines
    totalNet := wrap32 (lines.foldl (fun n x => n + x.net) 0)
    yield := yieldOf final c.net c.green
    short := c.short, aborted := c.aborted, held := c.held, overtime := c.overtime
    manual := lines.any (fun x => x.manual)
    tolerance := lines.any (fun x => x.low || x.high)
    wet := lines.any (fun x => x.wet)
    issued := now, print := .unprinted }

/-- The ticket lists the bale with this number. -/
def Ticket.lists (t : Ticket) (n : Nat) : Bool := t.lines.any (fun x => x.bale = n)

/-- The bales a composition takes: the run, up to its first 32 (R146). -/
def State.taken (s : State) (r : ChargeRef) : List Bale := (s.runOf r).take Config.ticketLines

/-- The ticket would be final: PRESSED, and no unticketed bale remains beyond those taken (R146). -/
def State.wouldBeFinal (s : State) (r : ChargeRef) (c : Charge) : Bool :=
  c.state = .pressed && (s.unticketed r).length = (s.taken r).length

/-- The records that composition changes beside the ticket: bales, lot, charge, numbering, queue (R148). A ticket number above
2147483647 stands in TICKET-READY's value as its 32 bits (log 35). -/
def State.issueTicket (s : State) (r : ChargeRef) (t : Ticket) : State :=
  let s1 := { s with tickets := { s.tickets with
    queue := s.tickets.queue ++ [t], lastTicket := some t.number, nextTicket := t.number + 1 } }
  let s2 := { s1 with press := { s1.press with
    bales := s1.press.bales.map (fun (b : Bale) =>
      if t.lists b.number then { b with ticket := some t.number } else b) } }
  let s3 := s2.updLot r.lot (fun l => { l with ticketsIssued := l.ticketsIssued + 1 })
  let s4 := s3.updCharge r (fun c =>
    if t.final then { c with finalTicket := some t.number }
    else { c with partTickets := min 255 (c.partTickets + 1) })
  (s4.raise .ticketReady r.lot t.number).promptPrint

/-- Composing a charge, and the composition test made again for it (R146, R148). -/
def State.compose (s : State) (r : ChargeRef) : State :=
  match s.lot? r.lot, s.charge? r with
  | some l, some c =>
    let final := s.wouldBeFinal r c
    if (s.taken r).isEmpty && !final then s
    else
      (s.issueTicket r (makeTicket s.tickets.nextTicket l r.index c (s.taken r) final s.now)).testComposition r
  | _, _ => s

/-- The three conditions under which the service goes on (R145). -/
def State.canCompose (s : State) : Bool :=
  s.tickets.queue.length < Config.ticketCapacity && 1 ≤ s.tickets.nextTicket && s.tickets.nextTicket ≤ Config.maxNumber

/-- Serving the Compose Wait list (R145). The fuel bounds the steps. -/
def State.serveFuel : Nat → State → State
  | 0, s => s
  | n + 1, s =>
    match s.tickets.wait with
    | [] => s
    | r :: rest =>
      if s.canCompose then
        State.serveFuel n (State.compose { s with tickets := { s.tickets with wait := rest } } r)
      else s

/-- Serving the Compose Wait list: a service composes at most 16 tickets, and an entry that composes nothing leaves the list,
so this fuel suffices (R145). -/
def State.serve (s : State) : State := State.serveFuel (Config.ticketCapacity + s.tickets.wait.length) s

/-- A charge is offered to the Ticket Unit: the test, and the service at the end of the event (R143, R145). -/
def State.offerCharge (s : State) (r : ChargeRef) : State := (s.testComposition r).serve

/-! ## The ticket image (R150, 11.8) -/

/-- One line record, 8 bytes. -/
def TicketLine.bytes (l : TicketLine) : List Byte := be32 l.bale ++ int24 l.net ++ [l.flags]

/-- The image: 30 bytes of header and 8 bytes a line. -/
def Ticket.image (t : Ticket) : List Byte :=
  be32 t.number ++ be16 t.lot ++ be16 t.grower ++ [byte t.variety.val, byte t.kiln.val, byte t.index, byte t.part]
  ++ [0, t.flags] ++ be32 t.issued.toNat ++ be32 t.green ++ int32 t.totalNet ++ optU16 t.yield
  ++ [byte t.lines.length, 0] ++ t.lines.flatMap TicketLine.bytes

/-- The segment count: the image length plus 43, divided by 44 and truncated (R150). -/
def segmentCount (length : Nat) : Nat := (length + 43) / 44

/-- The block sum: the sum of all the image's bytes, modulo 65536 (R150). -/
def blockSum (image : List Byte) : Nat := image.foldl (fun n b => n + b.toNat) 0 % 65536

/-- The payload of segment i (R150, 11.8). -/
def segmentPayload (image : List Byte) (i : Nat) : List Byte :=
  let n := segmentCount image.length
  [byte i, byte n] ++ (image.drop (44 * i)).take 44 ++ (if i + 1 = n then be16 (blockSum image) else [])

/-- The segment payloads of a ticket, in ascending index (R150). -/
def Ticket.segments (t : Ticket) : List (List Byte) :=
  (List.range (segmentCount t.image.length)).map (segmentPayload t.image)

/-- The ticket with a number. -/
def State.ticket? (s : State) (n : Nat) : Option Ticket := s.tickets.queue.find? (fun t => t.number = n)

/-! ## Requests -/

/-- TICKET-BASE (R142). -/
def performTicketBase (nextTicket nextBale : Word32) (s : State) : Answer :=
  let t := nextTicket.toNat
  let b := nextBale.toNat
  if t = 0 || b = 0 || Config.maxNumber < t || Config.maxNumber < b then refuse s .range
  else if s.tickets.queue ≠ [] || s.tickets.wait ≠ [] then refuse s .state
  else if (s.tickets.lastTicket.any (fun n => t ≤ n)) then refuse s .range
  else if (s.tickets.lastBale.any (fun n => b ≤ n)) then refuse s .range
  else
    accept { s with tickets := { s.tickets with nextTicket := t, nextBale := b, baseSet := true } }
      (bytes32 nextTicket ++ bytes32 nextBale)

/-- The ticket that a TICKET-READ names: 0 names the oldest (R151). -/
def State.ticketNamed (s : State) (n : Nat) : Option Ticket :=
  if n = 0 then s.tickets.queue.head? else s.ticket? n

/-- TICKET-READ: the reply, and the ticket block that follows it (R151, R55). -/
def performTicketRead (ticket : Word32) (s : State) : Answer :=
  match s.ticketNamed ticket.toNat with
  | none => refuse s .unknown
  | some t =>
    let frames := t.segments.map (mkFrame 0x00 s.ownAddress codeTicket)
    accept { s with classifier := { s.classifier with block := some { frames, inProgress := false } } }
      (be32 t.number ++ [byte (segmentCount t.image.length), byte t.lines.length, byte t.print.code])

/-- The removal of the oldest ticket: its bales, the lot's released totals, its charge (R152). -/
def State.takeTicket (s : State) (t : Ticket) : State :=
  let s1 := { s with tickets := { s.tickets with queue := s.tickets.queue.tail } }
  let s2 := { s1 with press := { s1.press with
    bales := s1.press.bales.filter (fun (b : Bale) => !t.lists b.number) } }
  let s3 := s2.updLot t.lot (fun l => { l with
    releasedBales := l.releasedBales + t.lines.length
    releasedNet := wrap32 (l.releasedNet + t.totalNet)
    ticketsTaken := l.ticketsTaken + 1 })
  let s4 := if t.final then s3.updCharge { lot := t.lot, index := t.index } (fun c => { c with state := .ticketed }) else s3
  s4.judgeStore.serve

/-- TICKET-TAKE (R152). -/
def performTicketTake (ticket : Word32) (s : State) : Answer :=
  match s.ticket? ticket.toNat with
  | none => refuse s .unknown
  | some t =>
    if s.tickets.queue.head?.map (fun o => o.number) ≠ some t.number then refuse s .state
    else if t.print = .printing then refuse s .state
    else
      accept (s.takeTicket t)
        (be32 t.number ++ be16 t.lot ++ [byte t.index, flagByte t.final, byte t.lines.length] ++ int32 t.totalNet)

/-- TICKET-REPRINT (R157). -/
def performTicketReprint (ticket : Word32) (s : State) : Answer :=
  match s.ticket? ticket.toNat with
  | none => refuse s .unknown
  | some t =>
    if t.print = .unprinted || t.print = .printing then refuse s .state
    else
      let s1 := (s.setPrint t.number .unprinted).promptPrint
      accept s1 (be32 t.number ++
        [byte ((s1.ticket? t.number).elim PrintState.unprinted.code (fun x => x.print.code))])

end Sys2Proof.Machine
end

