-- ==== Sys2Proof/Machine/Weighing.lean ====
section
/-! DEFINITION. The Scale Engine and the Press Unit: bales, outcomes, readings, blocks, faults, unload done (06, 07). -/

namespace Sys2Proof.Machine

/-! ## What the Press Unit does with an outcome -/

/-- The tolerance check's two flags (R134). -/
def Bale.judged (v : Variety) (net : Int) (b : Bale) : Bale :=
  { b with low := b.low || net < v.targetMin, high := b.high || (v.targetMax : Int) < net }

/-- The Variety entry of a bale's lot (R134). -/
def State.baleVariety (s : State) (b : Bale) : Variety := ((s.lot? b.lot).map s.varietyOf).getD {}

/-- A bale's weight is filled: gross, net, WEIGHED, the charge's and the lot's net, the tolerance check (R131, R138, R134). -/
def State.fillBale (s : State) (b : Bale) (gross : Int) : State :=
  let net := gross - b.tare
  let v := s.baleVariety b
  let s1 := s.updBale b.number (fun b => { (b.judged v net) with gross := some gross, net := some net, status := .weighed })
  let s2 := s1.updLot b.lot (fun l => { l with netTotal := wrap32 (l.netTotal + net) })
  let s3 := s2.updCharge { lot := b.lot, index := b.index } (fun c => { c with net := wrap32 (c.net + net) })
  if net < v.targetMin || (v.targetMax : Int) < net then s3.raise .baleTolerance b.number net else s3

/-- A CAPTURED outcome (R131). -/
def State.captured (s : State) (weight : Int) : State :=
  match s.press.cycle with
  | .none => s
  | .unrecorded => s.raise .baleUnrecorded 0 weight
  | .bale n =>
    match s.bale? n with
    | none => s
    | some b =>
      if b.status = .weighing then (s.fillBale b weight).offerCharge { lot := b.lot, index := b.index } else s

/-- A NOT-CAPTURED outcome of a cycle that went SETTLING (R132). -/
def State.notCaptured (s : State) : State :=
  match s.press.cycle with
  | .none => s
  | .unrecorded => s.raiseOpt .baleUnrecorded 0 none
  | .bale n =>
    match s.bale? n with
    | none => s
    | some b =>
      if b.status = .weighing then
        (s.updBale n (fun b => { b with status := .awaitingWeight, manual := true })).offerCharge
          { lot := b.lot, index := b.index }
      else s

/-! ## Blocks and stability -/

/-- Change the Scale Engine's state. -/
def State.updScale (s : State) (f : Scale → Scale) : State := { s with scale := f s.scale }

/-- The last n entries of a list. -/
def lastN {α : Type} (n : Nat) (l : List α) : List α := l.drop (l.length - n)

/-- The sum of integers divided by a count, truncated toward zero (R110, R111, R118). -/
def meanOf (n : Nat) (l : List Int) : Int := Int.tdiv (l.foldl (· + ·) 0) n

/-- The weights of the blocks that have one. -/
def weightsOf (h : List ScaleBlock) : List Int := h.filterMap (fun b => b.weight)

/-- The largest less the smallest of a list (R111). -/
def spread (l : List Int) : Int :=
  match l with
  | [] => 0
  | x :: xs => xs.foldl max x - xs.foldl min x

/-- The stable weight of a history, absent when it is not stable (R111). -/
def stableOf (u : ScaleSetup) (h : List ScaleBlock) : Option Int :=
  let w := lastN u.stability (weightsOf h)
  if u.stability ≤ (weightsOf h).length && spread w ≤ u.band then some (meanOf u.stability w) else none

/-- The weight of a raw average (R110). -/
def weightOf (u : ScaleSetup) (raw : Int) : Option Int :=
  if u.span = 0 then none
  else some (clamp (-2147483647) 2147483646 (Int.tdiv ((raw - u.zeroOffset) * u.span) 65536))

/-- The history emptied, with the stable flag cleared (R111). -/
def Scale.clearHistory (c : Scale) : Scale := { c with history := [], stable := none }

/-- The Sample FIFO and the history emptied (R110, R111). -/
def Scale.clearData (c : Scale) : Scale := { c.clearHistory with samples := [] }

/-- The Sample FIFO's readings form a block, which joins the history and becomes the last block (R110, R111). -/
def Scale.formBlock (c : Scale) : Scale :=
  let raw := meanOf c.setup.watermark c.samples
  let b : ScaleBlock := { raw, weight := weightOf c.setup raw }
  let h := lastN Config.historyCapacity (c.history ++ [b])
  { c with samples := [], history := h, lastBlock := some b, stable := stableOf c.setup h }

/-- The mean of the raw averages of the last M blocks (R118, R119). -/
def Scale.newZero (c : Scale) : Int :=
  meanOf c.setup.stability ((lastN c.setup.stability c.history).map (fun b => b.raw))

/-- The zero offset takes the mean of the last raw averages, and the history is emptied (R118). -/
def Scale.absorb (c : Scale) : Scale :=
  { c.clearHistory with setup := { c.setup with zeroOffset := c.newZero } }

/-- Zero tracking in IDLE (R118). -/
def Scale.track (c : Scale) : Scale :=
  match c.stable with
  | none => c
  | some w => if 0 < c.setup.zeroTrackBand && w.natAbs ≤ c.setup.zeroTrackBand then c.absorb else c

/-- A block just formed is judged by the scale state (R113, R115, R118). -/
def State.judgeBlock (s : State) : State :=
  match s.scale.state with
  | .idle => s.updScale Scale.track
  | .settling =>
    match s.scale.stable with
    | none => s
    | some w =>
      if (s.scale.setup.minGross : Int) ≤ w then
        (s.updScale (fun c => { c with state := .clearing, captured := true, settle := none })).captured w
      else s
  | .unconfigured => s
  | .clearing => s
  | .fault => s

/-! ## Faults and readings -/

/-- What every entry to FAULT does to the engine's own data (R117). -/
def Scale.enterFault (c : Scale) : Scale :=
  { c.clearData with
    state := .fault, pendingA := none, lastBlock := none, good := 0, settle := none, captured := false
    cycleOpen := c.state = .settling || c.state = .clearing }

/-- A cause of FAULT finds the scale IDLE, SETTLING or CLEARING (R117). -/
def State.enterFault (s : State) (cause : FaultCause) : State :=
  let s1 := (s.updScale Scale.enterFault).raise .scaleFault 0 cause.code
  if s.scale.state = .settling then s1.notCaptured else s1

/-- A cause of FAULT, by the scale state (R108, R109, R117). -/
def State.faultCause (s : State) (cause : FaultCause) : State :=
  match s.scale.state with
  | .unconfigured => s
  | .fault => s.updScale (fun c => { c with good := 0 })
  | .idle => s.enterFault cause
  | .settling => s.enterFault cause
  | .clearing => s.enterFault cause

/-- A good reading (R109, R110, R117). -/
def State.takeReading (s : State) (r : Int) : State :=
  if s.scale.state = .fault then
    if s.scale.good + 1 < 2 then s.updScale (fun c => { c with good := c.good + 1 })
    else s.updScale (fun c => { c.clearHistory with state := .idle, good := 0, cycleOpen := false })
  else
    let s1 := s.updScale (fun c => { c with samples := c.samples ++ [r] })
    if s.scale.setup.watermark ≤ s.scale.samples.length + 1 then (s1.updScale Scale.formBlock).judgeBlock else s1

/-- Channel B of a status byte: the first bit clocked (11.9). -/
def statusChannelB (st : Byte) : Bool := st.getLsbD 7
/-- The overrange flag: the second bit clocked (11.9). -/
def statusOverrange (st : Byte) : Bool := st.getLsbD 6
/-- The reference-fault flag: the third bit clocked (11.9). -/
def statusReference (st : Byte) : Bool := st.getLsbD 5

/-- One converter sample (R109). -/
def State.takeSample (s : State) (st : Byte) (sample : Int) : State :=
  if statusReference st || statusOverrange st then
    (s.updScale (fun c => { c with pendingA := none })).faultCause
      (if statusReference st then .reference else .overrange)
  else if statusChannelB st then
    match s.scale.pendingA with
    | none => s
    | some a => (s.updScale (fun c => { c with pendingA := none })).takeReading (a + sample)
  else s.updScale (fun c => { c with pendingA := some sample })

/-! ## The converter's frames -/

/-- What a frame with this command word sends: the word followed by 24 zero bits (R106). -/
def ConverterFrame.carrying (word : Byte) (fromFifo : Bool) : ConverterFrame :=
  { sends := word ++ (0 : BitVec 24), fromFifo }

/-- Ready asserts with no frame in progress: the frame starts with its command word fixed (R106, R107). -/
def State.frameStart (s : State) : State :=
  match s.scale.frame with
  | some _ => s
  | none =>
    s.updScale (fun c => { c with frame := some (match c.commands with
      | [] => .carrying c.setup.idleWord false
      | w :: _ => .carrying w true) })

/-- The frame is complete: its word leaves the FIFO, the watch restarts, one sample is taken (R106 to R109). -/
def State.frameComplete (s : State) (st : Byte) (sample : BitVec 24) : State :=
  match s.scale.frame with
  | none => s
  | some f =>
    (s.updScale (fun c => { c with
      frame := none, watch := Config.converterWatch
      commands := if f.fromFifo then c.commands.tail else c.commands })).takeSample st sample.toInt

/-- The frame is torn (R108). -/
def State.frameTorn (s : State) : State := s.updScale (fun c => { c with frame := none })

/-- The converter watch runs out: it restarts, and acts by the scale state (R108). -/
def State.watchExpiry (s : State) : State :=
  (s.updScale (fun c => { c with watch := Config.converterWatch })).faultCause .ready

/-- The settle timer runs out in SETTLING (R115). -/
def State.settleTimeout (s : State) : State :=
  if s.scale.state = .settling then
    (s.updScale (fun c => { c with state := .clearing, captured := false, settle := none })).notCaptured
  else s

/-! ## Bales on the platform -/

/-- What the Scale Engine answers an ON-SCALE (R114, R130). -/
inductive OnScaleAnswer where
  | settling
  | notCaptured
  | ignoredUnconfigured
  | ignoredBusy
  deriving DecidableEq, Repr

/-- The answer by the scale state (R114). -/
def onScaleAnswer : ScaleState → OnScaleAnswer
  | .idle => .settling
  | .fault => .notCaptured
  | .unconfigured => .ignoredUnconfigured
  | .settling => .ignoredBusy
  | .clearing => .ignoredBusy

/-- The Scale Engine takes an ON-SCALE (R114). -/
def State.scaleOnScale (s : State) : State :=
  match s.scale.state with
  | .idle => s.updScale (fun c => { c.clearData with
      state := .settling, pendingA := none, settle := some (10 * c.setup.settleTimeout) })
  | .fault => s.updScale (fun c => { c with cycleOpen := true })
  | .unconfigured => s.raise .scaleSequence 0 EventSelector.onScale.code
  | .settling => s.raise .scaleSequence 0 EventSelector.onScale.code
  | .clearing => s.raise .scaleSequence 0 EventSelector.onScale.code

/-- The charge a new bale record belongs to: the head kiln's, when a record can be made (R130, R141). -/
def State.baleCharge (s : State) : Option (Kiln × ChargeRef) :=
  match s.press.queue with
  | [] => none
  | k :: _ =>
    match (s.kiln k).charge with
    | none => none
    | some r =>
      if 0 < s.freeCount && (s.lot? r.lot).any (fun l => l.baleCount < 65535) &&
         1 ≤ s.tickets.nextBale && s.tickets.nextBale ≤ Config.maxNumber
      then some (k, r) else none

/-- The tare code and tare of an ON-SCALE's value (R129). -/
def State.tareOf (s : State) (value : Word32) : Option (Fin 8) × Nat :=
  if h : value.toNat < 8 then (some ⟨value.toNat, h⟩, s.press.tares[value.toNat]) else (none, 0)

/-- A record is made (R130). -/
def State.createBale (s : State) (k : Kiln) (r : ChargeRef) (value : Word32) (weighing : Bool) : State :=
  let n := s.tickets.nextBale
  let b : Bale :=
    { number := n, lot := r.lot, index := r.index, kiln := k
      status := if weighing then .weighing else .awaitingWeight
      gross := none, tareCode := (s.tareOf value).1, tare := (s.tareOf value).2, net := none, moisture := none
      time := s.now, manual := !weighing, low := false, high := false, wet := false, ticket := none }
  let s1 := { s with
    press := { s.press with bales := s.press.bales ++ [b], cycle := .bale n }
    tickets := { s.tickets with nextBale := n + 1, lastBale := some n } }
  let s2 := s1.updLot r.lot (fun l => { l with baleCount := l.baleCount + 1 })
  let s3 := (s2.updCharge r (fun c => { c with bales := c.bales + 1 })).judgeStore
  if weighing then s3 else s3.offerCharge r

/-- A new cycle begins: with a record, or unrecorded (R130). -/
def State.newCycle (s : State) (value : Word32) (weighing : Bool) : State :=
  match s.baleCharge with
  | some (k, r) => s.createBale k r value weighing
  | none =>
    let s1 := { s with press := { s.press with cycle := .unrecorded } }
    if weighing then s1 else s1.raiseOpt .baleUnrecorded 0 none

/-- An ON-SCALE reading (R130). -/
def State.onScale (s : State) (value : Word32) : State :=
  match onScaleAnswer s.scale.state with
  | .settling => s.scaleOnScale.newCycle value true
  | .notCaptured => s.scaleOnScale.newCycle value false
  | .ignoredUnconfigured => s.scaleOnScale.newCycle value false
  | .ignoredBusy => s.scaleOnScale

/-- The scale goes IDLE at an OFF-SCALE (R116, R111). -/
def Scale.endCycle (c : Scale) : Scale :=
  { c.clearHistory with state := .idle, captured := false, settle := none }

/-- An OFF-SCALE reading: the scale acts, an outcome is applied, the cycle bale becomes none (R116, R133). -/
def State.offScale (s : State) : State :=
  let s1 := match s.scale.state with
    | .clearing => s.updScale Scale.endCycle
    | .settling =>
      ((s.updScale (fun c => { c with settle := none })).notCaptured.updScale Scale.endCycle).raise
        .scaleSequence 0 EventSelector.offScale.code
    | .fault => s.updScale (fun c => { c with cycleOpen := false })
    | .idle => s
    | .unconfigured => s
  { s1 with press := { s1.press with cycle := .none } }

/-- A MOISTURE reading (R133). -/
def State.moisture (s : State) (value : Word32) : State :=
  match s.press.cycle with
  | .none => s
  | .unrecorded => s
  | .bale n =>
    match s.bale? n with
    | none => s
    | some b =>
      if b.status = .awaitingWeight then s
      else
        let v := min 65535 value.toNat
        let above := decide ((s.baleVariety b).maxMoisture < v)
        s.updBale n (fun x => { x with moisture := some v, wet := x.wet || above })

/-! ## Unload done -/

/-- The next kiln of the queue, if any, becomes the head (R124). -/
def State.advanceHead (s : State) : State :=
  match s.press.queue with
  | [] => s
  | k :: _ => s.becomeHead k

/-- Unload done of the head kiln, with its charge offered, the press command judged and a selection attempted (R125). -/
def State.unloadHead (s : State) (k : Kiln) : State :=
  let r := (s.kiln k).charge
  let s1 := ({ s with press := { s.press with queue := s.press.queue.tail } } : State)
  let s2 := s1.updKilnCharge k (fun c => { c with state := .pressed })
  let s3 := (s2.kilnEmptied k).advanceHead
  let s4 := match r with
    | none => s3
    | some r => s3.testComposition r
  (s4.judgePress.attemptSelection).serve

/-- Unload done (R125). -/
def State.unloadDone (s : State) : State :=
  match s.press.queue with
  | [] => s
  | k :: _ => s.unloadHead k

/-! ## Requests -/

/-- UNLOAD-DONE, the request (R126). -/
def performUnloadDone (kiln : Byte) (s : State) : Answer :=
  match kilnOf kiln with
  | none => refuse s .range
  | some k =>
    if s.press.queue.head? ≠ some k then refuse s .state
    else
      let r := ((s.kiln k).charge).getD { lot := 0, index := 0 }
      let t := feedEvent State.unloadDone s
      let c := t.charge? r
      accept t ([kiln] ++ be16 r.lot ++ [byte r.index] ++ be16 ((c.map (fun c => c.bales)).getD 0) ++
        int32 ((c.map (fun c => c.net)).getD 0) ++ [kilnByte t.press.queue.head?])

/-- PRESS-HOLD (R137). -/
def performPressHold (flag : Byte) (s : State) : Answer :=
  if 1 < flag.toNat then refuse s .range
  else
    let t := State.judgePress
      { s with press := { s.press with hold := { s.press.hold with operator := flag.toNat = 1 } } }
    accept t [t.press.hold.byte]

/-- BALE-WEIGHT (R138). -/
def performBaleWeight (bale gross : Word32) (s : State) : Answer :=
  if Config.maxWeight < gross.toNat then refuse s .range
  else
    match s.bale? bale.toNat with
    | none => refuse s .unknown
    | some b =>
      if b.status ≠ .awaitingWeight then refuse s .state
      else
        let s1 := s.fillBale b gross.toNat
        accept (s1.offerCharge { lot := b.lot, index := b.index })
          (bytes32 bale ++ int32 ((gross.toNat : Int) - b.tare) ++
           [((s1.bale? b.number).map Bale.flags).getD 0])

/-- The bale record image, 35 bytes (11.6). -/
def Bale.image (b : Bale) (next : Option Nat) : List Byte :=
  be32 b.number ++ be16 b.lot ++ [byte b.index, byte b.kiln.val, byte b.status.code, b.flags]
  ++ optI32 b.gross ++ optByte (b.tareCode.map (fun c => c.val)) ++ be16 b.tare ++ optI32 b.net
  ++ optU16 b.moisture ++ be32 b.time.toNat ++ optU32 b.ticket ++ optU32 next

/-- The record a BALE-READ names: 0 names the lowest number (R139). -/
def State.baleNamed (s : State) (n : Nat) : Option Bale :=
  if n = 0 then s.press.bales.head? else s.bale? n

/-- BALE-READ (R139). -/
def performBaleRead (bale : Word32) (s : State) : Answer :=
  match s.baleNamed bale.toNat with
  | none => refuse s .unknown
  | some b => accept s (b.image ((s.press.bales.find? (fun x => b.number < x.number)).map (fun x => x.number)))

/-- The settle time remaining in whole seconds, rounded up; 0 outside SETTLING (R120). -/
def Scale.settleSeconds (c : Scale) : Nat :=
  if c.state = .settling then (c.settle.getD 0 + 9) / 10 else 0

/-- The scale page, 18 bytes (11.6). -/
def Scale.page (c : Scale) : List Byte :=
  [byte c.state.code, bitsByte [c.captured, c.cycleOpen, c.stable.isSome]]
  ++ optI32 (c.lastBlock.bind (fun b => b.weight)) ++ optI32 (c.lastBlock.map (fun b => b.raw)) ++ optI32 c.stable
  ++ [byte c.samples.length, byte c.commands.length, byte c.settleSeconds, byte c.good]

/-- SCALE-READ (R120). -/
def performScaleRead (s : State) : Answer := accept s s.scale.page

/-- SCALE-ZERO (R119). -/
def performScaleZero (s : State) : Answer :=
  if s.scale.state ≠ .idle then refuse s .state
  else
    match s.scale.stable with
    | none => refuse s .state
    | some w =>
      if s.scale.setup.zeroLimit < w.natAbs then refuse s .range
      else
        let t := s.updScale (fun c => { c.absorb with samples := [] })
        accept t (int32 t.scale.setup.zeroOffset ++ int32 w)

/-- SCALE-COMMAND (R121). -/
def performScaleCommand (word : Byte) (s : State) : Answer :=
  if Config.scaleCommandCapacity ≤ s.scale.commands.length then refuse s .full
  else
    let t := s.updScale (fun c => { c with commands := c.commands ++ [word] })
    accept t [byte t.scale.commands.length]

end Sys2Proof.Machine
end

