-- ==== Sys2Proof/Machine/FieldSegment.lean ====
section
/-! DEFINITION. The Field Master and the Frame Classifier's field side: answers, misses, reports, routes, transactions,
cadences, the Field Transmit Arbiter (02, 03). -/

namespace Sys2Proof.Machine

/-! ## Node moves and reports (R23 to R25) -/

/-- A valid answer on the node's entry: misses 0, last answer time, ONLINE, NODE-BACK from LOST (R23, R24). -/
def State.nodeAnswered (s : State) (i : NodeIdx) : State :=
  let n := s.node i
  let s1 := s.setNode i { n with misses := 0, lastAnswer := some s.now, state := .online }
  if n.state = .lost then s1.raise .nodeBack n.address.toNat n.misses else s1

/-- The report of a valid answer: BELT completes a WAITING changeover, PRINTER brings back a HALTED process (R25, R64, R156).
The other roles' returns change nothing in their jobs (R59, R73, R99, R136). -/
def State.reportAnswer (s : State) (i : NodeIdx) : State :=
  match (s.node i).role with
  | some .belt => s.beltAnswered
  | some .printer => if s.tickets.process = .halted then s.printScan else s
  | some .probe => s
  | some .burner => s
  | some .picker => s
  | some .diverter => s
  | some .press => s
  | some .moisture => s
  | some .other => s
  | none => s

/-- A hold cause for the bound kiln of a PROBE or BURNER. -/
def State.holdBound (s : State) (n : Node) (reason : HoldReason) : State :=
  match n.binding with
  | none => s
  | some k => s.holdKiln k reason

/-- The report of a move into LOST (R25, R99, R156). -/
def State.reportLost (s : State) (n : Node) : State :=
  match n.role with
  | some .probe => s.holdBound n .probe
  | some .burner => s.holdBound n .burner
  | some .printer => if s.tickets.process = .idle then s.setProcess .halted else s
  | some .belt => s
  | some .picker => s
  | some .diverter => s
  | some .press => s
  | some .moisture => s
  | some .other => s
  | none => s

/-- A miss on the node's entry; at the miss limit the node goes LOST, NODE-LOST is raised and reported (R23, R24, R25). -/
def State.nodeMissed (s : State) (i : NodeIdx) : State :=
  let n := s.node i
  let m := min 15 (n.misses + 1)
  let s1 := s.setNode i { n with misses := m }
  if (n.state = .unknown || n.state = .online) && n.missLimit ≤ m then
    ((s1.setNode i { n with misses := m, state := .lost }).raise .nodeLost n.address.toNat n.missLimit).reportLost n
  else s1

/-- A miss on the entry a transaction acts on, if there is one and its outcome is applied (R21, R23). -/
def State.missOn (s : State) (t : Transaction) : State :=
  match t.node with
  | none => s
  | some i => if t.detached then s else s.nodeMissed i

/-! ## The Forward Queue (R53) -/

/-- A frame offered to the Forward Queue: discarded while SILENT; the oldest gives way when 16 are held. -/
def State.forward (s : State) (f : Frame) : State :=
  if s.link.live then
    let q := s.classifier.forwardQueue
    let q := if Config.forwardCapacity ≤ q.length then q.tail else q
    { s with classifier := { s.classifier with forwardQueue := q ++ [f] } }
  else s

/-! ## The Route Table (R50 to R52) -/

/-- A used entry with this key. -/
def Route.hasKey (src code : Byte) (r : Route) : Bool := r.used && r.source = src && r.code = code

/-- A Route Table entry. -/
def State.route (s : State) (i : RouteIdx) : Route := s.classifier.routes[i]

/-- The used entry of lowest index with a key. -/
def State.findRoute (s : State) (src code : Byte) : Option RouteIdx :=
  (List.finRange 64).find? (fun i => (s.route i).hasKey src code)

/-- The exact entry, and failing that the any-source entry (R50). -/
def State.lookupRoute (s : State) (src code : Byte) : Option RouteIdx :=
  match s.findRoute src code with
  | some i => some i
  | none => s.findRoute 0x00 code

/-- The source's role fits the action (R51). -/
def roleFits (a : RouteAction) (n : Node) : Bool :=
  match a with
  | .green => n.role = some .belt
  | .kilnAir => n.role = some .probe && n.binding.isSome
  | .kilnExhaust => n.role = some .probe && n.binding.isSome
  | .baleEvent => n.role = some .press
  | .moisture => n.role = some .moisture
  | .none => false
  | .drop => false
  | .forward => false

/-- The entry reads a value: a BALE-EVENT of OFF-SCALE or UNLOAD-DONE does not (R51). -/
def Route.readsValue (r : Route) : Bool :=
  !(r.action = .baleEvent && (r.selector = .offScale || r.selector = .unloadDone))

/-- The value lies within the frame (R51). -/
def Route.lengthFits (r : Route) (f : Frame) : Bool := !r.readsValue || r.offset + r.width ≤ f.payload.length

/-- The value, widened to 32 bits by the entry's signedness (R51). -/
def Route.value (r : Route) (f : Frame) : Word32 :=
  let n := beNat ((f.payload.drop r.offset).take r.width)
  if r.signed then BitVec.ofInt 32 (signedOf (8 * r.width) n) else BitVec.ofNat 32 n

/-- The value read as signed or unsigned by the entry's signedness (R51). -/
def Route.number (r : Route) (f : Frame) : Int :=
  if r.signed then (r.value f).toInt else ((r.value f).toNat : Int)

/-- An applied action hands its reading to the job (R52). -/
def State.applyRoute (s : State) (r : Route) (i : NodeIdx) (f : Frame) : State :=
  match r.action with
  | .green => s.green i (r.value f)
  | .kilnAir =>
    match (s.node i).binding with
    | none => s
    | some k => s.kilnAir k (r.number f)
  | .kilnExhaust =>
    match (s.node i).binding with
    | none => s
    | some k => s.kilnExhaust k (r.number f)
  | .baleEvent =>
    match r.selector with
    | .onScale => s.onScale (r.value f)
    | .offScale => s.offScale
    | .unloadDone => s.unloadDone
    | .none => s
  | .moisture => s.moisture (r.value f)
  | .none => s
  | .drop => s
  | .forward => s

/-- A job action is applied, or refused with ROUTE-MISMATCH (R51). -/
def State.jobAction (s : State) (r : Route) (x : RouteIdx) (i : NodeIdx) (f : Frame) : State :=
  if roleFits r.action (s.node i) && r.lengthFits f then s.applyRoute r i f
  else s.raise .routeMismatch x.val f.src.toNat

/-- The copy that an entry's flag calls for (R52). -/
def State.copyIf (s : State) (c : Bool) (f : Frame) : State := if c then s.forward f else s

/-- A classified poll reply: lookup, action, copy (R50 to R52). -/
def State.classify (s : State) (i : NodeIdx) (f : Frame) : State :=
  match s.lookupRoute f.src f.code with
  | none =>
    match s.mgmt.station.routeDefault with
    | .forward => s.forward f
    | .drop => s
  | some x =>
    let r := s.route x
    match r.action with
    | .forward => s.forward f
    | .drop => s.copyIf r.copy f
    | .none => s.copyIf r.copy f
    | .green => (s.jobAction r x i f).copyIf r.copy f
    | .kilnAir => (s.jobAction r x i f).copyIf r.copy f
    | .kilnExhaust => (s.jobAction r x i f).copyIf r.copy f
    | .baleEvent => (s.jobAction r x i f).copyIf r.copy f
    | .moisture => (s.jobAction r x i f).copyIf r.copy f

/-! ## Outcomes of transactions -/

/-- The segment's transaction is over. -/
def State.endTransaction (s : State) : State := { s with field := { s.field with transaction := none } }

/-- A valid field frame that is not taken as an answer (R37). -/
def State.countUnsolicited (s : State) : State :=
  { s with link := { s.link with unsolicited := sat16 (s.link.unsolicited + 1) } }

/-- The code is one the transaction kind accepts (R23). -/
def TransactionKind.accepts : TransactionKind → Byte → Bool
  | .poll, c => isNodeData c || c = codeNil
  | .command _, c => c = codeAck || c = codeNak
  | .pass, _ => true
  | .broadcast, _ => false
  | .block _, c => c = codePrinted || c = codeRejected

/-- A poll's answer: a data frame that is not empty is classified (R33, R47). -/
def State.pollAnswered (s : State) (i : NodeIdx) (f : Frame) : State :=
  if isNodeData f.code && 1 ≤ f.payload.length then s.classify i f else s

/-- The owning job is told that a commanded state is confirmed: the Feed and Loading Unit waits for the diverter (R31, R73). -/
def State.reportConfirmed (s : State) (c : Commanded) : State :=
  match c with
  | .divert k => s.divertReport k
  | .feed _ => s
  | .press _ => s
  | .setpoint _ => s

/-- A COMMAND's ACK or NAK (R31). -/
def State.commandAnswered (s : State) (i : NodeIdx) (code : Byte) (f : Frame) : State :=
  if f.code = codeNak then s.raise .commandRefused (s.node i).address.toNat code.toNat
  else
    match (s.node i).commanded with
    | none => s
    | some c =>
      if c.payload = f.payload then
        (s.setNode i { s.node i with confirmed := true }).reportConfirmed c
      else s

/-- PRINTED or REJECTED ends a print transfer (R155). A ticket number above 2147483647 stands in PRINTER-FAULT's value as its
32 bits (log 35). -/
def State.blockAnswered (s : State) (i : NodeIdx) (ticket : Nat) (f : Frame) : State :=
  if f.code = codePrinted then (s.setPrint ticket .printed).printScan
  else ((s.setPrint ticket .failed).raise .printerFault (s.node i).address.toNat ticket).printScan

/-- What an answer does, by the transaction's kind, after the entry has been updated (R33 to R36, R47). -/
def State.answerBody (s : State) (t : Transaction) (i : NodeIdx) (f : Frame) : State :=
  match t.kind with
  | .poll => s.pollAnswered i f
  | .command code => s.commandAnswered i code f
  | .pass => s.forward f
  | .broadcast => s
  | .block ticket => s.blockAnswered i ticket f

/-- A valid answer ends the transaction: entry, action and copy, report, in the order of R47. -/
def State.answered (s : State) (t : Transaction) (f : Frame) : State :=
  let s1 := s.endTransaction
  if t.detached then s1.countUnsolicited
  else
    match t.node with
    | some i => ((s1.nodeAnswered i).answerBody t i f).reportAnswer i
    | none => if t.kind = .pass then s1.forward f else s1

/-- The wait ends with no valid answer (R32, R35, R155). -/
def State.expired (s : State) (t : Transaction) : State :=
  let s1 := s.endTransaction
  match t.kind with
  | .poll => s1.missOn t
  | .command _ => s1.missOn t
  | .pass => (s1.raise .passTimeout t.address.toNat 0).missOn t
  | .broadcast => s1
  | .block ticket => ((s1.setPrint ticket .unprinted).setProcess .halted).missOn t

/-- A reception has ended that did not end the transaction: a wait that ran out meanwhile ends as a miss (R32). -/
def State.afterOther (s : State) : State :=
  match s.field.transaction with
  | none => s
  | some t => if t.waitRunOut then s.expired t else s

/-- A valid frame is offered to the outstanding transaction (R37, R47). -/
def State.offerFrame (s : State) (f : Frame) : State :=
  match s.field.transaction with
  | none => s.countUnsolicited
  | some t =>
    if f.src = t.address && t.kind.accepts f.code then s.answered t f
    else s.countUnsolicited.afterOther

/-- A port's count of a reception that is not a valid arrival (R162, R164). -/
def PortCounts.count (p : PortCounts) : Judged → PortCounts
  | .torn => { p with torn := sat16 (p.torn + 1) }
  | .badLength => { p with length := sat16 (p.length + 1) }
  | .badCheck => { p with check := sat16 (p.check + 1) }
  | .valid _ => p

/-- The Field Port's receiver is on and takes characters (R161, R165). -/
def State.fieldReceives (s : State) : Bool := !s.link.driver && !s.link.fpOverlong

/-- A reception ends on the Field Port and is judged (R161, R162, R47). -/
def State.fieldArrival (s : State) (chars : List Byte) : State :=
  if s.fieldReceives && chars ≠ [] then
    let j := judge (chars.take Config.overlong)
    let s1 := { s with link := { s.link with
      fpReceiving := false, fpOverlong := Config.overlong ≤ chars.length, fp := s.link.fp.count j } }
    match j with
    | .valid f => s1.offerFrame f
    | .torn => s1.afterOther
    | .badLength => s1.afterOther
    | .badCheck => s1.afterOther
  else s

/-- A frame's first character arrives (R32, R161). -/
def State.receptionStart (s : State) : State :=
  if s.fieldReceives then { s with link := { s.link with fpReceiving := true } } else s

/-- The wait runs out: a miss, unless a frame is arriving, which extends the wait until it ends (R32). -/
def State.windowExpiry (s : State) : State :=
  match s.field.transaction with
  | none => s
  | some t =>
    if t.sending || t.kind = .broadcast then s
    else if s.link.fpReceiving then
      { s with field := { s.field with transaction := some { t with waitRunOut := true } } }
    else s.expired t

/-- The guard of a BROADCAST runs out (R35). -/
def State.guardEnd (s : State) : State :=
  match s.field.transaction with
  | none => s
  | some t => if t.kind = .broadcast && !t.sending then s.endTransaction else s

/-- The last character of a transaction, or of an abandoned one's frame, is sent (R32, R40, R165). -/
def State.transmitDone (s : State) : State :=
  { s with
    link := { s.link with driver := false }
    field := { s.field with transaction := s.field.transaction.map (fun t => { t with sending := false }) } }

/-! ## The start of a transaction (R32 to R36, R38, R39) -/

/-- The Field Port may start a transaction's first frame: the segment is free and no reception is in progress (R32, R165). The
transmit gap and the idle line are taken as run when the command comes (log 4). -/
def State.mayStart (s : State) : Bool := s.segmentFree && !s.link.fpReceiving

/-- A transaction becomes outstanding and the driver is enabled (R32, R165). -/
def State.openTransaction (s : State) (kind : TransactionKind) (address : Byte) (node : Option NodeIdx)
    (frames : List Frame) (window : Nat) : State :=
  let t : Transaction :=
    { kind, address, node, detached := false, frames, window, sending := true, waitRunOut := false }
  { s with
    link := { s.link with driver := true }
    field := { s.field with transaction := some t } }

/-- A COMMAND for the Command Queue's head (R34). -/
def State.startCommand (s : State) (c : Command) (rest : List Command) : State :=
  let n := s.node c.node
  State.openTransaction { s with field := { s.field with commandQueue := rest } }
    (.command c.payload.code) n.address (some c.node)
    [mkFrame n.address s.ownAddress c.payload.code c.payload.payload] n.window

/-- A BLOCK for the pending print request (R36). -/
def State.startBlock (s : State) (ticket : Nat) : State :=
  let s1 := { s with field := { s.field with printRequest := none } }
  match s.roleNode .printer, s.ticket? ticket with
  | some i, some t =>
    let n := s.node i
    s1.openTransaction (.block ticket) n.address (some i)
      (t.segments.map (mkFrame n.address s.ownAddress codeBlock)) n.window
  | _, _ => s1

/-- A PASS or BROADCAST for the Pass Queue's head (R35), with the pass streak (R39). -/
def State.startPass (s : State) (f : Frame) (rest : List Frame) : State :=
  let s1 := { s with
    classifier := { s.classifier with passQueue := rest }
    field := { s.field with
      passStreak := if s.field.pollQueue = [] then 0 else min Config.passStreakLimit (s.field.passStreak + 1) } }
  if f.dest = 0xFF then s1.openTransaction .broadcast f.dest none [f] Config.broadcastGuard
  else
    match s.addressNode f.dest with
    | none => s1.openTransaction .pass f.dest none [f] Config.passWindow
    | some i => s1.openTransaction .pass f.dest (some i) [f] (s.node i).window

/-- A POLL for the Poll Queue's head (R33), with the pass streak (R39). -/
def State.startPoll (s : State) (i : NodeIdx) (rest : List NodeIdx) : State :=
  let n := s.node i
  State.openTransaction { s with field := { s.field with pollQueue := rest, passStreak := 0 } }
    .poll n.address (some i) [mkFrame n.address s.ownAddress codePoll []] n.window

/-- The transaction of a source's head (R38): a COMMAND, a BLOCK, a PASS or BROADCAST, or a POLL. -/
def State.startSource (s : State) : FieldSource → State
  | .command =>
    match s.field.commandQueue with
    | c :: rest => s.startCommand c rest
    | [] => s
  | .print =>
    match s.field.printRequest with
    | some t => s.startBlock t
    | none => s
  | .pass =>
    match s.classifier.passQueue with
    | f :: rest => s.startPass f rest
    | [] => s
  | .poll =>
    match s.field.pollQueue with
    | i :: rest => s.startPoll i rest
    | [] => s

/-- The arbiter starts the transaction of the source it has chosen (R38). That the head leaves its queue, and the transaction is
outstanding, when the Field Port begins to send (2.6) and not already at the choice (R32) is the model's choice (log 36). -/
def State.startTransaction (s : State) : State :=
  if s.mayStart then
    match s.choice s.field.chosen with
    | some c => s.startSource c
    | none => s
  else s

/-! ## Cadences (R26, R27) -/

/-- One node at its cadence's expiry (R27). -/
def State.scheduleNode (c : CadenceId) (s : State) (i : NodeIdx) : State :=
  let n := s.node i
  if n.address ≠ 0 && n.cadence = some c then
    match n.commanded, n.confirmed with
    | some v, false => s.placeCommand i v
    | _, _ =>
      if s.field.pollQueue.contains i then s.raise .pollOverrun c.val n.address.toNat
      else { s with field := { s.field with pollQueue := s.field.pollQueue ++ [i] } }
  else s

/-- Change one cadence. -/
def State.updCadence (s : State) (c : CadenceId) (f : Cadence → Cadence) : State :=
  { s with field := { s.field with cadences := s.field.cadences.set c (f s.field.cadences[c]) } }

/-- A cadence expires: its countdown starts again, and its nodes are taken in index order (R26, R27). -/
def State.cadenceExpiry (s : State) (c : CadenceId) : State :=
  if s.field.cadences[c].enabled then
    (List.finRange 48).foldl (State.scheduleNode c) (s.updCadence c (fun d => { d with countdown := d.period }))
  else s

/-! ## RESTART with scope FIELD (R40) -/

/-- An entry after the restart (R40, steps 4 and 5). -/
def Node.restarted (n : Node) : Node :=
  if n.address = 0 then n
  else
    { n with
      confirmed := false, state := .unknown, misses := 0
      baseline := if n.role = some .belt then false else n.baseline }

/-- A cadence after the restart (R40, step 6). -/
def Cadence.restarted (c : Cadence) : Cadence := if c.enabled then { c with countdown := c.period } else c

/-- A print transfer in flight is abandoned: the ticket returns to UNPRINTED (R40, step 2; R155). -/
def Ticket.abandoned (t : Ticket) : Ticket := if t.print = .printing then { t with print := .unprinted } else t

/-- RESTART with scope FIELD. A frame being sent is completed: the driver stays on until its last character (R40). -/
def State.restartField (s : State) : State :=
  let f := s.field
  let s1 := { s with
    classifier := { s.classifier with passQueue := [] }
    field := { f with
      transaction := none, printRequest := none, pollQueue := [], commandQueue := [], passStreak := 0
      nodes := f.nodes.map Node.restarted, cadences := f.cadences.map Cadence.restarted } }
  if s.tickets.process = .sending then
    State.printScan { s1 with tickets := { s1.tickets with queue := s1.tickets.queue.map Ticket.abandoned } }
  else s1

end Sys2Proof.Machine
end

