-- ==== Sys2Proof/Machine/Management.lean ====
section
/-! DEFINITION. STATUS, TIME-SET and RESTART (10.3, 10.4). -/

namespace Sys2Proof.Machine

/-! ## STATUS (R177) -/

/-- The three error counts of a port, 2 bytes each (11.5). -/
def PortCounts.bytes (p : PortCounts) : List Byte := be16 p.check ++ be16 p.length ++ be16 p.torn

/-- A next ticket or bale number: 0 is not loaded and is carried as all ones (R185, R141). -/
def numberBytes (n : Nat) : List Byte := if n = 0 then bytes32 0xFFFFFFFF else be32 n

/-- Page 0, 35 bytes (11.5). -/
def State.statusPage0 (s : State) : List Byte :=
  [0, Config.family, Config.device, Config.revision, s.ownAddress, flagByte s.link.live]
  ++ s.link.up.bytes ++ s.link.fp.bytes ++ be16 s.link.unsolicited
  ++ be16 s.classifier.dropped ++ be16 s.classifier.misdirected
  ++ [bitsByte [s.mgmt.overflow, s.mgmt.timeSet, s.tickets.baseSet],
      byte s.classifier.requests.length, byte s.field.pollQueue.length, byte s.classifier.passQueue.length,
      byte s.field.commandQueue.length, byte s.classifier.forwardQueue.length, byte s.mgmt.notices.length]
  ++ bytes32 s.mgmt.time

/-- Page 1, 36 bytes (11.5). -/
def State.statusPage1 (s : State) : List Byte :=
  [1] ++ numberBytes s.tickets.nextTicket ++ numberBytes s.tickets.nextBale
  ++ optU32 s.feed.feedLot ++ optU32 s.feed.beltLot
  ++ [byte s.feed.changeover.code, s.feed.hold.byte, s.press.hold.byte, kilnByte s.feed.loading]
  ++ (List.finRange 6).map (fun k => byte (s.kiln k).state.code)
  ++ [byte s.scale.state.code, byte s.tickets.queue.length, byte s.tickets.wait.length]
  ++ be16 s.freeCount ++ be32 s.feed.unassigned

/-- What clear 1 zeroes: the six error counts, the unsolicited, dropped and misdirected counts, the overflow flag (R177). -/
def State.clearCounts (s : State) : State :=
  { s with
    link := { s.link with up := {}, fp := {}, unsolicited := 0 }
    classifier := { s.classifier with dropped := 0, misdirected := 0 }
    mgmt := { s.mgmt with overflow := false } }

/-- STATUS (R177). -/
def performStatus (clear page : Byte) (s : State) : Answer :=
  if 1 < clear.toNat || 1 < page.toNat || (clear = 1 && page = 1) then refuse s .range
  else if page = 1 then accept s s.statusPage1
  else accept (if clear = 1 then s.clearCounts else s) s.statusPage0

/-! ## TIME-SET (R178) -/

/-- TIME-SET (R178). -/
def performTimeSet (time : Word32) (s : State) : Answer :=
  accept { s with mgmt := { s.mgmt with time := time, ticks := 0, timeSet := true } }
    (bytes32 s.mgmt.time ++ bytes32 time)

/-- The station time rises by 1 and wraps (R178). -/
def State.secondPassed (s : State) : State :=
  { s with mgmt := { s.mgmt with time := s.mgmt.time + 1, ticks := 0 } }

/-! ## RESTART (R179, R180) -/

/-- RESTART with scope STATION is refused IN-USE (R179). -/
def State.stationInUse (s : State) : Bool :=
  !s.table.lots.isEmpty || (List.finRange 6).any (fun k => (s.kiln k).state ≠ .empty) ||
  !s.tickets.queue.isEmpty || !s.press.bales.isEmpty

/-- The Classifier after RESTART with scope STATION. That the requests behind the RESTART stay in the Request Buffer (R56's
table, R180) and are not lost (R43: the buffer is empty after that RESTART) is the model's choice (log 34). -/
def Classifier.stationRestarted (c : Classifier) : Classifier :=
  { c with routes := ({} : Classifier).routes, passQueue := [], forwardQueue := [], block := none }

/-- The Ticket Unit after RESTART with scope STATION (R141, R158, R180). -/
def Tickets.stationRestarted (t : Tickets) : Tickets := { t with wait := [], queue := [], process := .idle }

/-- What an accepted RESTART with scope STATION does (R180). -/
def State.restartStation (s : State) : State :=
  { s with
    classifier := s.classifier.stationRestarted
    field := {}, table := {}, feed := {}, kilns := {}, scale := {}, press := {}
    tickets := s.tickets.stationRestarted
    mgmt := { s.mgmt with station := {} } }

/-- RESTART (R179, R40, R180). -/
def performRestart (scope : Byte) (s : State) : Answer :=
  match scope.toNat with
  | 0 => accept s.restartField [scope]
  | 1 => if s.stationInUse then refuse s .inUse else accept s.restartStation [scope]
  | _ => refuse s .range

end Sys2Proof.Machine
end

