-- ==== Sys2Proof/Machine/Operands.lean ====
section
/-! DEFINITION. The operand forms: the requests of 11.3 with their arguments, as bytes and as data.
`Request.args` lays the arguments out and `decodeRequest` reads them; both are written from the table of 11.3. -/

namespace Sys2Proof.Machine

/-- The tables of 10.2 with their ids. -/
inductive TableId where
  | node | route | cadence | kiln | schedule | step | variety | tare | scaleSetup | station
  deriving DecidableEq, Repr

/-- Table ids (10.2). -/
def TableId.code : TableId → Byte
  | .node => 0 | .route => 1 | .cadence => 2 | .kiln => 3 | .schedule => 4 | .step => 5 | .variety => 6
  | .tare => 7 | .scaleSetup => 8 | .station => 9

/-- Restart scopes (R186). -/
inductive RestartScope where
  | field | station
  deriving DecidableEq, Repr

/-- Restart scope codes (R186). -/
def RestartScope.code : RestartScope → Byte
  | .field => 0 | .station => 1

/-- A request with its arguments at the widths of 11.3. A value outside its range is a request too, and is refused. -/
inductive Request where
  | status (clear page : Byte)
  | tableWrite (table index : Byte) (image : List Byte)
  | tableRead (table index part : Byte)
  | timeSet (time : Word32)
  | restart (scope : Byte)
  | lotOpen (lot grower : Word16) (variety : Byte)
  | lotRead (lot : Word16) (item : Byte)
  | lotVoid (lot : Word16)
  | lotClose (lot : Word16)
  | lotFeed (lot : Word16)
  | feedHold (flag : Byte)
  | fillOrder (count : Byte) (kilns : List Byte)
  | loadClose
  | kilnStart (kiln : Byte)
  | kilnHold (kiln : Byte)
  | kilnResume (kiln mode : Byte)
  | kilnAbort (kiln : Byte)
  | kilnRead (kiln : Byte)
  | scaleRead
  | scaleZero
  | scaleCommand (word : Byte)
  | baleRead (bale : Word32)
  | baleWeight (bale gross : Word32)
  | unloadDone (kiln : Byte)
  | pressHold (flag : Byte)
  | ticketBase (nextTicket nextBale : Word32)
  | ticketRead (ticket : Word32)
  | ticketTake (ticket : Word32)
  | ticketReprint (ticket : Word32)
  deriving DecidableEq, Repr

/-- The kind byte (11.3). -/
def Request.kind : Request → Byte
  | .status _ _ => 0x01
  | .tableWrite _ _ _ => 0x02
  | .tableRead _ _ _ => 0x03
  | .timeSet _ => 0x04
  | .restart _ => 0x05
  | .lotOpen _ _ _ => 0x10
  | .lotRead _ _ => 0x11
  | .lotVoid _ => 0x12
  | .lotClose _ => 0x13
  | .lotFeed _ => 0x18
  | .feedHold _ => 0x19
  | .fillOrder _ _ => 0x1A
  | .loadClose => 0x1B
  | .kilnStart _ => 0x20
  | .kilnHold _ => 0x21
  | .kilnResume _ _ => 0x22
  | .kilnAbort _ => 0x23
  | .kilnRead _ => 0x24
  | .scaleRead => 0x28
  | .scaleZero => 0x29
  | .scaleCommand _ => 0x2A
  | .baleRead _ => 0x30
  | .baleWeight _ _ => 0x31
  | .unloadDone _ => 0x32
  | .pressHold _ => 0x33
  | .ticketBase _ _ => 0x38
  | .ticketRead _ => 0x39
  | .ticketTake _ => 0x3A
  | .ticketReprint _ => 0x3B

/-- The arguments, from offset 2 of the payload (11.3). -/
def Request.args : Request → List Byte
  | .status clear page => [clear, page]
  | .tableWrite table index image => table :: index :: image
  | .tableRead table index part => [table, index, part]
  | .timeSet time => bytes32 time
  | .restart scope => [scope]
  | .lotOpen lot grower variety => bytes16 lot ++ bytes16 grower ++ [variety]
  | .lotRead lot item => bytes16 lot ++ [item]
  | .lotVoid lot => bytes16 lot
  | .lotClose lot => bytes16 lot
  | .lotFeed lot => bytes16 lot
  | .feedHold flag => [flag]
  | .fillOrder count kilns => count :: kilns
  | .loadClose => []
  | .kilnStart kiln => [kiln]
  | .kilnHold kiln => [kiln]
  | .kilnResume kiln mode => [kiln, mode]
  | .kilnAbort kiln => [kiln]
  | .kilnRead kiln => [kiln]
  | .scaleRead => []
  | .scaleZero => []
  | .scaleCommand word => [word]
  | .baleRead bale => bytes32 bale
  | .baleWeight bale gross => bytes32 bale ++ bytes32 gross
  | .unloadDone kiln => [kiln]
  | .pressHold flag => [flag]
  | .ticketBase nextTicket nextBale => bytes32 nextTicket ++ bytes32 nextBale
  | .ticketRead ticket => bytes32 ticket
  | .ticketTake ticket => bytes32 ticket
  | .ticketReprint ticket => bytes32 ticket

/-- A REQUEST payload: kind, tag, arguments (11.3). -/
def Request.payload (r : Request) (tag : Byte) : List Byte := r.kind :: tag :: r.args

/-- Arguments of one 1-byte field. -/
def arg1 (f : Byte → Request) : List Byte → Option Request
  | [a] => some (f a)
  | _ => none

/-- Arguments of two 1-byte fields. -/
def arg11 (f : Byte → Byte → Request) : List Byte → Option Request
  | [a, b] => some (f a b)
  | _ => none

/-- Arguments of one 2-byte field. -/
def arg2 (f : Word16 → Request) : List Byte → Option Request
  | [a, b] => some (f (word16 a b))
  | _ => none

/-- Arguments of one 4-byte field. -/
def arg4 (f : Word32 → Request) : List Byte → Option Request
  | [a, b, c, d] => some (f (word32 a b c d))
  | _ => none

/-- Arguments of two 4-byte fields. -/
def arg44 (f : Word32 → Word32 → Request) : List Byte → Option Request
  | [a, b, c, d, e, g, h, i] => some (f (word32 a b c d) (word32 e g h i))
  | _ => none

/-- No arguments. -/
def arg0 (r : Request) : List Byte → Option Request
  | [] => some r
  | _ => none

/-- The request that a kind and its argument bytes carry; none when the kind is unknown or the argument length is wrong,
so that the request is refused FORMAT (R173). The lengths that FILL-ORDER and TABLE-WRITE call for depend on an argument
and are checked by those requests (R69, R174). -/
def decodeRequest (kind : Byte) (args : List Byte) : Option Request :=
  match kind.toNat with
  | 0x01 => arg11 .status args
  | 0x02 =>
    match args with
    | table :: index :: image => some (.tableWrite table index image)
    | _ => none
  | 0x03 =>
    match args with
    | [table, index, part] => some (.tableRead table index part)
    | _ => none
  | 0x04 => arg4 .timeSet args
  | 0x05 => arg1 .restart args
  | 0x10 =>
    match args with
    | [l1, l2, g1, g2, v] => some (.lotOpen (word16 l1 l2) (word16 g1 g2) v)
    | _ => none
  | 0x11 =>
    match args with
    | [l1, l2, i] => some (.lotRead (word16 l1 l2) i)
    | _ => none
  | 0x12 => arg2 .lotVoid args
  | 0x13 => arg2 .lotClose args
  | 0x18 => arg2 .lotFeed args
  | 0x19 => arg1 .feedHold args
  | 0x1A =>
    match args with
    | count :: kilns => some (.fillOrder count kilns)
    | [] => none
  | 0x1B => arg0 .loadClose args
  | 0x20 => arg1 .kilnStart args
  | 0x21 => arg1 .kilnHold args
  | 0x22 => arg11 .kilnResume args
  | 0x23 => arg1 .kilnAbort args
  | 0x24 => arg1 .kilnRead args
  | 0x28 => arg0 .scaleRead args
  | 0x29 => arg0 .scaleZero args
  | 0x2A => arg1 .scaleCommand args
  | 0x30 => arg4 .baleRead args
  | 0x31 => arg44 .baleWeight args
  | 0x32 => arg1 .unloadDone args
  | 0x33 => arg1 .pressHold args
  | 0x38 => arg44 .ticketBase args
  | 0x39 => arg4 .ticketRead args
  | 0x3A => arg4 .ticketTake args
  | 0x3B => arg4 .ticketReprint args
  | _ => none

end Sys2Proof.Machine
end

