-- ==== Sys2Proof/Machine/Tables.lean ====
section
/-! DEFINITION. The ten tables: entry images, field checks, protections, accepted writes, and TABLE-READ (10.2, 11.4). -/

namespace Sys2Proof.Machine

/-- The data of an accepted table write: table id and index (R174). -/
def tableReply (table : Nat) (index : Byte) : List Byte := [byte table, index]

/-! ## NODE (R17 to R22) -/

/-- A NODE image that passes the field checks (R19). -/
inductive NodeImage where
  | empty
  | entry (address : Byte) (role : Role) (binding : Option Kiln) (cadence : Option CadenceId) (window missLimit : Nat)
  deriving DecidableEq, Repr

/-- The roles with a binding (R17). -/
def Role.isBound : Role → Bool
  | .probe => true | .burner => true
  | .belt => false | .picker => false | .diverter => false | .press => false | .moisture => false
  | .printer => false | .other => false

/-- The roles of which there is at most one (R19). -/
def Role.isSingleton : Role → Bool
  | .belt => true | .picker => true | .diverter => true | .press => true | .moisture => true | .printer => true
  | .probe => false | .burner => false | .other => false

/-- A cadence of a NODE image: none is the outer none when the code is neither C0 to C7 nor NONE (R186). -/
def cadenceOf (b : Byte) : Option (Option CadenceId) :=
  if h : b.toNat < 8 then some (some ⟨b.toNat, h⟩) else if b = 0xFF then some none else none

/-- A binding that suits a role (R19). -/
def bindingOf (r : Role) (b : Byte) : Option (Option Kiln) :=
  if r.isBound then (kilnOf b).map some else if b = 0xFF then some none else none

/-- The field checks of a NODE image (R19). -/
def nodeImageOf (a r b c w m : Byte) : Option NodeImage :=
  if a = 0 then
    if r = 0 && b = 0xFF && c = 0xFF && w = 0 && m = 0 then some .empty else none
  else if 0xE0 ≤ a.toNat then none
  else if w = 0 || m = 0 || 15 < m.toNat then none
  else
    match Role.ofCode r.toNat with
    | none => none
    | some role =>
      match bindingOf role b, cadenceOf c with
      | some binding, some cadence => some (.entry a role binding cadence w.toNat m.toNat)
      | _, _ => none

/-- Another entry breaks the uniqueness of the image (R19). -/
def NodeImage.clashes (g : NodeImage) (n : Node) : Bool :=
  match g with
  | .empty => false
  | .entry a role binding _ _ _ =>
    n.address = a || (role.isSingleton && n.role = some role) ||
    (role.isBound && n.role = some role && n.binding = binding)

/-- The image breaks the uniqueness of the table, the entry being written left out (R19). -/
def State.nodeConflict (s : State) (i : NodeIdx) (g : NodeImage) : Bool :=
  (List.finRange 48).any (fun j => j ≠ i && g.clashes (s.node j))

/-- The entry is in use (R20). -/
def State.nodeInUse (s : State) (n : Node) : Bool :=
  let bound := match n.binding with
    | none => false
    | some k => (s.kiln k).state ≠ .empty
  let fed := s.feed.feedLot.isSome || s.feed.beltLot.isSome
  match n.role with
  | some .probe => bound
  | some .burner => bound
  | some .belt => fed
  | some .picker => fed
  | some .diverter => fed
  | some .press => !s.press.queue.isEmpty
  | some .printer => s.tickets.process = .sending
  | some .moisture => false
  | some .other => false
  | none => false

/-- The write keeps the address, role and binding of a non-empty entry (R21). -/
def NodeImage.isLight (g : NodeImage) (n : Node) : Bool :=
  match g with
  | .empty => false
  | .entry a role binding _ _ _ => n.address = a && n.role = some role && n.binding = binding

/-- The commanded state that a heavy write takes from the owning job (R22). -/
def State.commandedFor (s : State) (role : Role) (binding : Option Kiln) : Option Commanded :=
  match role with
  | .picker => some (.feed s.pickerWanted)
  | .diverter => some (.divert s.feed.loading)
  | .burner => binding.map (fun k => .setpoint (s.presentBurner k))
  | .press => s.press.command.map .press
  | .belt => none
  | .probe => none
  | .moisture => none
  | .printer => none
  | .other => none

/-- The entry after an accepted write (R21, R22). -/
def State.writtenNode (s : State) (g : NodeImage) (n : Node) : Node :=
  match g with
  | .empty => {}
  | .entry a role binding cadence window missLimit =>
    if g.isLight n then { n with cadence, window, missLimit, state := .unknown, misses := 0 }
    else
      { address := a, role := some role, binding, cadence, window, missLimit
        state := .unknown, misses := 0, lastAnswer := none, lastTotalizer := 0, baseline := false
        commanded := s.commandedFor role binding, confirmed := false }

/-- What a write does to the Field Master's collections (R21). -/
def FieldMaster.afterWrite (f : FieldMaster) (i : NodeIdx) (scheduled light : Bool) : FieldMaster :=
  { f with
    pollQueue := if scheduled then f.pollQueue else f.pollQueue.filter (fun j => j ≠ i)
    commandQueue := if light then f.commandQueue else f.commandQueue.filter (fun e => e.node ≠ i)
    transaction := if light then f.transaction
      else f.transaction.map (fun t => if t.node = some i then { t with detached := true } else t) }

/-- What a write to a PRINTER entry does to the print process (R156). -/
def State.printerWritten (s : State) (before after : Option Role) : State :=
  if after = some .printer then
    match s.tickets.process with
    | .idle => s.printScan
    | .halted => s.printScan
    | .scan => s.printScan
    | .sending => s
  else if before = some .printer then s.setProcess .idle
  else s

/-- An accepted NODE write (R21, R22, R156). -/
def State.writeNode (s : State) (i : NodeIdx) (g : NodeImage) : State :=
  let n := s.node i
  let n' := s.writtenNode g n
  let s1 := s.setNode i n'
  let s2 := { s1 with field := s1.field.afterWrite i n'.cadence.isSome (g.isLight n) }
  s2.printerWritten n.role n'.role

/-- TABLE-WRITE of NODE (R174, R19 to R22). -/
def performNodeWrite (index : Byte) (image : List Byte) (s : State) : Answer :=
  match image with
  | [a, r, b, c, w, m, x, y] =>
    if x ≠ 0 || y ≠ 0 then refuse s .format
    else if h : index.toNat < 48 then
      match nodeImageOf a r b c w m with
      | none => refuse s .range
      | some g =>
        let i : NodeIdx := ⟨index.toNat, h⟩
        if s.nodeConflict i g then refuse s .conflict
        else if !g.isLight (s.node i) && s.nodeInUse (s.node i) then refuse s .inUse
        else accept (s.writeNode i g) (tableReply 0 index)
    else refuse s .range
  | _ => refuse s .format

/-! ## ROUTE (R48, R49) -/

/-- The field checks of a ROUTE image (R49). `f` is the flags byte: bit 0 used, bit 1 signed, bit 2 copy. -/
def routeImageOf (f src c a o w e : Byte) : Option Route :=
  if !f.getLsbD 0 then
    if f = 0 && src = 0 && c = 0 && a = 0 && o = 0 && w = 0 && e = 0 then some {} else none
  else if 0xE0 ≤ src.toNat || c.toNat < 1 || 0x3F < c.toNat || 47 < o.toNat then none
  else if (w ≠ 1 && w ≠ 2 && w ≠ 4) || 48 < o.toNat + w.toNat then none
  else
    match RouteAction.ofCode a.toNat, EventSelector.ofCode e.toNat with
    | some action, some selector =>
      if (action = .baleEvent) = (selector ≠ .none) then
        some { used := true, source := src, code := c, action, offset := o.toNat, width := w.toNat
               signed := f.getLsbD 1, selector, copy := f.getLsbD 2 }
      else none
    | _, _ => none

/-- TABLE-WRITE of ROUTE (R174, R49). -/
def performRouteWrite (index : Byte) (image : List Byte) (s : State) : Answer :=
  match image with
  | [f, src, c, a, o, w, e, x] =>
    if 8 ≤ f.toNat || x ≠ 0 then refuse s .format
    else if h : index.toNat < 64 then
      match routeImageOf f src c a o w e with
      | none => refuse s .range
      | some r =>
        accept { s with classifier := { s.classifier with routes := s.classifier.routes.set index.toNat r } }
          (tableReply 1 index)
    else refuse s .range
  | _ => refuse s .format

/-! ## CADENCE (R26) -/

/-- TABLE-WRITE of CADENCE: the countdown starts again from the new period, or stops (R174, R26). -/
def performCadenceWrite (index : Byte) (image : List Byte) (s : State) : Answer :=
  match image with
  | [e, x, p1, p2] =>
    if x ≠ 0 then refuse s .format
    else if h : index.toNat < 8 then
      let p := (word16 p1 p2).toNat
      if 1 < e.toNat || p = 0 || 6000 < p then refuse s .range
      else
        accept (s.updCadence ⟨index.toNat, h⟩ (fun _ =>
          { enabled := e = 1, period := p, countdown := if e = 1 then p else 0 })) (tableReply 2 index)
    else refuse s .range
  | _ => refuse s .format

/-! ## KILN (R78, R79) -/

/-- The field checks of a KILN image (R79). -/
def kilnImageOf (capacity : Nat) (load auto : Byte) (refresh : Nat) (fan streak : Byte) : Option KilnEntry :=
  if Config.maxWeight < capacity || 100 < load.toNat || 1 < auto.toNat || refresh < 10 || 600 < refresh ||
     100 < fan.toNat || streak.toNat < 1 || 5 < streak.toNat then none
  else some { capacity, minLoad := load.toNat, autoStart := auto = 1, refresh, holdFan := fan.toNat
              limitStreak := streak.toNat }

/-- Set a KILN entry. -/
def State.setKilnEntry (s : State) (k : Kiln) (e : KilnEntry) : State :=
  { s with kilns := { s.kilns with entries := s.kilns.entries.set k e } }

/-- TABLE-WRITE of KILN: the entry, and an attempt at a selection (R174, R79). -/
def performKilnWrite (index : Byte) (image : List Byte) (s : State) : Answer :=
  match image with
  | [c1, c2, c3, c4, load, auto, r1, r2, fan, streak, x, y] =>
    if x ≠ 0 || y ≠ 0 then refuse s .format
    else
      match kilnOf index, kilnImageOf (word32 c1 c2 c3 c4).toNat load auto (word16 r1 r2).toNat fan streak with
      | some k, some e =>
        if (s.kiln k).state ≠ .empty then refuse s .inUse
        else accept (feedEvent (fun s => (s.setKilnEntry k e).attemptSelection) s) (tableReply 3 index)
      | _, _ => refuse s .range
  | _ => refuse s .format

/-! ## SCHEDULE and STEP (R82 to R85) -/

/-- The descriptor a kiln references (R85). -/
def State.referenced (s : State) (k : Kiln) : Option (Fin 8) :=
  if (s.kiln k).state = .loaded then
    match s.kilnVariety k with
    | none => none
    | some w => if s.runnable s.kilns.schedules[w.schedule] then some w.schedule else none
  else if (s.kiln k).state.runsSchedule then (s.kiln k).schedule
  else none

/-- Some kiln references the descriptor (R85). -/
def State.scheduleInUse (s : State) (d : Fin 8) : Bool :=
  (List.finRange 6).any (fun k => s.referenced k = some d)

/-- The step entry lies within a referenced descriptor (R85). -/
def State.stepInUse (s : State) (n : Nat) : Bool :=
  (List.finRange 6).any (fun k =>
    match s.referenced k with
    | none => false
    | some d => s.kilns.schedules[d].first ≤ n && n < s.kilns.schedules[d].first + s.kilns.schedules[d].count)

/-- The field checks of a SCHEDULE image (R82). -/
def scheduleImageOf (first count : Byte) (temp minutes : Nat) (fan : Byte) : Option Schedule :=
  if count = 0 then
    if first = 0 && temp = 0 && minutes = 0 && fan = 0 then some {} else none
  else if 32 < count.toNat || 128 < first.toNat + count.toNat || temp < 200 || 900 < temp || 1440 < minutes ||
     100 < fan.toNat then none
  else some { first := first.toNat, count := count.toNat, startTemp := temp, abortCoolMinutes := minutes
              abortCoolFan := fan.toNat }

/-- TABLE-WRITE of SCHEDULE (R174, R82, R85). -/
def performScheduleWrite (index : Byte) (image : List Byte) (s : State) : Answer :=
  match image with
  | [first, count, t1, t2, m1, m2, fan, x] =>
    if x ≠ 0 then refuse s .format
    else if h : index.toNat < 8 then
      match scheduleImageOf first count (word16 t1 t2).toNat (word16 m1 m2).toNat fan with
      | none => refuse s .range
      | some d =>
        if s.scheduleInUse ⟨index.toNat, h⟩ then refuse s .inUse
        else accept { s with kilns := { s.kilns with schedules := s.kilns.schedules.set index.toNat d } }
          (tableReply 4 index)
    else refuse s .range
  | _ => refuse s .format

/-- The field checks of a STEP image, by kind (R83). -/
def stepImageOf (kind : Byte) (duration target limit : Nat) (fan : Byte) : Option Step :=
  let heated := 1 ≤ duration && duration ≤ 1440 && 300 ≤ target && target ≤ 900 && target ≤ limit && limit ≤ 1000 &&
    fan.toNat ≤ 100
  match StepKind.ofCode kind.toNat with
  | none => none
  | some k =>
    let e : Step := { kind := k, duration, target, limit, fan := fan.toNat }
    match k with
    | .ramp => if heated then some e else none
    | .soak => if heated then some e else none
    | .dryTo => if heated then some e else none
    | .cool =>
      if 1 ≤ duration && duration ≤ 1440 && target = 0 && limit = 0 && fan.toNat ≤ 100 then some e else none
    | .fin => if duration = 0 && target = 0 && limit = 0 && fan = 0 then some e else none

/-- TABLE-WRITE of STEP (R174, R83, R85). -/
def performStepWrite (index : Byte) (image : List Byte) (s : State) : Answer :=
  match image with
  | [kind, x, d1, d2, t1, t2, l1, l2, fan, y] =>
    if x ≠ 0 || y ≠ 0 then refuse s .format
    else if h : index.toNat < 128 then
      match stepImageOf kind (word16 d1 d2).toNat (word16 t1 t2).toNat (word16 l1 l2).toNat fan with
      | none => refuse s .range
      | some e =>
        if s.stepInUse index.toNat then refuse s .inUse
        else accept { s with kilns := { s.kilns with steps := s.kilns.steps.set index.toNat e } } (tableReply 5 index)
    else refuse s .range
  | _ => refuse s .format

/-! ## VARIETY (R10, R11) -/

/-- The field checks of a VARIETY image (R11). -/
def varietyImageOf (valid sched : Byte) (humidity : Nat) (q : Byte) (tmin tmax moisture : Nat) : Option Variety :=
  if h : sched.toNat < 8 then
    if 1 < valid.toNat || 1000 < humidity || 1000 < moisture || q.toNat < 1 || 15 < q.toNat ||
       Config.maxWeight < tmin || Config.maxWeight < tmax || tmax < tmin then none
    else some { valid := valid = 1, schedule := ⟨sched.toNat, h⟩, endHumidity := humidity, qualify := q.toNat
                targetMin := tmin, targetMax := tmax, maxMoisture := moisture }
  else none

/-- A lot record names the entry (R11). -/
def State.varietyInUse (s : State) (v : Nat) : Bool := s.table.lots.any (fun l => l.variety.val = v)

/-- TABLE-WRITE of VARIETY (R174, R11). -/
def performVarietyWrite (index : Byte) (image : List Byte) (s : State) : Answer :=
  match image with
  | [valid, sched, h1, h2, q, x, a1, a2, a3, a4, b1, b2, b3, b4, m1, m2, y, z] =>
    if x ≠ 0 || y ≠ 0 || z ≠ 0 then refuse s .format
    else if h : index.toNat < 16 then
      match varietyImageOf valid sched (word16 h1 h2).toNat q (word32 a1 a2 a3 a4).toNat (word32 b1 b2 b3 b4).toNat
          (word16 m1 m2).toNat with
      | none => refuse s .range
      | some v =>
        if s.varietyInUse index.toNat then refuse s .inUse
        else accept { s with table := { s.table with varieties := s.table.varieties.set index.toNat v } }
          (tableReply 6 index)
    else refuse s .range
  | _ => refuse s .format

/-! ## TARE (R129) -/

/-- TABLE-WRITE of TARE (R174, R129). -/
def performTareWrite (index : Byte) (image : List Byte) (s : State) : Answer :=
  match image with
  | [t1, t2, x, y] =>
    if x ≠ 0 || y ≠ 0 then refuse s .format
    else if h : index.toNat < 8 then
      accept { s with press := { s.press with tares := s.press.tares.set index.toNat (word16 t1 t2).toNat } }
        (tableReply 7 index)
    else refuse s .range
  | _ => refuse s .format

/-! ## SCALE-SETUP (R112) -/

/-- The scale after an accepted write of the Scale Setup (R112). -/
def Scale.withSetup (c : Scale) (u : ScaleSetup) : Scale :=
  let c1 := { c.clearData with setup := u }
  match c.state with
  | .unconfigured => if u.span = 0 then c1 else { c1 with state := .idle }
  | .idle => if u.span = 0 then { c1 with state := .unconfigured } else c1
  | .fault => if u.span = 0 then { c1 with state := .unconfigured, cycleOpen := false, good := 0 } else c1
  | .settling => c1
  | .clearing => c1

/-- TABLE-WRITE of SCALE-SETUP (R174, R112). -/
def performScaleSetupWrite (index : Byte) (image : List Byte) (s : State) : Answer :=
  match image with
  | [z1, z2, z3, z4, s1, s2, n, m, b1, b2, t1, t2, l1, l2, g1, g2, g3, g4, settle, idle] =>
    let gross := (word32 g1 g2 g3 g4).toNat
    if index ≠ 0 then refuse s .range
    else if (n ≠ 2 && n ≠ 4 && n ≠ 8 && n ≠ 16) || m.toNat < 2 || 8 < m.toNat || Config.maxWeight < gross ||
       settle.toNat < 5 || 60 < settle.toNat then refuse s .range
    else if s.scale.state = .settling || s.scale.state = .clearing then refuse s .inUse
    else
      let u : ScaleSetup :=
        { zeroOffset := (word32 z1 z2 z3 z4).toInt, span := (word16 s1 s2).toNat, watermark := n.toNat
          stability := m.toNat, band := (word16 b1 b2).toNat, zeroTrackBand := (word16 t1 t2).toNat
          zeroLimit := (word16 l1 l2).toNat, minGross := gross, settleTimeout := settle.toNat, idleWord := idle }
      accept (s.updScale (fun c => c.withSetup u)) (tableReply 8 index)
  | _ => refuse s .format

/-! ## STATION (R176) -/

/-- TABLE-WRITE of STATION: the entry, and the press hold judged again (R174, R176, R77, R135). -/
def performStationWrite (index : Byte) (image : List Byte) (s : State) : Answer :=
  match image with
  | [t1, t2, i1, i2, threshold, rd, x, y] =>
    if x ≠ 0 || y ≠ 0 then refuse s .format
    else if index ≠ 0 then refuse s .range
    else
      let transit := (word16 t1 t2).toNat
      let inc := (word16 i1 i2).toNat
      match RouteDefault.ofCode rd.toNat with
      | none => refuse s .range
      | some d =>
        if 600 < transit || inc = 0 || threshold.toNat < 1 || 32 < threshold.toNat then refuse s .range
        else if s.feed.changeover ≠ .steady && transit ≠ s.mgmt.station.transit then refuse s .inUse
        else
          let e : Station := { transit, maxIncrement := inc, threshold := threshold.toNat, routeDefault := d }
          accept ({ s with mgmt := { s.mgmt with station := e } } : State).judgeStore (tableReply 9 index)
  | _ => refuse s .format

/-! ## TABLE-READ (R175) -/

/-- The image of a NODE entry (11.4). -/
def Node.image (n : Node) : List Byte :=
  [n.address, byte (n.role.elim 0 Role.code), kilnByte n.binding,
   n.cadence.elim 0xFF (fun c => byte c.val), byte n.window, byte n.missLimit, 0, 0]

/-- The runtime fields of a NODE entry, 16 bytes (11.4). -/
def Node.runtime (n : Node) : List Byte :=
  [byte n.state.code, byte n.misses] ++ optTime n.lastAnswer ++ bytes32 n.lastTotalizer ++ [flagByte n.baseline]
  ++ commandedField n.commanded ++ [flagByte n.confirmed]

/-- The image of a ROUTE entry (11.4). -/
def Route.image (r : Route) : List Byte :=
  [bitsByte [r.used, r.signed, r.copy], r.source, r.code, byte r.action.code, byte r.offset, byte r.width,
   byte r.selector.code, 0]

/-- The image of a CADENCE entry (11.4). -/
def Cadence.image (c : Cadence) : List Byte := [flagByte c.enabled, 0] ++ be16 c.period

/-- The image of a KILN entry (11.4). -/
def KilnEntry.image (e : KilnEntry) : List Byte :=
  be32 e.capacity ++ [byte e.minLoad, flagByte e.autoStart] ++ be16 e.refresh
  ++ [byte e.holdFan, byte e.limitStreak, 0, 0]

/-- The image of a SCHEDULE descriptor (11.4). -/
def Schedule.image (d : Schedule) : List Byte :=
  [byte d.first, byte d.count] ++ int16 d.startTemp ++ be16 d.abortCoolMinutes ++ [byte d.abortCoolFan, 0]

/-- The image of a STEP entry (11.4). -/
def Step.image (e : Step) : List Byte :=
  [byte e.kind.code, 0] ++ be16 e.duration ++ int16 e.target ++ int16 e.limit ++ [byte e.fan, 0]

/-- The image of a VARIETY entry (11.4). -/
def Variety.image (v : Variety) : List Byte :=
  [flagByte v.valid, byte v.schedule.val] ++ be16 v.endHumidity ++ [byte v.qualify, 0] ++ be32 v.targetMin
  ++ be32 v.targetMax ++ be16 v.maxMoisture ++ [0, 0]

/-- The image of the Scale Setup (11.4). -/
def ScaleSetup.image (u : ScaleSetup) : List Byte :=
  int32 u.zeroOffset ++ be16 u.span ++ [byte u.watermark, byte u.stability] ++ be16 u.band ++ be16 u.zeroTrackBand
  ++ be16 u.zeroLimit ++ be32 u.minGross ++ [byte u.settleTimeout, u.idleWord]

/-- The image of the STATION entry (11.4). -/
def Station.image (e : Station) : List Byte :=
  be16 e.transit ++ be16 e.maxIncrement ++ [byte e.threshold, byte e.routeDefault.code, 0, 0]

/-- The image of the entry at an index of a table, when the table has that index (R175, 10.2). -/
def State.entryImage (s : State) (table index : Nat) : Option (List Byte) :=
  match table with
  | 0 => (s.field.nodes[index]?).map Node.image
  | 1 => (s.classifier.routes[index]?).map Route.image
  | 2 => (s.field.cadences[index]?).map Cadence.image
  | 3 => (s.kilns.entries[index]?).map KilnEntry.image
  | 4 => (s.kilns.schedules[index]?).map Schedule.image
  | 5 => (s.kilns.steps[index]?).map Step.image
  | 6 => (s.table.varieties[index]?).map Variety.image
  | 7 => (s.press.tares[index]?).map (fun t => be16 t ++ [0, 0])
  | 8 => if index = 0 then some s.scale.setup.image else none
  | 9 => if index = 0 then some s.mgmt.station.image else none
  | _ => none

/-- The runtime fields of the entry at an index; none for a table without runtime fields (R175). -/
def State.entryRuntime (s : State) (table index : Nat) : Option (List Byte) :=
  match table with
  | 0 => (s.field.nodes[index]?).map Node.runtime
  | 2 => (s.field.cadences[index]?).map (fun c => be16 (if c.enabled then c.countdown else 0))
  | 3 => if h : index < 6 then some (s.kilnImage ⟨index, h⟩) else none
  | _ => none

/-- TABLE-READ (R175). -/
def performTableRead (table index part : Byte) (s : State) : Answer :=
  if 9 < table.toNat then refuse s .format
  else
    let content :=
      if part = 0 then s.entryImage table.toNat index.toNat
      else if part = 1 then s.entryRuntime table.toNat index.toNat
      else none
    match content with
    | none => refuse s .range
    | some bs => accept s ([table, index, part] ++ bs)

/-- TABLE-WRITE by table id (R174). -/
def performTableWrite (table index : Byte) (image : List Byte) (s : State) : Answer :=
  match table.toNat with
  | 0 => performNodeWrite index image s
  | 1 => performRouteWrite index image s
  | 2 => performCadenceWrite index image s
  | 3 => performKilnWrite index image s
  | 4 => performScheduleWrite index image s
  | 5 => performStepWrite index image s
  | 6 => performVarietyWrite index image s
  | 7 => performTareWrite index image s
  | 8 => performScaleSetupWrite index image s
  | 9 => performStationWrite index image s
  | _ => refuse s .format

end Sys2Proof.Machine
end

