-- ==== Sys2Proof/Machine/Requests.lean ====
section
/-! DEFINITION. Execution of requests, the Request Buffer, the pending REPLY and completion (R43, R55, R171 to R173). -/

namespace Sys2Proof.Machine

/-- A request is checked and its effects are made, by its kind (10.1). -/
def performRequest (r : Request) (s : State) : Answer :=
  match r with
  | .status clear page => performStatus clear page s
  | .tableWrite table index image => performTableWrite table index image s
  | .tableRead table index part => performTableRead table index part s
  | .timeSet time => performTimeSet time s
  | .restart scope => performRestart scope s
  | .lotOpen lot grower variety => performLotOpen lot grower variety s
  | .lotRead lot item => performLotRead lot item s
  | .lotVoid lot => performLotVoid lot s
  | .lotClose lot => performLotClose lot s
  | .lotFeed lot => performLotFeed lot s
  | .feedHold flag => performFeedHold flag s
  | .fillOrder count kilns => performFillOrder count kilns s
  | .loadClose => performLoadClose s
  | .kilnStart kiln => performKilnStart kiln s
  | .kilnHold kiln => performKilnHold kiln s
  | .kilnResume kiln mode => performKilnResume kiln mode s
  | .kilnAbort kiln => performKilnAbort kiln s
  | .kilnRead kiln => performKilnRead kiln s
  | .scaleRead => performScaleRead s
  | .scaleZero => performScaleZero s
  | .scaleCommand word => performScaleCommand word s
  | .baleRead bale => performBaleRead bale s
  | .baleWeight bale gross => performBaleWeight bale gross s
  | .unloadDone kiln => performUnloadDone kiln s
  | .pressHold flag => performPressHold flag s
  | .ticketBase nextTicket nextBale => performTicketBase nextTicket nextBale s
  | .ticketRead ticket => performTicketRead ticket s
  | .ticketTake ticket => performTicketTake ticket s
  | .ticketReprint ticket => performTicketReprint ticket s

/-- The payload of a REPLY: kind, tag, result, data (R172, 11.3). -/
def replyPayload (kind tag : Byte) (a : Answer) : List Byte := kind :: tag :: a.result.code :: a.data

/-- What executing a REQUEST payload answers, with the kind and tag that the reply carries: a payload of fewer than 2 bytes is
replied with 0 for each byte it lacked (R173). -/
def performPayload (payload : List Byte) (s : State) : Byte × Byte × Answer :=
  match payload with
  | [] => (0, 0, refuse s .format)
  | [kind] => (kind, 0, refuse s .format)
  | kind :: tag :: args =>
    match decodeRequest kind args with
    | none => (kind, tag, refuse s .format)
    | some r => (kind, tag, performRequest r s)

/-- The reply becomes the pending REPLY (R55, R169, R171). -/
def State.setReply (s : State) (payload : List Byte) : State :=
  { s with classifier := { s.classifier with reply := some (mkFrame 0x00 s.ownAddress codeReply payload) } }

/-- A request frame is executed: its effects and its reply, at one event (R171). -/
def State.executeFrame (s : State) (f : Frame) : State :=
  let r := performPayload f.payload s
  r.2.2.state.setReply (replyPayload r.1 r.2.1 r.2.2)

/-- The request at the head of the Request Buffer is executed (R171). -/
def State.executeHead (s : State) : State :=
  match s.classifier.requests with
  | [] => s
  | f :: _ => s.executeFrame f

/-- A REQUEST frame is offered to the Request Buffer: dropped and counted, or appended; one that finds the buffer empty is
executed at its admission (R43, R171). -/
def State.admitRequest (s : State) (f : Frame) : State :=
  if Config.requestCapacity ≤ s.classifier.requests.length then
    { s with classifier := { s.classifier with dropped := sat16 (s.classifier.dropped + 1) } }
  else
    let s1 := { s with classifier := { s.classifier with requests := s.classifier.requests ++ [f] } }
    if s.classifier.requests = [] then s1.executeHead else s1

/-- The request in execution completes: it leaves the buffer, and the one behind it is executed at once (R171). -/
def State.completeRequest (s : State) : State :=
  State.executeHead
    { s with classifier := { s.classifier with requests := s.classifier.requests.tail, block := none } }

/-- The REQUEST frame that carries a request to this part (R169, 11.3). -/
def State.requestFrame (s : State) (tag : Byte) (r : Request) : Frame :=
  mkFrame s.ownAddress 0x00 codeRequest (r.payload tag)

/-- A request of a table row reaches the Request Buffer (R43, log 9). -/
def State.submit (tag : Byte) (r : Request) (s : State) : State := s.admitRequest (s.requestFrame tag r)

end Sys2Proof.Machine
end

