-- ==== Sys2Proof/Machine/UpstreamLink.lean ====
section
/-! DEFINITION. The Upstream Port: arrivals, liveness, classification, pass admission, and the Upstream Transmit Arbiter
(03, 09, 10.5). -/

namespace Sys2Proof.Machine

/-! ## Liveness (R166) -/

/-- Change the ports' state. -/
def State.updLink (s : State) (f : Link → Link) : State := { s with link := f s.link }

/-- A valid arrival acts on liveness (R166). -/
def State.validArrival (s : State) : State :=
  let s1 := if s.link.live then s else s.raise .linkRestored 0 (s.link.silence / 10 : Nat)
  s1.updLink (fun l => { l with live := true, silence := 0 })

/-- The silence count reaches 5.0 s in LIVE (R166). -/
def State.linkSilent (s : State) : State :=
  if s.link.live then
    s.updLink (fun l => { l with live := false, silence := max l.silence Config.silenceLimit })
  else s

/-! ## The Pass Queue (R45, R46) -/

/-- The entry is an owned actuator (R45). -/
def State.owned (s : State) (n : Node) : Bool :=
  match n.role with
  | some .burner =>
    match n.binding with
    | none => false
    | some k =>
      match (s.kiln k).state with
      | .loaded => true | .drying => true | .hold => true | .cooling => true
      | .empty => false | .loading => false | .dried => false | .unloading => false
  | some .picker => !s.feed.hold.isEmpty || s.feed.feedLot.isSome
  | some .diverter => (List.finRange 6).any (fun k => (s.kiln k).state = .loading)
  | some .press => !s.press.queue.isEmpty
  | some .belt => false
  | some .probe => false
  | some .moisture => false
  | some .printer => false
  | some .other => false
  | none => false

/-- The frame would command an owned actuator (R45). -/
def State.passOwned (s : State) (f : Frame) : Bool :=
  isCommandCode f.code &&
  (if f.dest = 0xFF then (List.finRange 48).any (fun i => s.owned (s.node i))
   else
    match s.addressNode f.dest with
    | none => false
    | some i => s.owned (s.node i))

/-- A frame is offered to the Pass Queue: refused, dropped, or appended (R45, R46). -/
def State.offerPass (s : State) (f : Frame) : State :=
  if s.passOwned f then s.raise .passRefused f.dest.toNat f.code.toNat
  else if s.classifier.passQueue.length < Config.passCapacity then
    { s with classifier := { s.classifier with passQueue := s.classifier.passQueue ++ [f] } }
  else s.raise .passDropped f.dest.toNat f.code.toNat

/-! ## Arrivals (R42, R161, R162) -/

/-- A valid arrival is classified by its destination and its code (R42). -/
def State.classifyUpstream (s : State) (f : Frame) : State :=
  if f.dest = s.ownAddress then
    if f.code = codeRequest then s.admitRequest f
    else { s with classifier := { s.classifier with misdirected := sat16 (s.classifier.misdirected + 1) } }
  else if isFieldAddress f.dest || f.dest = 0xFF then s.offerPass f
  else s

/-- A reception ends on the Upstream Port and is judged (R161, R162, R166, R42). -/
def State.upstreamArrival (s : State) (chars : List Byte) : State :=
  if !s.link.upOverlong && chars ≠ [] then
    let j := judge (chars.take Config.overlong)
    let s1 := s.updLink (fun l => { l with upOverlong := Config.overlong ≤ chars.length, up := l.up.count j })
    match j with
    | .valid f => s1.validArrival.classifyUpstream f
    | .torn => s1
    | .badLength => s1
    | .badCheck => s1
  else s

/-- The idle gap after an over-long reception has run: the receiver takes characters again (R161). -/
def State.idleGap (s : State) (port : Port) : State :=
  match port with
  | .upstream => s.updLink (fun l => { l with upOverlong := false })
  | .field => s.updLink (fun l => { l with fpOverlong := false })

/-! ## The Upstream Transmit Arbiter (R54, R55, R183) -/

/-- A notice's value field (11.7, R185). -/
def noticeValue (v : Option Word32) : List Byte :=
  match v with
  | none => bytes32 0x7FFFFFFF
  | some w => bytes32 (offCode 0x7FFFFFFF w)

/-- The notice payload, 20 bytes (11.7). -/
def Notice.payload (n : Notice) : List Byte :=
  [byte n.kind.code, if n.kind.isAlarm then 0 else 1] ++ be32 n.object ++ noticeValue n.value
  ++ bytes32 n.first ++ bytes32 n.last ++ [byte n.count, 0]

/-- The frame that carries a notice (R169, R183). -/
def State.noticeFrame (s : State) (n : Notice) : Frame := mkFrame 0x00 s.ownAddress codeNotice n.payload

/-- The next segment of a ticket block in progress (R54, R55). -/
def State.nextSegment (s : State) : Option Frame :=
  match s.classifier.block with
  | none => none
  | some b => if b.inProgress then b.frames.head? else none

/-- The Notice Queue's head, while the port is LIVE (R54). -/
def State.nextNotice (s : State) : Option Notice := if s.link.live then s.mgmt.notices.head? else none

/-- The choice of the arbiter: the first source that has a frame (R54). -/
def State.chooseUpstream (s : State) : Option UpTransmit :=
  match s.classifier.reply with
  | some f => some { source := .reply, frame := f }
  | none =>
    match s.nextSegment with
    | some f => some { source := .segment, frame := f }
    | none =>
      match s.nextNotice with
      | some n => some { source := .notice, frame := s.noticeFrame n }
      | none => s.classifier.forwardQueue.head?.map (fun f => { source := .forward, frame := f })

/-- The Notice Queue's head goes into transmission (R183). -/
def markHead : List Notice → List Notice
  | [] => []
  | n :: rest => { n with sending := true } :: rest

/-- A frame is started: a notice goes into transmission, a forward leaves its queue (R54, R183). -/
def State.startUpstream (s : State) (t : UpTransmit) : State :=
  let s1 := { s with classifier := { s.classifier with sending := some t } }
  match t.source with
  | .reply => s1
  | .segment => s1
  | .notice => { s1 with mgmt := { s1.mgmt with notices := markHead s1.mgmt.notices } }
  | .forward => { s1 with classifier := { s1.classifier with forwardQueue := s1.classifier.forwardQueue.tail } }

/-- The arbiter's choice when the line is free (R54). -/
def State.upstreamTransmit (s : State) : State :=
  match s.classifier.sending, s.chooseUpstream with
  | none, some t => s.startUpstream t
  | _, _ => s

/-- The entry after its frame has been sent: none when it is removed, else renewed (R183). -/
def Notice.afterSent (n : Notice) : Option Notice :=
  if n.renewals = 0 then none
  else some { n with sending := false, count := n.renewals, first := n.renewalTime, renewals := 0 }

/-- The Notice Queue after its head's frame has been sent (R183). -/
def noticeSent : List Notice → List Notice
  | [] => []
  | n :: rest =>
    match n.afterSent with
    | none => rest
    | some m => m :: rest

/-- The pending reply has been sent: its block is in progress, or its request completes (R55, R171). -/
def State.replySent (s : State) : State :=
  let s1 := { s with classifier := { s.classifier with reply := none } }
  match s.classifier.block with
  | none => s1.completeRequest
  | some b => { s1 with classifier := { s1.classifier with block := some { b with inProgress := true } } }

/-- A segment has been sent: the next is ready, or the block ends and its request completes (R55). -/
def State.segmentSent (s : State) : State :=
  match s.classifier.block with
  | none => s
  | some b =>
    if b.frames.tail = [] then s.completeRequest
    else { s with classifier := { s.classifier with block := some { b with frames := b.frames.tail } } }

/-- A frame has been sent and the line is free (R54, R55, R171, R183). -/
def State.upstreamFrameSent (s : State) : State :=
  match s.classifier.sending with
  | none => s
  | some t =>
    let s1 := { s with classifier := { s.classifier with sending := none } }
    match t.source with
    | .reply => s1.replySent
    | .segment => s1.segmentSent
    | .notice => { s1 with mgmt := { s1.mgmt with notices := noticeSent s1.mgmt.notices } }
    | .forward => s1

end Sys2Proof.Machine
end

