-- ==== Sys2Proof/Machine/TimeBase.lean ====
section
/-! DEFINITION. The tenth-second time base and the part's own events: what the part does when no command waits (log 1). -/

namespace Sys2Proof.Machine

/-! ## One tick -/

/-- A tick of a cadence (R26). -/
def Cadence.tick (c : Cadence) : Cadence := if c.enabled then { c with countdown := c.countdown - 1 } else c

/-- Whole seconds and tenths after one tenth more (R89). -/
def tenthMore (seconds tenths : Nat) : Nat × Nat := if 9 ≤ tenths then (seconds + 1, 0) else (seconds, tenths + 1)

/-- Step elapsed runs (R89). -/
def KilnState.stepRuns : KilnState → Bool
  | .drying => true | .cooling => true
  | .hold => false | .empty => false | .loading => false | .loaded => false | .dried => false | .unloading => false

/-- A tick of step elapsed (R89). -/
def KilnRun.tickStep (r : KilnRun) : KilnRun :=
  if r.state.stepRuns then
    let e := tenthMore r.stepElapsed r.stepFraction
    { r with stepElapsed := e.1, stepFraction := e.2 }
  else r

/-- A tick of total elapsed, which saturates (R80, R89). -/
def KilnRun.tickTotal (r : KilnRun) : KilnRun :=
  if r.state.stepRuns || r.state = .hold then
    let e := tenthMore r.totalElapsed r.totalFraction
    { r with totalElapsed := min 4294967295 e.1, totalFraction := e.2 }
  else r

/-- A tick of a kiln's counters and of its refresh timer (R87, R89). -/
def KilnRun.tick (r : KilnRun) : KilnRun :=
  let t := r.tickStep.tickTotal
  { t with refresh := t.refresh.map (fun n => n - 1) }

/-- A tick of the changeover timer and of the divert watch (R60, R62). -/
def Feed.tick (u : Feed) : Feed :=
  { u with
    timer := match u.changeover with
      | .draining _ => u.timer - 1
      | .steady => u.timer
      | .waiting _ => u.timer
    divertWatch := u.divertWatch.map (fun n => n - 1) }

/-- A tick of the settle timer and of the converter watch (R108, R115). -/
def Scale.tick (c : Scale) : Scale := { c with settle := c.settle.map (fun n => n - 1), watch := c.watch - 1 }

/-- One tick of an active part (R166, R178 and the rules above). -/
def State.ticked (s : State) : State :=
  { s with
    link := { s.link with silence := min Config.silenceMax (s.link.silence + 1) }
    field := { s.field with cadences := s.field.cadences.map Cadence.tick }
    feed := s.feed.tick
    kilns := { s.kilns with run := s.kilns.run.map KilnRun.tick }
    scale := s.scale.tick
    mgmt := { s.mgmt with ticks := s.mgmt.ticks + 1 } }

/-- A tenth of a second passes: an inactive part does nothing (R170). -/
def State.tick (s : State) : State := if s.active then s.ticked else s

/-! ## The events that are due (log 3) -/

/-- The event, when its condition holds. -/
def dueIf (c : Bool) (i : Instr) : Option Instr := if c then some i else none

/-- The upstream line is free and a source has a frame (R54). -/
def State.upstreamDue (s : State) : Bool := s.classifier.sending.isNone && s.chooseUpstream.isSome

/-- The Field Port may start a frame and the arbiter has a choice (R38, R165). -/
def State.fieldDue (s : State) : Bool := s.mayStart && (s.choice s.field.chosen).isSome

/-- The changeover timer has run out (R62). -/
def State.changeoverDue (s : State) : Bool :=
  match s.feed.changeover with
  | .draining _ => s.feed.timer = 0
  | .steady => false
  | .waiting _ => false

/-- The divert watch has run out (R60). -/
def State.divertDue (s : State) : Bool := s.feed.divertWatch = some 0 && s.feed.hold.divert

/-- The event due in a kiln: a ramp's minute, a step's end, a DRY-TO's overtime, abort cooling's end, or the refresh timer's
expiry (R87, R89, R91, R92, R103). -/
def State.kilnDue (s : State) (k : Kiln) : Option Instr :=
  let r := s.kiln k
  let d := (s.currentStep k).duration
  (dueIf (s.dryingIn k .ramp && 60 * (r.rampMinute + 1) ≤ r.stepElapsed) (.rampMinute k)).or <|
  (dueIf ((s.dryingIn k .soak || s.inCoolStep k) && 60 * d ≤ r.stepElapsed) (.stepEnd k)).or <|
  (dueIf (s.dryingIn k .dryTo && 60 * d ≤ r.stepElapsed) (.dryToOvertime k)).or <|
  (dueIf (r.state = .cooling && r.aborted && 60 * s.abortMinutes k ≤ r.stepElapsed) (.abortCoolingEnd k)).or <|
  dueIf (r.refresh = some 0) (.refreshTimerExpiry k)

/-- The part's own event that is due, the first in the order of log 3. -/
def State.ownEvent (s : State) : Option Instr :=
  if s.active then
    (dueIf s.upstreamDue .upstreamTransmit).or <|
    (dueIf s.fieldDue .fieldTransactionStart).or <|
    (dueIf (Config.ticksPerSecond ≤ s.mgmt.ticks) .timeSecond).or <|
    (dueIf (s.link.live && Config.silenceLimit ≤ s.link.silence) .linkSilent).or <|
    ((List.finRange 8).findSome? (fun c =>
      dueIf (s.field.cadences[c].enabled && s.field.cadences[c].countdown = 0) (.cadenceExpiry c))).or <|
    (dueIf s.changeoverDue .changeoverTimerExpiry).or <|
    (dueIf s.divertDue .divertWatchExpiry).or <|
    ((List.finRange 6).findSome? s.kilnDue).or <|
    (dueIf (s.scale.state = .settling && s.scale.settle = some 0) .settleTimeout).or <|
    dueIf (s.scale.watch = 0) .converterWatchExpiry
  else none

end Sys2Proof.Machine
end

