-- ==== Sys2Proof/Machine/EventCommands.lean ====
section
/-! DEFINITION. The meanings of the commands that are events: power, the ports, time, the field segment, timers, converter. -/

namespace Sys2Proof.Machine

/-- Power-on ends (R170). -/
def execPowerOn (addr : BitVec 4) (upRate fpRate : BitVec 2) (s : State) : Host.Outcome State Fault Refusal :=
  .next (s.powerOn addr upRate fpRate)

/-- The RESET pin is asserted (R170). -/
def execResetPinAssert (s : State) : Host.Outcome State Fault Refusal := .next s.resetAssert

/-- The RESET pin is released (R170). -/
def execResetPinRelease (addr : BitVec 4) (upRate fpRate : BitVec 2) (s : State) : Host.Outcome State Fault Refusal :=
  .next (s.resetRelease addr upRate fpRate)

/-- The supply fails (R170). -/
def execPowerFail (s : State) : Host.Outcome State Fault Refusal := .next s.powerFail

/-- A reception ends on the Upstream Port (R42, R161, R162, R166). -/
def execUpstreamArrival (chars : List Byte) (s : State) : Host.Outcome State Fault Refusal :=
  whileActive (fun t => t.upstreamArrival chars) s

/-- The silence count reaches 5.0 s in LIVE (R166). -/
def execLinkSilent (s : State) : Host.Outcome State Fault Refusal :=
  whileActive State.linkSilent s

/-- The Upstream Transmit Arbiter's choice (R54). -/
def execUpstreamTransmit (s : State) : Host.Outcome State Fault Refusal :=
  whileActive State.upstreamTransmit s

/-- A frame has been sent upstream (R171, R183, R55). -/
def execUpstreamFrameSent (s : State) : Host.Outcome State Fault Refusal :=
  whileActive State.upstreamFrameSent s

/-- The idle gap after an over-long reception has run (R161). -/
def execOverlongIdleGap (port : Port) (s : State) : Host.Outcome State Fault Refusal :=
  whileActive (fun t => t.idleGap port) s

/-- The tenth tick of the time base (R178). -/
def execTimeSecond (s : State) : Host.Outcome State Fault Refusal :=
  whileActive State.secondPassed s

/-- The Field Transmit Arbiter starts the transaction it has chosen (R38, R39). -/
def execFieldTransactionStart (s : State) : Host.Outcome State Fault Refusal :=
  whileActive State.startTransaction s

/-- The last character of a transaction is sent (R32, R165). -/
def execFieldTransmitDone (s : State) : Host.Outcome State Fault Refusal :=
  whileActive State.transmitDone s

/-- A frame's first character arrives (R32, R161). -/
def execFieldReceptionStart (s : State) : Host.Outcome State Fault Refusal :=
  whileActive State.receptionStart s

/-- A reception ends on the Field Port (R47, R161, R162). -/
def execFieldArrival (chars : List Byte) (s : State) : Host.Outcome State Fault Refusal :=
  whileActive (feedEvent (fun t => t.fieldArrival chars)) s

/-- A transaction's wait runs out (R32). -/
def execTransactionWindowExpiry (s : State) : Host.Outcome State Fault Refusal :=
  whileActive State.windowExpiry s

/-- The guard of a BROADCAST runs out (R35). -/
def execBroadcastGuardEnd (s : State) : Host.Outcome State Fault Refusal :=
  whileActive State.guardEnd s

/-- A cadence expires (R27). -/
def execCadenceExpiry (cadence : CadenceId) (s : State) : Host.Outcome State Fault Refusal :=
  whileActive (fun t => t.cadenceExpiry cadence) s

/-- The changeover timer expires (R62). -/
def execChangeoverTimerExpiry (s : State) : Host.Outcome State Fault Refusal :=
  whileActive (feedEvent State.changeoverExpiry) s

/-- The divert watch runs out (R60). -/
def execDivertWatchExpiry (s : State) : Host.Outcome State Fault Refusal :=
  whileActive (feedEvent State.divertWatchExpiry) s

/-- A RAMP, SOAK or COOL step ends (R89). -/
def execStepEnd (kiln : Kiln) (s : State) : Host.Outcome State Fault Refusal :=
  whileActive (fun t => t.stepEnd kiln) s

/-- A whole minute of a RAMP step (R91). -/
def execRampMinute (kiln : Kiln) (s : State) : Host.Outcome State Fault Refusal :=
  whileActive (fun t => t.rampMinute kiln) s

/-- A DRY-TO step reaches its maximum (R92). -/
def execDryToOvertime (kiln : Kiln) (s : State) : Host.Outcome State Fault Refusal :=
  whileActive (fun t => t.dryToOvertime kiln) s

/-- Abort cooling ends (R103). -/
def execAbortCoolingEnd (kiln : Kiln) (s : State) : Host.Outcome State Fault Refusal :=
  whileActive (fun t => t.abortCoolingEnd kiln) s

/-- A kiln's refresh timer expires (R87). -/
def execRefreshTimerExpiry (kiln : Kiln) (s : State) : Host.Outcome State Fault Refusal :=
  whileActive (fun t => t.refreshExpiry kiln) s

/-- Ready asserts and a converter frame starts (R106, R107). -/
def execConverterFrameStart (s : State) : Host.Outcome State Fault Refusal :=
  whileActive State.frameStart s

/-- The 32nd bit is clocked with ready asserted (R106, R109). -/
def execConverterFrameComplete (status : Byte) (sample : BitVec 24) (s : State) : Host.Outcome State Fault Refusal :=
  whileActive (fun t => t.frameComplete status sample) s

/-- Ready deasserts before the 32nd bit (R108). -/
def execConverterFrameTorn (s : State) : Host.Outcome State Fault Refusal :=
  whileActive State.frameTorn s

/-- The settle timer runs out (R115). -/
def execSettleTimeout (s : State) : Host.Outcome State Fault Refusal :=
  whileActive State.settleTimeout s

/-- The converter watch runs out (R108, R117). -/
def execConverterWatchExpiry (s : State) : Host.Outcome State Fault Refusal :=
  whileActive State.watchExpiry s

end Sys2Proof.Machine
end

