-- ==== Sys2Proof/Machine/RequestCommands.lean ====
section
/-! DEFINITION. The meanings of the commands that are requests: each reaches the Request Buffer as its frame (R43, R171, log 9).
What the request does stands in the perform function of its rule. -/

namespace Sys2Proof.Machine

/-- STATUS (R177). -/
def execStatus (tag clear page : Byte) (s : State) : Host.Outcome State Fault Refusal :=
  whileActive (State.submit tag (.status clear page)) s

/-- TABLE-READ (R175). -/
def execTableRead (tag table index part : Byte) (s : State) : Host.Outcome State Fault Refusal :=
  whileActive (State.submit tag (.tableRead table index part)) s

/-- TABLE-WRITE of NODE (R19 to R22). -/
def execNodeWrite (tag index : Byte) (image : List Byte) (s : State) : Host.Outcome State Fault Refusal :=
  whileActive (State.submit tag (.tableWrite TableId.node.code index image)) s

/-- TABLE-WRITE of ROUTE (R49). -/
def execRouteWrite (tag index : Byte) (image : List Byte) (s : State) : Host.Outcome State Fault Refusal :=
  whileActive (State.submit tag (.tableWrite TableId.route.code index image)) s

/-- TABLE-WRITE of CADENCE (R26). -/
def execCadenceWrite (tag index : Byte) (image : List Byte) (s : State) : Host.Outcome State Fault Refusal :=
  whileActive (State.submit tag (.tableWrite TableId.cadence.code index image)) s

/-- TABLE-WRITE of KILN (R79). -/
def execKilnWrite (tag index : Byte) (image : List Byte) (s : State) : Host.Outcome State Fault Refusal :=
  whileActive (State.submit tag (.tableWrite TableId.kiln.code index image)) s

/-- TABLE-WRITE of SCHEDULE (R82, R85). -/
def execScheduleWrite (tag index : Byte) (image : List Byte) (s : State) : Host.Outcome State Fault Refusal :=
  whileActive (State.submit tag (.tableWrite TableId.schedule.code index image)) s

/-- TABLE-WRITE of STEP (R83, R85). -/
def execStepWrite (tag index : Byte) (image : List Byte) (s : State) : Host.Outcome State Fault Refusal :=
  whileActive (State.submit tag (.tableWrite TableId.step.code index image)) s

/-- TABLE-WRITE of VARIETY (R11). -/
def execVarietyWrite (tag index : Byte) (image : List Byte) (s : State) : Host.Outcome State Fault Refusal :=
  whileActive (State.submit tag (.tableWrite TableId.variety.code index image)) s

/-- TABLE-WRITE of TARE (R129). -/
def execTareWrite (tag index : Byte) (image : List Byte) (s : State) : Host.Outcome State Fault Refusal :=
  whileActive (State.submit tag (.tableWrite TableId.tare.code index image)) s

/-- TABLE-WRITE of SCALE-SETUP (R112). -/
def execScaleSetupWrite (tag index : Byte) (image : List Byte) (s : State) : Host.Outcome State Fault Refusal :=
  whileActive (State.submit tag (.tableWrite TableId.scaleSetup.code index image)) s

/-- TABLE-WRITE of STATION (R176). -/
def execStationWrite (tag index : Byte) (image : List Byte) (s : State) : Host.Outcome State Fault Refusal :=
  whileActive (State.submit tag (.tableWrite TableId.station.code index image)) s

/-- TIME-SET (R178). -/
def execTimeSet (tag : Byte) (time : Word32) (s : State) : Host.Outcome State Fault Refusal :=
  whileActive (State.submit tag (.timeSet time)) s

/-- RESTART with scope FIELD (R40). -/
def execRestartField (tag : Byte) (s : State) : Host.Outcome State Fault Refusal :=
  whileActive (State.submit tag (.restart RestartScope.field.code)) s

/-- RESTART with scope STATION (R179, R180). -/
def execRestartStation (tag : Byte) (s : State) : Host.Outcome State Fault Refusal :=
  whileActive (State.submit tag (.restart RestartScope.station.code)) s

/-- LOT-OPEN (R13). -/
def execLotOpen (tag : Byte) (lot grower : Word16) (variety : Byte) (s : State) : Host.Outcome State Fault Refusal :=
  whileActive (State.submit tag (.lotOpen lot grower variety)) s

/-- LOT-READ (R14). -/
def execLotRead (tag : Byte) (lot : Word16) (item : Byte) (s : State) : Host.Outcome State Fault Refusal :=
  whileActive (State.submit tag (.lotRead lot item)) s

/-- LOT-VOID (R15). -/
def execLotVoid (tag : Byte) (lot : Word16) (s : State) : Host.Outcome State Fault Refusal :=
  whileActive (State.submit tag (.lotVoid lot)) s

/-- LOT-CLOSE (R16). -/
def execLotClose (tag : Byte) (lot : Word16) (s : State) : Host.Outcome State Fault Refusal :=
  whileActive (State.submit tag (.lotClose lot)) s

/-- LOT-FEED (R61). -/
def execLotFeed (tag : Byte) (lot : Word16) (s : State) : Host.Outcome State Fault Refusal :=
  whileActive (State.submit tag (.lotFeed lot)) s

/-- FEED-HOLD (R76). -/
def execFeedHold (tag flag : Byte) (s : State) : Host.Outcome State Fault Refusal :=
  whileActive (State.submit tag (.feedHold flag)) s

/-- FILL-ORDER (R69). -/
def execFillOrder (tag count : Byte) (kilns : List Byte) (s : State) : Host.Outcome State Fault Refusal :=
  whileActive (State.submit tag (.fillOrder count kilns)) s

/-- LOAD-CLOSE (R75). -/
def execLoadClose (tag : Byte) (s : State) : Host.Outcome State Fault Refusal :=
  whileActive (State.submit tag .loadClose) s

/-- KILN-START (R96). -/
def execKilnStart (tag kiln : Byte) (s : State) : Host.Outcome State Fault Refusal :=
  whileActive (State.submit tag (.kilnStart kiln)) s

/-- KILN-HOLD (R100). -/
def execKilnHold (tag kiln : Byte) (s : State) : Host.Outcome State Fault Refusal :=
  whileActive (State.submit tag (.kilnHold kiln)) s

/-- KILN-RESUME (R101). -/
def execKilnResume (tag kiln mode : Byte) (s : State) : Host.Outcome State Fault Refusal :=
  whileActive (State.submit tag (.kilnResume kiln mode)) s

/-- KILN-ABORT (R102). -/
def execKilnAbort (tag kiln : Byte) (s : State) : Host.Outcome State Fault Refusal :=
  whileActive (State.submit tag (.kilnAbort kiln)) s

/-- KILN-READ (R104). -/
def execKilnRead (tag kiln : Byte) (s : State) : Host.Outcome State Fault Refusal :=
  whileActive (State.submit tag (.kilnRead kiln)) s

/-- SCALE-READ (R120). -/
def execScaleRead (tag : Byte) (s : State) : Host.Outcome State Fault Refusal :=
  whileActive (State.submit tag .scaleRead) s

/-- SCALE-ZERO (R119). -/
def execScaleZero (tag : Byte) (s : State) : Host.Outcome State Fault Refusal :=
  whileActive (State.submit tag .scaleZero) s

/-- SCALE-COMMAND (R121). -/
def execScaleCommand (tag word : Byte) (s : State) : Host.Outcome State Fault Refusal :=
  whileActive (State.submit tag (.scaleCommand word)) s

/-- BALE-READ (R139). -/
def execBaleRead (tag : Byte) (bale : Word32) (s : State) : Host.Outcome State Fault Refusal :=
  whileActive (State.submit tag (.baleRead bale)) s

/-- BALE-WEIGHT (R138). -/
def execBaleWeight (tag : Byte) (bale gross : Word32) (s : State) : Host.Outcome State Fault Refusal :=
  whileActive (State.submit tag (.baleWeight bale gross)) s

/-- UNLOAD-DONE (R126). -/
def execUnloadDone (tag kiln : Byte) (s : State) : Host.Outcome State Fault Refusal :=
  whileActive (State.submit tag (.unloadDone kiln)) s

/-- PRESS-HOLD (R137). -/
def execPressHold (tag flag : Byte) (s : State) : Host.Outcome State Fault Refusal :=
  whileActive (State.submit tag (.pressHold flag)) s

/-- TICKET-BASE (R142). -/
def execTicketBase (tag : Byte) (nextTicket nextBale : Word32) (s : State) : Host.Outcome State Fault Refusal :=
  whileActive (State.submit tag (.ticketBase nextTicket nextBale)) s

/-- TICKET-READ (R151). -/
def execTicketRead (tag : Byte) (ticket : Word32) (s : State) : Host.Outcome State Fault Refusal :=
  whileActive (State.submit tag (.ticketRead ticket)) s

/-- TICKET-TAKE (R152). -/
def execTicketTake (tag : Byte) (ticket : Word32) (s : State) : Host.Outcome State Fault Refusal :=
  whileActive (State.submit tag (.ticketTake ticket)) s

/-- TICKET-REPRINT (R157). -/
def execTicketReprint (tag : Byte) (ticket : Word32) (s : State) : Host.Outcome State Fault Refusal :=
  whileActive (State.submit tag (.ticketReprint ticket)) s

end Sys2Proof.Machine
end

