-- ==== Sys2Proof/Machine/Dispatch.lean ====
section
/-! DEFINITION. One arm for each command: a direct call of its meaning. -/

namespace Sys2Proof.Machine

def exec (i : Instr) (s : State) : Host.Outcome State Fault Refusal :=
  match i with
  | .powerOn addr upRate fpRate => Sys2Proof.Machine.execPowerOn addr upRate fpRate s
  | .resetPinAssert => Sys2Proof.Machine.execResetPinAssert s
  | .resetPinRelease addr upRate fpRate => Sys2Proof.Machine.execResetPinRelease addr upRate fpRate s
  | .upstreamArrival chars => Sys2Proof.Machine.execUpstreamArrival chars s
  | .linkSilent => Sys2Proof.Machine.execLinkSilent s
  | .upstreamTransmit => Sys2Proof.Machine.execUpstreamTransmit s
  | .upstreamFrameSent => Sys2Proof.Machine.execUpstreamFrameSent s
  | .timeSecond => Sys2Proof.Machine.execTimeSecond s
  | .fieldTransactionStart => Sys2Proof.Machine.execFieldTransactionStart s
  | .fieldTransmitDone => Sys2Proof.Machine.execFieldTransmitDone s
  | .fieldReceptionStart => Sys2Proof.Machine.execFieldReceptionStart s
  | .fieldArrival chars => Sys2Proof.Machine.execFieldArrival chars s
  | .transactionWindowExpiry => Sys2Proof.Machine.execTransactionWindowExpiry s
  | .broadcastGuardEnd => Sys2Proof.Machine.execBroadcastGuardEnd s
  | .cadenceExpiry cadence => Sys2Proof.Machine.execCadenceExpiry cadence s
  | .changeoverTimerExpiry => Sys2Proof.Machine.execChangeoverTimerExpiry s
  | .divertWatchExpiry => Sys2Proof.Machine.execDivertWatchExpiry s
  | .stepEnd kiln => Sys2Proof.Machine.execStepEnd kiln s
  | .rampMinute kiln => Sys2Proof.Machine.execRampMinute kiln s
  | .dryToOvertime kiln => Sys2Proof.Machine.execDryToOvertime kiln s
  | .abortCoolingEnd kiln => Sys2Proof.Machine.execAbortCoolingEnd kiln s
  | .refreshTimerExpiry kiln => Sys2Proof.Machine.execRefreshTimerExpiry kiln s
  | .converterFrameStart => Sys2Proof.Machine.execConverterFrameStart s
  | .converterFrameComplete status sample => Sys2Proof.Machine.execConverterFrameComplete status sample s
  | .converterFrameTorn => Sys2Proof.Machine.execConverterFrameTorn s
  | .settleTimeout => Sys2Proof.Machine.execSettleTimeout s
  | .converterWatchExpiry => Sys2Proof.Machine.execConverterWatchExpiry s
  | .status tag clear page => Sys2Proof.Machine.execStatus tag clear page s
  | .tableRead tag table index part => Sys2Proof.Machine.execTableRead tag table index part s
  | .nodeWrite tag index image => Sys2Proof.Machine.execNodeWrite tag index image s
  | .routeWrite tag index image => Sys2Proof.Machine.execRouteWrite tag index image s
  | .cadenceWrite tag index image => Sys2Proof.Machine.execCadenceWrite tag index image s
  | .kilnWrite tag index image => Sys2Proof.Machine.execKilnWrite tag index image s
  | .scheduleWrite tag index image => Sys2Proof.Machine.execScheduleWrite tag index image s
  | .stepWrite tag index image => Sys2Proof.Machine.execStepWrite tag index image s
  | .varietyWrite tag index image => Sys2Proof.Machine.execVarietyWrite tag index image s
  | .tareWrite tag index image => Sys2Proof.Machine.execTareWrite tag index image s
  | .scaleSetupWrite tag index image => Sys2Proof.Machine.execScaleSetupWrite tag index image s
  | .stationWrite tag index image => Sys2Proof.Machine.execStationWrite tag index image s
  | .timeSet tag time => Sys2Proof.Machine.execTimeSet tag time s
  | .restartField tag => Sys2Proof.Machine.execRestartField tag s
  | .restartStation tag => Sys2Proof.Machine.execRestartStation tag s
  | .lotOpen tag lot grower variety => Sys2Proof.Machine.execLotOpen tag lot grower variety s
  | .lotRead tag lot item => Sys2Proof.Machine.execLotRead tag lot item s
  | .lotVoid tag lot => Sys2Proof.Machine.execLotVoid tag lot s
  | .lotClose tag lot => Sys2Proof.Machine.execLotClose tag lot s
  | .lotFeed tag lot => Sys2Proof.Machine.execLotFeed tag lot s
  | .feedHold tag flag => Sys2Proof.Machine.execFeedHold tag flag s
  | .fillOrder tag count kilns => Sys2Proof.Machine.execFillOrder tag count kilns s
  | .loadClose tag => Sys2Proof.Machine.execLoadClose tag s
  | .kilnStart tag kiln => Sys2Proof.Machine.execKilnStart tag kiln s
  | .kilnHold tag kiln => Sys2Proof.Machine.execKilnHold tag kiln s
  | .kilnResume tag kiln mode => Sys2Proof.Machine.execKilnResume tag kiln mode s
  | .kilnAbort tag kiln => Sys2Proof.Machine.execKilnAbort tag kiln s
  | .kilnRead tag kiln => Sys2Proof.Machine.execKilnRead tag kiln s
  | .scaleRead tag => Sys2Proof.Machine.execScaleRead tag s
  | .scaleZero tag => Sys2Proof.Machine.execScaleZero tag s
  | .scaleCommand tag word => Sys2Proof.Machine.execScaleCommand tag word s
  | .baleRead tag bale => Sys2Proof.Machine.execBaleRead tag bale s
  | .baleWeight tag bale gross => Sys2Proof.Machine.execBaleWeight tag bale gross s
  | .unloadDone tag kiln => Sys2Proof.Machine.execUnloadDone tag kiln s
  | .pressHold tag flag => Sys2Proof.Machine.execPressHold tag flag s
  | .ticketBase tag nextTicket nextBale => Sys2Proof.Machine.execTicketBase tag nextTicket nextBale s
  | .ticketRead tag ticket => Sys2Proof.Machine.execTicketRead tag ticket s
  | .ticketTake tag ticket => Sys2Proof.Machine.execTicketTake tag ticket s
  | .ticketReprint tag ticket => Sys2Proof.Machine.execTicketReprint tag ticket s
  | .powerFail => Sys2Proof.Machine.execPowerFail s
  | .overlongIdleGap port => Sys2Proof.Machine.execOverlongIdleGap port s

end Sys2Proof.Machine
end

