-- ==== Sys2Proof/Machine/Step.lean ====
section
/-! DEFINITION. One step: the command at the front of the queue, else the part's own event that is due, else one tick. -/

namespace Sys2Proof.Machine

/-- One step (log 1). -/
def step (s : State) : Host.Outcome State Fault Refusal :=
  match s.pending with
  | c :: rest => exec c { s with pending := rest }
  | [] =>
    match s.ownEvent with
    | some c => exec c s
    | none => .next s.tick

/-- The table gives no row any bits, so no word spells a command and the state is unchanged (log 33). -/
def State.withFetchWord (s : State) (nbits w : Nat) : State :=
  match decodeTableWord nbits w with
  | some c => { s with pending := c :: s.pending }
  | none => s

end Sys2Proof.Machine
end

