-- ==== Sys2Proof/Safety.lean ====
section
/-! DEFINITION. What a safe run is, in the terms the statements use: the capacities of the collections, the laws that tie the
records together, and the shape of an answered request. -/

namespace Sys2Proof.Machine

/-! ## The request rows -/

/-- The part is active and its Request Buffer is empty, so a request that comes is executed at its admission (R43, R171). -/
abbrev State.Ready (s : State) : Prop := s.active = true ∧ s.classifier.requests = []

/-- The payload of the reply to a request: kind, tag, result, data (R172). -/
def Request.replyBytes (r : Request) (tag : Byte) (res : Result) (data : List Byte) : List Byte :=
  r.kind :: tag :: res.code :: data

/-- The request stands alone in the Request Buffer: its admission to an empty buffer (R43). -/
def State.admitted (s : State) (tag : Byte) (r : Request) : State :=
  { s with classifier := { s.classifier with requests := [s.requestFrame tag r] } }

/-- The pending REPLY of an executed request (R55, R169, R171, R172). -/
def State.answering (t : State) (tag : Byte) (r : Request) (res : Result) (data : List Byte) : State :=
  { t with classifier := { t.classifier with
      reply := some (mkFrame 0x00 t.ownAddress codeReply (r.replyBytes tag res data)) } }

/-- The state in which nothing but the Request Buffer and the pending REPLY has changed. -/
def State.replied (s : State) (tag : Byte) (r : Request) (res : Result) (data : List Byte) : State :=
  (s.admitted tag r).answering tag r res data

/-- An accepted request: its effects are made on the state at its execution, and its reply carries data read after them. -/
def State.performed (s : State) (tag : Byte) (r : Request) (f : State → State) (data : State → List Byte) : State :=
  (f (s.admitted tag r)).answering tag r .ok (data (f (s.admitted tag r)))

/-- The tag and the request that a request row brings; none for the other rows. -/
def requestOf : Instr → Option (Byte × Request)
  | .status tag clear page => some (tag, .status clear page)
  | .tableRead tag table index part => some (tag, .tableRead table index part)
  | .nodeWrite tag index image => some (tag, .tableWrite 0 index image)
  | .routeWrite tag index image => some (tag, .tableWrite 1 index image)
  | .cadenceWrite tag index image => some (tag, .tableWrite 2 index image)
  | .kilnWrite tag index image => some (tag, .tableWrite 3 index image)
  | .scheduleWrite tag index image => some (tag, .tableWrite 4 index image)
  | .stepWrite tag index image => some (tag, .tableWrite 5 index image)
  | .varietyWrite tag index image => some (tag, .tableWrite 6 index image)
  | .tareWrite tag index image => some (tag, .tableWrite 7 index image)
  | .scaleSetupWrite tag index image => some (tag, .tableWrite 8 index image)
  | .stationWrite tag index image => some (tag, .tableWrite 9 index image)
  | .timeSet tag time => some (tag, .timeSet time)
  | .restartField tag => some (tag, .restart 0)
  | .restartStation tag => some (tag, .restart 1)
  | .lotOpen tag lot grower variety => some (tag, .lotOpen lot grower variety)
  | .lotRead tag lot item => some (tag, .lotRead lot item)
  | .lotVoid tag lot => some (tag, .lotVoid lot)
  | .lotClose tag lot => some (tag, .lotClose lot)
  | .lotFeed tag lot => some (tag, .lotFeed lot)
  | .feedHold tag flag => some (tag, .feedHold flag)
  | .fillOrder tag count kilns => some (tag, .fillOrder count kilns)
  | .loadClose tag => some (tag, .loadClose)
  | .kilnStart tag kiln => some (tag, .kilnStart kiln)
  | .kilnHold tag kiln => some (tag, .kilnHold kiln)
  | .kilnResume tag kiln mode => some (tag, .kilnResume kiln mode)
  | .kilnAbort tag kiln => some (tag, .kilnAbort kiln)
  | .kilnRead tag kiln => some (tag, .kilnRead kiln)
  | .scaleRead tag => some (tag, .scaleRead)
  | .scaleZero tag => some (tag, .scaleZero)
  | .scaleCommand tag word => some (tag, .scaleCommand word)
  | .baleRead tag bale => some (tag, .baleRead bale)
  | .baleWeight tag bale gross => some (tag, .baleWeight bale gross)
  | .unloadDone tag kiln => some (tag, .unloadDone kiln)
  | .pressHold tag flag => some (tag, .pressHold flag)
  | .ticketBase tag nextTicket nextBale => some (tag, .ticketBase nextTicket nextBale)
  | .ticketRead tag ticket => some (tag, .ticketRead ticket)
  | .ticketTake tag ticket => some (tag, .ticketTake ticket)
  | .ticketReprint tag ticket => some (tag, .ticketReprint ticket)
  | .powerOn _ _ _ => none
  | .resetPinAssert => none
  | .resetPinRelease _ _ _ => none
  | .upstreamArrival _ => none
  | .linkSilent => none
  | .upstreamTransmit => none
  | .upstreamFrameSent => none
  | .timeSecond => none
  | .fieldTransactionStart => none
  | .fieldTransmitDone => none
  | .fieldReceptionStart => none
  | .fieldArrival _ => none
  | .transactionWindowExpiry => none
  | .broadcastGuardEnd => none
  | .cadenceExpiry _ => none
  | .changeoverTimerExpiry => none
  | .divertWatchExpiry => none
  | .stepEnd _ => none
  | .rampMinute _ => none
  | .dryToOvertime _ => none
  | .abortCoolingEnd _ => none
  | .refreshTimerExpiry _ => none
  | .converterFrameStart => none
  | .converterFrameComplete _ _ => none
  | .converterFrameTorn => none
  | .settleTimeout => none
  | .converterWatchExpiry => none
  | .powerFail => none
  | .overlongIdleGap _ => none

/-! ## The entries that a table write may store -/

/-- Writing this image stores the entry that it describes (R19); the empty image empties the entry. -/
def NodeImage.bytes : NodeImage → List Byte
  | .empty => [0x00, 0x00, 0xFF, 0xFF, 0x00, 0x00, 0x00, 0x00]
  | .entry address role binding cadence window missLimit =>
    [address, byte role.code, kilnByte binding, cadence.elim 0xFF (fun c => byte c.val), byte window, byte missLimit, 0, 0]

/-- R17, R19. -/
def NodeImage.InRange : NodeImage → Prop
  | .empty => True
  | .entry address role binding _ window missLimit =>
    1 ≤ address.toNat ∧ address.toNat ≤ 0xDF ∧ (binding.isSome = true ↔ role = .probe ∨ role = .burner) ∧
    1 ≤ window ∧ window ≤ 255 ∧ 1 ≤ missLimit ∧ missLimit ≤ 15

/-- R48, R49: the unused entry, or a used one in range. -/
abbrev Route.InRange (r : Route) : Prop :=
  r = {} ∨
  (r.used = true ∧ r.source.toNat ≤ 0xDF ∧ 1 ≤ r.code.toNat ∧ r.code.toNat ≤ 0x3F ∧ r.action ≠ .none ∧ r.offset ≤ 47 ∧
   (r.width = 1 ∨ r.width = 2 ∨ r.width = 4) ∧ r.offset + r.width ≤ 48 ∧ (r.action = .baleEvent ↔ r.selector ≠ .none))

/-- R26. -/
abbrev Cadence.InRange (c : Cadence) : Prop := 1 ≤ c.period ∧ c.period ≤ 6000

/-- R78, R79. -/
abbrev KilnEntry.InRange (e : KilnEntry) : Prop :=
  e.capacity ≤ 2147483646 ∧ e.minLoad ≤ 100 ∧ 10 ≤ e.refresh ∧ e.refresh ≤ 600 ∧ e.holdFan ≤ 100 ∧
  1 ≤ e.limitStreak ∧ e.limitStreak ≤ 5

/-- R82: the empty descriptor, or one in range. -/
abbrev Schedule.InRange (d : Schedule) : Prop :=
  d = {} ∨
  (1 ≤ d.count ∧ d.count ≤ 32 ∧ d.first + d.count ≤ 128 ∧ 200 ≤ d.startTemp ∧ d.startTemp ≤ 900 ∧
   d.abortCoolMinutes ≤ 1440 ∧ d.abortCoolFan ≤ 100)

/-- R83, by the kind of the step. -/
abbrev Step.InRange (e : Step) : Prop :=
  (e.kind = .fin → e = {}) ∧
  (e.kind = .cool → 1 ≤ e.duration ∧ e.duration ≤ 1440 ∧ e.target = 0 ∧ e.limit = 0 ∧ e.fan ≤ 100) ∧
  (e.kind = .ramp ∨ e.kind = .soak ∨ e.kind = .dryTo →
    1 ≤ e.duration ∧ e.duration ≤ 1440 ∧ 300 ≤ e.target ∧ e.target ≤ 900 ∧ e.target ≤ e.limit ∧ e.limit ≤ 1000 ∧ e.fan ≤ 100)

/-- R10, R11. -/
abbrev Variety.InRange (v : Variety) : Prop :=
  v.endHumidity ≤ 1000 ∧ 1 ≤ v.qualify ∧ v.qualify ≤ 15 ∧ v.targetMin ≤ v.targetMax ∧ v.targetMax ≤ 2147483646 ∧
  v.maxMoisture ≤ 1000

/-- R112. -/
abbrev ScaleSetup.InRange (u : ScaleSetup) : Prop :=
  -2147483648 ≤ u.zeroOffset ∧ u.zeroOffset ≤ 2147483647 ∧ u.span ≤ 65535 ∧
  (u.watermark = 2 ∨ u.watermark = 4 ∨ u.watermark = 8 ∨ u.watermark = 16) ∧ 2 ≤ u.stability ∧ u.stability ≤ 8 ∧
  u.band ≤ 65535 ∧ u.zeroTrackBand ≤ 65535 ∧ u.zeroLimit ≤ 65535 ∧ u.minGross ≤ 2147483646 ∧
  5 ≤ u.settleTimeout ∧ u.settleTimeout ≤ 60

/-- R176. -/
abbrev Station.InRange (e : Station) : Prop :=
  e.transit ≤ 600 ∧ 1 ≤ e.maxIncrement ∧ e.maxIncrement ≤ 65535 ∧ 1 ≤ e.threshold ∧ e.threshold ≤ 32

/-- The kiln references the descriptor (R85), with R84's condition on the descriptor of a LOADED kiln's variety. -/
def State.References (s : State) (k : Kiln) (d : Fin 8) : Prop :=
  ((s.kiln k).state = .loaded ∧ (∃ w, s.kilnVariety k = some w ∧ w.schedule = d) ∧
    ∃ i, i < s.kilns.schedules[d].count ∧ (s.stepAt (s.kilns.schedules[d].first + i)).kind = .fin) ∨
  (((s.kiln k).state = .drying ∨ (s.kiln k).state = .hold ∨ (s.kiln k).state = .cooling) ∧
    (s.kiln k).schedule = some d)

/-- The segment's transaction begins: it is outstanding and the driver is enabled (R32, R165). -/
def State.beginning (s : State) (t : Transaction) : State :=
  { s with
    link := { s.link with driver := true }
    field := { s.field with transaction := some t } }

/-! ## Capacities -/

/-- Every collection with a capacity is within it, and no record stands twice where the spec says it stands once
(R1, R4, R28, R39, R43, R44, R53, R69, R107, R110, R111, R127, R149, R182). The Sample FIFO is below its watermark between
steps: the reading that fills it makes a block. -/
structure State.WithinCapacity (s : State) : Prop where
  requests : s.classifier.requests.length ≤ Config.requestCapacity
  passQueue : s.classifier.passQueue.length ≤ Config.passCapacity
  forwardQueue : s.classifier.forwardQueue.length ≤ Config.forwardCapacity
  notices : s.mgmt.notices.length ≤ Config.noticeCapacity
  tickets : s.tickets.queue.length ≤ Config.ticketCapacity
  lots : s.table.lots.length ≤ Config.lotCapacity
  lotsOnce : (s.table.lots.map (fun l => l.number)).Nodup
  charges : ∀ l ∈ s.table.lots, l.charges.length ≤ Config.chargeCapacity
  bales : s.press.bales.length ≤ Config.baleCapacity
  scaleCommands : s.scale.commands.length ≤ Config.scaleCommandCapacity
  history : s.scale.history.length ≤ Config.historyCapacity
  samples : s.scale.samples.length < s.scale.setup.watermark
  watermark : s.scale.setup.watermark ≤ 16
  passStreak : s.field.passStreak ≤ Config.passStreakLimit
  pollQueue : s.field.pollQueue.Nodup
  fillOrder : s.feed.fillOrder.Nodup

/-- The Notice Queue holds at most one entry per kind and object (R182). -/
def State.NoticeKeysUnique (s : State) : Prop :=
  (s.mgmt.notices.map (fun n => (n.kind, n.object))).Nodup

/-! ## The accounting law of the green weight (R6) and what ties it to the feed and the press -/

/-- R6 for one lot: the green total equals the charges' green and the spill. -/
def Lot.GreenBalanced (l : Lot) : Prop := l.greenTotal = (l.charges.map (fun c => c.green)).sum + l.spill

/-- The loading kiln is LOADING, and its charge is one of the belt lot's (R57, R67). -/
def State.LoadingLinked (s : State) (k : Kiln) : Prop :=
  (s.kiln k).state = .loading ∧
  ∃ r : ChargeRef, (s.kiln k).charge = some r ∧ s.feed.beltLot = some r.lot ∧
    ∀ l ∈ s.table.lots, l.number = r.lot → r.index < l.charges.length

/-- The Feed and Loading Unit names this lot: as feed lot, belt lot or pending lot (R57). -/
def Feed.Names (u : Feed) (n : Nat) : Prop :=
  u.feedLot = some n ∨ u.beltLot = some n ∨ u.changeover.pending = some n

/-- The kiln stands in the Press Queue in a state that a queued kiln has (R123, R124). -/
def KilnRun.Queued (r : KilnRun) : Prop := r.state = .dried ∨ r.state = .unloading

/-- The law of R6 with what carries it: lot numbers are unique and ascend, every lot balances, the lots that the feed names
are in the table and FEEDING (R3, R57), the loading kiln is the one kiln that is LOADING (R57) and its charge is the belt
lot's (R67), and the Press Queue holds DRIED and UNLOADING kilns, each once (R123, R124). -/
structure State.GreenLaw (s : State) : Prop where
  ascending : (s.table.lots.map (fun l => l.number)).Pairwise (· < ·)
  balanced : ∀ l ∈ s.table.lots, l.GreenBalanced
  fed : ∀ n, s.feed.Names n → ∃ l ∈ s.table.lots, l.number = n ∧ l.state = .feeding
  loading : ∀ k, s.feed.loading = some k → s.LoadingLinked k
  onlyLoading : ∀ k, (s.kiln k).state = .loading → s.feed.loading = some k
  queueStates : ∀ k ∈ s.press.queue, (s.kiln k).Queued
  queueOnce : s.press.queue.Nodup

/-! ## The numbering of bales and tickets (R127, R141, R149) -/

/-- The Bale Store ascends and holds no number above the last used one, which lies below the next (R127, R141); the Ticket
Queue's numbers are consecutive up to the next ticket number, and the last issued number lies below it (R149, R141). -/
structure State.NumberingLaw (s : State) : Prop where
  balesAscend : (s.press.bales.map (fun b => b.number)).Pairwise (· < ·)
  balesUsed : ∀ b ∈ s.press.bales, ∃ m, s.tickets.lastBale = some m ∧ b.number ≤ m
  baleNext : ∀ m, s.tickets.lastBale = some m → m < s.tickets.nextBale
  ticketsConsecutive : ∀ i (h : i < s.tickets.queue.length),
    (s.tickets.queue[i]).number + (s.tickets.queue.length - i) = s.tickets.nextTicket
  ticketNext : ∀ m, s.tickets.lastTicket = some m → m < s.tickets.nextTicket

/-! ## The accounts of a lot: its charges, bales and tickets (R5, R7, R8, R9, R123, R144) -/

/-- The state of the charge in a kiln, by the kiln's state (R5, R81, R88, R124); an EMPTY kiln holds none. -/
def KilnState.chargeState : KilnState → Option ChargeState
  | .empty => none
  | .loading => some .filling
  | .loaded => some .kilning
  | .drying => some .kilning
  | .hold => some .kilning
  | .cooling => some .kilning
  | .dried => some .awaitPress
  | .unloading => some .pressing

/-- The charge a bale was made for (R4, R128). -/
def Bale.charge (b : Bale) : ChargeRef := { lot := b.lot, index := b.index }

/-- The charge a ticket was composed for (R4, R147). -/
def Ticket.charge (t : Ticket) : ChargeRef := { lot := t.lot, index := t.index }

/-- Only a charge in one of these two states has bales, tickets or a wait for composition (R5, R8, R143). -/
def ChargeState.AtPress (c : ChargeState) : Prop := c = .pressing ∨ c = .pressed

/-- The bales of a lot in the Bale Store (R7). -/
def State.lotBales (s : State) (n : Nat) : List Bale := s.press.bales.filter (fun b => b.lot = n)

/-- The tickets of a lot in the Ticket Queue (R8). -/
def State.lotTickets (s : State) (n : Nat) : List Ticket := s.tickets.queue.filter (fun t => t.lot = n)

/-- The sum of the nets of some bales: an absent net counts as zero (R7). -/
def netSum (bs : List Bale) : Int := (bs.map (fun b => b.net.getD 0)).sum

/-- R7 and R8 for one lot: the bale count is that of its bales in the store and its released bales, the net total the sum of
their nets and its released net in 32-bit arithmetic, both count what its charges count (R5), and the tickets issued are
those taken and those in the Ticket Queue. -/
structure State.Accounted (s : State) (l : Lot) : Prop where
  bales : l.baleCount = (s.lotBales l.number).length + l.releasedBales
  net : l.netTotal = wrap32 (netSum (s.lotBales l.number) + l.releasedNet)
  released : wrap32 l.releasedNet = l.releasedNet
  chargeBales : l.baleCount = (l.charges.map (fun c => c.bales)).sum
  chargeNet : l.netTotal = wrap32 (l.charges.map (fun c => c.net)).sum
  tickets : l.ticketsIssued = l.ticketsTaken + (s.lotTickets l.number).length

/-- The law of R7 and R8 with what carries it. A kiln's charge is in the table, names that kiln and is in the state that the
kiln's state gives it (R5); the Press Queue's head is the one UNLOADING kiln and the kilns behind it are the DRIED ones (R123).
An OPEN lot has no charge (R15), and a final ticket number stands on a PRESSED or TICKETED charge (R5). Every bale, ticket
and waiting charge is of a charge at the press (R9, R144), final tickets come last of their charge and close it (R8), and
a ticket's lines are the bales that carry its number (R147, R148). -/
structure State.AccountLaw (s : State) : Prop where
  kilnCharge : ∀ k r, (s.kiln k).charge = some r →
    ∃ c, s.charge? r = some c ∧ c.kiln = k ∧ (s.kiln k).state.chargeState = some c.state
  kilnFree : ∀ k, (s.kiln k).charge = none → (s.kiln k).state = .empty
  pressHead : ∀ k, (s.kiln k).state = .unloading ↔ s.press.queue.head? = some k
  pressTail : ∀ k, (s.kiln k).state = .dried ↔ k ∈ s.press.queue.tail
  opened : ∀ l ∈ s.table.lots, l.state = .opened → l.charges = []
  finals : ∀ l ∈ s.table.lots, ∀ c ∈ l.charges, c.finalTicket ≠ none → c.state = .pressed ∨ c.state = .ticketed
  bales : ∀ b ∈ s.press.bales,
    ∃ c, s.charge? b.charge = some c ∧ c.state.AtPress ∧ (b.ticket = none → c.finalTicket = none)
  waits : ∀ r ∈ s.tickets.wait, ∃ c, s.charge? r = some c ∧ c.state.AtPress ∧ c.finalTicket = none
  waitsOnce : s.tickets.wait.Nodup
  tickets : ∀ t ∈ s.tickets.queue,
    ∃ c, s.charge? t.charge = some c ∧ c.state.AtPress ∧ (t.final = true → c.finalTicket = some t.number)
  finalLast : s.tickets.queue.Pairwise (fun t u => t.final = true → u.charge ≠ t.charge)
  listed : ∀ b ∈ s.press.bales, ∀ n, b.ticket = some n → ∃ t ∈ s.tickets.queue, t.number = n ∧ t.charge = b.charge
  weighed : ∀ b ∈ s.press.bales, b.net = none ↔ b.status ≠ .weighed
  lines : ∀ t ∈ s.tickets.queue, t.lines.map (fun x => (x.bale, some x.net))
    = (s.press.bales.filter (fun b => b.ticket = some t.number)).map (fun b => (b.number, b.net))
  totalNet : ∀ t ∈ s.tickets.queue, t.totalNet = wrap32 (t.lines.map (fun x => x.net)).sum
  accounted : ∀ l ∈ s.table.lots, s.Accounted l

/-! ## The Node Table and the Command Queue (R18, R19, R28, R30) -/

/-- The commanded form is the role's (R18). -/
def Commanded.Fits (c : Commanded) (r : Role) : Prop :=
  match c with
  | .feed _ => r = .picker
  | .divert _ => r = .diverter
  | .press _ => r = .press
  | .setpoint _ => r = .burner

/-- Of these roles there is at most one entry (R19). -/
def Role.Single (r : Role) : Prop :=
  r = .belt ∨ r = .picker ∨ r = .diverter ∨ r = .press ∨ r = .moisture ∨ r = .printer

/-- An entry with an address has a role, a binding exactly when that is PROBE or BURNER, and a commanded state of its role's
form; addresses, single roles and bound pairs stand once (R17, R18, R19). The Poll Queue holds nodes with a cadence (R28); the
Command Queue holds commands of their nodes' roles, one for each node and code (R30). -/
structure State.NodeLaw (s : State) : Prop where
  filled : ∀ i, (s.node i).address = 0 ↔ (s.node i).role = none
  bound : ∀ i, (s.node i).binding.isSome = true ↔ (s.node i).role = some .probe ∨ (s.node i).role = some .burner
  addresses : ∀ i j, (s.node i).address = (s.node j).address → (s.node i).address ≠ 0 → i = j
  singles : ∀ i j r, (s.node i).role = some r → (s.node j).role = some r → r.Single → i = j
  pairs : ∀ i j, (s.node i).role = (s.node j).role → (s.node i).binding = (s.node j).binding →
    (s.node i).binding.isSome = true → i = j
  commanded : ∀ i c, (s.node i).commanded = some c → ∃ r, (s.node i).role = some r ∧ c.Fits r
  polled : ∀ i ∈ s.field.pollQueue, (s.node i).cadence ≠ none
  queued : ∀ e ∈ s.field.commandQueue, ∃ r, (s.node e.node).role = some r ∧ e.payload.Fits r
  queuedOnce : (s.field.commandQueue.map (fun e => (e.node, e.payload.code))).Nodup

/-! ## The choice of the Field Transmit Arbiter (R38) -/

/-- In an active part a choice stands only on a free segment and for a source that has work, and on a free segment a choice
stands whenever a source has work: the arbiter never idles beside waiting work (R38). -/
structure State.ChoiceLaw (s : State) : Prop where
  held : s.active = true → ∀ c, s.field.chosen = some c → s.segmentFree = true ∧ s.holdsWork c = true
  made : s.active = true → s.segmentFree = true → ∀ c, s.holdsWork c = true → s.field.chosen.isSome = true

/-! ## The commands that follow the reason sets (R59, R135, R136) -/

/-- The picker command follows the feed-hold reason set (R59), the press command the Press Queue and the press-hold reason
set (R136), and STORE is held exactly while the free count is at or below the threshold (R135). -/
structure State.CommandsFollow (s : State) : Prop where
  picker : s.feed.picker = s.pickerWanted
  press : s.press.command = s.pressWanted
  store : s.press.hold.store = decide (s.freeCount ≤ s.mgmt.station.threshold)

/-! ## Commands that are not events of an active part -/

/-- The four commands of the supply and the RESET pin (R170). -/
def isPowerCommand : Instr → Bool
  | .powerOn _ _ _ => true
  | .resetPinAssert => true
  | .resetPinRelease _ _ _ => true
  | .powerFail => true
  | _ => false

end Sys2Proof.Machine
end

