-- ==== Sys2Proof/Certificates/Slice0/Obligations.lean ====
section
/-! DEFINITION. The statements for the provers. Where a statement names a shared operation of the model (raise, writeCommanded,
updKiln, updLot, attemptSelection, ...), another statement says what that operation does. State.choosing ch t is t but for the
choice of the Field Transmit Arbiter that stands at the event's end; FieldTransactionStart says for every command which it is. -/

open Sys2Proof Sys2Proof.Machine

/-! ## The machine as a whole -/

/-- A step takes the command at the front of the queue and runs it on the state with the queue's rest. No step ends in a fault or a
refusal: every command has its effect in every state. -/
def Obligations.StepRunsTheFrontCommand : Prop :=
  (∀ (c : Instr) (rest : List Instr) (s : State), s.pending = c :: rest → step s = exec c { s with pending := rest }) ∧
  (∀ s : State, ∃ t, step s = .next t)

/-- With no command waiting, what a step does is the model's own choice (log 1): the part's own event that is due runs, and when none
is due one tenth-second tick passes. A tick of an active part moves every counter and timer by one tenth (R26, R60, R62, R80,
R87, R89, R108, R115, R166, R178) and changes nothing else; an inactive part does nothing. Then when each own event is due (R26,
R38, R54, R60, R62, R87, R89, R91, R92, R103, R108, R115, R166, R178); the order of those due together is the model's choice
(log 3), and so is the tenth as the unit of time (log 4). -/
def Obligations.StepOnAnEmptyQueue : Prop :=
  (∀ (s : State) (c : Instr), s.pending = [] → s.ownEvent = some c → step s = exec c s) ∧
  (∀ s : State, s.pending = [] → s.ownEvent = none → s.active = false → step s = .next s) ∧
  (∀ s : State, s.pending = [] → s.ownEvent = none → s.active = true → ∃ t, step s = .next t ∧
    t.link = { s.link with silence := min 2147483647 (s.link.silence + 1) } ∧
    t.mgmt = { s.mgmt with ticks := s.mgmt.ticks + 1 } ∧
    t.scale = { s.scale with settle := s.scale.settle.map (· - 1), watch := s.scale.watch - 1 } ∧
    (∀ c : CadenceId, t.field.cadences[c] = if s.field.cadences[c].enabled
      then { s.field.cadences[c] with countdown := s.field.cadences[c].countdown - 1 } else s.field.cadences[c]) ∧
    t.field = { s.field with cadences := t.field.cadences } ∧
    t.feed = { s.feed with
      timer := if s.feed.changeover = .steady ∨ s.feed.changeover.isWaiting = true then s.feed.timer else s.feed.timer - 1
      divertWatch := s.feed.divertWatch.map (· - 1) } ∧
    (∀ (k : Kiln) (r : KilnRun), r = s.kiln k →
      ∀ stepRuns totalRuns : Bool,
        (stepRuns = true ↔ r.state = .drying ∨ r.state = .cooling) →
        (totalRuns = true ↔ r.state = .drying ∨ r.state = .cooling ∨ r.state = .hold) →
      t.kiln k = { r with
        stepElapsed := if stepRuns = true ∧ 9 ≤ r.stepFraction then r.stepElapsed + 1 else r.stepElapsed
        stepFraction := if stepRuns = false then r.stepFraction else if 9 ≤ r.stepFraction then 0 else r.stepFraction + 1
        totalElapsed := if totalRuns = false then r.totalElapsed
          else min 4294967295 (if 9 ≤ r.totalFraction then r.totalElapsed + 1 else r.totalElapsed)
        totalFraction := if totalRuns = false then r.totalFraction
          else if 9 ≤ r.totalFraction then 0 else r.totalFraction + 1
        refresh := r.refresh.map (· - 1) }) ∧
    t.kilns = { s.kilns with run := t.kilns.run } ∧
    t.classifier = s.classifier ∧ t.table = s.table ∧ t.press = s.press ∧ t.tickets = s.tickets ∧
    t.power = s.power ∧ t.pending = []) ∧
  (∀ s : State, s.active = false → s.ownEvent = none) ∧
  (∀ s : State, s.active = true →
    ∀ upstream segment draining : Bool, ∀ abortMinutes : Kiln → Nat,
      (upstream = true ↔ s.classifier.sending = none ∧ (s.classifier.reply ≠ none ∨
        (∃ b, s.classifier.block = some b ∧ b.inProgress = true ∧ b.frames ≠ []) ∨
        (s.link.live = true ∧ s.mgmt.notices ≠ []) ∨ s.classifier.forwardQueue ≠ [])) →
      (segment = true ↔ s.field.transaction = none ∧ s.link.driver = false ∧ s.link.fpReceiving = false ∧
        (s.field.commandQueue ≠ [] ∨ s.field.printRequest ≠ none ∨ s.classifier.passQueue ≠ [] ∨ s.field.pollQueue ≠ [])) →
      (draining = true ↔ ∃ p, s.feed.changeover = .draining p) →
      (∀ k d, (s.kiln k).schedule = some d → abortMinutes k = s.kilns.schedules[d].abortCoolMinutes) →
      (∀ k, (s.kiln k).schedule = none → abortMinutes k = 0) →
    ∀ due : List (Bool × Instr), due =
      [(upstream, Instr.upstreamTransmit), (segment, .fieldTransactionStart), (decide (10 ≤ s.mgmt.ticks), .timeSecond),
       (s.link.live && decide (50 ≤ s.link.silence), .linkSilent)] ++
      (List.finRange 8).map (fun c : CadenceId =>
        (s.field.cadences[c].enabled && decide (s.field.cadences[c].countdown = 0), .cadenceExpiry c)) ++
      [(draining && decide (s.feed.timer = 0), .changeoverTimerExpiry),
       (decide (s.feed.divertWatch = some 0) && s.feed.hold.divert, .divertWatchExpiry)] ++
      (List.finRange 6).flatMap (fun k : Kiln =>
        [(decide ((s.kiln k).state = .drying ∧ (s.currentStep k).kind = .ramp ∧
            60 * ((s.kiln k).rampMinute + 1) ≤ (s.kiln k).stepElapsed), .rampMinute k),
         (decide (((s.kiln k).state = .drying ∧ (s.currentStep k).kind = .soak ∨
            (s.kiln k).state = .cooling ∧ (s.kiln k).aborted = false ∧ (s.currentStep k).kind = .cool) ∧
            60 * (s.currentStep k).duration ≤ (s.kiln k).stepElapsed), .stepEnd k),
         (decide ((s.kiln k).state = .drying ∧ (s.currentStep k).kind = .dryTo ∧
            60 * (s.currentStep k).duration ≤ (s.kiln k).stepElapsed), .dryToOvertime k),
         (decide ((s.kiln k).state = .cooling ∧ (s.kiln k).aborted = true ∧
            60 * abortMinutes k ≤ (s.kiln k).stepElapsed), .abortCoolingEnd k),
         (decide ((s.kiln k).refresh = some 0), .refreshTimerExpiry k)]) ++
      [(decide (s.scale.state = .settling ∧ s.scale.settle = some 0), .settleTimeout),
       (decide (s.scale.watch = 0), .converterWatchExpiry)] →
    s.ownEvent = (due.find? (fun x => x.1)).map (fun x => x.2))

/-- What reset leaves, where the spec gives it (R41, R56, R77, R105, R122, R140, R141, R158, R166, R170, R181): a powered part
with every collection empty, the port SILENT, the Node Table empty, the cadences disabled, every kiln EMPTY, the scale
UNCONFIGURED, the press command none, no numbering loaded and station time 0. -/
def Obligations.ResetState : Prop :=
  State.reset.active = true ∧ State.reset.pending = [] ∧
  State.reset.link.live = false ∧ State.reset.link.silence = 0 ∧ State.reset.link.driver = false ∧
  State.reset.link.unsolicited = 0 ∧ State.reset.link.up = { check := 0, length := 0, torn := 0 } ∧
  State.reset.link.fp = { check := 0, length := 0, torn := 0 } ∧
  State.reset.classifier.requests = [] ∧ State.reset.classifier.passQueue = [] ∧
  State.reset.classifier.forwardQueue = [] ∧ State.reset.classifier.reply = none ∧
  State.reset.classifier.dropped = 0 ∧ State.reset.classifier.misdirected = 0 ∧
  (∀ i : RouteIdx, (State.reset.route i).used = false) ∧
  (∀ i : NodeIdx, (State.reset.node i).address = 0 ∧ (State.reset.node i).role = none ∧
    (State.reset.node i).state = .absent ∧ (State.reset.node i).commanded = none) ∧
  (∀ c : CadenceId, State.reset.field.cadences[c] = { enabled := false, period := 10, countdown := 0 }) ∧
  State.reset.field.pollQueue = [] ∧ State.reset.field.commandQueue = [] ∧ State.reset.field.transaction = none ∧
  State.reset.field.passStreak = 0 ∧ State.reset.field.chosen = none ∧
  State.reset.table.lots = [] ∧ (∀ v : Fin 16, (State.reset.table.varieties[v]).valid = false) ∧
  State.reset.feed.feedLot = none ∧ State.reset.feed.beltLot = none ∧ State.reset.feed.changeover = .steady ∧
  State.reset.feed.hold = { stopped := true, changeover := false, noKiln := false, divert := false,
                            chargeLimit := false, operator := false } ∧
  State.reset.feed.picker = .hold ∧ State.reset.feed.fillOrder = [] ∧ State.reset.feed.loading = none ∧
  State.reset.feed.unassigned = 0 ∧
  (∀ k : Kiln, (State.reset.kiln k).state = .empty ∧ (State.reset.kiln k).charge = none ∧
    (State.reset.kilnEntry k).capacity = 0) ∧
  State.reset.scale.state = .unconfigured ∧ State.reset.scale.commands = [] ∧
  State.reset.press.queue = [] ∧ State.reset.press.bales = [] ∧ State.reset.press.command = none ∧
  State.reset.press.hold = { store := false, operator := false } ∧
  State.reset.tickets.baseSet = false ∧ State.reset.tickets.queue = [] ∧ State.reset.tickets.wait = [] ∧
  State.reset.tickets.process = .idle ∧
  State.reset.mgmt.time = 0 ∧ State.reset.mgmt.timeSet = false ∧ State.reset.mgmt.notices = [] ∧
  State.reset.mgmt.overflow = false

/-- R170 for the four commands of the supply and the RESET pin. The end of power-on and the release of RESET start a part
whose other condition of activity holds from the reset values, with the straps sampled; otherwise the part stays inactive.
While RESET is asserted the driver is off and no frame is being sent, and a failed supply loses every record. An inactive part
takes no other event: nothing but the supply and the RESET pin changes it. That an inactive part shows reset values (log 6), and
what a power-on does that finds RESET asserted or the part active (log 22), is the model's choice. -/
def Obligations.PowerAndResetPin : Prop :=
  (∀ (s : State) (addr : BitVec 4) (up fp : BitVec 2), s.power.resetAsserted = false →
    exec (.powerOn addr up fp) s
      = .next { State.reset with pending := s.pending, link := { addr := addr, upRate := up, fpRate := fp } }) ∧
  (∀ (s : State) (addr : BitVec 4) (up fp : BitVec 2), s.power.resetAsserted = true →
    exec (.powerOn addr up fp) s
      = .next { State.reset with pending := s.pending, power := { powered := true, resetAsserted := true } }) ∧
  (∀ (s : State) (addr : BitVec 4) (up fp : BitVec 2), s.power.powered = true →
    exec (.resetPinRelease addr up fp) s
      = .next { State.reset with pending := s.pending, link := { addr := addr, upRate := up, fpRate := fp } }) ∧
  (∀ (s : State) (addr : BitVec 4) (up fp : BitVec 2), s.power.powered = false →
    exec (.resetPinRelease addr up fp) s = .next { s with power := { powered := false, resetAsserted := false } }) ∧
  (∀ s : State, ∃ t, exec .resetPinAssert s = .next t ∧ t.active = false ∧ t.link.driver = false ∧
    t.classifier.sending = none ∧ t.field.transaction = none ∧ t.scale.frame = none) ∧
  (∀ s : State, ∃ t, exec .powerFail s = .next t ∧ t.active = false ∧ t.table.lots = [] ∧ t.press.bales = [] ∧
    t.tickets.queue = [] ∧ t.mgmt.notices = [] ∧ t.link.driver = false) ∧
  (∀ (c : Instr) (s : State), s.active = false → isPowerCommand c = false → exec c s = .next s)

/-! ## The ports -/

/-- R163: the check word's register, its bits and bytes, the order of the check bytes, the receiver's equivalent test, and
the rule's test value. -/
def Obligations.CheckWordRule : Prop :=
  crc [] = 0xFFFF ∧
  (∀ (bs : List Byte) (b : Byte), crc (bs ++ [b]) =
    crcBit (crcBit (crcBit (crcBit (crcBit (crcBit (crcBit (crcBit (crc bs)
      (b.getLsbD 7)) (b.getLsbD 6)) (b.getLsbD 5)) (b.getLsbD 4)) (b.getLsbD 3)) (b.getLsbD 2)) (b.getLsbD 1))
      (b.getLsbD 0)) ∧
  (∀ (r : Word16) (b : Bool), r.getLsbD 15 ≠ b → crcBit r b = (r <<< 1) ^^^ 0x1021) ∧
  (∀ (r : Word16) (b : Bool), r.getLsbD 15 = b → crcBit r b = r <<< 1) ∧
  (∀ (dest src code : Byte) (payload : List Byte),
    (mkFrame dest src code payload).check = crc (dest :: src :: code :: byte payload.length :: payload) ∧
    (mkFrame dest src code payload).bytes = dest :: src :: code :: byte payload.length :: payload ++
      [((mkFrame dest src code payload).check >>> 8).setWidth 8, (mkFrame dest src code payload).check.setWidth 8]) ∧
  (∀ (bs : List Byte) (hi lo : Byte), crc (bs ++ [hi, lo]) = 0 ↔ crc bs = hi ++ lo) ∧
  crc [0x31, 0x32, 0x33, 0x34, 0x35, 0x36, 0x37, 0x38, 0x39] = 0x29B1

/-- R162: the five tests on a reception, in their order, and the valid arrival. -/
def Obligations.JudgementOrder : Prop :=
  (∀ chars : List Byte, chars.length < 4 → judge chars = .torn) ∧
  (∀ (d s c l : Byte) (rest : List Byte), 48 < l.toNat → judge (d :: s :: c :: l :: rest) = .badLength) ∧
  (∀ (d s c l : Byte) (rest : List Byte), l.toNat ≤ 48 → rest.length < l.toNat + 2 →
    judge (d :: s :: c :: l :: rest) = .torn) ∧
  (∀ (d s c l : Byte) (rest : List Byte), l.toNat ≤ 48 → l.toNat + 2 < rest.length →
    judge (d :: s :: c :: l :: rest) = .badLength) ∧
  (∀ (d s c l : Byte) (payload : List Byte) (hi lo : Byte), l.toNat ≤ 48 → payload.length = l.toNat →
    crc (d :: s :: c :: l :: payload) ≠ hi ++ lo →
    judge (d :: s :: c :: l :: payload ++ [hi, lo]) = .badCheck) ∧
  (∀ (d s c l : Byte) (payload : List Byte) (hi lo : Byte), l.toNat ≤ 48 → payload.length = l.toNat →
    crc (d :: s :: c :: l :: payload) = hi ++ lo →
    judge (d :: s :: c :: l :: payload ++ [hi, lo])
      = .valid { dest := d, src := s, code := c, payload := payload, check := hi ++ lo })

/-- A reception that is torn or discarded is counted once in its port's count, and an over-long one closes the receiver until
the idle gap has run; nothing else changes (R161, R162, R164). On the Field Port a wait that has not run out goes on, and one
that has run out ends as its expiry would (R32). That the idle gap of a receiver that is open does nothing is the model's choice
(log 5), and so is the reception as one command (log 24). The picker premise of the Field Port's clauses is kept by every step
(CommandsFollowKept). -/
def Obligations.DamagedReceptionOnlyCounts : Prop :=
  (∀ (s : State) (chars : List Byte), s.active = true → s.link.upOverlong = false → chars ≠ [] → chars.length ≤ 55 →
    (judge chars = .torn → (∃ ch, exec (.upstreamArrival chars) s = .next (State.choosing ch { s with link := { s.link with
      up := { s.link.up with torn := min 65535 (s.link.up.torn + 1) }, upOverlong := decide (55 ≤ chars.length) } }))) ∧
    (judge chars = .badLength →
      (∃ ch, exec (.upstreamArrival chars) s = .next (State.choosing ch { s with link := { s.link with
      up := { s.link.up with length := min 65535 (s.link.up.length + 1) }, upOverlong := decide (55 ≤ chars.length) } }))) ∧
    (judge chars = .badCheck →
      (∃ ch, exec (.upstreamArrival chars) s = .next (State.choosing ch { s with link := { s.link with
      up := { s.link.up with check := min 65535 (s.link.up.check + 1) }, upOverlong := decide (55 ≤ chars.length) } })))) ∧
  (∀ (s : State) (chars : List Byte), s.active = true → s.link.upOverlong = true →
    (∃ ch, exec (.upstreamArrival chars) s = .next (State.choosing ch s))) ∧
  (∀ s : State, s.active = true →
    (∃ ch, exec (.overlongIdleGap .upstream) s
      = .next (State.choosing ch { s with link := { s.link with upOverlong := false } }))) ∧
  (∀ (s : State) (chars : List Byte), s.active = true → s.link.fpOverlong = false → s.link.driver = false →
    chars ≠ [] → chars.length ≤ 55 → s.feed.picker = s.pickerWanted →
    (∀ t, s.field.transaction = some t → t.waitRunOut = false) →
    (judge chars = .torn → (∃ ch, exec (.fieldArrival chars) s = .next (State.choosing ch { s with link := { s.link with
      fp := { s.link.fp with torn := min 65535 (s.link.fp.torn + 1) }
      fpReceiving := false, fpOverlong := decide (55 ≤ chars.length) } }))) ∧
    (judge chars = .badLength → (∃ ch, exec (.fieldArrival chars) s = .next (State.choosing ch { s with link := { s.link with
      fp := { s.link.fp with length := min 65535 (s.link.fp.length + 1) }
      fpReceiving := false, fpOverlong := decide (55 ≤ chars.length) } }))) ∧
    (judge chars = .badCheck → (∃ ch, exec (.fieldArrival chars) s = .next (State.choosing ch { s with link := { s.link with
      fp := { s.link.fp with check := min 65535 (s.link.fp.check + 1) }
      fpReceiving := false, fpOverlong := decide (55 ≤ chars.length) } })))) ∧
  (∀ (s : State) (chars : List Byte) (t : Transaction), s.active = true → s.link.fpOverlong = false →
    s.link.driver = false → chars ≠ [] → chars.length ≤ 55 → s.feed.picker = s.pickerWanted →
    s.field.transaction = some t → t.waitRunOut = true → t.sending = false → t.kind ≠ .broadcast →
    (judge chars = .torn → exec (.fieldArrival chars) s = exec .transactionWindowExpiry { s with link := { s.link with
      fp := { s.link.fp with torn := min 65535 (s.link.fp.torn + 1) }
      fpReceiving := false, fpOverlong := decide (55 ≤ chars.length) } }) ∧
    (judge chars = .badLength → exec (.fieldArrival chars) s = exec .transactionWindowExpiry { s with link := { s.link with
      fp := { s.link.fp with length := min 65535 (s.link.fp.length + 1) }
      fpReceiving := false, fpOverlong := decide (55 ≤ chars.length) } }) ∧
    (judge chars = .badCheck → exec (.fieldArrival chars) s = exec .transactionWindowExpiry { s with link := { s.link with
      fp := { s.link.fp with check := min 65535 (s.link.fp.check + 1) }
      fpReceiving := false, fpOverlong := decide (55 ≤ chars.length) } })) ∧
  (∀ (s : State) (chars : List Byte), s.active = true → (s.link.fpOverlong = true ∨ s.link.driver = true) →
    s.feed.picker = s.pickerWanted → (∃ ch, exec (.fieldArrival chars) s = .next (State.choosing ch s))) ∧
  (∀ s : State, s.active = true →
    (∃ ch, exec (.overlongIdleGap .field) s
      = .next (State.choosing ch { s with link := { s.link with fpOverlong := false } })))

/-- R166: a valid arrival makes the port LIVE with silence count 0, and raises LINK-RESTORED with the silence in whole seconds
when the port was SILENT, before it is classified; a frame for no one (R42) does nothing more. The silence count reaching
50 tenths in LIVE makes the port SILENT and raises nothing; that LINK_SILENT on a SILENT port changes nothing is the model's
choice (log 5). -/
def Obligations.LinkLiveness : Prop :=
  (∀ (s : State) (chars : List Byte) (f : Frame), s.active = true → s.link.upOverlong = false → chars.length ≤ 54 →
    judge chars = .valid f → 0xE0 ≤ f.dest.toNat → f.dest ≠ 0xFF → f.dest ≠ s.ownAddress → s.link.live = true →
    (∃ ch, exec (.upstreamArrival chars) s = .next (State.choosing ch { s with link := { s.link with silence := 0 } }))) ∧
  (∀ (s : State) (chars : List Byte) (f : Frame), s.active = true → s.link.upOverlong = false → chars.length ≤ 54 →
    judge chars = .valid f → 0xE0 ≤ f.dest.toNat → f.dest ≠ 0xFF → f.dest ≠ s.ownAddress → s.link.live = false →
    (∃ ch, exec (.upstreamArrival chars) s
      = .next (State.choosing ch ({ s with link := { s.link with live := true, silence := 0 } }.raise .linkRestored 0
          ((s.link.silence / 10 : Nat) : Int))))) ∧
  (∀ s : State, s.active = true → s.link.live = true → s.link.silence = 50 →
    (∃ ch, exec .linkSilent s = .next (State.choosing ch { s with link := { s.link with live := false } }))) ∧
  (∀ s : State, s.active = true → s.link.live = false → (∃ ch, exec .linkSilent s = .next (State.choosing ch s)))

/-- R42 to R46: what becomes of a valid arrival on the Upstream Port, t being the state after liveness has been acted on
(LinkLiveness). A request to an empty buffer is RequestOverTheWire's. Then R45's judgement: which frames are aimed at an owned
actuator, and which entries are owned. -/
def Obligations.UpstreamClassification : Prop :=
  (∀ (s : State) (chars : List Byte) (f : Frame), s.active = true → s.link.upOverlong = false → chars.length ≤ 54 →
     judge chars = .valid f → ∀ t : State, t = s.validArrival →
     (f.dest = s.ownAddress → f.code ≠ codeRequest →
       (∃ ch, exec (.upstreamArrival chars) s = .next (State.choosing ch { t with classifier := { t.classifier with
         misdirected := min 65535 (s.classifier.misdirected + 1) } }))) ∧
     (f.dest = s.ownAddress → f.code = codeRequest → 4 ≤ s.classifier.requests.length →
       (∃ ch, exec (.upstreamArrival chars) s = .next (State.choosing ch { t with classifier := { t.classifier with
         dropped := min 65535 (s.classifier.dropped + 1) } }))) ∧
     (f.dest = s.ownAddress → f.code = codeRequest → 0 < s.classifier.requests.length →
       s.classifier.requests.length < 4 →
       (∃ ch, exec (.upstreamArrival chars) s = .next (State.choosing ch { t with classifier := { t.classifier with
         requests := s.classifier.requests ++ [f] } }))) ∧
     ((1 ≤ f.dest.toNat ∧ f.dest.toNat ≤ 0xDF ∨ f.dest = 0xFF) → s.passOwned f = true →
       (∃ ch, exec (.upstreamArrival chars) s = .next (State.choosing ch (t.raise .passRefused f.dest.toNat f.code.toNat)))) ∧
     ((1 ≤ f.dest.toNat ∧ f.dest.toNat ≤ 0xDF ∨ f.dest = 0xFF) → s.passOwned f = false →
       s.classifier.passQueue.length < 8 →
       (∃ ch, exec (.upstreamArrival chars) s = .next (State.choosing ch { t with classifier := { t.classifier with
         passQueue := s.classifier.passQueue ++ [f] } }))) ∧
     ((1 ≤ f.dest.toNat ∧ f.dest.toNat ≤ 0xDF ∨ f.dest = 0xFF) → s.passOwned f = false →
       8 ≤ s.classifier.passQueue.length →
       (∃ ch, exec (.upstreamArrival chars) s = .next (State.choosing ch (t.raise .passDropped f.dest.toNat f.code.toNat)))) ∧
     (f.dest ≠ s.ownAddress → (f.dest = 0 ∨ 0xE0 ≤ f.dest.toNat) → f.dest ≠ 0xFF →
       (∃ ch, exec (.upstreamArrival chars) s = .next (State.choosing ch t)))) ∧
  (∀ (s : State) (f : Frame), s.passOwned f = true ↔
    (f.code = 0x44 ∨ f.code = 0x45 ∨ f.code = 0x46 ∨ f.code = 0x47) ∧
    (f.dest = 0xFF ∧ (∃ i, s.owned (s.node i) = true) ∨
     f.dest ≠ 0xFF ∧ ∃ i, s.addressNode f.dest = some i ∧ s.owned (s.node i) = true)) ∧
  (∀ (s : State) (n : Node), s.owned n = true ↔
    (n.role = some .burner ∧ ∃ k, n.binding = some k ∧ ((s.kiln k).state = .loaded ∨ (s.kiln k).state = .drying ∨
      (s.kiln k).state = .hold ∨ (s.kiln k).state = .cooling)) ∨
    (n.role = some .picker ∧ (s.feed.hold ≠ { stopped := false } ∨ s.feed.feedLot ≠ none)) ∨
    (n.role = some .diverter ∧ ∃ k, (s.kiln k).state = .loading) ∨
    (n.role = some .press ∧ s.press.queue ≠ []))

/-- R54: the Upstream Transmit Arbiter's order on a free line: the pending REPLY, the next segment of a ticket block in
progress, the Notice Queue's head while LIVE, with its payload of 20 bytes (11.7), the Forward Queue's head. A notice goes into
transmission in its place (R183); a forward leaves its queue (R53). That the command changes nothing when no source has a frame,
or while a frame is being sent, is the model's choice (log 5). -/
def Obligations.UpstreamTransmitOrder : Prop :=
  ∀ s : State, s.active = true →
    (∀ u, s.classifier.sending = some u → (∃ ch, exec .upstreamTransmit s = .next (State.choosing ch s))) ∧
    (∀ f, s.classifier.sending = none → s.classifier.reply = some f →
      (∃ ch, exec .upstreamTransmit s = .next (State.choosing ch { s with classifier := { s.classifier with
        sending := some { source := .reply, frame := f } } }))) ∧
    (∀ f rest, s.classifier.sending = none → s.classifier.reply = none →
      s.classifier.block = some { frames := f :: rest, inProgress := true } →
      (∃ ch, exec .upstreamTransmit s = .next (State.choosing ch { s with classifier := { s.classifier with
        sending := some { source := .segment, frame := f } } }))) ∧
    (∀ n rest, s.classifier.sending = none → s.classifier.reply = none → (∀ b, s.classifier.block = some b → b.inProgress = false ∨ b.frames = []) →
      s.link.live = true → s.mgmt.notices = n :: rest → ∀ payload : List Byte,
      payload = [byte n.kind.code, if n.kind.isAlarm = true then 0 else 1] ++ be32 n.object ++ noticeValue n.value ++
        bytes32 n.first ++ bytes32 n.last ++ [byte n.count, 0] →
      (∃ ch, exec .upstreamTransmit s = .next (State.choosing ch { s with
        classifier := { s.classifier with sending := some { source := .notice, frame := mkFrame 0x00 s.ownAddress 0x62 payload } }
        mgmt := { s.mgmt with notices := { n with sending := true } :: rest } }))) ∧
    (∀ f rest, s.classifier.sending = none → s.classifier.reply = none → (∀ b, s.classifier.block = some b → b.inProgress = false ∨ b.frames = []) →
      (s.link.live = false ∨ s.mgmt.notices = []) → s.classifier.forwardQueue = f :: rest →
      (∃ ch, exec .upstreamTransmit s = .next (State.choosing ch { s with classifier := { s.classifier with
        sending := some { source := .forward, frame := f }, forwardQueue := rest } }))) ∧
    (s.classifier.sending = none → s.classifier.reply = none → (∀ b, s.classifier.block = some b → b.inProgress = false ∨ b.frames = []) →
      (s.link.live = false ∨ s.mgmt.notices = []) → s.classifier.forwardQueue = [] →
      (∃ ch, exec .upstreamTransmit s = .next (State.choosing ch s)))

/-- R55, R171, R183: the end of a frame sent upstream. A reply with no ticket block completes its request, and a request behind
it is executed at once; a reply with a block makes the block the arbiter's source; the last segment completes the request; a
notice sent leaves the queue, or stands again with its renewals; a forward is done. Then what executing a request is: its
effects, and its REPLY pending. That the command changes nothing with no frame being sent is the model's choice (log 5), and so
is that one command stands for the frame's last character and the transmit gap after it (log 29). -/
def Obligations.UpstreamFrameSent : Prop :=
  (∀ s : State, s.active = true →
    (s.classifier.sending = none → (∃ ch, exec .upstreamFrameSent s = .next (State.choosing ch s))) ∧
    (∀ f r, s.classifier.sending = some { source := .reply, frame := f } → s.classifier.block = none →
      s.classifier.requests = [r] →
      (∃ ch, exec .upstreamFrameSent s = .next (State.choosing ch { s with classifier := { s.classifier with
        sending := none, reply := none, requests := [], block := none } }))) ∧
    (∀ f r g rest, s.classifier.sending = some { source := .reply, frame := f } → s.classifier.block = none →
      s.classifier.requests = r :: g :: rest →
      (∃ ch, exec .upstreamFrameSent s
        = .next (State.choosing ch (State.executeFrame { s with classifier := { s.classifier with
        sending := none, reply := none, requests := g :: rest, block := none } } g)))) ∧
    (∀ f b, s.classifier.sending = some { source := .reply, frame := f } → s.classifier.block = some b →
      (∃ ch, exec .upstreamFrameSent s = .next (State.choosing ch { s with classifier := { s.classifier with
        sending := none, reply := none, block := some { b with inProgress := true } } }))) ∧
    (∀ f g h rest b, s.classifier.sending = some { source := .segment, frame := f } →
      s.classifier.block = some { frames := g :: h :: rest, inProgress := b } →
      (∃ ch, exec .upstreamFrameSent s = .next (State.choosing ch { s with classifier := { s.classifier with
        sending := none, block := some { frames := h :: rest, inProgress := b } } }))) ∧
    (∀ f g r b, s.classifier.sending = some { source := .segment, frame := f } →
      s.classifier.block = some { frames := [g], inProgress := b } → s.classifier.requests = [r] →
      (∃ ch, exec .upstreamFrameSent s = .next (State.choosing ch { s with classifier := { s.classifier with
        sending := none, requests := [], block := none } }))) ∧
    (∀ f g r h rest b, s.classifier.sending = some { source := .segment, frame := f } →
      s.classifier.block = some { frames := [g], inProgress := b } → s.classifier.requests = r :: h :: rest →
      (∃ ch, exec .upstreamFrameSent s
        = .next (State.choosing ch (State.executeFrame { s with classifier := { s.classifier with
        sending := none, requests := h :: rest, block := none } } h)))) ∧
    (∀ f n rest, s.classifier.sending = some { source := .notice, frame := f } → s.mgmt.notices = n :: rest →
      n.renewals = 0 →
      (∃ ch, exec .upstreamFrameSent s = .next (State.choosing ch { s with
        classifier := { s.classifier with sending := none }, mgmt := { s.mgmt with notices := rest } }))) ∧
    (∀ f n rest, s.classifier.sending = some { source := .notice, frame := f } → s.mgmt.notices = n :: rest →
      0 < n.renewals →
      (∃ ch, exec .upstreamFrameSent s = .next (State.choosing ch { s with
        classifier := { s.classifier with sending := none }
        mgmt := { s.mgmt with notices :=
          { n with sending := false, count := n.renewals, first := n.renewalTime, renewals := 0 } :: rest } }))) ∧
    (∀ f, s.classifier.sending = some { source := .forward, frame := f } →
      (∃ ch, exec .upstreamFrameSent s
        = .next (State.choosing ch { s with classifier := { s.classifier with sending := none } })))) ∧
  (∀ (s : State) (f : Frame) (kind tag : Byte) (a : Answer), performPayload f.payload s = (kind, tag, a) →
    s.executeFrame f = { a.state with classifier := { a.state.classifier with
      reply := some (mkFrame 0x00 a.state.ownAddress 0x61 (kind :: tag :: a.result.code :: a.data)) } })

/-- R178: station time rises by 1 at each second and wraps after 0xFFFFFFFF; TIME-SET answers the old and the new value, sets
the time, starts the second anew and sets the TIME-SET flag. -/
def Obligations.StationTime : Prop :=
  (∀ s : State, s.active = true →
    (∃ ch, exec .timeSecond s
      = .next (State.choosing ch { s with mgmt := { s.mgmt with time := s.mgmt.time + 1, ticks := 0 } }))) ∧
  (∀ (s : State) (tag : Byte) (time : Word32), s.Ready →
    (∃ ch, exec (.timeSet tag time) s = .next (State.choosing ch (State.replied
      { s with mgmt := { s.mgmt with time := time, ticks := 0, timeSet := true } } tag (.timeSet time) .ok
      (bytes32 s.mgmt.time ++ bytes32 time)))))

/-! ## Requests -/

/-- R185, R186 and 11.7: the bytes of a field: high byte first, two's complement, the absent codes, a present value that equals
its absent code one unit nearer zero, the flags, the commanded states, the sets with bit 0 first, the codes of the enumerated
fields both ways, the result codes, and the codes and classes of the notice kinds. -/
def Obligations.FieldCodes : Prop :=
  (∀ n : Nat, be16 n = [byte (n / 256), byte n] ∧
    be32 n = [byte (n / 16777216), byte (n / 65536), byte (n / 256), byte n]) ∧
  (∀ i : Int, int16 i = be16 (i % 65536).toNat ∧ int32 i = be32 (i % 4294967296).toNat) ∧
  (∀ i : Int, -8388608 ≤ i → i ≤ 8388607 → ∀ n : Nat, n = (i % 16777216).toNat →
    int24 i = [byte (n / 65536), byte (n / 256), byte n]) ∧
  (∀ i : Int, (i < -8388608 → int24 i = [0x80, 0x00, 0x00]) ∧ (8388607 < i → int24 i = [0x7F, 0xFF, 0xFF])) ∧
  (∀ (w : Word16) (x : Word32), bytes16 w = be16 w.toNat ∧ bytes32 x = be32 x.toNat) ∧
  flagByte false = 0 ∧ flagByte true = 1 ∧
  optByte none = [0xFF] ∧ (∀ n, optByte (some n) = [byte n]) ∧
  kilnByte none = 0xFF ∧ (∀ k : Kiln, kilnByte (some k) = byte k.val) ∧
  optU16 none = [0xFF, 0xFF] ∧ (∀ n, n ≤ 65535 → optU16 (some n) = be16 (if n = 0xFFFF then 0xFFFE else n)) ∧
  optI16 none = [0x7F, 0xFF] ∧
  (∀ i, -32768 ≤ i → i ≤ 32767 → optI16 (some i) = int16 (if i = 0x7FFF then 0x7FFE else i)) ∧
  optU32 none = [0xFF, 0xFF, 0xFF, 0xFF] ∧
  (∀ n, n ≤ 4294967295 → optU32 (some n) = be32 (if n = 0xFFFFFFFF then 0xFFFFFFFE else n)) ∧
  optTime none = [0xFF, 0xFF, 0xFF, 0xFF] ∧
  (∀ t : Time, optTime (some t) = be32 (if t.toNat = 0xFFFFFFFF then 0xFFFFFFFE else t.toNat)) ∧
  optI32 none = [0x7F, 0xFF, 0xFF, 0xFF] ∧
  (∀ i, -2147483648 ≤ i → i ≤ 2147483647 → optI32 (some i) = int32 (if i = 0x7FFFFFFF then 0x7FFFFFFE else i)) ∧
  noticeValue none = [0x7F, 0xFF, 0xFF, 0xFF] ∧
  (∀ v : Word32, noticeValue (some v) = be32 (if v.toNat = 0x7FFFFFFF then 0x7FFFFFFE else v.toNat)) ∧
  numberBytes 0 = [0xFF, 0xFF, 0xFF, 0xFF] ∧ (∀ n, n ≠ 0 → numberBytes n = be32 n) ∧
  commandedField none = [0xFF, 0xFF, 0xFF, 0xFF] ∧
  (∀ v : RunHold, commandedField (some (.feed v)) = [byte v.code, 0, 0, 0] ∧
    commandedField (some (.press v)) = [byte v.code, 0, 0, 0]) ∧
  (∀ k : Option Kiln, commandedField (some (.divert k)) = [kilnByte k, 0, 0, 0]) ∧
  (∀ b : BurnerCommand, commandedField (some (.setpoint b)) = int16 b.setpoint ++ [byte b.fan, flagByte b.enabled]) ∧
  (∀ h : FeedHold, [0, 1, 2, 3, 4, 5, 6, 7].map h.byte.getLsbD
    = [h.stopped, h.changeover, h.noKiln, h.divert, h.chargeLimit, h.operator, false, false]) ∧
  (∀ h : PressHoldSet, [0, 1, 2, 3, 4, 5, 6, 7].map h.byte.getLsbD
    = [h.store, h.operator, false, false, false, false, false, false]) ∧
  (∀ h : KilnHoldSet, [0, 1, 2, 3, 4, 5, 6, 7].map h.byte.getLsbD
    = [h.limit, h.probe, h.burner, h.overtime, h.operator, false, false, false]) ∧
  (∀ c : Charge, [0, 1, 2, 3, 4, 5, 6, 7].map c.flags.getLsbD
    = [c.short, c.aborted, c.held, c.overtime, false, false, false, false]) ∧
  (∀ b : Bale, [0, 1, 2, 3, 4, 5, 6, 7].map b.flags.getLsbD
    = [b.manual, b.low, b.high, b.wet, decide (b.tareCode = none), false, false, false]) ∧
  (∀ l : TicketLine, [0, 1, 2, 3, 4, 5, 6, 7].map l.flags.getLsbD
    = [l.manual, l.low, l.high, l.wet, l.tareUnknown, false, false, false]) ∧
  (∀ t : Ticket, [0, 1, 2, 3, 4, 5, 6, 7].map t.flags.getLsbD
    = [t.final, t.short, t.aborted, t.held, t.overtime, t.manual, t.tolerance, t.wet]) ∧
  [Role.belt, .probe, .burner, .picker, .diverter, .press, .moisture, .printer, .other].map Role.code
    = [1, 2, 3, 4, 5, 6, 7, 8, 9] ∧
  (∀ (n : Nat) (r : Role), Role.ofCode n = some r ↔ r.code = n) ∧
  [NodeState.absent, .unknown, .online, .lost].map NodeState.code = [0, 1, 2, 3] ∧
  [RunHold.hold, .run].map RunHold.code = [0, 1] ∧
  [RouteAction.none, .drop, .forward, .green, .kilnAir, .kilnExhaust, .baleEvent, .moisture].map RouteAction.code
    = [0, 1, 2, 3, 4, 5, 6, 7] ∧
  (∀ (n : Nat) (a : RouteAction), RouteAction.ofCode n = some a ↔ a ≠ .none ∧ a.code = n) ∧
  [EventSelector.none, .onScale, .offScale, .unloadDone].map EventSelector.code = [0, 1, 2, 3] ∧
  (∀ (n : Nat) (e : EventSelector), EventSelector.ofCode n = some e ↔ e.code = n) ∧
  [RouteDefault.forward, .drop].map RouteDefault.code = [0, 1] ∧
  (∀ (n : Nat) (d : RouteDefault), RouteDefault.ofCode n = some d ↔ d.code = n) ∧
  [LotState.opened, .feeding, .finished].map LotState.code = [0, 1, 2] ∧
  [ChargeState.filling, .kilning, .awaitPress, .pressing, .pressed, .ticketed].map ChargeState.code = [0, 1, 2, 3, 4, 5] ∧
  [KilnState.empty, .loading, .loaded, .drying, .hold, .cooling, .dried, .unloading].map KilnState.code
    = [0, 1, 2, 3, 4, 5, 6, 7] ∧
  [StepKind.fin, .ramp, .soak, .dryTo, .cool].map StepKind.code = [0, 1, 2, 3, 4] ∧
  (∀ (n : Nat) (k : StepKind), StepKind.ofCode n = some k ↔ k.code = n) ∧
  [0, 1, 2].map ResumeMode.ofCode = [some .continue, some .extend, some .next] ∧
  (∀ n, 2 < n → ResumeMode.ofCode n = none) ∧
  (∀ p, [Changeover.steady, .draining p, .waiting p].map Changeover.code = [0, 1, 2]) ∧
  [ScaleState.unconfigured, .idle, .settling, .clearing, .fault].map ScaleState.code = [0, 1, 2, 3, 4] ∧
  [FaultCause.ready, .overrange, .reference].map FaultCause.code = [1, 2, 3] ∧
  [HoldReason.limit, .probe, .burner, .overtime, .operator].map HoldReason.code = [0, 1, 2, 3, 4] ∧
  [BaleStatus.weighing, .weighed, .awaitingWeight].map BaleStatus.code = [0, 1, 2] ∧
  [PrintState.unprinted, .printing, .printed, .failed].map PrintState.code = [0, 1, 2, 3] ∧
  [Result.ok, .format, .range, .state, .inUse, .full, .unknown, .conflict, .notReady].map Result.code
    = [0, 1, 2, 3, 4, 5, 6, 7, 8] ∧
  (∀ alarms infos : List NoticeKind,
    alarms = [.nodeLost, .commandRefused, .kilnHold, .kilnOvertime, .feedHeld, .pressHeld, .scaleFault, .baleUnrecorded,
      .beltJump, .printerFault, .chargeLimit] →
    infos = [.nodeBack, .pollOverrun, .passDropped, .passRefused, .passTimeout, .routeMismatch, .linkRestored, .spill,
      .shortCharge, .kilnDried, .baleTolerance, .scaleSequence, .ticketReady] →
    (alarms ++ infos).map NoticeKind.code = (List.range 24).map (· + 1) ∧
    (∀ k ∈ alarms, k.isAlarm = true) ∧ (∀ k ∈ infos, k.isAlarm = false))

/-- The encoding of a request: for every request, with every operand at every value, the arguments laid out at the widths of
11.3 read back as that request, and executing a REQUEST payload runs the request it carries. -/
def Obligations.RequestDecodesAsEncoded : Prop :=
  (∀ r : Request, decodeRequest r.kind r.args = some r) ∧
  (∀ (r : Request) (tag : Byte) (s : State),
    performPayload (r.payload tag) s = (r.kind, tag, performRequest r s)) ∧
  (∀ r q : Request, ∀ tag tag' : Byte, r.payload tag = q.payload tag' → r = q ∧ tag = tag')

/-- R173, with the lengths of R69 and R174 and the reserved fields of the table images of 11.4: what is refused FORMAT for its
form, and what its reply carries for the kind and the tag. -/
def Obligations.MalformedRequestIsRefusedFormat : Prop :=
  ∀ s : State,
    performPayload [] s = (0, 0, refuse s .format) ∧
    (∀ k : Byte, performPayload [k] s = (k, 0, refuse s .format)) ∧
    (∀ (k tag : Byte) (args : List Byte), (∀ r : Request, r.kind ≠ k) →
      performPayload (k :: tag :: args) s = (k, tag, refuse s .format)) ∧
    (∀ (r : Request) (tag : Byte) (args : List Byte), (∀ t i im, r ≠ .tableWrite t i im) → (∀ c ks, r ≠ .fillOrder c ks) →
      args.length ≠ r.args.length → performPayload (r.kind :: tag :: args) s = (r.kind, tag, refuse s .format)) ∧
    (∀ (tag : Byte) (args : List Byte), args.length < 2 →
      performPayload (0x02 :: tag :: args) s = (0x02, tag, refuse s .format)) ∧
    (∀ tag : Byte, performPayload [0x1A, tag] s = (0x1A, tag, refuse s .format)) ∧
    (∀ (count : Byte) (kilns : List Byte), kilns.length ≠ count.toNat →
      performRequest (.fillOrder count kilns) s = refuse s .format) ∧
    (∀ (table index : Byte) (image : List Byte), 9 < table.toNat →
      performRequest (.tableWrite table index image) s = refuse s .format) ∧
    (∀ (table index : Byte) (image : List Byte) (n : Nat),
      [8, 8, 4, 12, 8, 10, 18, 4, 20, 8][table.toNat]? = some n → image.length ≠ n →
      performRequest (.tableWrite table index image) s = refuse s .format) ∧
    (∀ (table index : Byte) (image : List Byte) (n : Nat) (reserved : List Nat),
      [8, 8, 4, 12, 8, 10, 18, 4, 20, 8][table.toNat]? = some n → image.length = n →
      [[6, 7], [7], [1], [10, 11], [7], [1, 9], [5, 16, 17], [2, 3], [], [6, 7]][table.toNat]? = some reserved →
      (∃ i ∈ reserved, ∃ b, image[i]? = some b ∧ b ≠ 0) →
      performRequest (.tableWrite table index image) s = refuse s .format) ∧
    (∀ (index f : Byte) (rest : List Byte), rest.length = 7 → 8 ≤ f.toNat →
      performRequest (.tableWrite 1 index (f :: rest)) s = refuse s .format)

/-- R43, R171: for every request row, a buffer of four drops the request and counts it; a buffer that holds another appends it
and executes nothing; an empty one takes it and executes it at once, its reply pending (that a request row is an arrival at the
Request Buffer is the model's choice, log 9). R172: a refused request changes no state and carries no data; for every request
row on a ready part, a refusal leaves the part as it was but for the request in its buffer and the pending REPLY, which holds
the kind, the tag and the result. -/
def Obligations.RequestBufferAdmission : Prop :=
  (∀ (c : Instr) (tag : Byte) (r : Request) (s : State), requestOf c = some (tag, r) → s.active = true →
    (4 ≤ s.classifier.requests.length →
      (∃ ch, exec c s
        = .next (State.choosing ch { s with classifier := { s.classifier with dropped := min 65535 (s.classifier.dropped + 1) } }))) ∧
    (0 < s.classifier.requests.length → s.classifier.requests.length < 4 →
      (∃ ch, exec c s = .next (State.choosing ch { s with classifier := { s.classifier with
        requests := s.classifier.requests ++ [s.requestFrame tag r] } }))) ∧
    (s.classifier.requests = [] →
      (∃ ch, exec c s = .next (State.choosing ch ((performRequest r (s.admitted tag r)).state.answering tag r
        (performRequest r (s.admitted tag r)).result (performRequest r (s.admitted tag r)).data))))) ∧
  (∀ (r : Request) (s : State), (performRequest r s).result ≠ .ok → performRequest r s = refuse s (performRequest r s).result) ∧
  (∀ (c : Instr) (tag : Byte) (r : Request) (s : State), requestOf c = some (tag, r) → s.Ready →
    (performRequest r (s.admitted tag r)).result ≠ .ok →
    (∃ ch, exec c s = .next (State.choosing ch (s.replied tag r (performRequest r (s.admitted tag r)).result [])))) ∧
  (∀ (s : State) (tag : Byte) (r : Request) (res : Result),
    (s.replied tag r res []).classifier.reply
      = some (mkFrame 0x00 s.ownAddress 0x61 [r.kind, tag, res.code]))

/-- A frame that the part originates is a valid arrival at its receiver, with its header and payload (R160, R162, R163). The bytes
of a REQUEST frame, arriving on the Upstream Port of an active part, make the port LIVE (R166) and then do what the request's
row does: the wire and the row agree, for every request that fits a frame. That a request row is an arrival is the model's
choice (log 9), and so is a reception as one command (log 24). -/
def Obligations.RequestOverTheWire : Prop :=
  (∀ (dest src code : Byte) (payload : List Byte), payload.length ≤ 48 →
    judge (mkFrame dest src code payload).bytes = .valid (mkFrame dest src code payload)) ∧
  (∀ (c : Instr) (tag : Byte) (r : Request) (s : State), requestOf c = some (tag, r) → s.active = true →
    s.link.upOverlong = false → r.args.length ≤ 46 →
    exec (.upstreamArrival (s.requestFrame tag r).bytes) s = exec c s.validArrival)

/-- R104, R120, R175, R177: the requests that read. Each leaves the part as it was but for the buffer and the reply, and carries the
image named; a STATUS that clears zeroes the nine counts and the overflow flag after its page is made. The entry that
TABLE-READ returns, by table and index, is in the images of 11.4, with the runtime fields of R175, and there is none beyond a
table's entry count (10.2). Then the bytes of the kiln image, of both STATUS pages, of the ten table images and of the NODE
runtime fields, field by field (11.4, 11.5; the fields' own bytes are FieldCodes'). The step kind of a kiln image outside
DRYING, HOLD and COOLING is the model's choice (log 16). -/
def Obligations.ReadsChangeNothing : Prop :=
  (∀ (s : State) (tag : Byte), s.Ready →
     (∀ (b : Byte) (k : Kiln), kilnOf b = some k →
       (∃ ch, exec (.kilnRead tag b) s = .next (State.choosing ch (s.replied tag (.kilnRead b) .ok (s.kilnImage k))))) ∧
     (∀ b : Byte, 6 ≤ b.toNat →
       (∃ ch, exec (.kilnRead tag b) s = .next (State.choosing ch (s.replied tag (.kilnRead b) .range [])))) ∧
     (∀ k : Kiln, (s.kilnImage k).length = 42) ∧ s.statusPage0.length = 35 ∧ s.statusPage1.length = 36 ∧
     (∃ ch, exec (.scaleRead tag) s = .next (State.choosing ch (s.replied tag .scaleRead .ok
       ([byte s.scale.state.code, (if s.scale.captured = true then 1 else 0) + (if s.scale.cycleOpen = true then 2 else 0) +
           (if s.scale.stable ≠ none then 4 else 0)] ++
         optI32 (s.scale.lastBlock.bind (fun b => b.weight)) ++ optI32 (s.scale.lastBlock.map (fun b => b.raw)) ++
         optI32 s.scale.stable ++
         [byte s.scale.samples.length, byte s.scale.commands.length,
          byte (if s.scale.state = .settling then (s.scale.settle.getD 0 + 9) / 10 else 0), byte s.scale.good])))) ∧
     (∀ (table index part : Byte), 9 < table.toNat →
       (∃ ch, exec (.tableRead tag table index part) s
         = .next (State.choosing ch (s.replied tag (.tableRead table index part) .format [])))) ∧
     (∀ (table index : Byte) (bs : List Byte), table.toNat ≤ 9 → s.entryImage table.toNat index.toNat = some bs →
       (∃ ch, exec (.tableRead tag table index 0) s
         = .next (State.choosing ch (s.replied tag (.tableRead table index 0) .ok (table :: index :: 0 :: bs))))) ∧
     (∀ (table index : Byte) (bs : List Byte), table.toNat ≤ 9 → s.entryRuntime table.toNat index.toNat = some bs →
       (∃ ch, exec (.tableRead tag table index 1) s
         = .next (State.choosing ch (s.replied tag (.tableRead table index 1) .ok (table :: index :: 1 :: bs))))) ∧
     (∀ (table index part : Byte), table.toNat ≤ 9 →
       (1 < part.toNat ∨ s.entryImage table.toNat index.toNat = none ∨
         (part = 1 ∧ s.entryRuntime table.toNat index.toNat = none)) →
       (∃ ch, exec (.tableRead tag table index part) s
         = .next (State.choosing ch (s.replied tag (.tableRead table index part) .range [])))) ∧
     (∀ page : Byte, page.toNat ≤ 1 →
       (∃ ch, exec (.status tag 0 page) s = .next (State.choosing ch (s.replied tag (.status 0 page) .ok
       (if page = 1 then (s.admitted tag (.status 0 page)).statusPage1
        else (s.admitted tag (.status 0 page)).statusPage0))))) ∧
     (∃ ch, exec (.status tag 1 0) s = .next (State.choosing ch (State.replied
       { s with
         link := { s.link with
           up := { check := 0, length := 0, torn := 0 }, fp := { check := 0, length := 0, torn := 0 }, unsolicited := 0 }
         classifier := { s.classifier with dropped := 0, misdirected := 0 }
         mgmt := { s.mgmt with overflow := false } } tag (.status 1 0) .ok
       (s.admitted tag (.status 1 0)).statusPage0))) ∧
     (∀ clear page : Byte, (1 < clear.toNat ∨ 1 < page.toNat ∨ (clear = 1 ∧ page = 1)) →
       (∃ ch, exec (.status tag clear page) s = .next (State.choosing ch (s.replied tag (.status clear page) .range []))))) ∧
  (∀ s : State,
     (∀ i : NodeIdx, s.entryImage 0 i.val = some (s.node i).image ∧ s.entryRuntime 0 i.val = some (s.node i).runtime) ∧
     (∀ i : RouteIdx, s.entryImage 1 i.val = some (s.route i).image) ∧
     (∀ c : CadenceId, s.entryImage 2 c.val = some s.field.cadences[c].image ∧
       s.entryRuntime 2 c.val
         = some (be16 (if s.field.cadences[c].enabled then s.field.cadences[c].countdown else 0))) ∧
     (∀ k : Kiln, s.entryImage 3 k.val = some (s.kilnEntry k).image ∧ s.entryRuntime 3 k.val = some (s.kilnImage k)) ∧
     (∀ d : Fin 8, s.entryImage 4 d.val = some s.kilns.schedules[d].image) ∧
     (∀ n : Fin 128, s.entryImage 5 n.val = some s.kilns.steps[n].image) ∧
     (∀ v : Fin 16, s.entryImage 6 v.val = some s.table.varieties[v].image) ∧
     (∀ c : Fin 8, s.entryImage 7 c.val = some (be16 s.press.tares[c] ++ [0, 0])) ∧
     s.entryImage 8 0 = some s.scale.setup.image ∧ s.entryImage 9 0 = some s.mgmt.station.image ∧
     (∀ table index n : Nat, [48, 64, 8, 6, 8, 128, 16, 8, 1, 1][table]? = some n → n ≤ index →
       s.entryImage table index = none ∧ s.entryRuntime table index = none) ∧
     (∀ table index : Nat, table ≠ 0 → table ≠ 2 → table ≠ 3 → s.entryRuntime table index = none)) ∧
  (∀ (s : State) (k : Kiln) (r : KilnRun), r = s.kiln k → ∀ charge stepKind probe burner : List Byte,
     (r.charge = none → charge = [0, 0, 0xFF]) → (∀ c, r.charge = some c → charge = be16 c.lot ++ [byte c.index]) →
     ((r.state = .drying ∨ r.state = .hold ∨ r.state = .cooling) ∧ r.schedule ≠ none →
       stepKind = [byte (s.currentStep k).kind.code]) →
     (¬((r.state = .drying ∨ r.state = .hold ∨ r.state = .cooling) ∧ r.schedule ≠ none) → stepKind = [0xFF]) →
     (s.boundNode .probe k = none → probe = [0]) →
     (∀ i, s.boundNode .probe k = some i → probe = [byte (s.node i).state.code]) →
     (s.boundNode .burner k = none → burner = [0, 0xFF, 0xFF, 0xFF, 0xFF, 0xFF]) →
     (∀ i, s.boundNode .burner k = some i →
       burner = byte (s.node i).state.code :: commandedField (s.node i).commanded ++ [flagByte (s.node i).confirmed]) →
     s.kilnImage k = [byte r.state.code] ++ charge ++ optByte (r.schedule.map (fun d => d.val)) ++ [byte r.stepIndex] ++
       int16 r.entrySetpoint ++ int16 r.setpoint ++ be32 r.stepElapsed ++ be32 r.totalElapsed ++ optI16 r.lastAir ++
       optTime r.lastAirTime ++ optU16 r.lastExhaust ++ optTime r.lastExhaustTime ++
       [byte r.overLimit, byte r.dryQualify, r.hold.byte, flagByte r.aborted] ++ stepKind ++ probe ++ burner) ∧
  (∀ s : State,
     s.statusPage0 = [0, 0xB4, 0x16, 0x01, s.ownAddress, flagByte s.link.live] ++
       be16 s.link.up.check ++ be16 s.link.up.length ++ be16 s.link.up.torn ++
       be16 s.link.fp.check ++ be16 s.link.fp.length ++ be16 s.link.fp.torn ++
       be16 s.link.unsolicited ++ be16 s.classifier.dropped ++ be16 s.classifier.misdirected ++
       [(if s.mgmt.overflow = true then 1 else 0) + (if s.mgmt.timeSet = true then 2 else 0) +
          (if s.tickets.baseSet = true then 4 else 0),
        byte s.classifier.requests.length, byte s.field.pollQueue.length, byte s.classifier.passQueue.length,
        byte s.field.commandQueue.length, byte s.classifier.forwardQueue.length, byte s.mgmt.notices.length] ++
       bytes32 s.mgmt.time ∧
     s.statusPage1 = [1] ++ numberBytes s.tickets.nextTicket ++ numberBytes s.tickets.nextBale ++
       optU32 s.feed.feedLot ++ optU32 s.feed.beltLot ++
       [byte s.feed.changeover.code, s.feed.hold.byte, s.press.hold.byte, kilnByte s.feed.loading,
        byte (s.kiln 0).state.code, byte (s.kiln 1).state.code, byte (s.kiln 2).state.code,
        byte (s.kiln 3).state.code, byte (s.kiln 4).state.code, byte (s.kiln 5).state.code,
        byte s.scale.state.code, byte s.tickets.queue.length, byte s.tickets.wait.length] ++
       be16 (256 - s.press.bales.length) ++ be32 s.feed.unassigned) ∧
  (∀ n : Node, ∀ role cadence : Byte, (n.role = none → role = 0) → (∀ r, n.role = some r → role = byte r.code) →
     (n.cadence = none → cadence = 0xFF) → (∀ c, n.cadence = some c → cadence = byte c.val) →
     n.image = [n.address, role, kilnByte n.binding, cadence, byte n.window, byte n.missLimit, 0, 0] ∧
     n.runtime = [byte n.state.code, byte n.misses] ++ optTime n.lastAnswer ++ bytes32 n.lastTotalizer ++
       [flagByte n.baseline] ++ commandedField n.commanded ++ [flagByte n.confirmed]) ∧
  (∀ r : Route, r.image = [(if r.used = true then 1 else 0) + (if r.signed = true then 2 else 0) +
     (if r.copy = true then 4 else 0), r.source, r.code, byte r.action.code, byte r.offset, byte r.width,
     byte r.selector.code, 0]) ∧
  (∀ c : Cadence, c.image = [flagByte c.enabled, 0] ++ be16 c.period) ∧
  (∀ e : KilnEntry, e.image = be32 e.capacity ++ [byte e.minLoad, flagByte e.autoStart] ++ be16 e.refresh ++
     [byte e.holdFan, byte e.limitStreak, 0, 0]) ∧
  (∀ d : Schedule, d.image = [byte d.first, byte d.count] ++ int16 d.startTemp ++ be16 d.abortCoolMinutes ++
     [byte d.abortCoolFan, 0]) ∧
  (∀ e : Step, e.image = [byte e.kind.code, 0] ++ be16 e.duration ++ int16 e.target ++ int16 e.limit ++ [byte e.fan, 0]) ∧
  (∀ v : Variety, v.image = [flagByte v.valid, byte v.schedule.val] ++ be16 v.endHumidity ++ [byte v.qualify, 0] ++
     be32 v.targetMin ++ be32 v.targetMax ++ be16 v.maxMoisture ++ [0, 0]) ∧
  (∀ u : ScaleSetup, u.image = int32 u.zeroOffset ++ be16 u.span ++ [byte u.watermark, byte u.stability] ++ be16 u.band ++
     be16 u.zeroTrackBand ++ be16 u.zeroLimit ++ be32 u.minGross ++ [byte u.settleTimeout, u.idleWord]) ∧
  (∀ e : Station, e.image = be16 e.transit ++ be16 e.maxIncrement ++ [byte e.threshold, byte e.routeDefault.code, 0, 0])

/-- R14: LOT-READ, on a table that ascends by lot number (GreenLawKept): lot 0 names the lowest; item 0xFF is the record with
the next lot number; an item below 6 is that charge. R139: BALE-READ likewise, on a store that ascends (NumberingLawKept). The
bytes of the three records are written out, field by field (11.6; the fields' own bytes are FieldCodes'). -/
def Obligations.LotAndBaleReads : Prop :=
  ∀ (s : State) (tag : Byte), s.Ready →
    (∀ (lot : Word16) (pre post : List Lot) (l : Lot),
      (s.table.lots.map (fun l => l.number)).Pairwise (· < ·) → s.table.lots = pre ++ l :: post →
      ((lot = 0 ∧ pre = []) ∨ (lot ≠ 0 ∧ l.number = lot.toNat)) →
      (∃ ch, exec (.lotRead tag lot 0xFF) s
        = .next (State.choosing ch (s.replied tag (.lotRead lot 0xFF) .ok (l.image (post.head?.map (fun m => m.number)))))) ∧
      (∀ (i : Byte) (c : Charge), i.toNat ≤ 5 → l.charges[i.toNat]? = some c →
        (∃ ch, exec (.lotRead tag lot i) s
          = .next (State.choosing ch (s.replied tag (.lotRead lot i) .ok (c.image l.number i.toNat))))) ∧
      (∀ i : Byte, i.toNat ≤ 5 → l.charges.length ≤ i.toNat →
        (∃ ch, exec (.lotRead tag lot i) s = .next (State.choosing ch (s.replied tag (.lotRead lot i) .unknown [])))) ∧
      (∀ i : Byte, 5 < i.toNat → i ≠ 0xFF →
        (∃ ch, exec (.lotRead tag lot i) s = .next (State.choosing ch (s.replied tag (.lotRead lot i) .range []))))) ∧
    (∀ lot i, ((lot = 0 ∧ s.table.lots = []) ∨ (lot ≠ 0 ∧ ∀ l ∈ s.table.lots, l.number ≠ lot.toNat)) →
      (∃ ch, exec (.lotRead tag lot i) s = .next (State.choosing ch (s.replied tag (.lotRead lot i) .unknown [])))) ∧
    (∀ (l : Lot) (next : Option Nat), (l.image next).length = 39 ∧
      l.image next = be16 l.number ++ be16 l.grower ++ [byte l.variety.val, byte l.state.code] ++ bytes32 l.openTime ++
        [byte l.charges.length] ++ be32 l.greenTotal ++ be32 l.spill ++ be16 l.baleCount ++ int32 l.netTotal ++
        be16 l.releasedBales ++ int32 l.releasedNet ++ be16 l.ticketsIssued ++ be16 l.ticketsTaken ++ optU32 next) ∧
    (∀ (c : Charge) (lot index : Nat), (c.image lot index).length = 33 ∧
      c.image lot index = be16 lot ++ [byte index, byte c.kiln.val, byte c.state.code, c.flags] ++ be32 c.green ++
        bytes32 c.fillStart ++ optTime c.fillEnd ++ optTime c.dried ++ be16 c.bales ++ int32 c.net ++
        [byte c.partTickets] ++ optU32 c.finalTicket) ∧
    (∀ (bale : Word32) (pre post : List Bale) (b : Bale),
      (s.press.bales.map (fun b => b.number)).Pairwise (· < ·) → s.press.bales = pre ++ b :: post →
      ((bale = 0 ∧ pre = []) ∨ (bale ≠ 0 ∧ b.number = bale.toNat)) →
      (∃ ch, exec (.baleRead tag bale) s
        = .next (State.choosing ch (s.replied tag (.baleRead bale) .ok (b.image (post.head?.map (fun c => c.number))))))) ∧
    (∀ bale : Word32, ((bale = 0 ∧ s.press.bales = []) ∨ (bale ≠ 0 ∧ ∀ b ∈ s.press.bales, b.number ≠ bale.toNat)) →
      (∃ ch, exec (.baleRead tag bale) s = .next (State.choosing ch (s.replied tag (.baleRead bale) .unknown [])))) ∧
    (∀ (b : Bale) (next : Option Nat), (b.image next).length = 35 ∧
      b.image next = be32 b.number ++ be16 b.lot ++ [byte b.index, byte b.kiln.val, byte b.status.code, b.flags] ++
        optI32 b.gross ++ optByte (b.tareCode.map (fun c => c.val)) ++ be16 b.tare ++ optI32 b.net ++ optU16 b.moisture ++
        bytes32 b.time ++ optU32 b.ticket ++ optU32 next)

/-- The accepted writes of ROUTE, CADENCE and TARE: every entry in range (R49, R26, R129) is stored whole, in every state of the
part; an accepted CADENCE write starts the countdown from the new period, or stops it. An index beyond the table, or an image
of no entry in range, is refused RANGE (R174). -/
def Obligations.PlainTableWrites : Prop :=
  ∀ (s : State) (tag index : Byte), s.Ready →
    (∀ (h : index.toNat < 64) (r : Route), r.InRange →
      (∃ ch, exec (.routeWrite tag index r.image) s = .next (State.choosing ch (s.performed tag (.tableWrite 1 index r.image)
        (fun t => { t with classifier := { t.classifier with routes := t.classifier.routes.set index.toNat r } })
        (fun _ => [1, index]))))) ∧
    (∀ f a b c d e g : Byte, f.toNat < 8 →
      (64 ≤ index.toNat ∨ ∀ r : Route, r.InRange → r.image ≠ [f, a, b, c, d, e, g, 0]) →
      (∃ ch, exec (.routeWrite tag index [f, a, b, c, d, e, g, 0]) s
        = .next (State.choosing ch (s.replied tag (.tableWrite 1 index [f, a, b, c, d, e, g, 0]) .range [])))) ∧
    (∀ (h : index.toNat < 8) (c : Cadence), c.InRange →
      (∃ ch, exec (.cadenceWrite tag index c.image) s
        = .next (State.choosing ch (s.performed tag (.tableWrite 2 index c.image)
        (fun t => { t with field := { t.field with
          cadences := t.field.cadences.set index.toNat { c with countdown := if c.enabled then c.period else 0 } } })
        (fun _ => [2, index]))))) ∧
    (∀ a b d : Byte, (8 ≤ index.toNat ∨ ∀ c : Cadence, c.InRange → c.image ≠ [a, 0, b, d]) →
      (∃ ch, exec (.cadenceWrite tag index [a, 0, b, d]) s
        = .next (State.choosing ch (s.replied tag (.tableWrite 2 index [a, 0, b, d]) .range [])))) ∧
    (∀ (h : index.toNat < 8) (tare : Nat), tare ≤ 65535 →
      (∃ ch, exec (.tareWrite tag index (be16 tare ++ [0, 0])) s
        = .next (State.choosing ch (s.performed tag (.tableWrite 7 index (be16 tare ++ [0, 0]))
          (fun t => { t with press := { t.press with tares := t.press.tares.set index.toNat tare } })
          (fun _ => [7, index]))))) ∧
    (∀ a b : Byte, 8 ≤ index.toNat →
      (∃ ch, exec (.tareWrite tag index [a, b, 0, 0]) s
        = .next (State.choosing ch (s.replied tag (.tableWrite 7 index [a, b, 0, 0]) .range []))))

/-- The accepted writes of SCHEDULE, STEP and VARIETY (R82, R83, R11): every entry in range is stored whole while nothing refers
to it; a descriptor that a kiln references, a step within one, and a variety that a lot names are refused IN-USE (R85, R11);
an index beyond the table, or an image of no entry in range, is refused RANGE first (R174). -/
def Obligations.GuardedTableWrites : Prop :=
  ∀ (s : State) (tag index : Byte), s.Ready →
    (∀ (h : index.toNat < 8) (d : Schedule), d.InRange → (∀ k, ¬ s.References k ⟨index.toNat, h⟩) →
      (∃ ch, exec (.scheduleWrite tag index d.image) s
        = .next (State.choosing ch (s.performed tag (.tableWrite 4 index d.image)
        (fun t => { t with kilns := { t.kilns with schedules := t.kilns.schedules.set index.toNat d } })
        (fun _ => [4, index]))))) ∧
    (∀ (h : index.toNat < 8) (d : Schedule), d.InRange → (∃ k, s.References k ⟨index.toNat, h⟩) →
      (∃ ch, exec (.scheduleWrite tag index d.image) s
        = .next (State.choosing ch (s.replied tag (.tableWrite 4 index d.image) .inUse [])))) ∧
    (∀ a b c d e f g : Byte, (8 ≤ index.toNat ∨ ∀ x : Schedule, x.InRange → x.image ≠ [a, b, c, d, e, f, g, 0]) →
      (∃ ch, exec (.scheduleWrite tag index [a, b, c, d, e, f, g, 0]) s
        = .next (State.choosing ch (s.replied tag (.tableWrite 4 index [a, b, c, d, e, f, g, 0]) .range [])))) ∧
    (∀ (h : index.toNat < 128) (e : Step), e.InRange →
      (∀ k d, s.References k d → ¬(s.kilns.schedules[d].first ≤ index.toNat ∧
        index.toNat < s.kilns.schedules[d].first + s.kilns.schedules[d].count)) →
      (∃ ch, exec (.stepWrite tag index e.image) s = .next (State.choosing ch (s.performed tag (.tableWrite 5 index e.image)
        (fun t => { t with kilns := { t.kilns with steps := t.kilns.steps.set index.toNat e } })
        (fun _ => [5, index]))))) ∧
    (∀ (_ : index.toNat < 128) (e : Step), e.InRange →
      (∃ k d, s.References k d ∧ s.kilns.schedules[d].first ≤ index.toNat ∧
        index.toNat < s.kilns.schedules[d].first + s.kilns.schedules[d].count) →
      (∃ ch, exec (.stepWrite tag index e.image) s
        = .next (State.choosing ch (s.replied tag (.tableWrite 5 index e.image) .inUse [])))) ∧
    (∀ a b c d e f g h : Byte, (128 ≤ index.toNat ∨ ∀ x : Step, x.InRange → x.image ≠ [a, 0, b, c, d, e, f, g, h, 0]) →
      (∃ ch, exec (.stepWrite tag index [a, 0, b, c, d, e, f, g, h, 0]) s
        = .next (State.choosing ch (s.replied tag (.tableWrite 5 index [a, 0, b, c, d, e, f, g, h, 0]) .range [])))) ∧
    (∀ (h : index.toNat < 16) (v : Variety), v.InRange → (∀ l ∈ s.table.lots, l.variety.val ≠ index.toNat) →
      (∃ ch, exec (.varietyWrite tag index v.image) s
        = .next (State.choosing ch (s.performed tag (.tableWrite 6 index v.image)
        (fun t => { t with table := { t.table with varieties := t.table.varieties.set index.toNat v } })
        (fun _ => [6, index]))))) ∧
    (∀ (v : Variety), index.toNat < 16 → v.InRange → (∃ l ∈ s.table.lots, l.variety.val = index.toNat) →
      (∃ ch, exec (.varietyWrite tag index v.image) s
        = .next (State.choosing ch (s.replied tag (.tableWrite 6 index v.image) .inUse [])))) ∧
    (∀ a b c d e a1 a2 a3 a4 b1 b2 b3 b4 m n : Byte,
      (16 ≤ index.toNat ∨
        ∀ x : Variety, x.InRange → x.image ≠ [a, b, c, d, e, 0, a1, a2, a3, a4, b1, b2, b3, b4, m, n, 0, 0]) →
      (∃ ch, exec (.varietyWrite tag index [a, b, c, d, e, 0, a1, a2, a3, a4, b1, b2, b3, b4, m, n, 0, 0]) s
        = .next (State.choosing ch (s.replied tag
          (.tableWrite 6 index [a, b, c, d, e, 0, a1, a2, a3, a4, b1, b2, b3, b4, m, n, 0, 0]) .range []))))

/-- The accepted writes of KILN, SCALE-SETUP and STATION. A KILN entry in range is stored while its kiln is EMPTY, a selection is
attempted, and the feed's event ends (R79, R70); a SCALE-SETUP in range is stored outside SETTLING and CLEARING, the FIFO
and the history are emptied and the state moves by the span (R112); a STATION entry in range is stored unless it changes
the transit time of a changeover in progress, and STORE is judged again (R176). -/
def Obligations.UnitTableWrites : Prop :=
  ∀ (s : State) (tag index : Byte), s.Ready →
    (∀ (k : Kiln) (e : KilnEntry), kilnOf index = some k → e.InRange → (s.kiln k).state = .empty →
      (∃ ch, exec (.kilnWrite tag index e.image) s = .next (State.choosing ch (s.performed tag (.tableWrite 3 index e.image)
        (feedEvent (fun t => State.attemptSelection
          { t with kilns := { t.kilns with entries := t.kilns.entries.set k e } }))
        (fun _ => [3, index]))))) ∧
    (∀ (k : Kiln) (e : KilnEntry), kilnOf index = some k → e.InRange → (s.kiln k).state ≠ .empty →
      (∃ ch, exec (.kilnWrite tag index e.image) s
        = .next (State.choosing ch (s.replied tag (.tableWrite 3 index e.image) .inUse [])))) ∧
    (∀ a b c d e f g h i j : Byte,
      (6 ≤ index.toNat ∨ ∀ x : KilnEntry, x.InRange → x.image ≠ [a, b, c, d, e, f, g, h, i, j, 0, 0]) →
      (∃ ch, exec (.kilnWrite tag index [a, b, c, d, e, f, g, h, i, j, 0, 0]) s
        = .next (State.choosing ch (s.replied tag (.tableWrite 3 index [a, b, c, d, e, f, g, h, i, j, 0, 0]) .range [])))) ∧
    (∀ u : ScaleSetup, u.InRange → s.scale.state ≠ .settling → s.scale.state ≠ .clearing →
      (∃ ch, exec (.scaleSetupWrite tag 0 u.image) s = .next (State.choosing ch (s.performed tag (.tableWrite 8 0 u.image)
        (fun t => { t with scale := { t.scale with
          setup := u, samples := [], history := [], stable := none
          state := if u.span = 0 then .unconfigured else if t.scale.state = .fault then .fault else .idle
          cycleOpen := if t.scale.state = .fault ∧ u.span = 0 then false else t.scale.cycleOpen
          good := if t.scale.state = .fault ∧ u.span = 0 then 0 else t.scale.good } })
        (fun _ => [8, 0]))))) ∧
    (∀ u : ScaleSetup, u.InRange → s.scale.state = .settling ∨ s.scale.state = .clearing →
      (∃ ch, exec (.scaleSetupWrite tag 0 u.image) s
        = .next (State.choosing ch (s.replied tag (.tableWrite 8 0 u.image) .inUse [])))) ∧
    (∀ image : List Byte, image.length = 20 → (index ≠ 0 ∨ ∀ u : ScaleSetup, u.InRange → u.image ≠ image) →
      (∃ ch, exec (.scaleSetupWrite tag index image) s
        = .next (State.choosing ch (s.replied tag (.tableWrite 8 index image) .range [])))) ∧
    (∀ e : Station, e.InRange → s.feed.changeover = .steady ∨ e.transit = s.mgmt.station.transit →
      (∃ ch, exec (.stationWrite tag 0 e.image) s = .next (State.choosing ch (s.performed tag (.tableWrite 9 0 e.image)
        (fun t => State.judgeStore { t with mgmt := { t.mgmt with station := e } }) (fun _ => [9, 0]))))) ∧
    (∀ e : Station, e.InRange → s.feed.changeover ≠ .steady → e.transit ≠ s.mgmt.station.transit →
      (∃ ch, exec (.stationWrite tag 0 e.image) s
        = .next (State.choosing ch (s.replied tag (.tableWrite 9 0 e.image) .inUse [])))) ∧
    (∀ a b c d e f : Byte, (index ≠ 0 ∨ ∀ x : Station, x.InRange → x.image ≠ [a, b, c, d, e, f, 0, 0]) →
      (∃ ch, exec (.stationWrite tag index [a, b, c, d, e, f, 0, 0]) s
        = .next (State.choosing ch (s.replied tag (.tableWrite 9 index [a, b, c, d, e, f, 0, 0]) .range []))))

/-- The NODE write (R19 to R22, R156): its refusals in their order, and the light write, the heavy write and the emptying write.
The Poll Queue keeps the node only while it has a cadence; a heavy or emptying write deletes its command and detaches its
transaction (what a detached transaction still does is log 12). Then what the checks read: the light write (R21), the uniqueness
of R19, the use of R20, the refusal RANGE of an index beyond the table or an image of no entry in range (R174, R19); and what
the write does to the print process by its state and the entry's role before and after (R156). -/
def Obligations.NodeTableWrite : Prop :=
  (∀ (s : State) (tag index : Byte) (g : NodeImage), s.Ready → g.InRange → ∀ h : index.toNat < 48,
     let i : NodeIdx := ⟨index.toNat, h⟩
     let n := s.node i
     (s.nodeConflict i g = true →
       (∃ ch, exec (.nodeWrite tag index g.bytes) s
         = .next (State.choosing ch (s.replied tag (.tableWrite 0 index g.bytes) .conflict [])))) ∧
     (s.nodeConflict i g = false → g.isLight n = false → s.nodeInUse n = true →
       (∃ ch, exec (.nodeWrite tag index g.bytes) s
         = .next (State.choosing ch (s.replied tag (.tableWrite 0 index g.bytes) .inUse [])))) ∧
     (∀ a role b c w m, g = .entry a role b c w m → s.nodeConflict i g = false →
       n.address = a → n.role = some role → n.binding = b →
       (∃ ch, exec (.nodeWrite tag index g.bytes) s = .next (State.choosing ch (s.performed tag (.tableWrite 0 index g.bytes)
         (fun t => State.printerWritten
           { t with field := { t.field with
             nodes := t.field.nodes.set i { n with cadence := c, window := w, missLimit := m, state := .unknown, misses := 0 }
             pollQueue := if c = none then t.field.pollQueue.filter (fun j => j ≠ i) else t.field.pollQueue } }
           (some role) (some role)) (fun _ => [0, index]))))) ∧
     (∀ a role b c w m, g = .entry a role b c w m → s.nodeConflict i g = false →
       g.isLight n = false → s.nodeInUse n = false →
       (∃ ch, exec (.nodeWrite tag index g.bytes) s = .next (State.choosing ch (s.performed tag (.tableWrite 0 index g.bytes)
         (fun t => State.printerWritten
           { t with field := { t.field with
             nodes := t.field.nodes.set i
               { address := a, role := some role, binding := b, cadence := c, window := w, missLimit := m
                 state := .unknown, misses := 0, lastAnswer := none, lastTotalizer := 0, baseline := false, confirmed := false
                 commanded := match role, b with
                   | .picker, _ => some (.feed (if s.feed.hold.isEmpty then .run else .hold))
                   | .diverter, _ => some (.divert s.feed.loading)
                   | .press, _ => s.press.command.map .press
                   | .burner, some k => some (.setpoint (s.presentBurner k))
                   | _, _ => none }
             pollQueue := if c = none then t.field.pollQueue.filter (fun j => j ≠ i) else t.field.pollQueue
             commandQueue := t.field.commandQueue.filter (fun e => e.node ≠ i)
             transaction := t.field.transaction.map
               (fun x => if x.node = some i then { x with detached := true } else x) } }
           n.role (some role)) (fun _ => [0, index]))))) ∧
     (g = .empty → s.nodeInUse n = false →
       (∃ ch, exec (.nodeWrite tag index g.bytes) s = .next (State.choosing ch (s.performed tag (.tableWrite 0 index g.bytes)
         (fun t => State.printerWritten
           { t with field := { t.field with
             nodes := t.field.nodes.set i
               { address := 0, role := none, binding := none, cadence := none, window := 0, missLimit := 0
                 state := .absent, misses := 0, lastAnswer := none, lastTotalizer := 0, baseline := false
                 commanded := none, confirmed := false }
             pollQueue := t.field.pollQueue.filter (fun j => j ≠ i)
             commandQueue := t.field.commandQueue.filter (fun e => e.node ≠ i)
             transaction := t.field.transaction.map
               (fun x => if x.node = some i then { x with detached := true } else x) } }
           n.role none) (fun _ => [0, index])))))) ∧
  ((∀ (n : Node) (a : Byte) (role : Role) (b : Option Kiln) (c : Option CadenceId) (w m : Nat),
     ((NodeImage.entry a role b c w m).isLight n = true ↔ n.address = a ∧ n.role = some role ∧ n.binding = b) ∧
     NodeImage.isLight .empty n = false) ∧
   (∀ (s : State) (i : NodeIdx), s.nodeConflict i .empty = false) ∧
   (∀ (s : State) (i : NodeIdx) (a : Byte) (role : Role) (b : Option Kiln) (c : Option CadenceId) (w m : Nat),
     s.nodeConflict i (.entry a role b c w m) = true ↔ ∃ j, j ≠ i ∧
       ((s.node j).address = a ∨
        ((s.node j).role = some role ∧
         (role = .belt ∨ role = .picker ∨ role = .diverter ∨ role = .press ∨ role = .moisture ∨ role = .printer)) ∨
        ((s.node j).role = some role ∧ (role = .probe ∨ role = .burner) ∧ (s.node j).binding = b))) ∧
   (∀ (s : State) (n : Node), s.nodeInUse n = true ↔
     ((n.role = some .probe ∨ n.role = some .burner) ∧ ∃ k, n.binding = some k ∧ (s.kiln k).state ≠ .empty) ∨
     ((n.role = some .belt ∨ n.role = some .picker ∨ n.role = some .diverter) ∧
       (s.feed.feedLot ≠ none ∨ s.feed.beltLot ≠ none)) ∨
     (n.role = some .press ∧ s.press.queue ≠ []) ∨
     (n.role = some .printer ∧ s.tickets.process = .sending)) ∧
   (∀ (s : State) (tag index a b c d e f : Byte), s.Ready →
     (48 ≤ index.toNat ∨ ∀ g : NodeImage, g.InRange → g.bytes ≠ [a, b, c, d, e, f, 0, 0]) →
     (∃ ch, exec (.nodeWrite tag index [a, b, c, d, e, f, 0, 0]) s
       = .next (State.choosing ch (s.replied tag (.tableWrite 0 index [a, b, c, d, e, f, 0, 0]) .range []))))) ∧
  (∀ (s : State) (before after : Option Role),
    (after = some .printer → s.tickets.process = .sending → s.printerWritten before after = s) ∧
    (after = some .printer → s.tickets.process ≠ .sending → s.printerWritten before after = s.printScan) ∧
    (after ≠ some .printer → before = some .printer →
      s.printerWritten before after = { s with tickets := { s.tickets with process := .idle } }) ∧
    (after ≠ some .printer → before ≠ some .printer → s.printerWritten before after = s))

/-- R40, R179, R180: RESTART with scope FIELD, in every state of the part; a print transfer in flight is abandoned: its ticket
returns to UNPRINTED and the print process goes to SCAN. RESTART with scope STATION is refused IN-USE while a lot, a kiln that
is not EMPTY, a ticket or a bale is there; otherwise every table and every job unit returns to its reset value, and the time, the
numbering, the notices, the liveness, the counts and the requests are kept; that the requests behind the RESTART are kept (R56's
table, R180) and not lost (R43) is the model's choice (log 34), and so is a RESTART while a frame is being sent (log 23). Any
other scope is refused RANGE. -/
def Obligations.RestartScopes : Prop :=
  (∀ (s : State) (tag : Byte), s.Ready →
     (∃ ch, exec (.restartField tag) s = .next (State.choosing ch (s.performed tag (.restart 0)
       (fun t =>
         let u : State := { t with
           classifier := { t.classifier with passQueue := [] }
           field := { t.field with
             transaction := none, printRequest := none, pollQueue := [], commandQueue := [], passStreak := 0
             nodes := t.field.nodes.map (fun n => if n.address = 0 then n else
               { n with state := .unknown, misses := 0, confirmed := false
                        baseline := if n.role = some .belt then false else n.baseline })
             cadences := t.field.cadences.map (fun c => if c.enabled then { c with countdown := c.period } else c) } }
         if s.tickets.process = .sending then
           State.printScan { u with tickets := { u.tickets with
             queue := u.tickets.queue.map (fun x => if x.print = .printing then { x with print := .unprinted } else x) } }
         else u)
       (fun _ => [0]))))) ∧
  (∀ (s : State) (tag : Byte), s.Ready →
     ((s.table.lots ≠ [] ∨ (∃ k, (s.kiln k).state ≠ .empty) ∨ s.tickets.queue ≠ [] ∨ s.press.bales ≠ []) →
       (∃ ch, exec (.restartStation tag) s = .next (State.choosing ch (s.replied tag (.restart 1) .inUse [])))) ∧
     (s.table.lots = [] → (∀ k, (s.kiln k).state = .empty) → s.tickets.queue = [] → s.press.bales = [] →
       (∃ ch, exec (.restartStation tag) s = .next (State.choosing ch (s.performed tag (.restart 1)
         (fun t => { State.reset with
           pending := t.pending, power := t.power, link := t.link
           classifier := { t.classifier with
             routes := State.reset.classifier.routes, passQueue := [], forwardQueue := [], block := none }
           tickets := { t.tickets with wait := [], queue := [], process := .idle }
           mgmt := { t.mgmt with station := State.reset.mgmt.station } })
         (fun _ => [1]))))) ∧
     (∀ scope : Byte, 1 < scope.toNat → performRequest (.restart scope) s = refuse s .range))

/-- The lot requests: LOT-OPEN with its checks in their order (R13), LOT-VOID (R15) and LOT-CLOSE (R16). The new record joins
the Lot Table. -/
def Obligations.LotRequests : Prop :=
  (∀ (s : State) (tag : Byte) (lot grower : Word16) (variety : Byte), s.Ready →
    (s.mgmt.timeSet = false ∨ s.tickets.baseSet = false →
      (∃ ch, exec (.lotOpen tag lot grower variety) s
        = .next (State.choosing ch (s.replied tag (.lotOpen lot grower variety) .notReady [])))) ∧
    (s.mgmt.timeSet = true → s.tickets.baseSet = true →
      (lot = 0 ∨ grower = 0 ∨ ∀ v : Fin 16, v.val = variety.toNat → (s.table.varieties[v]).valid = false) →
      (∃ ch, exec (.lotOpen tag lot grower variety) s
        = .next (State.choosing ch (s.replied tag (.lotOpen lot grower variety) .range [])))) ∧
    (∀ v : Fin 16, v.val = variety.toNat → (s.table.varieties[v]).valid = true →
      s.mgmt.timeSet = true → s.tickets.baseSet = true → lot ≠ 0 → grower ≠ 0 →
      ((∃ l ∈ s.table.lots, l.number = lot.toNat) →
        (∃ ch, exec (.lotOpen tag lot grower variety) s
          = .next (State.choosing ch (s.replied tag (.lotOpen lot grower variety) .conflict [])))) ∧
      ((∀ l ∈ s.table.lots, l.number ≠ lot.toNat) → 24 ≤ s.table.lots.length →
        (∃ ch, exec (.lotOpen tag lot grower variety) s
          = .next (State.choosing ch (s.replied tag (.lotOpen lot grower variety) .full [])))) ∧
      ((∀ l ∈ s.table.lots, l.number ≠ lot.toNat) → s.table.lots.length < 24 →
        (∃ ch, exec (.lotOpen tag lot grower variety) s
          = .next (State.choosing ch (s.performed tag (.lotOpen lot grower variety)
          (fun t => { t with table := { t.table with
            lots := insertLot
              { number := lot.toNat, grower := grower.toNat, variety := v, state := .opened, openTime := s.mgmt.time
                charges := [], greenTotal := 0, spill := 0, baleCount := 0, netTotal := 0, releasedBales := 0
                releasedNet := 0, ticketsIssued := 0, ticketsTaken := 0 } t.table.lots } })
          (fun _ => bytes16 lot ++ bytes32 s.mgmt.time))))))) ∧
  (∀ (l : Lot) (ls : List Lot), (insertLot l ls).Perm (l :: ls)) ∧
  (∀ (s : State) (tag : Byte) (lot : Word16), s.Ready →
    (s.lot? lot.toNat = none →
      (∃ ch, exec (.lotVoid tag lot) s = .next (State.choosing ch (s.replied tag (.lotVoid lot) .unknown []))) ∧
      (∃ ch, exec (.lotClose tag lot) s = .next (State.choosing ch (s.replied tag (.lotClose lot) .unknown [])))) ∧
    (∀ l, s.lot? lot.toNat = some l →
      (l.state ≠ .opened →
        (∃ ch, exec (.lotVoid tag lot) s = .next (State.choosing ch (s.replied tag (.lotVoid lot) .state [])))) ∧
      (l.state = .opened → (∃ ch, exec (.lotVoid tag lot) s = .next (State.choosing ch (s.performed tag (.lotVoid lot)
        (fun t => { t with table := { t.table with lots := t.table.lots.filter (fun m => m.number ≠ lot.toNat) } })
        (fun _ => bytes16 lot))))) ∧
      ((l.state ≠ .finished ∨ ∃ c ∈ l.charges, c.state ≠ .ticketed) →
        (∃ ch, exec (.lotClose tag lot) s = .next (State.choosing ch (s.replied tag (.lotClose lot) .state [])))) ∧
      (l.state = .finished → (∀ c ∈ l.charges, c.state = .ticketed) →
        (∃ ch, exec (.lotClose tag lot) s = .next (State.choosing ch (s.performed tag (.lotClose lot)
          (fun t => { t with table := { t.table with lots := t.table.lots.filter (fun m => m.number ≠ lot.toNat) } })
          (fun _ => be16 l.number ++ be16 l.grower ++ [byte l.variety.val] ++ be32 l.greenTotal ++ be32 l.spill ++
            be16 l.baleCount ++ int32 l.netTotal ++ be16 l.ticketsIssued ++ [byte l.charges.length])))))))

/-! ## The field segment -/

/-- R38, R39 with R33 to R36: the Field Transmit Arbiter. First its choice, after every event of an active part: none while a
transaction is outstanding or its frame still goes out; on a free segment the choice before stands while its source has work,
whatever has come to the other sources; else the first source that has work is chosen, in the order Command Queue, print
request, Pass Queue subject to the pass streak, Poll Queue. Then the start of the chosen source's transaction: what it sends, to
whom, and how long it waits. The model's choices: a choice is made at the end of an event with all that the event has put
into the sources, is made again when its work has been deleted, and starts its transaction when the Field Port can send (log 36);
the node of a PASS is fixed at its start (log 13), the image of a BLOCK is the ticket's at its start (log 28), a segment under
reception counts as busy (log 24), and the command starts nothing on a busy segment or without work (log 5). -/
def Obligations.FieldTransactionStart : Prop :=
  (∀ s : State, (s.holdsWork .command = true ↔ s.field.commandQueue ≠ []) ∧
    (s.holdsWork .print = true ↔ s.field.printRequest ≠ none) ∧
    (s.holdsWork .pass = true ↔ s.classifier.passQueue ≠ []) ∧
    (s.holdsWork .poll = true ↔ s.field.pollQueue ≠ [])) ∧
  (∀ (c : Instr) (s t : State), s.active = true → isPowerCommand c = false → exec c s = .next t →
    ((t.field.transaction ≠ none ∨ t.link.driver = true) → t.field.chosen = none) ∧
    (t.field.transaction = none → t.link.driver = false →
      (∀ x, s.field.chosen = some x → t.holdsWork x = true → t.field.chosen = some x) ∧
      ((∀ x, s.field.chosen = some x → t.holdsWork x = false) →
        (t.field.commandQueue ≠ [] → t.field.chosen = some .command) ∧
        (t.field.commandQueue = [] → t.field.printRequest ≠ none → t.field.chosen = some .print) ∧
        (t.field.commandQueue = [] → t.field.printRequest = none →
          (t.classifier.passQueue ≠ [] → (t.field.pollQueue = [] ∨ t.field.passStreak ≠ 4) →
            t.field.chosen = some .pass) ∧
          (t.field.pollQueue ≠ [] → (t.classifier.passQueue = [] ∨ t.field.passStreak = 4) →
            t.field.chosen = some .poll) ∧
          (t.classifier.passQueue = [] → t.field.pollQueue = [] → t.field.chosen = none))))) ∧
  (∀ s : State, s.active = true →
    ((s.field.transaction ≠ none ∨ s.link.driver = true ∨ s.link.fpReceiving = true) →
      (∃ ch, exec .fieldTransactionStart s = .next (State.choosing ch s))) ∧
    (s.field.transaction = none → s.link.driver = false → s.link.fpReceiving = false →
      ∀ unchosen : Prop, unchosen = (∀ x, s.field.chosen = some x → s.holdsWork x = false) →
      (∀ c rest, s.field.commandQueue = c :: rest → (s.field.chosen = some .command ∨ unchosen) →
        (∃ ch, exec .fieldTransactionStart s = .next (State.choosing ch (State.beginning
          { s with field := { s.field with commandQueue := rest } }
          { kind := .command c.payload.code, address := (s.node c.node).address, node := some c.node, detached := false
            frames := [mkFrame (s.node c.node).address s.ownAddress c.payload.code c.payload.payload]
            window := (s.node c.node).window, sending := true, waitRunOut := false })))) ∧
      (∀ n i t, s.field.printRequest = some n → s.roleNode .printer = some i → s.ticket? n = some t →
        (s.field.chosen = some .print ∨ unchosen ∧ s.field.commandQueue = []) →
        (∃ ch, exec .fieldTransactionStart s = .next (State.choosing ch (State.beginning
          { s with field := { s.field with printRequest := none } }
          { kind := .block n, address := (s.node i).address, node := some i, detached := false
            frames := t.segments.map (mkFrame (s.node i).address s.ownAddress 0x50)
            window := (s.node i).window, sending := true, waitRunOut := false })))) ∧
      (∀ f fs, s.classifier.passQueue = f :: fs →
        (s.field.chosen = some .pass ∨ unchosen ∧ s.field.commandQueue = [] ∧ s.field.printRequest = none ∧
          (s.field.pollQueue = [] ∨ s.field.passStreak ≠ 4)) →
        (∃ ch, exec .fieldTransactionStart s = .next (State.choosing ch (State.beginning
          { s with
            classifier := { s.classifier with passQueue := fs }
            field := { s.field with
              passStreak := if s.field.pollQueue = [] then 0 else min 4 (s.field.passStreak + 1) } }
          { kind := if f.dest = 0xFF then .broadcast else .pass
            address := f.dest
            node := if f.dest = 0xFF then none else s.addressNode f.dest
            detached := false, frames := [f]
            window := if f.dest = 0xFF then 2
              else ((s.addressNode f.dest).map (fun i => (s.node i).window)).getD 10
            sending := true, waitRunOut := false })))) ∧
      (∀ i is, s.field.pollQueue = i :: is →
        (s.field.chosen = some .poll ∨ unchosen ∧ s.field.commandQueue = [] ∧ s.field.printRequest = none ∧
          (s.classifier.passQueue = [] ∨ s.field.passStreak = 4)) →
        (∃ ch, exec .fieldTransactionStart s = .next (State.choosing ch (State.beginning
          { s with field := { s.field with pollQueue := is, passStreak := 0 } }
          { kind := .poll, address := (s.node i).address, node := some i, detached := false
            frames := [mkFrame (s.node i).address s.ownAddress 0x40 []]
            window := (s.node i).window, sending := true, waitRunOut := false })))) ∧
      (s.field.commandQueue = [] → s.field.printRequest = none → s.classifier.passQueue = [] → s.field.pollQueue = [] →
        (∃ ch, exec .fieldTransactionStart s = .next (State.choosing ch s)))))

/-- R32, R35, R36, R165: the last character sent turns the driver off and begins the wait; a frame's first character marks the
reception; a wait that runs out while a frame arrives is extended; otherwise it ends the transaction: a miss for the node,
PASS-TIMEOUT for a PASS, the ticket UNPRINTED and the print process HALTED for a BLOCK; and the guard of a BROADCAST ends it.
The model's choices: an event where it cannot come changes nothing (log 5), PASS-TIMEOUT stands before the miss's NODE-LOST (log
10), a detached PASS still ends in PASS-TIMEOUT and a detached BLOCK still leaves its ticket UNPRINTED and the process HALTED
(log 12), and the guard of a BROADCAST is not extended by a frame that arrives (log 14). -/
def Obligations.FieldSegmentTiming : Prop :=
  ∀ s : State, s.active = true →
    (∃ ch, exec .fieldTransmitDone s = .next (State.choosing ch { s with
      link := { s.link with driver := false }
      field := { s.field with transaction := s.field.transaction.map (fun t => { t with sending := false }) } })) ∧
    (s.link.driver = false → s.link.fpOverlong = false →
      (∃ ch, exec .fieldReceptionStart s
        = .next (State.choosing ch { s with link := { s.link with fpReceiving := true } }))) ∧
    ((s.link.driver = true ∨ s.link.fpOverlong = true) → (∃ ch, exec .fieldReceptionStart s = .next (State.choosing ch s))) ∧
    (s.field.transaction = none →
      (∃ ch, exec .transactionWindowExpiry s
        = .next (State.choosing ch s)) ∧ (∃ ch, exec .broadcastGuardEnd s = .next (State.choosing ch s))) ∧
    (∀ t, s.field.transaction = some t →
      ((t.sending = true ∨ t.kind = .broadcast) → (∃ ch, exec .transactionWindowExpiry s = .next (State.choosing ch s))) ∧
      (t.sending = false → t.kind ≠ .broadcast → s.link.fpReceiving = true →
        (∃ ch, exec .transactionWindowExpiry s
          = .next (State.choosing ch { s with field := { s.field with transaction := some { t with waitRunOut := true } } }))) ∧
      (t.sending = false → t.kind ≠ .broadcast → s.link.fpReceiving = false →
        ∀ u : State, u = { s with field := { s.field with transaction := none } } →
        (∀ v : State,
          v = (if t.kind = .pass then u.raise .passTimeout t.address.toNat 0 else u) →
          (∀ n, t.kind ≠ .block n) →
          (∀ i, t.node = some i → t.detached = false →
            (∃ ch, exec .transactionWindowExpiry s = .next (State.choosing ch (v.nodeMissed i)))) ∧
          ((t.node = none ∨ t.detached = true) → (∃ ch, exec .transactionWindowExpiry s = .next (State.choosing ch v)))) ∧
        (∀ n, t.kind = .block n →
          ∀ v : State, v = { u with tickets := { u.tickets with
            process := .halted
            queue := u.tickets.queue.map (fun x => if x.number = n then { x with print := .unprinted } else x) } } →
          (∀ i, t.node = some i → t.detached = false →
            (∃ ch, exec .transactionWindowExpiry s = .next (State.choosing ch (v.nodeMissed i)))) ∧
          ((t.node = none ∨ t.detached = true) → (∃ ch, exec .transactionWindowExpiry s = .next (State.choosing ch v))))) ∧
      (t.kind = .broadcast → t.sending = false →
        (∃ ch, exec .broadcastGuardEnd s
          = .next (State.choosing ch { s with field := { s.field with transaction := none } }))) ∧
      ((t.kind ≠ .broadcast ∨ t.sending = true) → (∃ ch, exec .broadcastGuardEnd s = .next (State.choosing ch s))))

/-- R23, R31, R33 to R37, R47, R155: a valid frame on the Field Port. It is an answer when it comes from the address the
transaction was sent to with a code that the kind accepts; then the entry is updated, the kind's outcome is made, and the
report follows. Any other frame is counted unsolicited, and a wait that had run out meanwhile ends as its expiry would. The
model's choices: the notices of one answer come in the order of its effects, NODE-BACK before COMMAND-REFUSED or PRINTER-FAULT
(log 10; R47 orders only a poll's), the answer of a detached transaction only ends it and is counted (log 12), the node of a PASS
is the one at its start (log 13), a reception is one command (log 24), and PRINTER-FAULT's value is the ticket number's 32 bits
(log 35). -/
def Obligations.FieldAnswers : Prop :=
  ∀ (s : State) (chars : List Byte) (f : Frame), s.active = true → s.link.fpOverlong = false → s.link.driver = false →
    chars.length ≤ 54 → judge chars = .valid f → s.feed.picker = s.pickerWanted →
    ∀ u : State, u = { s with link := { s.link with fpReceiving := false } } →
    ∀ w : State, w = { u with link := { u.link with unsolicited := min 65535 (u.link.unsolicited + 1) } } →
    (s.field.transaction = none → (∃ ch, exec (.fieldArrival chars) s = .next (State.choosing ch w))) ∧
    (∀ t, s.field.transaction = some t →
      ((f.src ≠ t.address ∨ t.kind.accepts f.code = false) →
        (t.waitRunOut = false → (∃ ch, exec (.fieldArrival chars) s = .next (State.choosing ch w))) ∧
        (t.waitRunOut = true → t.sending = false → t.kind ≠ .broadcast →
          exec (.fieldArrival chars) s = exec .transactionWindowExpiry w)) ∧
      (f.src = t.address → t.kind.accepts f.code = true →
        (t.detached = true →
          (∃ ch, exec (.fieldArrival chars) s
            = .next (State.choosing ch { w with field := { w.field with transaction := none } }))) ∧
        (∀ i, t.detached = false → t.node = some i →
          ∀ out : State → State, out = (match t.kind with
            | .poll => fun v => if f.code = 0x41 ∨ f.payload = [] then v else v.classify i f
            | .command code => fun v =>
              if f.code = 0x4F then v.raise .commandRefused (v.node i).address.toNat code.toNat
              else match (v.node i).commanded with
                | none => v
                | some c =>
                  if c.payload = f.payload then (v.setNode i { v.node i with confirmed := true }).reportConfirmed c else v
            | .pass => fun v => v.forward f
            | .broadcast => fun v => v
            | .block n => fun v =>
              if f.code = 0x51 then (v.setPrint n .printed).printScan
              else ((v.setPrint n .failed).raise .printerFault (v.node i).address.toNat n).printScan) →
          (∃ ch, exec (.fieldArrival chars) s
            = .next (State.choosing ch (feedEvent (fun v => State.reportAnswer (out (State.nodeAnswered
            { v with link := u.link, field := { v.field with transaction := none } } i)) i) s)))) ∧
        (t.detached = false → t.node = none → t.kind = .pass →
          (∃ ch, exec (.fieldArrival chars) s
            = .next (State.choosing ch (State.forward { u with field := { u.field with transaction := none } } f))))))

/-- R23, R24, R25: the codes that each kind of transaction accepts, a valid answer and a miss on a node's entry, the node's
moves between UNKNOWN, ONLINE and LOST with their notices, the reports to the jobs, and the report of a confirmation to the
Feed and Loading Unit (R31, R73). That NODE-LOST stands before the notices of the report it makes, such as KILN-HOLD, is the
model's choice (log 10). -/
def Obligations.NodeAnswersAndMisses : Prop :=
  (∀ c : Byte, TransactionKind.poll.accepts c = true ↔ (1 ≤ c.toNat ∧ c.toNat ≤ 0x3F) ∨ c = 0x41) ∧
  (∀ code c : Byte, (TransactionKind.command code).accepts c = true ↔ c = 0x4E ∨ c = 0x4F) ∧
  (∀ c : Byte, TransactionKind.pass.accepts c = true) ∧
  (∀ c : Byte, TransactionKind.broadcast.accepts c = false) ∧
  (∀ (n : Nat) (c : Byte), (TransactionKind.block n).accepts c = true ↔ c = 0x51 ∨ c = 0x52) ∧
  (∀ (s : State) (v : RunHold) (b : BurnerCommand), s.reportConfirmed (.feed v) = s ∧ s.reportConfirmed (.press v) = s ∧
    s.reportConfirmed (.setpoint b) = s) ∧
  (∀ (s : State) (k : Kiln), s.feed.loading = some k → s.reportConfirmed (.divert (some k)) = { s with feed := { s.feed with
    divertConfirmed := true, divertWatch := none, hold := { s.feed.hold with divert := false } } }) ∧
  (∀ (s : State) (target : Option Kiln), (target = none ∨ target ≠ s.feed.loading) → s.reportConfirmed (.divert target) = s) ∧
  (∀ (s : State) (i : NodeIdx),
    ((s.node i).state ≠ .lost → s.nodeAnswered i
      = s.setNode i { s.node i with misses := 0, lastAnswer := some s.mgmt.time, state := .online }) ∧
    ((s.node i).state = .lost → s.nodeAnswered i
      = (s.setNode i { s.node i with misses := 0, lastAnswer := some s.mgmt.time, state := .online }).raise
          .nodeBack (s.node i).address.toNat (s.node i).misses) ∧
    (((s.node i).state = .lost ∨ min 15 ((s.node i).misses + 1) < (s.node i).missLimit) → s.nodeMissed i
      = s.setNode i { s.node i with misses := min 15 ((s.node i).misses + 1) }) ∧
    (((s.node i).state = .unknown ∨ (s.node i).state = .online) →
      (s.node i).missLimit ≤ min 15 ((s.node i).misses + 1) → s.nodeMissed i
      = ((s.setNode i { s.node i with misses := min 15 ((s.node i).misses + 1), state := .lost }).raise
          .nodeLost (s.node i).address.toNat (s.node i).missLimit).reportLost (s.node i)) ∧
    (∀ n : Node,
      (∀ k, n.binding = some k → n.role = some .probe → s.reportLost n = s.holdKiln k .probe) ∧
      (∀ k, n.binding = some k → n.role = some .burner → s.reportLost n = s.holdKiln k .burner) ∧
      (n.role = some .printer → s.tickets.process = .idle →
        s.reportLost n = { s with tickets := { s.tickets with process := .halted } }) ∧
      (n.role = some .printer → s.tickets.process ≠ .idle → s.reportLost n = s) ∧
      (n.role ≠ some .probe → n.role ≠ some .burner → n.role ≠ some .printer → s.reportLost n = s)) ∧
    ((s.node i).role = some .belt → (∀ p, s.feed.changeover = .waiting p → s.reportAnswer i = s.completeChangeover) ∧
      ((∀ p, s.feed.changeover ≠ .waiting p) → s.reportAnswer i = s)) ∧
    ((s.node i).role = some .printer → (s.tickets.process = .halted → s.reportAnswer i = s.printScan) ∧
      (s.tickets.process ≠ .halted → s.reportAnswer i = s)) ∧
    ((s.node i).role ≠ some .belt → (s.node i).role ≠ some .printer → s.reportAnswer i = s))

/-- R50 to R53: the lookup of a classified poll reply, the actions and their checks, the value taken, the copies, and the Forward
Queue's admission. That the GREEN, BALE-EVENT and MOISTURE actions hand on the value's 32 bits as they are, after the sign
extension when the route says signed, is the model's choice (log 20). -/
def Obligations.RouteLookupAndActions : Prop :=
  (∀ (s : State) (src code : Byte) (x : RouteIdx), s.lookupRoute src code = some x ↔
    ((s.route x).used = true ∧ (s.route x).code = code ∧
      (((s.route x).source = src ∧
          ∀ y < x, ¬((s.route y).used = true ∧ (s.route y).source = src ∧ (s.route y).code = code)) ∨
       ((s.route x).source = 0 ∧
          (∀ y < x, ¬((s.route y).used = true ∧ (s.route y).source = 0 ∧ (s.route y).code = code)) ∧
          ∀ y, ¬((s.route y).used = true ∧ (s.route y).source = src ∧ (s.route y).code = code))))) ∧
  (∀ (s : State) (i : NodeIdx) (f : Frame), s.lookupRoute f.src f.code = none → s.classify i f
    = if s.mgmt.station.routeDefault = .forward then s.forward f else s) ∧
  (∀ (s : State) (i : NodeIdx) (f : Frame) (x : RouteIdx), s.lookupRoute f.src f.code = some x →
    ((s.route x).action = .forward → s.classify i f = s.forward f) ∧
    ((s.route x).action = .drop → s.classify i f = if (s.route x).copy then s.forward f else s) ∧
    ((s.route x).action ≠ .forward → (s.route x).action ≠ .drop → (s.route x).action ≠ .none →
      ∀ t : State, t = (if roleFits (s.route x).action (s.node i) ∧ (s.route x).lengthFits f
          then s.applyRoute (s.route x) i f else s.raise .routeMismatch x.val f.src.toNat) →
      s.classify i f = if (s.route x).copy then t.forward f else t)) ∧
  (∀ n : Node, (roleFits .green n = true ↔ n.role = some .belt) ∧
    (roleFits .kilnAir n = true ↔ n.role = some .probe ∧ n.binding ≠ none) ∧
    (roleFits .kilnExhaust n = true ↔ n.role = some .probe ∧ n.binding ≠ none) ∧
    (roleFits .baleEvent n = true ↔ n.role = some .press) ∧ (roleFits .moisture n = true ↔ n.role = some .moisture)) ∧
  (∀ (r : Route) (f : Frame), r.lengthFits f = true ↔
    (r.action = .baleEvent ∧ (r.selector = .offScale ∨ r.selector = .unloadDone)) ∨ r.offset + r.width ≤ f.payload.length) ∧
  (∀ (r : Route) (f : Frame), r.width ≤ 4 →
    (r.signed = false → (r.value f).toNat = beNat ((f.payload.drop r.offset).take r.width) ∧
      r.number f = beNat ((f.payload.drop r.offset).take r.width)) ∧
    (r.signed = true → 1 ≤ r.width → r.offset + r.width ≤ f.payload.length → r.number f = (r.value f).toInt ∧
      (r.value f).toInt = signedOf (8 * r.width) (beNat ((f.payload.drop r.offset).take r.width)))) ∧
  (∀ (s : State) (r : Route) (i : NodeIdx) (f : Frame),
    (r.action = .green → s.applyRoute r i f = s.green i (r.value f)) ∧
    (∀ k, (s.node i).binding = some k → (r.action = .kilnAir → s.applyRoute r i f = s.kilnAir k (r.number f)) ∧
      (r.action = .kilnExhaust → s.applyRoute r i f = s.kilnExhaust k (r.number f))) ∧
    (r.action = .baleEvent → (r.selector = .onScale → s.applyRoute r i f = s.onScale (r.value f)) ∧
      (r.selector = .offScale → s.applyRoute r i f = s.offScale) ∧
      (r.selector = .unloadDone → s.applyRoute r i f = s.unloadDone)) ∧
    (r.action = .moisture → s.applyRoute r i f = s.moisture (r.value f))) ∧
  (∀ (s : State) (f : Frame), (s.link.live = false → s.forward f = s) ∧
    (s.link.live = true → s.classifier.forwardQueue.length < 16 →
      s.forward f = { s with classifier := { s.classifier with forwardQueue := s.classifier.forwardQueue ++ [f] } }) ∧
    (∀ g rest, s.link.live = true → s.classifier.forwardQueue = g :: rest → 16 ≤ s.classifier.forwardQueue.length →
      s.forward f = { s with classifier := { s.classifier with forwardQueue := rest ++ [f] } }))

/-- R26, R27: at the expiry of an enabled cadence its countdown starts again, and every non-empty entry on it is taken in index
order: an unconfirmed actuator's command is placed, any other node joins the Poll Queue, and one already there raises
POLL-OVERRUN. A disabled cadence does not expire. -/
def Obligations.CadenceExpiry : Prop :=
  ∀ (s : State) (c : CadenceId), s.active = true →
    (s.field.cadences[c].enabled = false → (∃ ch, exec (.cadenceExpiry c) s = .next (State.choosing ch s))) ∧
    (s.field.cadences[c].enabled = true → (∃ ch, exec (.cadenceExpiry c) s = .next
      (State.choosing ch ((List.finRange 48).foldl (fun (u : State) (i : NodeIdx) =>
        if (s.node i).address ≠ 0 ∧ (s.node i).cadence = some c then
          match (s.node i).commanded, (s.node i).confirmed with
          | some v, false => { u with field := { u.field with commandQueue := placeIn i v u.field.commandQueue } }
          | _, _ =>
            if i ∈ u.field.pollQueue then u.raise .pollOverrun c.val (s.node i).address.toNat
            else { u with field := { u.field with pollQueue := u.field.pollQueue ++ [i] } }
        else u)
        { s with field := { s.field with
          cadences := s.field.cadences.set c { s.field.cadences[c] with countdown := s.field.cadences[c].period } } }))))

/-! ## Feed and loading -/

/-- R60, R62, R63, R64: the expiry of the changeover timer completes the changeover, or leaves it WAITING for the belt;
completion in its five steps; and the divert watch that runs out with DIVERT in the set raises FEED-HELD. The model's choices:
an expiry outside DRAINING, or without a watch or without DIVERT, changes nothing (log 5), FEED-HELD with no belt lot has
object 0 (log 26), and a completion that finds again a reason that stood at the event's start raises no FEED-HELD (log 37).
The picker premise is kept by every step (CommandsFollowKept). -/
def Obligations.ChangeoverAndDivertWatch : Prop :=
  (∀ s : State, s.active = true → s.feed.picker = s.pickerWanted →
    ((∀ p, s.feed.changeover ≠ .draining p) → (∃ ch, exec .changeoverTimerExpiry s = .next (State.choosing ch s))) ∧
    (∀ p, s.feed.changeover = .draining p → (s.feed.beltLot = none ∨ s.isOnline (s.roleNode .belt) = true) →
      (∃ ch, exec .changeoverTimerExpiry s
        = .next (State.choosing ch (feedEvent (fun t => State.completeChangeover { t with feed := { t.feed with timer := 0 } }) s)))) ∧
    (∀ p, s.feed.changeover = .draining p → s.feed.beltLot ≠ none → s.isOnline (s.roleNode .belt) = false →
      (∃ ch, exec .changeoverTimerExpiry s
        = .next (State.choosing ch { s with feed := { s.feed with timer := 0, changeover := .waiting p } }))) ∧
    (∀ n, s.feed.divertWatch = some n → s.feed.hold.divert = true →
      (∃ ch, exec .divertWatchExpiry s
        = .next (State.choosing ch (State.raise { s with feed := { s.feed with divertWatch := none } }
        .feedHeld (s.feed.beltLot.getD 0) 3)))) ∧
    ((s.feed.divertWatch = none ∨ s.feed.hold.divert = false) →
      (∃ ch, exec .divertWatchExpiry s = .next (State.choosing ch s)))) ∧
  (∀ (s t u : State) (p : Option Nat), (s.feed.changeover = .draining p ∨ s.feed.changeover = .waiting p) →
    ((s.feed.loading = none → t = s) ∧ (∀ k, s.feed.loading = some k → t = s.closeFill k)) →
    ((∀ b, s.feed.beltLot = some b → s.feed.feedLot ≠ some b → p ≠ some b →
        u = t.updLot b (fun l => { l with state := .finished })) ∧
      ((s.feed.beltLot = none ∨ s.feed.beltLot = s.feed.feedLot ∨ s.feed.beltLot = p) → u = t)) →
    s.completeChangeover = State.attemptSelection
      { u with feed := { u.feed with
        beltLot := p, changeover := .steady
        hold := { u.feed.hold with changeover := false, noKiln := false, chargeLimit := false } } })

/-- R61, R62, R76, R69: LOT-FEED with its four checks in their order, FEED-HOLD, and FILL-ORDER with its three. -/
def Obligations.FeedRequests : Prop :=
  (∀ (s : State) (tag : Byte) (lot : Word16), s.Ready → ∀ new : Option Nat, new = (if lot = 0 then none else some lot.toNat) →
    (s.feed.changeover ≠ .steady →
      (∃ ch, exec (.lotFeed tag lot) s = .next (State.choosing ch (s.replied tag (.lotFeed lot) .state [])))) ∧
    (s.feed.changeover = .steady →
      (lot ≠ 0 → s.lot? lot.toNat = none →
        (∃ ch, exec (.lotFeed tag lot) s = .next (State.choosing ch (s.replied tag (.lotFeed lot) .unknown [])))) ∧
      (lot = 0 ∨ s.lot? lot.toNat ≠ none →
        (s.feed.feedLot = new →
          (∃ ch, exec (.lotFeed tag lot) s = .next (State.choosing ch (s.replied tag (.lotFeed lot) .state [])))) ∧
        (∀ l, s.lot? lot.toNat = some l → lot ≠ 0 → 6 ≤ l.charges.length →
          (∃ ch, exec (.lotFeed tag lot) s = .next (State.choosing ch (s.replied tag (.lotFeed lot) .state [])))) ∧
        (s.feed.feedLot ≠ new → (∀ l, s.lot? lot.toNat = some l → lot ≠ 0 → l.charges.length < 6) →
          (∃ ch, exec (.lotFeed tag lot) s = .next (State.choosing ch (s.performed tag (.lotFeed lot)
            (feedEvent (fun t =>
              let u : State := { t with feed := { t.feed with
                feedLot := new, changeover := .draining new, timer := 10 * s.mgmt.station.transit
                hold := { t.feed.hold with changeover := true, stopped := decide (lot = 0) } } }
              let v := if lot = 0 then u else u.updLot lot.toNat (fun l => { l with state := .feeding })
              if s.mgmt.station.transit = 0 then v.changeoverExpiry else v))
            (fun t => bytes16 lot ++ be16 s.mgmt.station.transit ++ [t.feed.hold.byte])))))))) ∧
  (∀ (s : State) (tag flag : Byte), s.Ready →
    (flag.toNat ≤ 1 → (∃ ch, exec (.feedHold tag flag) s = .next (State.choosing ch (s.performed tag (.feedHold flag)
      (feedEvent (fun t => { t with feed := { t.feed with hold := { t.feed.hold with operator := decide (flag = 1) } } }))
      (fun t => [t.feed.hold.byte]))))) ∧
    (1 < flag.toNat →
      (∃ ch, exec (.feedHold tag flag) s = .next (State.choosing ch (s.replied tag (.feedHold flag) .range []))))) ∧
  (∀ (s : State) (tag : Byte) (ks : List Kiln), s.Ready → ks.length ≤ 6 →
    ∀ (count : Byte) (kilns : List Byte), count = byte ks.length → kilns = ks.map (fun k => byte k.val) →
    (ks.Nodup →
      (∃ ch, exec (.fillOrder tag count kilns) s = .next (State.choosing ch (s.performed tag (.fillOrder count kilns)
      (feedEvent (fun t => State.attemptSelection { t with feed := { t.feed with fillOrder := ks } }))
      (fun _ => count :: kilns))))) ∧
    (¬ ks.Nodup →
      (∃ ch, exec (.fillOrder tag count kilns) s
        = .next (State.choosing ch (s.replied tag (.fillOrder count kilns) .conflict []))))) ∧
  (∀ (s : State) (tag count : Byte) (kilns : List Byte), s.Ready →
    (kilns.length ≠ count.toNat → (∃ ch, exec (.fillOrder tag count kilns) s
      = .next (State.choosing ch (s.replied tag (.fillOrder count kilns) .format [])))) ∧
    (kilns.length = count.toNat → (6 < count.toNat ∨ ∃ b ∈ kilns, 5 < b.toNat) →
      (∃ ch, exec (.fillOrder tag count kilns) s
        = .next (State.choosing ch (s.replied tag (.fillOrder count kilns) .range [])))))

/-- R74, R75, R81, R97: LOAD-CLOSE, and the fill close: the charge goes KILNING with its fill end time, SHORT is tested on exact
products, the kiln goes LOADED with its burner command written and auto-start attempted, the diverter is parked, DIVERT leaves
the set, and a selection is attempted. The model's choices: SHORT-CHARGE is raised before the notices of the effects that follow
(log 10), and the burner is written before the diverter's parking (log 11). -/
def Obligations.FillClose : Prop :=
  (∀ (s : State) (tag : Byte), s.Ready →
    (s.feed.loading = none →
      (∃ ch, exec (.loadClose tag) s = .next (State.choosing ch (s.replied tag .loadClose .state [])))) ∧
    (∀ k r, s.feed.loading = some k → (s.kiln k).charge = some r →
      (∃ ch, exec (.loadClose tag) s = .next (State.choosing ch (s.performed tag .loadClose
        (feedEvent (fun t => (t.closeFill k).attemptSelection))
        (fun t => byte k.val :: be16 r.lot ++ [byte r.index] ++
          be32 (((t.charge? r).map (fun c => c.green)).getD 0) ++
          [flagByte (((t.charge? r).map (fun c => c.short)).getD false)])))))) ∧
  (∀ (s : State) (k : Kiln) (r : ChargeRef) (c : Charge), (s.kiln k).charge = some r → s.charge? r = some c →
    ∀ short : Bool, short = decide (c.green * 100 < (s.kilnEntry k).minLoad * (s.kilnEntry k).capacity) →
    ∀ t u v : State,
      t = s.updCharge r (fun x => { x with
        state := .kilning, fillEnd := some s.mgmt.time, short := x.short || short }) →
      u = (if short then t.raise .shortCharge k.val c.green else t) →
      v = ((u.updKiln k (fun x => { x with state := .loaded })).writeBurner k).autoStart k →
      ∀ w : State, w = State.writeCommanded { v with feed := { v.feed with loading := none, divertConfirmed := false } }
        (v.roleNode .diverter) (.divert none) →
      s.closeFill k = { w with feed := { w.feed with
        hold := { w.feed.hold with divert := false }, divertWatch := none } })

/-- R70, R71, R72, R60: when a selection is attempted, the kiln it finds, its three outcomes, and the taking of a kiln, with the
fields of its new charge (R4) and the start of the divert watch. R58, R59: the end of an event of the unit raises FEED-HELD for
NO-KILN or CHARGE-LIMIT that has entered, and moves the picker command to what the reason set calls for, writing it only when it
changes. The model's choices: NO-KILN before CHARGE-LIMIT, and both after the notices of the event (log 10), FEED-HELD with no
belt lot has object 0 (log 26), and R58 is followed, not R63, where the reason stood at the start of the event of a completion
(log 37). -/
def Obligations.KilnSelectionAndPicker : Prop :=
  (∀ s : State, (s.feed.beltLot = none ∨ s.feed.loading ≠ none ∨ ∃ p, s.feed.changeover = .waiting p) →
    s.attemptSelection = s) ∧
  (∀ (s : State) (b : Nat), s.feed.beltLot = some b → s.feed.loading = none → (∀ p, s.feed.changeover ≠ .waiting p) →
    ((∀ k ∈ s.feed.fillOrder, ¬((s.kiln k).state = .empty ∧ 0 < (s.kilnEntry k).capacity)) →
      s.attemptSelection = { s with feed := { s.feed with hold := { s.feed.hold with noKiln := true } } }) ∧
    (∀ pre post k, s.feed.fillOrder = pre ++ k :: post → (s.kiln k).state = .empty → 0 < (s.kilnEntry k).capacity →
      (∀ j ∈ pre, ¬((s.kiln j).state = .empty ∧ 0 < (s.kilnEntry j).capacity)) →
      ∀ l, s.lot? b = some l →
      (6 ≤ l.charges.length → ∀ t : State,
        t = (if s.feed.hold.chargeLimit then s else s.raise .chargeLimit b k.val) →
        s.attemptSelection = { t with feed := { t.feed with
          hold := { t.feed.hold with noKiln := false, chargeLimit := true } } }) ∧
      (l.charges.length < 6 → ∀ t u : State,
        t = { s.updLot b (fun m => { m with charges := m.charges ++ [{
            kiln := k, state := .filling, green := 0, fillStart := s.mgmt.time, fillEnd := none, dried := none
            short := false, aborted := false, held := false, overtime := false
            bales := 0, net := 0, partTickets := 0, finalTicket := none }] }) with
          kilns := (s.updKiln k (fun r => { r with
            state := .loading, charge := some { lot := b, index := l.charges.length } })).kilns
          feed := { s.feed with loading := some k, divertConfirmed := false, hold := { s.feed.hold with noKiln := false } } } →
        u = t.writeCommanded (t.roleNode .diverter) (.divert (some k)) →
        ((∀ i c, s.roleNode .diverter = some i → (s.node i).cadence = some c →
          s.attemptSelection = { u with feed := { u.feed with
            hold := { u.feed.hold with divert := true }, divertWatch := some s.field.cadences[c].period } }) ∧
         ((s.roleNode .diverter = none ∨ ∃ i, s.roleNode .diverter = some i ∧ (s.node i).cadence = none) →
          s.attemptSelection = State.raise { u with feed := { u.feed with
            hold := { u.feed.hold with divert := true }, divertWatch := none } } .feedHeld b 3))))) ∧
  (∀ (f : State → State) (s t u : State), t = f s →
    u = (let v := if t.feed.hold.noKiln = true ∧ s.feed.hold.noKiln = false
            then t.raise .feedHeld (t.feed.beltLot.getD 0) 2 else t
         if t.feed.hold.chargeLimit = true ∧ s.feed.hold.chargeLimit = false
            then v.raise .feedHeld (t.feed.beltLot.getD 0) 4 else v) →
    ∀ want : RunHold, want = (if t.feed.hold = { stopped := false } then .run else .hold) →
    (t.feed.picker = want → feedEvent f s = u) ∧
    (t.feed.picker ≠ want → feedEvent f s
      = State.writeCommanded { u with feed := { u.feed with picker := want } } (u.roleNode .picker) (.feed want)))

/-- R65 to R68, R6: a GREEN reading. The first after the baseline was lost credits nothing; the last totalizer takes every
value; a jump is credited to nothing and raises BELT-JUMP; any other increment is placed in exactly one destination beside the
lot's green total, and a fill that reaches its capacity closes. That the value is the route's 32 bits, read
as unsigned, is the model's choice (log 20). -/
def Obligations.BeltCrediting : Prop :=
  (∀ (s : State) (i : NodeIdx) (value : Word32) (t : State),
    t = s.setNode i { s.node i with lastTotalizer := value, baseline := true } →
    ((s.node i).baseline = false → s.green i value = t) ∧
    (∀ inc : Word32, inc = value - (s.node i).lastTotalizer → (s.node i).baseline = true →
      (inc = 0 → s.green i value = t) ∧
      (inc ≠ 0 → (s.mgmt.station.maxIncrement < inc.toNat ∨
          ∃ b l, s.feed.beltLot = some b ∧ s.lot? b = some l ∧ 2147483646 < l.greenTotal + inc.toNat) →
        s.green i value = t.raiseOpt .beltJump (s.node i).address.toNat (some inc)) ∧
      (inc ≠ 0 → inc.toNat ≤ s.mgmt.station.maxIncrement →
        (∀ b l, s.feed.beltLot = some b → s.lot? b = some l → l.greenTotal + inc.toNat ≤ 2147483646) →
        s.green i value = t.credit inc.toNat))) ∧
  (∀ (s : State) (inc : Nat),
    (s.feed.beltLot = none →
      s.credit inc = { s with feed := { s.feed with unassigned := min 2147483646 (s.feed.unassigned + inc) } }) ∧
    (∀ b l, s.feed.beltLot = some b → s.lot? b = some l →
      (s.feed.loading = none ∨ s.feed.divertConfirmed = false) →
      s.credit inc = (s.updLot b (fun l => { l with greenTotal := l.greenTotal + inc, spill := l.spill + inc })).raise
        .spill b (l.spill + inc : Nat)) ∧
    (∀ b k r c, s.feed.beltLot = some b → s.feed.loading = some k → s.feed.divertConfirmed = true →
      (s.kiln k).charge = some r → r.lot = b → s.charge? r = some c →
      ∀ t : State, t = (s.updLot b (fun l => { l with greenTotal := l.greenTotal + inc })).updCharge r
        (fun c => { c with green := c.green + inc }) →
      (c.green + inc < (s.kilnEntry k).capacity → s.credit inc = t) ∧
      ((s.kilnEntry k).capacity ≤ c.green + inc → s.credit inc = (t.closeFill k).attemptSelection)))

/-! ## Kilns -/

/-- R86, R87, R88, R90: the present burner command by the kiln's state, its write with the restart of the refresh timer, the
timer's expiry, the entry to a step by its kind, and the going DRIED. The model's choices: the expiry of a refresh timer that does
not run changes nothing (log 5), a going DRIED writes the burner before the press (log 11), the entry setpoint is the current one
at the entry for every kind (log 15), the count of ramp minutes starts at 0 (log 17), and KILN-DRIED's value is the low 32 bits of
total elapsed (log 35). -/
def Obligations.BurnerAndStepEntry : Prop :=
  (∀ (s : State) (k : Kiln),
    ((s.kiln k).state = .empty ∨ (s.kiln k).state = .loading ∨ (s.kiln k).state = .loaded ∨ (s.kiln k).state = .dried ∨
      (s.kiln k).state = .unloading → s.presentBurner k = { setpoint := 0, fan := 0, enabled := false }) ∧
    ((s.kiln k).state = .drying →
      s.presentBurner k = { setpoint := (s.kiln k).setpoint, fan := (s.currentStep k).fan, enabled := true }) ∧
    ((s.kiln k).state = .hold → s.presentBurner k = { setpoint := 0, fan := (s.kilnEntry k).holdFan, enabled := false }) ∧
    ((s.kiln k).state = .cooling → (s.kiln k).aborted = false →
      s.presentBurner k = { setpoint := 0, fan := (s.currentStep k).fan, enabled := false }) ∧
    (∀ d, (s.kiln k).state = .cooling → (s.kiln k).aborted = true → (s.kiln k).schedule = some d →
      s.presentBurner k = { setpoint := 0, fan := (s.kilns.schedules[d]).abortCoolFan, enabled := false }) ∧
    (∀ t : State, t = s.updKiln k (fun r => { r with
        refresh := if r.state = .drying ∨ r.state = .hold ∨ r.state = .cooling
          then some (10 * (s.kilnEntry k).refresh) else none }) →
      s.writeBurner k = t.writeCommanded (s.boundNode .burner k) (.setpoint (s.presentBurner k))) ∧
    (s.active = true → ∀ n, (s.kiln k).refresh = some n →
      (∃ ch, exec (.refreshTimerExpiry k) s = .next (State.choosing ch (s.writeBurner k)))) ∧
    (s.active = true → (s.kiln k).refresh = none → (∃ ch, exec (.refreshTimerExpiry k) s = .next (State.choosing ch s)))) ∧
  (∀ (s : State) (k : Kiln) (enter : KilnState → Int → State),
    enter = (fun st sp => s.updKiln k (fun r => { r with
      stepElapsed := 0, stepFraction := 0, rampMinute := 0, overLimit := 0, dryQualify := 0
      entrySetpoint := r.setpoint, state := st, setpoint := sp })) →
    ((s.currentStep k).kind = .ramp → s.enterStep k = (enter .drying (s.kiln k).setpoint).writeBurner k) ∧
    ((s.currentStep k).kind = .soak ∨ (s.currentStep k).kind = .dryTo →
      s.enterStep k = (enter .drying (s.currentStep k).target).writeBurner k) ∧
    ((s.currentStep k).kind = .cool → s.enterStep k = (enter .cooling (s.kiln k).setpoint).writeBurner k) ∧
    ((s.currentStep k).kind = .fin → s.enterStep k = (enter (s.kiln k).state (s.kiln k).setpoint).kilnDried k)) ∧
  (∀ (s : State) (k : Kiln) (r : ChargeRef), (s.kiln k).charge = some r →
    s.kilnDried k = ((((s.updKiln k (fun x => { x with state := .dried, overLimit := 0, dryQualify := 0, hold := {} })).updCharge
      r (fun c => { c with state := .awaitPress, dried := some s.mgmt.time })).writeBurner k).raise
        .kilnDried k.val (s.kiln k).totalElapsed).joinPressQueue k)

/-- R89, R91, R92, R103: the end of a RAMP, SOAK or COOL step, the whole minute of a RAMP, the overtime of a DRY-TO step, and the
end of abort cooling, each in the state in which it can come. The model's choices: in any other state the command does nothing
(log 5), an event given early sets the step's elapsed time to the time it stands for (log 2), the count of ramp minutes (log 17),
and KILN-OVERTIME before the KILN-HOLD it causes (log 10). -/
def Obligations.StepEnds : Prop :=
  ∀ (s : State) (k : Kiln), s.active = true →
    ((s.kiln k).state = .drying → (s.currentStep k).kind = .ramp →
      (∃ ch, exec (.stepEnd k) s = .next (State.choosing ch ((s.updKiln k (fun r => { r with
        setpoint := (s.currentStep k).target, stepIndex := r.stepIndex + 1 })).enterStep k))) ∧
      ((s.currentStep k).duration ≤ (s.kiln k).rampMinute + 1 → exec (.rampMinute k) s = exec (.stepEnd k) s) ∧
      (∀ (m : Nat) (sp : Int) (t : State), m = (s.kiln k).rampMinute + 1 → m < (s.currentStep k).duration →
        sp = (s.kiln k).entrySetpoint +
          Int.tdiv (((s.currentStep k).target - (s.kiln k).entrySetpoint) * m) (s.currentStep k).duration →
        t = s.updKiln k (fun r => { r with
          rampMinute := m, setpoint := sp, stepElapsed := max r.stepElapsed (60 * m)
          stepFraction := if r.stepElapsed < 60 * m then 0 else r.stepFraction }) →
        (sp = (s.kiln k).setpoint → (∃ ch, exec (.rampMinute k) s = .next (State.choosing ch t))) ∧
        (sp ≠ (s.kiln k).setpoint → (∃ ch, exec (.rampMinute k) s = .next (State.choosing ch (t.writeBurner k)))))) ∧
    (((s.kiln k).state = .drying ∧ (s.currentStep k).kind = .soak ∨
        (s.kiln k).state = .cooling ∧ (s.kiln k).aborted = false ∧ (s.currentStep k).kind = .cool) →
      (∃ ch, exec (.stepEnd k) s
        = .next (State.choosing ch ((s.updKiln k (fun r => { r with stepIndex := r.stepIndex + 1 })).enterStep k)))) ∧
    (¬((s.kiln k).state = .drying ∧ ((s.currentStep k).kind = .ramp ∨ (s.currentStep k).kind = .soak)) →
      ¬((s.kiln k).state = .cooling ∧ (s.kiln k).aborted = false ∧ (s.currentStep k).kind = .cool) →
      (∃ ch, exec (.stepEnd k) s = .next (State.choosing ch s))) ∧
    (¬((s.kiln k).state = .drying ∧ (s.currentStep k).kind = .ramp) →
      (∃ ch, exec (.rampMinute k) s = .next (State.choosing ch s))) ∧
    ((s.kiln k).state = .drying → (s.currentStep k).kind = .dryTo →
      (∃ ch, exec (.dryToOvertime k) s = .next (State.choosing ch (((s.updKiln k (fun r => { r with
        stepElapsed := 60 * (s.currentStep k).duration, stepFraction := 0 })).raise
          .kilnOvertime k.val (s.kiln k).stepIndex).holdKiln k .overtime)))) ∧
    (¬((s.kiln k).state = .drying ∧ (s.currentStep k).kind = .dryTo) →
      (∃ ch, exec (.dryToOvertime k) s = .next (State.choosing ch s))) ∧
    (∀ d, (s.kiln k).state = .cooling → (s.kiln k).aborted = true → (s.kiln k).schedule = some d →
      (∃ ch, exec (.abortCoolingEnd k) s = .next (State.choosing ch ((s.updKiln k (fun r => { r with
        stepElapsed := 60 * (s.kilns.schedules[d]).abortCoolMinutes, stepFraction := 0 })).kilnDried k)))) ∧
    (¬((s.kiln k).state = .cooling ∧ (s.kiln k).aborted = true) →
      (∃ ch, exec (.abortCoolingEnd k) s = .next (State.choosing ch s)))

/-- R95, R96, R97: KILN-START with its six checks in their order, the start, and auto-start on the same checks 3 to 6. -/
def Obligations.KilnStart : Prop :=
  (∀ (s : State) (tag b : Byte), s.Ready →
    (6 ≤ b.toNat → (∃ ch, exec (.kilnStart tag b) s = .next (State.choosing ch (s.replied tag (.kilnStart b) .range [])))) ∧
    (∀ k, kilnOf b = some k →
      ((s.kiln k).state ≠ .loaded →
        (∃ ch, exec (.kilnStart tag b) s = .next (State.choosing ch (s.replied tag (.kilnStart b) .state [])))) ∧
      (∀ w, (s.kiln k).state = .loaded → s.kilnVariety k = some w → ∀ d, d = s.kilns.schedules[w.schedule] →
        (d.count = 0 →
          (∃ ch, exec (.kilnStart tag b) s = .next (State.choosing ch (s.replied tag (.kilnStart b) .state [])))) ∧
        (d.count ≠ 0 → (∀ i, i < d.count → (s.stepAt (d.first + i)).kind ≠ .fin) →
          (∃ ch, exec (.kilnStart tag b) s = .next (State.choosing ch (s.replied tag (.kilnStart b) .format [])))) ∧
        ((∃ i, i < d.count ∧ (s.stepAt (d.first + i)).kind = .fin) →
          ((s.isOnline (s.boundNode .probe k) = false ∨ s.isOnline (s.boundNode .burner k) = false) →
            (∃ ch, exec (.kilnStart tag b) s = .next (State.choosing ch (s.replied tag (.kilnStart b) .state [])))) ∧
          (s.isOnline (s.boundNode .probe k) = true → s.isOnline (s.boundNode .burner k) = true →
            (∃ ch, exec (.kilnStart tag b) s = .next (State.choosing ch (s.performed tag (.kilnStart b)
              (fun t => (t.updKiln k (fun r => { r with
                schedule := some w.schedule, stepIndex := 0, stepElapsed := 0, stepFraction := 0, totalElapsed := 0
                totalFraction := 0, setpoint := d.startTemp, hold := {}, aborted := false, overLimit := 0
                dryQualify := 0 })).enterStep k)
              (fun t => [b, byte w.schedule.val, byte (t.kiln k).state.code, byte (t.kiln k).stepIndex] ++
                int16 (t.kiln k).setpoint))))))))) ∧
  (∀ (s : State) (k : Kiln),
    ((s.kilnEntry k).autoStart = false → s.autoStart k = s) ∧
    (∀ w d, (s.kilnEntry k).autoStart = true → s.kilnVariety k = some w → d = s.kilns.schedules[w.schedule] →
      ((∃ i, i < d.count ∧ (s.stepAt (d.first + i)).kind = .fin) → s.isOnline (s.boundNode .probe k) = true →
        s.isOnline (s.boundNode .burner k) = true → s.autoStart k = s.startRun k w.schedule) ∧
      (((∀ i, i < d.count → (s.stepAt (d.first + i)).kind ≠ .fin) ∨ s.isOnline (s.boundNode .probe k) = false ∨
        s.isOnline (s.boundNode .burner k) = false) → s.autoStart k = s)))

/-- R93, R94, R98, R99, R100: what a hold cause does by the kiln's state, KILN-HOLD, and the two samples with their streaks. -/
def Obligations.KilnHoldAndSamples : Prop :=
  (∀ (s : State) (k : Kiln) (reason : HoldReason),
    ((s.kiln k).state = .drying → s.holdKiln k reason
      = ((s.updKiln k (fun r => { r with
          state := .hold, hold := r.hold.add reason, overLimit := 0, dryQualify := 0 })).writeBurner k).raise
            .kilnHold k.val reason.code) ∧
    ((s.kiln k).state = .hold → (s.kiln k).hold.has reason = true → s.holdKiln k reason = s) ∧
    ((s.kiln k).state = .hold → (s.kiln k).hold.has reason = false → s.holdKiln k reason
      = (s.updKiln k (fun r => { r with hold := r.hold.add reason })).raise .kilnHold k.val reason.code) ∧
    ((s.kiln k).state ≠ .drying → (s.kiln k).state ≠ .hold → s.holdKiln k reason = s)) ∧
  (∀ (h : KilnHoldSet) (r q : HoldReason), (h.add r).has q = (h.has q || decide (q = r))) ∧
  (∀ (s : State) (tag b : Byte), s.Ready →
    (6 ≤ b.toNat → (∃ ch, exec (.kilnHold tag b) s = .next (State.choosing ch (s.replied tag (.kilnHold b) .range [])))) ∧
    (∀ k, kilnOf b = some k →
      ((s.kiln k).state ≠ .drying → (s.kiln k).state ≠ .hold →
        (∃ ch, exec (.kilnHold tag b) s = .next (State.choosing ch (s.replied tag (.kilnHold b) .state [])))) ∧
      ((s.kiln k).state = .drying ∨ (s.kiln k).state = .hold →
        (∃ ch, exec (.kilnHold tag b) s
          = .next (State.choosing ch (s.performed tag (.kilnHold b) (fun t => t.holdKiln k .operator)
          (fun t => [(t.kiln k).hold.byte]))))))) ∧
  (∀ (s : State) (k : Kiln) (value v : Int), v = max (-32768) (min 32767 value) →
    ∀ t : State, t = s.updKiln k (fun r => { r with lastAir := some v, lastAirTime := some s.mgmt.time }) →
    ((s.kiln k).state ≠ .drying → s.kilnAir k value = t) ∧
    ((s.kiln k).state = .drying → v ≤ (s.currentStep k).limit →
      s.kilnAir k value = t.updKiln k (fun r => { r with overLimit := 0 })) ∧
    ((s.kiln k).state = .drying → (s.currentStep k).limit < v →
      ∀ u : State, u = t.updKiln k (fun r => { r with overLimit := r.overLimit + 1 }) →
      ((s.kiln k).overLimit + 1 < (s.kilnEntry k).limitStreak → s.kilnAir k value = u) ∧
      ((s.kilnEntry k).limitStreak ≤ (s.kiln k).overLimit + 1 → s.kilnAir k value = u.holdKiln k .limit))) ∧
  (∀ (s : State) (k : Kiln) (value : Int) (v : Nat), v = (max 0 (min 65535 value)).toNat →
    ∀ t : State, t = s.updKiln k (fun r => { r with lastExhaust := some v, lastExhaustTime := some s.mgmt.time }) →
    (((s.kiln k).state ≠ .drying ∨ (s.currentStep k).kind ≠ .dryTo) → s.kilnExhaust k value = t) ∧
    (∀ w, (s.kiln k).state = .drying → (s.currentStep k).kind = .dryTo → s.kilnVariety k = some w →
      (w.endHumidity < v → s.kilnExhaust k value = t.updKiln k (fun r => { r with dryQualify := 0 })) ∧
      (v ≤ w.endHumidity → ∀ u : State, u = t.updKiln k (fun r => { r with dryQualify := r.dryQualify + 1 }) →
        ((s.kiln k).dryQualify + 1 < w.qualify → s.kilnExhaust k value = u) ∧
        (w.qualify ≤ (s.kiln k).dryQualify + 1 → s.kilnExhaust k value
          = (u.updKiln k (fun r => { r with stepIndex := r.stepIndex + 1 })).enterStep k))))

/-- R101, R102: KILN-RESUME with its six checks and three modes, and KILN-ABORT. -/
def Obligations.KilnResumeAndAbort : Prop :=
  (∀ (s : State) (tag b mode : Byte), s.Ready →
    (6 ≤ b.toNat ∨ 3 ≤ mode.toNat →
      (∃ ch, exec (.kilnResume tag b mode) s = .next (State.choosing ch (s.replied tag (.kilnResume b mode) .range [])))) ∧
    (∀ k m, kilnOf b = some k → ResumeMode.ofCode mode.toNat = some m →
      (((s.kiln k).state ≠ .hold ∨ ((s.kiln k).hold.overtime = true ∧ m = .continue) ∨
          ((s.kiln k).hold.overtime = false ∧ m ≠ .continue) ∨
          s.isOnline (s.boundNode .probe k) = false ∨ s.isOnline (s.boundNode .burner k) = false ∨
          ∃ a, (s.kiln k).lastAir = some a ∧ (s.currentStep k).limit < a) →
        (∃ ch, exec (.kilnResume tag b mode) s = .next (State.choosing ch (s.replied tag (.kilnResume b mode) .state [])))) ∧
      (∀ r, (s.kiln k).state = .hold → ((s.kiln k).hold.overtime = true ↔ m ≠ .continue) →
        s.isOnline (s.boundNode .probe k) = true → s.isOnline (s.boundNode .burner k) = true →
        (∀ a, (s.kiln k).lastAir = some a → a ≤ (s.currentStep k).limit) → (s.kiln k).charge = some r →
        (∃ ch, exec (.kilnResume tag b mode) s = .next (State.choosing ch (s.performed tag (.kilnResume b mode)
          (fun t =>
            let u := (t.updCharge r (fun c => { c with
                held := true, overtime := c.overtime || (s.kiln k).hold.overtime })).updKiln k
              (fun x => { x with hold := {}, overLimit := 0, dryQualify := 0 })
            match m with
            | .continue => (u.updKiln k (fun x => { x with state := .drying })).writeBurner k
            | .extend => (u.updKiln k (fun x => { x with
                state := .drying, stepElapsed := 0, stepFraction := 0 })).writeBurner k
            | .next => (u.updKiln k (fun x => { x with stepIndex := x.stepIndex + 1 })).enterStep k)
          (fun t => [byte (t.kiln k).state.code, byte (t.kiln k).stepIndex]))))))) ∧
  (∀ (s : State) (tag b : Byte), s.Ready →
    (6 ≤ b.toNat → (∃ ch, exec (.kilnAbort tag b) s = .next (State.choosing ch (s.replied tag (.kilnAbort b) .range [])))) ∧
    (∀ k, kilnOf b = some k →
      ((s.kiln k).state ≠ .loaded → (s.kiln k).state ≠ .drying → (s.kiln k).state ≠ .hold →
        (∃ ch, exec (.kilnAbort tag b) s = .next (State.choosing ch (s.replied tag (.kilnAbort b) .state [])))) ∧
      (∀ r d, (s.kiln k).charge = some r →
        ((s.kiln k).state = .loaded ∧ (s.kilnVariety k).map (fun w => w.schedule) = some d ∨
          ((s.kiln k).state = .drying ∨ (s.kiln k).state = .hold) ∧ (s.kiln k).schedule = some d) →
        (∃ ch, exec (.kilnAbort tag b) s = .next (State.choosing ch (s.performed tag (.kilnAbort b)
          (fun t =>
            let u := (t.updCharge r (fun c => { c with aborted := true })).updKiln k (fun x => { x with
              schedule := some d, aborted := true, hold := {}, overLimit := 0, dryQualify := 0
              stepElapsed := 0, stepFraction := 0
              totalElapsed := if x.state = .loaded then 0 else x.totalElapsed
              totalFraction := if x.state = .loaded then 0 else x.totalFraction })
            if (s.kilns.schedules[d]).abortCoolMinutes = 0 then u.kilnDried k
            else (u.updKiln k (fun x => { x with state := .cooling })).writeBurner k)
          (fun t => [byte (t.kiln k).state.code])))))))

/-! ## The scale -/

/-- R106, R107, R108, R109, R117, R115: the start of a converter frame with the 32 bits it sends, the command word and 24 zeros, a
complete frame with the pairing of its sample, a torn frame, the converter watch, and the settle timer. That a frame start during
a frame, a frame end with no frame in progress and a settle timeout outside SETTLING change nothing is the model's choice (log
5). -/
def Obligations.ConverterFrames : Prop :=
  ∀ s : State, s.active = true →
    (s.scale.frame ≠ none → (∃ ch, exec .converterFrameStart s = .next (State.choosing ch s))) ∧
    (s.scale.frame = none → s.scale.commands = [] →
      (∃ ch, exec .converterFrameStart s = .next (State.choosing ch { s with scale := { s.scale with
      frame := some { sends := s.scale.setup.idleWord ++ (0 : BitVec 24), fromFifo := false } } }))) ∧
    (∀ w ws, s.scale.frame = none → s.scale.commands = w :: ws →
      (∃ ch, exec .converterFrameStart s = .next (State.choosing ch { s with scale := { s.scale with
        frame := some { sends := w ++ (0 : BitVec 24), fromFifo := true } } }))) ∧
    (∃ ch, exec .converterFrameTorn s = .next (State.choosing ch { s with scale := { s.scale with frame := none } })) ∧
    (∃ ch, exec .converterWatchExpiry s
      = .next (State.choosing ch (State.faultCause { s with scale := { s.scale with watch := 10 } } .ready))) ∧
    (s.scale.state = .settling →
      (∃ ch, exec .settleTimeout s = .next (State.choosing ch (State.notCaptured { s with scale := { s.scale with
      state := .clearing, captured := false, settle := none } })))) ∧
    (s.scale.state ≠ .settling → (∃ ch, exec .settleTimeout s = .next (State.choosing ch s))) ∧
    (∀ (status : Byte) (sample : BitVec 24),
      (s.scale.frame = none → (∃ ch, exec (.converterFrameComplete status sample) s = .next (State.choosing ch s))) ∧
      (∀ f c, s.scale.frame = some f → c = { s.scale with
          frame := none, watch := 10, commands := if f.fromFifo = true then s.scale.commands.tail else s.scale.commands } →
        (status.getLsbD 5 = true → (∃ ch, exec (.converterFrameComplete status sample) s
          = .next (State.choosing ch (State.faultCause { s with scale := { c with pendingA := none } } .reference)))) ∧
        (status.getLsbD 5 = false → status.getLsbD 6 = true → (∃ ch, exec (.converterFrameComplete status sample) s
          = .next (State.choosing ch (State.faultCause { s with scale := { c with pendingA := none } } .overrange)))) ∧
        (status.getLsbD 5 = false → status.getLsbD 6 = false →
          (status.getLsbD 7 = false → (∃ ch, exec (.converterFrameComplete status sample) s
            = .next (State.choosing ch { s with scale := { c with pendingA := some sample.toInt } }))) ∧
          (status.getLsbD 7 = true → s.scale.pendingA = none → (∃ ch, exec (.converterFrameComplete status sample) s
            = .next (State.choosing ch { s with scale := c }))) ∧
          (∀ a, status.getLsbD 7 = true → s.scale.pendingA = some a →
            (s.scale.state = .fault → s.scale.good = 0 → (∃ ch, exec (.converterFrameComplete status sample) s
              = .next (State.choosing ch { s with scale := { c with pendingA := none, good := 1 } }))) ∧
            (s.scale.state = .fault → 1 ≤ s.scale.good → (∃ ch, exec (.converterFrameComplete status sample) s
              = .next (State.choosing ch { s with scale := { c with
                  pendingA := none, state := .idle, good := 0, cycleOpen := false, history := [], stable := none } }))) ∧
            (s.scale.state ≠ .fault → ∀ d, d = { c with pendingA := none, samples := c.samples ++ [a + sample.toInt] } →
              (d.samples.length < c.setup.watermark →
                (∃ ch, exec (.converterFrameComplete status sample) s = .next (State.choosing ch { s with scale := d }))) ∧
              (c.setup.watermark ≤ d.samples.length →
                (∃ ch, exec (.converterFrameComplete status sample) s
                  = .next (State.choosing ch (State.judgeBlock { s with scale := d.formBlock })))))))))

/-- R110, R111, R113, R115, R117, R118: the block that N readings form, with its raw average and its weight; stability on the
last M weights; the judgement by the scale state, with capture and zero tracking; and the entry to FAULT. That SCALE-FAULT stands
before the BALE-UNRECORDED of the cycle it ends is the model's choice (log 10). -/
def Obligations.BlocksAndFaults : Prop :=
  (∀ (c : Scale) (raw : Int), raw = Int.tdiv c.samples.sum c.setup.watermark →
    ∀ w : Option Int, w = (if c.setup.span = 0 then none else
        some (max (-2147483647) (min 2147483646 (Int.tdiv ((raw - c.setup.zeroOffset) * c.setup.span) 65536)))) →
    ∀ h : List ScaleBlock, h = (c.history ++ [ScaleBlock.mk raw w]).drop ((c.history.length + 1) - 8) →
    c.formBlock = { c with
      samples := [], history := h, lastBlock := some { raw := raw, weight := w }, stable := stableOf c.setup h }) ∧
  (∀ (u : ScaleSetup) (h : List ScaleBlock) (ws : List Int), ws = h.filterMap (fun b => b.weight) → 1 ≤ u.stability →
    (ws.length < u.stability → stableOf u h = none) ∧
    (∀ pre last, ws = pre ++ last → last.length = u.stability →
      ((∀ x ∈ last, ∀ y ∈ last, x - y ≤ u.band) → stableOf u h = some (Int.tdiv last.sum u.stability)) ∧
      ((∃ x ∈ last, ∃ y ∈ last, (u.band : Int) < x - y) → stableOf u h = none))) ∧
  (∀ s : State,
    ((s.scale.state = .unconfigured ∨ s.scale.state = .clearing ∨ s.scale.state = .fault) → s.judgeBlock = s) ∧
    (s.scale.stable = none → s.judgeBlock = s) ∧
    (∀ w, s.scale.state = .settling → s.scale.stable = some w →
      (w < s.scale.setup.minGross → s.judgeBlock = s) ∧
      ((s.scale.setup.minGross : Int) ≤ w → s.judgeBlock = State.captured
        { s with scale := { s.scale with state := .clearing, captured := true, settle := none } } w)) ∧
    (∀ w, s.scale.state = .idle → s.scale.stable = some w →
      ((s.scale.setup.zeroTrackBand = 0 ∨ s.scale.setup.zeroTrackBand < w.natAbs) → s.judgeBlock = s) ∧
      (0 < s.scale.setup.zeroTrackBand → w.natAbs ≤ s.scale.setup.zeroTrackBand → ∀ z, z = Int.tdiv
          ((s.scale.history.drop (s.scale.history.length - s.scale.setup.stability)).map (fun b => b.raw)).sum
          s.scale.setup.stability →
        s.judgeBlock = { s with scale := { s.scale with
          history := [], stable := none, setup := { s.scale.setup with zeroOffset := z } } }))) ∧
  (∀ (s : State) (cause : FaultCause),
    (s.scale.state = .unconfigured → s.faultCause cause = s) ∧
    (s.scale.state = .fault → s.faultCause cause = { s with scale := { s.scale with good := 0 } }) ∧
    (∀ t : State, s.scale.state = .idle ∨ s.scale.state = .settling ∨ s.scale.state = .clearing →
      t = State.raise { s with scale := { s.scale with
        state := .fault, pendingA := none, samples := [], history := [], stable := none, lastBlock := none, good := 0
        settle := none, captured := false
        cycleOpen := decide (s.scale.state = .settling ∨ s.scale.state = .clearing) } } .scaleFault 0 cause.code →
      (s.scale.state = .settling → s.faultCause cause = t.notCaptured) ∧
      (s.scale.state ≠ .settling → s.faultCause cause = t)))

/-- R119, R121: SCALE-ZERO with its three checks, and SCALE-COMMAND with its FIFO of 4 words. -/
def Obligations.ScaleRequests : Prop :=
  ∀ (s : State) (tag : Byte), s.Ready →
    ((s.scale.state ≠ .idle ∨ s.scale.stable = none) →
      (∃ ch, exec (.scaleZero tag) s = .next (State.choosing ch (s.replied tag .scaleZero .state [])))) ∧
    (∀ w, s.scale.state = .idle → s.scale.stable = some w →
      (s.scale.setup.zeroLimit < w.natAbs →
        (∃ ch, exec (.scaleZero tag) s = .next (State.choosing ch (s.replied tag .scaleZero .range [])))) ∧
      (w.natAbs ≤ s.scale.setup.zeroLimit → ∀ z, z = Int.tdiv
          ((s.scale.history.drop (s.scale.history.length - s.scale.setup.stability)).map (fun b => b.raw)).sum
          s.scale.setup.stability →
        (∃ ch, exec (.scaleZero tag) s = .next (State.choosing ch (s.performed tag .scaleZero
          (fun t => { t with scale := { t.scale with
            samples := [], history := [], stable := none, setup := { t.scale.setup with zeroOffset := z } } })
          (fun _ => int32 z ++ int32 w)))))) ∧
    (∀ word, (4 ≤ s.scale.commands.length →
        (∃ ch, exec (.scaleCommand tag word) s = .next (State.choosing ch (s.replied tag (.scaleCommand word) .full [])))) ∧
      (s.scale.commands.length < 4 →
        (∃ ch, exec (.scaleCommand tag word) s = .next (State.choosing ch (s.performed tag (.scaleCommand word)
        (fun t => { t with scale := { t.scale with commands := s.scale.commands ++ [word] } })
        (fun t => [byte t.scale.commands.length]))))))

/-! ## Bales and the press -/

/-- R114, R129, R130, R133, R141: an ON-SCALE by the scale's state and the record it makes, an unrecorded cycle, and a MOISTURE
reading. That a next bale number of 0, which stands before TICKET-BASE, makes no record, as an exhausted one, is the model's
choice (log 19), and so are the tare code and the moisture as the route's 32 bits, read as unsigned (log 20). -/
def Obligations.OnScaleAndMoisture : Prop :=
  (∀ (s : State) (value : Word32),
    ((s.scale.state = .settling ∨ s.scale.state = .clearing) → s.onScale value = s.raise .scaleSequence 0 1) ∧
    (s.scale.state = .idle → s.onScale value = State.newCycle { s with scale := { s.scale with
      state := .settling, pendingA := none, samples := [], history := [], stable := none
      settle := some (10 * s.scale.setup.settleTimeout) } } value true) ∧
    (s.scale.state = .fault →
      s.onScale value = State.newCycle { s with scale := { s.scale with cycleOpen := true } } value false) ∧
    (s.scale.state = .unconfigured → s.onScale value = (s.raise .scaleSequence 0 1).newCycle value false)) ∧
  (∀ (s : State) (value : Word32) (weighing : Bool),
    (∀ k ks r l n, s.press.queue = k :: ks → (s.kiln k).charge = some r → s.lot? r.lot = some l → l.baleCount < 65535 →
      s.press.bales.length < 256 → n = s.tickets.nextBale → 1 ≤ n → n ≤ 0xFFFFFFF0 →
      ∀ (code : Option (Fin 8)) (tare : Nat), (∀ c : Fin 8, value.toNat = c.val → code = some c ∧ tare = s.press.tares[c]) →
      (8 ≤ value.toNat → code = none ∧ tare = 0) →
      ∀ t : State, t = State.judgeStore (State.updCharge (State.updLot
        { s with
          press := { s.press with
            cycle := .bale n
            bales := s.press.bales ++ [{
              number := n, lot := r.lot, index := r.index, kiln := k
              status := if weighing = true then .weighing else .awaitingWeight
              gross := none, tareCode := code, tare := tare, net := none, moisture := none, time := s.mgmt.time
              manual := !weighing, low := false, high := false, wet := false, ticket := none }] }
          tickets := { s.tickets with nextBale := n + 1, lastBale := some n } }
        r.lot (fun l => { l with baleCount := l.baleCount + 1 })) r (fun c => { c with bales := c.bales + 1 })) →
      (weighing = true → s.newCycle value weighing = t) ∧ (weighing = false → s.newCycle value weighing = t.offerCharge r)) ∧
    ((s.press.queue = [] ∨ 256 ≤ s.press.bales.length ∨ s.tickets.nextBale = 0 ∨ 0xFFFFFFF0 < s.tickets.nextBale ∨
        ∃ k ks r l, s.press.queue = k :: ks ∧ (s.kiln k).charge = some r ∧ s.lot? r.lot = some l ∧ 65535 ≤ l.baleCount) →
      (weighing = true → s.newCycle value weighing = { s with press := { s.press with cycle := .unrecorded } }) ∧
      (weighing = false → s.newCycle value weighing
        = State.raiseOpt { s with press := { s.press with cycle := .unrecorded } } .baleUnrecorded 0 none))) ∧
  (∀ (s : State) (value : Word32),
    ((s.press.cycle = .none ∨ s.press.cycle = .unrecorded ∨ ∃ n, s.press.cycle = .bale n ∧ s.bale? n = none) →
      s.moisture value = s) ∧
    (∀ n b, s.press.cycle = .bale n → s.bale? n = some b →
      (b.status = .awaitingWeight → s.moisture value = s) ∧
      (∀ l, b.status ≠ .awaitingWeight → s.lot? b.lot = some l → s.moisture value = s.updBale n (fun x => { x with
        moisture := some (min 65535 value.toNat)
        wet := x.wet || decide ((s.varietyOf l).maxMoisture < min 65535 value.toNat) }))))

/-- R116, R131, R132, R133, R134, R138: the two outcomes of a cycle by the cycle bale, OFF-SCALE by the scale's state, the filling
of a weight with the tolerance check, and BALE-WEIGHT with its three checks. That an OFF-SCALE in SETTLING raises BALE-UNRECORDED
before SCALE-SEQUENCE is the model's choice (log 10). -/
def Obligations.BaleWeights : Prop :=
  (∀ (s : State) (weight : Int),
    (s.press.cycle = .none → s.captured weight = s ∧ s.notCaptured = s) ∧
    (s.press.cycle = .unrecorded → s.captured weight = s.raise .baleUnrecorded 0 weight ∧
      s.notCaptured = s.raiseOpt .baleUnrecorded 0 none) ∧
    (∀ n, s.press.cycle = .bale n →
      ((∀ b, s.bale? n = some b → b.status ≠ .weighing) → s.captured weight = s ∧ s.notCaptured = s) ∧
      (∀ b, s.bale? n = some b → b.status = .weighing →
        s.captured weight = (s.fillBale b weight).offerCharge { lot := b.lot, index := b.index } ∧
        s.notCaptured = (s.updBale n (fun x => { x with status := .awaitingWeight, manual := true })).offerCharge
          { lot := b.lot, index := b.index }))) ∧
  (∀ (s t : State), t = (match s.scale.state with
      | .clearing => { s with scale := { s.scale with
          state := .idle, captured := false, settle := none, history := [], stable := none } }
      | .fault => { s with scale := { s.scale with cycleOpen := false } }
      | .settling =>
        let u := State.notCaptured { s with scale := { s.scale with settle := none } }
        State.raise { u with scale := { u.scale with
          state := .idle, captured := false, settle := none, history := [], stable := none } } .scaleSequence 0 2
      | .idle => s
      | .unconfigured => s) →
    s.offScale = { t with press := { t.press with cycle := .none } }) ∧
  (∀ (s : State) (b : Bale) (l : Lot) (gross net : Int), s.lot? b.lot = some l → net = gross - b.tare →
    ∀ low high : Bool, low = decide (net < (s.varietyOf l).targetMin) →
    high = decide (((s.varietyOf l).targetMax : Int) < net) →
    ∀ t : State, t = ((s.updBale b.number (fun x => { x with
        gross := some gross, net := some net, status := .weighed, low := x.low || low, high := x.high || high })).updLot b.lot
      (fun l => { l with netTotal := wrap32 (l.netTotal + net) })).updCharge { lot := b.lot, index := b.index }
      (fun c => { c with net := wrap32 (c.net + net) }) →
    (low = false → high = false → s.fillBale b gross = t) ∧
    ((low = true ∨ high = true) → s.fillBale b gross = t.raise .baleTolerance b.number net)) ∧
  (∀ (s : State) (tag : Byte) (bale gross : Word32), s.Ready →
    (2147483646 < gross.toNat →
      (∃ ch, exec (.baleWeight tag bale gross) s
        = .next (State.choosing ch (s.replied tag (.baleWeight bale gross) .range [])))) ∧
    (gross.toNat ≤ 2147483646 →
      (s.bale? bale.toNat = none →
        (∃ ch, exec (.baleWeight tag bale gross) s
          = .next (State.choosing ch (s.replied tag (.baleWeight bale gross) .unknown [])))) ∧
      (∀ b, s.bale? bale.toNat = some b →
        (b.status ≠ .awaitingWeight →
          (∃ ch, exec (.baleWeight tag bale gross) s
            = .next (State.choosing ch (s.replied tag (.baleWeight bale gross) .state [])))) ∧
        (∀ l x, b.status = .awaitingWeight → s.lot? b.lot = some l → x = { b with
            low := b.low || decide ((gross.toNat : Int) - b.tare < (s.varietyOf l).targetMin)
            high := b.high || decide (((s.varietyOf l).targetMax : Int) < (gross.toNat : Int) - b.tare) } →
          (∃ ch, exec (.baleWeight tag bale gross) s = .next (State.choosing ch (s.performed tag (.baleWeight bale gross)
            (fun t => (t.fillBale b gross.toNat).offerCharge { lot := b.lot, index := b.index })
            (fun _ => bytes32 bale ++ int32 ((gross.toNat : Int) - b.tare) ++ [x.flags]))))))))

/-- R124, R125, R126, R81: unload done on the head kiln, and UNLOAD-DONE, the request. The model's choices: the burner is written
before the press (log 11), and the Compose Wait list is served last (log 21). -/
def Obligations.UnloadDone : Prop :=
  (∀ s : State, s.press.queue = [] → s.unloadDone = s) ∧
  (∀ (s : State) (k : Kiln) (ks : List Kiln) (r : ChargeRef), s.press.queue = k :: ks → (s.kiln k).charge = some r →
    ∀ t u v : State,
      t = State.updCharge { s with press := { s.press with queue := ks } } r (fun c => { c with state := .pressed }) →
      u = (t.updKiln k (fun x => { ({} : KilnRun) with
        lastAir := x.lastAir, lastAirTime := x.lastAirTime
        lastExhaust := x.lastExhaust, lastExhaustTime := x.lastExhaustTime })).writeBurner k →
      ((ks = [] → v = u) ∧ (∀ j js, ks = j :: js → v = u.becomeHead j)) →
      s.unloadDone = ((v.testComposition r).judgePress.attemptSelection).serve) ∧
  (∀ (s : State) (k : Kiln) (r : ChargeRef), (s.kiln k).charge = some r →
    s.becomeHead k = (s.updKiln k (fun x => { x with state := .unloading })).updCharge r
      (fun c => { c with state := .pressing })) ∧
  (∀ (s : State) (k : Kiln),
    (s.press.queue ≠ [] → s.joinPressQueue k = { s with press := { s.press with queue := s.press.queue ++ [k] } }) ∧
    (s.press.queue = [] → s.joinPressQueue k
      = (State.becomeHead { s with press := { s.press with queue := [k] } } k).judgePress)) ∧
  (∀ (s : State) (tag b : Byte), s.Ready →
    (6 ≤ b.toNat → (∃ ch, exec (.unloadDone tag b) s = .next (State.choosing ch (s.replied tag (.unloadDone b) .range [])))) ∧
    (∀ k, kilnOf b = some k →
      (s.press.queue.head? ≠ some k →
        (∃ ch, exec (.unloadDone tag b) s = .next (State.choosing ch (s.replied tag (.unloadDone b) .state [])))) ∧
      (∀ r, s.press.queue.head? = some k → (s.kiln k).charge = some r →
        (∃ ch, exec (.unloadDone tag b) s
          = .next (State.choosing ch (s.performed tag (.unloadDone b) (feedEvent State.unloadDone)
          (fun t => b :: be16 r.lot ++ [byte r.index] ++
            be16 (((t.charge? r).map (fun c => c.bales)).getD 0) ++
            int32 (((t.charge? r).map (fun c => c.net)).getD 0) ++
            [((t.press.queue.head?).map (fun j => byte j.val)).getD 0xFF])))))))

/-- R135, R136, R137: the press command that the queue and the reason set call for, its write when it changes, the judging of
STORE with PRESS-HELD on its entry, and PRESS-HOLD. -/
def Obligations.PressHoldAndCommand : Prop :=
  (∀ s : State,
    (s.press.queue = [] → s.pressWanted = none) ∧
    (s.press.queue ≠ [] → s.press.hold.store = false → s.press.hold.operator = false → s.pressWanted = some .run) ∧
    (s.press.queue ≠ [] → (s.press.hold.store = true ∨ s.press.hold.operator = true) → s.pressWanted = some .hold) ∧
    (s.press.command = s.pressWanted → s.judgePress = s) ∧
    (∀ v, s.press.command ≠ some v → s.pressWanted = some v →
      s.judgePress = State.writeCommanded { s with press := { s.press with command := some v } } (s.roleNode .press) (.press v)) ∧
    (s.press.command ≠ none → s.pressWanted = none →
      (s.roleNode .press = none → s.judgePress = { s with press := { s.press with command := none } }) ∧
      (∀ i, s.roleNode .press = some i → s.judgePress = State.setNode { s with press := { s.press with command := none } } i
        { s.node i with commanded := none, confirmed := false })) ∧
    (∀ t : State, (s.mgmt.station.threshold < 256 - s.press.bales.length →
        t = { s with press := { s.press with hold := { s.press.hold with store := false } } }) →
      (256 - s.press.bales.length ≤ s.mgmt.station.threshold → s.press.hold.store = true → t = s) →
      (256 - s.press.bales.length ≤ s.mgmt.station.threshold → s.press.hold.store = false →
        t = State.raise { s with press := { s.press with hold := { s.press.hold with store := true } } } .pressHeld 0
          (256 - s.press.bales.length : Nat)) →
      s.judgeStore = t.judgePress)) ∧
  (∀ (s : State) (tag flag : Byte), s.Ready →
    (1 < flag.toNat →
      (∃ ch, exec (.pressHold tag flag) s = .next (State.choosing ch (s.replied tag (.pressHold flag) .range [])))) ∧
    (flag.toNat ≤ 1 → (∃ ch, exec (.pressHold tag flag) s = .next (State.choosing ch (s.performed tag (.pressHold flag)
      (fun t => State.judgePress
        { t with press := { t.press with hold := { t.press.hold with operator := decide (flag = 1) } } })
      (fun t => [t.press.hold.byte]))))))

/-! ## Tickets -/

/-- R141, R142, R151, R150, R55: TICKET-BASE with its four checks, and TICKET-READ with the block of TICKET frames. Then the bytes of
a ticket's image, its header and its lines (11.8; the fields' own bytes are FieldCodes'). -/
def Obligations.TicketBaseAndRead : Prop :=
  (∀ (s : State) (tag : Byte) (ticket bale : Word32), s.Ready →
    ((ticket.toNat = 0 ∨ 0xFFFFFFF0 < ticket.toNat ∨ bale.toNat = 0 ∨ 0xFFFFFFF0 < bale.toNat) →
      (∃ ch, exec (.ticketBase tag ticket bale) s
        = .next (State.choosing ch (s.replied tag (.ticketBase ticket bale) .range [])))) ∧
    (1 ≤ ticket.toNat → ticket.toNat ≤ 0xFFFFFFF0 → 1 ≤ bale.toNat → bale.toNat ≤ 0xFFFFFFF0 →
      ((s.tickets.queue ≠ [] ∨ s.tickets.wait ≠ []) →
        (∃ ch, exec (.ticketBase tag ticket bale) s
          = .next (State.choosing ch (s.replied tag (.ticketBase ticket bale) .state [])))) ∧
      (s.tickets.queue = [] → s.tickets.wait = [] →
        ((∃ n, s.tickets.lastTicket = some n ∧ ticket.toNat ≤ n) ∨ (∃ n, s.tickets.lastBale = some n ∧ bale.toNat ≤ n) →
          (∃ ch, exec (.ticketBase tag ticket bale) s
            = .next (State.choosing ch (s.replied tag (.ticketBase ticket bale) .range [])))) ∧
        ((∀ n, s.tickets.lastTicket = some n → n < ticket.toNat) → (∀ n, s.tickets.lastBale = some n → n < bale.toNat) →
          (∃ ch, exec (.ticketBase tag ticket bale) s = .next (State.choosing ch (s.performed tag (.ticketBase ticket bale)
            (fun t => { t with tickets := { t.tickets with
              nextTicket := ticket.toNat, nextBale := bale.toNat, baseSet := true } })
            (fun _ => bytes32 ticket ++ bytes32 bale)))))))) ∧
  (∀ (s : State) (tag : Byte) (ticket : Word32), s.Ready →
    ((∀ t ∈ s.tickets.queue, ticket.toNat ≠ 0 ∧ t.number ≠ ticket.toNat) →
      (∃ ch, exec (.ticketRead tag ticket) s = .next (State.choosing ch (s.replied tag (.ticketRead ticket) .unknown [])))) ∧
    (∀ pre t post, s.tickets.queue = pre ++ t :: post → (ticket.toNat = 0 ∧ pre = [] ∨
        ticket.toNat ≠ 0 ∧ t.number = ticket.toNat ∧ ∀ x ∈ pre, x.number ≠ ticket.toNat) →
      ∀ n, n = (t.image.length + 43) / 44 →
      (∃ ch, exec (.ticketRead tag ticket) s = .next (State.choosing ch (s.performed tag (.ticketRead ticket)
        (fun u => { u with classifier := { u.classifier with block := some { inProgress := false
                                                                             frames := (List.range n).map (fun i =>
          mkFrame 0x00 s.ownAddress 0x63 ([byte i, byte n] ++ (t.image.drop (44 * i)).take 44 ++
            (if i + 1 = n then be16 ((t.image.map (fun b => b.toNat)).sum % 65536) else []))) } } })
        (fun _ => be32 t.number ++ [byte n, byte t.lines.length, byte t.print.code])))))) ∧
  (∀ t : Ticket, t.image.length = 30 + 8 * t.lines.length ∧
    t.image = be32 t.number ++ be16 t.lot ++ be16 t.grower ++ [byte t.variety.val, byte t.kiln.val, byte t.index, byte t.part,
        0, t.flags] ++ bytes32 t.issued ++ be32 t.green ++ int32 t.totalNet ++ optU16 t.yield ++
      [byte t.lines.length, 0] ++ (t.lines.map (fun x => be32 x.bale ++ int24 x.net ++ [x.flags])).flatten)

/-- R143 to R146: when a charge is ready, the composition test, and the service of the Compose Wait list. -/
def Obligations.TicketReadiness : Prop :=
  (∀ (s : State) (r : ChargeRef) (bs : List Bale),
    bs = s.press.bales.filter (fun b => decide (b.lot = r.lot ∧ b.index = r.index ∧ b.ticket = none)) →
    (s.chargeReady r = true ↔ ∃ c, s.charge? r = some c ∧ c.finalTicket = none ∧
      ((c.state = .pressing ∧ ∃ run rest, bs = run ++ rest ∧ run.length = 32 ∧ ∀ b ∈ run, b.status = .weighed) ∨
       (c.state = .pressed ∧ ∀ b ∈ bs, b.status = .weighed))) ∧
    ((s.chargeReady r = false ∨ r ∈ s.tickets.wait) → s.testComposition r = s) ∧
    (s.chargeReady r = true → r ∉ s.tickets.wait →
      s.testComposition r = { s with tickets := { s.tickets with wait := s.tickets.wait ++ [r] } }) ∧
    s.offerCharge r = (s.testComposition r).serve) ∧
  (∀ s : State,
    ((s.tickets.wait = [] ∨ 16 ≤ s.tickets.queue.length ∨ s.tickets.nextTicket = 0 ∨ 0xFFFFFFF0 < s.tickets.nextTicket) →
      s.serve = s) ∧
    (∀ r rest, s.tickets.wait = r :: rest → s.tickets.queue.length < 16 → 1 ≤ s.tickets.nextTicket →
      s.tickets.nextTicket ≤ 0xFFFFFFF0 →
      s.serve = (State.compose { s with tickets := { s.tickets with wait := rest } } r).serve))

/-- R146 to R148, R153, R154: the composition of one ticket with everything done together with it, and the scan of the print
process. That TICKET-READY's value is the ticket number's 32 bits, also above 2147483647, is the model's choice (log 35). -/
def Obligations.TicketComposition : Prop :=
  (∀ (s : State) (r : ChargeRef) (l : Lot) (c : Charge) (bs run : List Bale), s.lot? r.lot = some l → s.charge? r = some c →
    bs = s.press.bales.filter (fun b => decide (b.lot = r.lot ∧ b.index = r.index ∧ b.ticket = none)) →
    run = (bs.takeWhile (fun b => decide (b.status = .weighed))).take 32 →
    ∀ final : Bool, final = decide (c.state = .pressed ∧ run.length = bs.length) →
    (run = [] → final = false → s.compose r = s) ∧
    ((run ≠ [] ∨ final = true) → ∀ (n : Nat) (lines : List TicketLine), n = s.tickets.nextTicket →
      lines = run.map (fun b => { bale := b.number, net := b.net.getD 0, manual := b.manual, low := b.low, high := b.high
                                  wet := b.wet, tareUnknown := b.tareCode.isNone }) →
      ∀ t : Ticket, t = {
        number := n, lot := l.number, grower := l.grower, variety := l.variety, kiln := c.kiln, index := r.index
        part := c.partTickets, final := final, green := c.green, lines := lines
        totalNet := wrap32 (lines.map (fun x => x.net)).sum
        yield := if final = true ∧ c.green ≠ 0
          then some (max 0 (min 65534 (Int.tdiv (c.net * 1000) c.green))).toNat else none
        short := c.short, aborted := c.aborted, held := c.held, overtime := c.overtime
        manual := lines.any (fun x => x.manual), tolerance := lines.any (fun x => x.low || x.high)
        wet := lines.any (fun x => x.wet), issued := s.mgmt.time, print := .unprinted } →
      s.compose r = ((((State.updLot
        { s with
          tickets := { s.tickets with queue := s.tickets.queue ++ [t], lastTicket := some n, nextTicket := n + 1 }
          press := { s.press with bales := s.press.bales.map (fun b =>
            if ∃ x ∈ lines, x.bale = b.number then { b with ticket := some n } else b) } }
        r.lot (fun l => { l with ticketsIssued := l.ticketsIssued + 1 })).updCharge r (fun c =>
          if final = true then { c with finalTicket := some n }
          else { c with partTickets := min 255 (c.partTickets + 1) })).raise .ticketReady r.lot n).promptPrint).testComposition
            r)) ∧
  (∀ s : State,
    ((s.tickets.process = .sending ∨ s.tickets.process = .halted) → s.promptPrint = s) ∧
    (s.tickets.process = .idle → s.promptPrint = s.printScan) ∧
    (s.roleNode .printer = none → s.printScan = { s with tickets := { s.tickets with process := .idle } }) ∧
    (∀ i, s.roleNode .printer = some i →
      ((s.node i).state = .lost → s.printScan = { s with tickets := { s.tickets with process := .halted } }) ∧
      ((s.node i).state ≠ .lost → (∀ t ∈ s.tickets.queue, t.print ≠ .unprinted) →
        s.printScan = { s with tickets := { s.tickets with process := .idle } }) ∧
      (∀ pre t post, (s.node i).state ≠ .lost → s.tickets.queue = pre ++ t :: post → t.print = .unprinted →
        (∀ x ∈ pre, x.print ≠ .unprinted) →
        s.printScan = { s with
          tickets := { s.tickets with
            process := .sending
            queue := s.tickets.queue.map (fun x => if x.number = t.number then { x with print := .printing } else x) }
          field := { s.field with printRequest := some t.number } })))

/-- R152, R157: TICKET-TAKE and TICKET-REPRINT with their checks in their order. -/
def Obligations.TicketTakeAndReprint : Prop :=
  ∀ (s : State) (tag : Byte) (ticket : Word32), s.Ready →
    ((∀ t ∈ s.tickets.queue, t.number ≠ ticket.toNat) →
      (∃ ch, exec (.ticketTake tag ticket) s = .next (State.choosing ch (s.replied tag (.ticketTake ticket) .unknown []))) ∧
      (∃ ch, exec (.ticketReprint tag ticket) s
        = .next (State.choosing ch (s.replied tag (.ticketReprint ticket) .unknown [])))) ∧
    (∀ pre t post, s.tickets.queue = pre ++ t :: post → t.number = ticket.toNat → (∀ x ∈ pre, x.number ≠ ticket.toNat) →
      ((pre ≠ [] ∨ t.print = .printing) →
        (∃ ch, exec (.ticketTake tag ticket) s = .next (State.choosing ch (s.replied tag (.ticketTake ticket) .state [])))) ∧
      (pre = [] → t.print ≠ .printing →
        (∃ ch, exec (.ticketTake tag ticket) s = .next (State.choosing ch (s.performed tag (.ticketTake ticket)
          (fun u =>
            let v := State.updLot { u with
                tickets := { u.tickets with queue := post }
                press := { u.press with bales := u.press.bales.filter (fun b =>
                  decide (¬ ∃ x ∈ t.lines, x.bale = b.number)) } }
              t.lot (fun l => { l with
                releasedBales := l.releasedBales + t.lines.length
                releasedNet := wrap32 (l.releasedNet + t.totalNet)
                ticketsTaken := l.ticketsTaken + 1 })
            let w := if t.final = true
              then v.updCharge { lot := t.lot, index := t.index } (fun c => { c with state := .ticketed }) else v
            w.judgeStore.serve)
          (fun _ => be32 t.number ++ be16 t.lot ++ [byte t.index, flagByte t.final, byte t.lines.length] ++
            int32 t.totalNet))))) ∧
      ((t.print = .unprinted ∨ t.print = .printing) →
        (∃ ch, exec (.ticketReprint tag ticket) s
          = .next (State.choosing ch (s.replied tag (.ticketReprint ticket) .state [])))) ∧
      ((t.print = .printed ∨ t.print = .failed) →
        (∃ ch, exec (.ticketReprint tag ticket) s = .next (State.choosing ch (s.performed tag (.ticketReprint ticket)
          (fun u => State.promptPrint { u with tickets := { u.tickets with queue := u.tickets.queue.map (fun x =>
            if x.number = t.number then { x with print := .unprinted } else x) } })
          (fun u => be32 t.number ++ [((u.ticket? t.number).map (fun x => byte x.print.code)).getD 0]))))))

/-! ## Shared operations, and what every step keeps -/

/-- R19, R29, R30, R182, R183, R184: the lookup of a node by role, by binding and by address; the write of a commanded state with
its command in the Command Queue; and the raising of a notice, coalesced, renewed, appended, taking another's place or lost. That a
value above 2147483647 stands as its low 32 bits is the model's choice where the spec does not say so (log 35; R66 says it of
BELT-JUMP). -/
def Obligations.CommandedWritesAndNotices : Prop :=
  (∀ (s : State) (p : Node → Bool),
    (s.findNode p = none ↔ ∀ i, p (s.node i) = false) ∧
    (∀ i, s.findNode p = some i ↔ p (s.node i) = true ∧ ∀ j < i, p (s.node j) = false)) ∧
  (∀ (s : State) (r : Role) (k : Kiln) (a : Byte),
    s.roleNode r = s.findNode (fun n => decide (n.role = some r)) ∧
    s.boundNode r k = s.findNode (fun n => decide (n.role = some r ∧ n.binding = some k)) ∧
    s.addressNode a = s.findNode (fun n => decide (n.address ≠ 0 ∧ n.address = a)) ∧
    s.isOnline none = false ∧ (∀ i, s.isOnline (some i) = decide ((s.node i).state = .online))) ∧
  (∀ (s : State) (c : Commanded),
    s.writeCommanded none c = s ∧
    (∀ i (q : List Command), ((∀ e ∈ s.field.commandQueue, ¬(e.node = i ∧ e.payload.code = c.code)) →
        q = s.field.commandQueue ++ [{ node := i, payload := c }]) →
      ((∃ e ∈ s.field.commandQueue, e.node = i ∧ e.payload.code = c.code) →
        q = s.field.commandQueue.map (fun e => if e.node = i ∧ e.payload.code = c.code then { e with payload := c } else e)) →
      s.writeCommanded (some i) c = { s with field := { s.field with
        nodes := s.field.nodes.set i { s.node i with commanded := some c, confirmed := false }, commandQueue := q } })) ∧
  (∀ (s : State) (k : NoticeKind) (o : Nat) (v : Option Word32) (fresh : Notice),
    fresh = { kind := k, object := o, value := v, first := s.mgmt.time, last := s.mgmt.time, count := 1
              sending := false, renewals := 0, renewalTime := 0 } →
    ((∃ n ∈ s.mgmt.notices, n.kind = k ∧ n.object = o) →
      s.raiseOpt k o v = { s with mgmt := { s.mgmt with notices := s.mgmt.notices.map (fun n =>
        if n.kind = k ∧ n.object = o then
          if n.sending = true then { n with
            value := v, last := s.mgmt.time, renewals := min 255 (n.renewals + 1)
            renewalTime := if n.renewals = 0 then s.mgmt.time else n.renewalTime }
          else { n with value := v, last := s.mgmt.time, count := min 255 (n.count + 1) }
        else n) } }) ∧
    ((∀ n ∈ s.mgmt.notices, ¬(n.kind = k ∧ n.object = o)) →
      (s.mgmt.notices.length < 32 →
        s.raiseOpt k o v = { s with mgmt := { s.mgmt with notices := s.mgmt.notices ++ [fresh] } }) ∧
      (32 ≤ s.mgmt.notices.length →
        (∀ pre n post, k.isAlarm = true → s.mgmt.notices = pre ++ n :: post → n.kind.isAlarm = false → n.sending = false →
          (∀ x ∈ pre, ¬(x.kind.isAlarm = false ∧ x.sending = false)) →
          s.raiseOpt k o v = { s with mgmt := { s.mgmt with notices := pre ++ post ++ [fresh] } }) ∧
        ((k.isAlarm = false ∨ ∀ n ∈ s.mgmt.notices, ¬(n.kind.isAlarm = false ∧ n.sending = false)) →
          s.raiseOpt k o v = { s with mgmt := { s.mgmt with overflow := true } })))) ∧
  (∀ (s : State) (k : NoticeKind) (o : Nat) (v : Int), s.raise k o v = s.raiseOpt k o (some (BitVec.ofInt 32 v)))

/-- R1, R4, R28, R39, R43, R44, R53, R69, R107, R110, R111, R127, R149, R182: a step keeps every collection within its capacity
(requests 4, passes 8, forwards 16, notices 32, tickets 16, lots 24, charges 6 to a lot, bales 256, scale commands 4, blocks 8,
readings below the watermark, pass streak 4), no lot, polled node or kiln of the Fill Order twice, and the Notice Queue at one
entry per kind and object. The Command Queue's 9 entries follow from NodeLawKept's law (R30), the Press Queue's 6 from
GreenLawKept's (R123), and the Compose Wait list's 144 from AccountLawKept's (R144). -/
def Obligations.CapacitiesKept : Prop :=
  (∀ s s' : State, s.WithinCapacity → s.NoticeKeysUnique → step s = .next s' → s'.WithinCapacity ∧ s'.NoticeKeysUnique) ∧
  (∀ s : State, s.NodeLaw → s.field.commandQueue.length ≤ 9) ∧
  (∀ s : State, s.GreenLaw → s.press.queue.length ≤ 6) ∧
  (∀ s : State, s.WithinCapacity → s.AccountLaw → s.tickets.wait.length ≤ 144)

/-- R6, R57, R67, R123, R124: a step keeps the law of the green weight: every lot's green total equals its charges' green and its
spill, with the links between feed, kilns, charges and Press Queue that carry it. -/
def Obligations.GreenLawKept : Prop := ∀ s s' : State, s.GreenLaw → step s = .next s' → s'.GreenLaw

/-- R127, R141, R149: a step keeps the numbering: bales ascend and lie below the next bale number, the Ticket Queue's numbers
are consecutive, and neither next number goes back to one already used. -/
def Obligations.NumberingLawKept : Prop := ∀ s s' : State, s.NumberingLaw → step s = .next s' → s'.NumberingLaw

/-- R5, R7, R8, R9, R123, R144: a step keeps the accounts of every lot: its bale count is its bales in the Bale Store and its
released bales, its net total the sum of their nets and its released net (in 32-bit arithmetic, R2), its tickets issued those
taken and those in the Ticket Queue, with what ties kilns, charges, bales, tickets and the Compose Wait list to the lot. A lot whose
charges are all TICKETED has released every bale and net and given every ticket (R8), and no bale, ticket or waiting charge is of
a lot that is not in the table (R9). The two other laws it rests on are kept as well (GreenLawKept, NumberingLawKept). -/
def Obligations.AccountLawKept : Prop :=
  (∀ s s' : State, s.GreenLaw → s.NumberingLaw → s.AccountLaw → step s = .next s' → s'.AccountLaw) ∧
  (∀ (s : State) (l : Lot), s.GreenLaw → s.AccountLaw → l ∈ s.table.lots → (∀ c ∈ l.charges, c.state = .ticketed) →
    l.ticketsIssued = l.ticketsTaken ∧ l.baleCount = l.releasedBales ∧ l.netTotal = l.releasedNet) ∧
  (∀ (s : State) (n : Nat), s.AccountLaw → (∀ l ∈ s.table.lots, l.number ≠ n) →
    (∀ b ∈ s.press.bales, b.lot ≠ n) ∧ (∀ t ∈ s.tickets.queue, t.lot ≠ n) ∧ (∀ r ∈ s.tickets.wait, r.lot ≠ n) ∧
    (∀ k r, (s.kiln k).charge = some r → r.lot ≠ n))

/-- R17, R18, R19, R28, R30: a step keeps the Node Table well formed: an entry with an address has a role, a binding exactly when
its role has one and a commanded state of its role's form, addresses, single roles and bound pairs stand once, the Poll Queue
holds nodes with a cadence, and the Command Queue one command of the role's form for a node and code. R38: a step keeps the
arbiter's law: a choice stands only on a free segment and for a source that has work, and on a free segment one stands whenever
a source has work (that it is made at an event's end is the model's choice, log 36). -/
def Obligations.NodeLawKept : Prop :=
  (∀ s s' : State, s.NodeLaw → step s = .next s' → s'.NodeLaw) ∧
  (∀ s s' : State, s.ChoiceLaw → step s = .next s' → s'.ChoiceLaw)

/-- R59, R135, R136: after every step the picker command is what the feed-hold reason set calls for, the press command is what
the Press Queue and the press-hold reason set call for, and STORE is held exactly while the free count is at or below the
threshold. -/
def Obligations.CommandsFollowKept : Prop := ∀ s s' : State, s.CommandsFollow → step s = .next s' → s'.CommandsFollow

/-- The part right after reset is within its capacities and meets the laws that every step keeps. -/
def Obligations.LawsHoldAtReset : Prop :=
  State.reset.WithinCapacity ∧ State.reset.NoticeKeysUnique ∧ State.reset.GreenLaw ∧ State.reset.NumberingLaw ∧
  State.reset.AccountLaw ∧ State.reset.NodeLaw ∧ State.reset.ChoiceLaw ∧ State.reset.CommandsFollow
end

