-- ==== Sys2Proof/Laws/State.lean ====
section
/-! SUPPORT. What each basic update of the state writes, field by field: true by rfl, so that no later proof unfolds an update. -/

namespace Sys2Proof.Machine

/-! ## Answers -/

@[simp] theorem refuse_state (s : State) (r : Result) : (refuse s r).state = s := rfl
@[simp] theorem refuse_result (s : State) (r : Result) : (refuse s r).result = r := rfl
@[simp] theorem refuse_data (s : State) (r : Result) : (refuse s r).data = [] := rfl
@[simp] theorem accept_state (s : State) (d : List Byte) : (accept s d).state = s := rfl
@[simp] theorem accept_result (s : State) (d : List Byte) : (accept s d).result = .ok := rfl
@[simp] theorem accept_data (s : State) (d : List Byte) : (accept s d).data = d := rfl

/-! ## Notices -/

@[simp] theorem raiseOpt_notices (s : State) (k : NoticeKind) (o : Nat) (v : Option Word32) :
    (s.raiseOpt k o v).mgmt.notices = (raiseIn k o v s.mgmt.time s.mgmt.notices s.mgmt.overflow).1 := rfl
@[simp] theorem raiseOpt_overflow (s : State) (k : NoticeKind) (o : Nat) (v : Option Word32) :
    (s.raiseOpt k o v).mgmt.overflow = (raiseIn k o v s.mgmt.time s.mgmt.notices s.mgmt.overflow).2 := rfl
@[simp] theorem raise_notices (s : State) (k : NoticeKind) (o : Nat) (v : Int) :
    (s.raise k o v).mgmt.notices =
      (raiseIn k o (some (BitVec.ofInt 32 v)) s.mgmt.time s.mgmt.notices s.mgmt.overflow).1 := rfl
@[simp] theorem raise_overflow (s : State) (k : NoticeKind) (o : Nat) (v : Int) :
    (s.raise k o v).mgmt.overflow =
      (raiseIn k o (some (BitVec.ofInt 32 v)) s.mgmt.time s.mgmt.notices s.mgmt.overflow).2 := rfl

/-! ## Lots -/

@[simp] theorem updLot_lots (s : State) (n : Nat) (f : Lot → Lot) :
    (s.updLot n f).table.lots = s.table.lots.map (fun l => if l.number = n then f l else l) := rfl
@[simp] theorem updCharge_lots (s : State) (r : ChargeRef) (f : Charge → Charge) :
    (s.updCharge r f).table.lots =
      s.table.lots.map (fun l => if l.number = r.lot then l.updCharge r.index f else l) := rfl
@[simp] theorem removeLot_lots (s : State) (n : Nat) :
    (s.removeLot n).table.lots = s.table.lots.filter (fun l => l.number ≠ n) := rfl
@[simp] theorem addLot_lots (s : State) (l : Lot) : (s.addLot l).table.lots = insertLot l s.table.lots := rfl

/-! ## Nodes and commands -/

@[simp] theorem setNode_nodes (s : State) (i : NodeIdx) (n : Node) :
    (s.setNode i n).field.nodes = s.field.nodes.set i n := rfl
@[simp] theorem placeCommand_commandQueue (s : State) (i : NodeIdx) (c : Commanded) :
    (s.placeCommand i c).field.commandQueue = placeIn i c s.field.commandQueue := rfl
@[simp] theorem endTransaction_transaction (s : State) : s.endTransaction.field.transaction = none := rfl
@[simp] theorem updCadence_cadences (s : State) (c : CadenceId) (f : Cadence → Cadence) :
    (s.updCadence c f).field.cadences = s.field.cadences.set c (f s.field.cadences[c]) := rfl

theorem node_setNode (s : State) (i j : NodeIdx) (n : Node) :
    (s.setNode i n).node j = if i = j then n else s.node j := by
  by_cases h : i = j
  · subst h; simp [State.node, State.setNode]
  · have : i.val ≠ j.val := fun e => h (Fin.ext e)
    simp [State.node, State.setNode, this, h]

/-! ## The arbiter's choice -/

@[simp] theorem choosing_chosen (s : State) (c : Option FieldSource) : (s.choosing c).field.chosen = c := rfl
@[simp] theorem choosing_segmentFree (s : State) (c : Option FieldSource) : (s.choosing c).segmentFree = s.segmentFree := rfl
@[simp] theorem choosing_holdsWork (s : State) (c : Option FieldSource) (x : FieldSource) :
    (s.choosing c).holdsWork x = s.holdsWork x := by cases x <;> rfl
@[simp] theorem choosing_active (s : State) (c : Option FieldSource) : (s.choosing c).active = s.active := rfl
@[simp] theorem choosing_self (s : State) : s.choosing s.field.chosen = s := rfl
@[simp] theorem choosing_choosing (s : State) (c d : Option FieldSource) : (s.choosing c).choosing d = s.choosing d := rfl

/-! ## Kilns -/

@[simp] theorem updKiln_run (s : State) (k : Kiln) (f : KilnRun → KilnRun) :
    (s.updKiln k f).kilns.run = s.kilns.run.set k (f s.kilns.run[k]) := rfl
@[simp] theorem setKilnEntry_entries (s : State) (k : Kiln) (e : KilnEntry) :
    (s.setKilnEntry k e).kilns.entries = s.kilns.entries.set k e := rfl

theorem kiln_updKiln (s : State) (k j : Kiln) (f : KilnRun → KilnRun) :
    (s.updKiln k f).kiln j = if k = j then f (s.kiln k) else s.kiln j := by
  by_cases h : k = j
  · subst h; simp [State.kiln, State.updKiln]
  · have : k.val ≠ j.val := fun e => h (Fin.ext e)
    simp [State.kiln, State.updKiln, this, h]

/-! ## The blocks' own records -/

@[simp] theorem updFeed_feed (s : State) (f : Feed → Feed) : (s.updFeed f).feed = f s.feed := rfl
@[simp] theorem updHold_feed (s : State) (f : FeedHold → FeedHold) :
    (s.updHold f).feed = { s.feed with hold := f s.feed.hold } := rfl
@[simp] theorem updScale_scale (s : State) (f : Scale → Scale) : (s.updScale f).scale = f s.scale := rfl
@[simp] theorem updLink_link (s : State) (f : Link → Link) : (s.updLink f).link = f s.link := rfl
@[simp] theorem updBale_bales (s : State) (n : Nat) (f : Bale → Bale) :
    (s.updBale n f).press.bales = s.press.bales.map (fun b => if b.number = n then f b else b) := rfl
@[simp] theorem setPrint_queue (s : State) (n : Nat) (p : PrintState) :
    (s.setPrint n p).tickets.queue = s.tickets.queue.map (fun t => if t.number = n then { t with print := p } else t) := rfl
@[simp] theorem setProcess_process (s : State) (p : PrintProcess) : (s.setProcess p).tickets.process = p := rfl
@[simp] theorem setReply_reply (s : State) (bs : List Byte) :
    (s.setReply bs).classifier.reply = some (mkFrame 0x00 s.ownAddress codeReply bs) := rfl
@[simp] theorem countUnsolicited_unsolicited (s : State) :
    s.countUnsolicited.link.unsolicited = sat16 (s.link.unsolicited + 1) := rfl

end Sys2Proof.Machine
end

