-- ==== Sys2Proof/Laws/Arbiter.lean ====
section
/-! SUPPORT. What the Field Transmit Arbiter's choice is (R38): it stands while its source has work, it is made whenever the
segment is free and a source has work, and making it again changes nothing. -/

namespace Sys2Proof.Machine

/-- On a free segment the choice made stands while its source has work, whatever the other sources hold (R38, R160). -/
theorem choice_standing {s : State} {c : FieldSource} (free : s.segmentFree = true) (work : s.holdsWork c = true) :
    s.choice (some c) = some c := by
  simp [State.choice, free, work]

/-- With no choice made before, or one whose source has no work, a free segment's choice is the first source with work (R38). -/
theorem choice_first {s : State} {before : Option FieldSource} (free : s.segmentFree = true)
    (spent : ∀ c, before = some c → s.holdsWork c = false) : s.choice before = s.firstSource := by
  cases before with
  | none => simp [State.choice, free]
  | some c => simp [State.choice, free, Option.filter, spent c rfl]

/-- A segment that is not free has no choice (R38). -/
theorem choice_busy {s : State} {before : Option FieldSource} (busy : s.segmentFree = false) : s.choice before = none := by
  simp [State.choice, busy]

/-- The first source has work (R38). -/
theorem firstSource_work {s : State} {c : FieldSource} (h : s.firstSource = some c) : s.holdsWork c = true := by
  unfold State.firstSource at h
  (repeat' split at h) <;> simp_all

/-- There is a first source when some source has work (R38). -/
theorem firstSource_isSome {s : State} {c : FieldSource} (h : s.holdsWork c = true) : s.firstSource.isSome = true := by
  unfold State.firstSource State.pollTurn
  cases c <;> (repeat' split) <;> simp_all

/-- A choice is a source with work, on a free segment. -/
theorem choice_work {s : State} {before : Option FieldSource} {c : FieldSource} (h : s.choice before = some c) :
    s.segmentFree = true ∧ s.holdsWork c = true := by
  unfold State.choice at h
  split at h
  · rcases Option.or_eq_some_iff.mp h with h | ⟨-, h⟩
    · exact ⟨by assumption, (Option.filter_eq_some_iff.mp h).2⟩
    · exact ⟨by assumption, firstSource_work h⟩
  · cases h

/-- On a free segment there is a choice when some source has work. -/
theorem choice_isSome {s : State} {before : Option FieldSource} {c : FieldSource} (free : s.segmentFree = true)
    (h : s.holdsWork c = true) : (s.choice before).isSome = true := by
  simp only [State.choice, if_pos free, Option.isSome_or, firstSource_isSome h, Bool.or_true]

/-- After its choice the arbiter's law holds. -/
theorem arbitrated_choiceLaw (before : Option FieldSource) (s : State) : (s.arbitrated before).ChoiceLaw where
  held := fun _ c h => by simpa [State.arbitrated] using choice_work (s := s) (before := before) (c := c) h
  made := fun _ free c h => by
    simp only [State.arbitrated, choosing_segmentFree, choosing_holdsWork] at free h
    simpa [State.arbitrated] using choice_isSome (before := before) free h

/-- In a state that keeps the arbiter's law the choice is made already: making it again changes nothing. -/
theorem arbitrated_settled {s : State} (active : s.active = true) (h : s.ChoiceLaw) : s.arbitrated s.field.chosen = s := by
  have e : s.choice s.field.chosen = s.field.chosen := by
    cases e : s.field.chosen with
    | some c => exact choice_standing (h.held active c e).1 (h.held active c e).2
    | none =>
      cases free : s.segmentFree
      · exact choice_busy free
      · rw [choice_first free (by simp)]
        cases f : s.firstSource with
        | none => rfl
        | some c => simpa [e] using h.made active free c (firstSource_work f)
  rw [State.arbitrated, e, choosing_self]

end Sys2Proof.Machine
end

