-- ==== Sys2Proof/Laws/Bytes.lean ====
section
/-! SUPPORT. Byte order and the check word: the fields read back as they were laid out, and the residue after the check bytes. -/

namespace Sys2Proof.Machine

/-! ## Fields of two and four bytes -/

theorem word16_split (w : Word16) : word16 ((w >>> 8).setWidth 8) (w.setWidth 8) = w := by
  apply BitVec.eq_of_getLsbD_eq
  intro i hi
  simp only [word16, BitVec.getLsbD_append, BitVec.getLsbD_setWidth, BitVec.getLsbD_ushiftRight]
  by_cases h : i < 8
  · simp [h]
  · have e : 8 + (i - 8) = i := by omega
    have l : i - 8 < 8 := by omega
    simp [h, e, l]

theorem word32_split (w : Word32) :
    word32 ((w >>> 24).setWidth 8) ((w >>> 16).setWidth 8) ((w >>> 8).setWidth 8) (w.setWidth 8) = w := by
  apply BitVec.eq_of_getLsbD_eq
  intro i hi
  simp only [word32, BitVec.getLsbD_append, BitVec.getLsbD_setWidth, BitVec.getLsbD_ushiftRight]
  by_cases h : i < 8
  · simp [h]
  · by_cases h2 : i - 8 < 8
    · have e : 8 + (i - 8) = i := by omega
      simp [h, h2, e]
    · by_cases h3 : i - 8 - 8 < 8
      · have e : 16 + (i - 8 - 8) = i := by omega
        simp [h, h2, h3, e]
      · have e : 24 + (i - 8 - 8 - 8) = i := by omega
        have l : i - 8 - 8 - 8 < 8 := by omega
        simp [h, h2, h3, e, l]

/-! ## The check word (R163) -/

theorem crcBit_differ {r : Word16} {b : Bool} (h : r.getLsbD 15 ≠ b) : crcBit r b = (r <<< 1) ^^^ 0x1021 := by
  have e : r.msb = r.getLsbD 15 := BitVec.msb_eq_getLsbD_last r
  unfold crcBit; rw [e]; exact if_neg h

theorem crcBit_equal {r : Word16} {b : Bool} (h : r.getLsbD 15 = b) : crcBit r b = r <<< 1 := by
  have e : r.msb = r.getLsbD 15 := BitVec.msb_eq_getLsbD_last r
  unfold crcBit; rw [e]; exact if_pos h

theorem crc_append_byte (bs : List Byte) (b : Byte) : crc (bs ++ [b]) = crcByte (crc bs) b := by simp [crc]

/-- The low bit tells whether the generator was combined in. -/
theorem crcBit_low (r : Word16) (b : Bool) : (crcBit r b).getLsbD 0 = decide (r.getLsbD 15 ≠ b) := by
  by_cases h : r.getLsbD 15 = b
  · have h' : r[15] = b := h
    rw [crcBit_equal h]; simp [h']
  · rw [crcBit_differ h]
    have h' : ¬ r[15] = b := h
    simp [h']

theorem shiftLeft_one_inj {r r' : Word16} (h : r <<< 1 = r' <<< 1) (top : r.getLsbD 15 = r'.getLsbD 15) : r = r' := by
  ext i hi
  by_cases h15 : i = 15
  · subst h15; exact top
  · have := congrArg (fun w : Word16 => w.getLsbD (i + 1)) h
    have hi' : i + 1 < 16 := by omega
    simpa [hi', hi] using this

/-- A step of the register with the same data bit loses nothing. -/
theorem crcBit_inj {r r' : Word16} {b : Bool} (h : crcBit r b = crcBit r' b) : r = r' := by
  have low := (crcBit_low r b).symm.trans ((congrArg (fun w : Word16 => w.getLsbD 0) h).trans (crcBit_low r' b))
  have low' : (r.getLsbD 15 ≠ b) ↔ (r'.getLsbD 15 ≠ b) := decide_eq_decide.mp low
  by_cases e : r.getLsbD 15 = b
  · have e' : r'.getLsbD 15 = b := by
      by_contra hne; exact (low'.mpr hne) e
    rw [crcBit_equal e, crcBit_equal e'] at h
    exact shiftLeft_one_inj h (e.trans e'.symm)
  · have e' : r'.getLsbD 15 ≠ b := low'.mp e
    rw [crcBit_differ e, crcBit_differ e'] at h
    refine shiftLeft_one_inj (BitVec.xor_left_inj _ |>.mp h) ?_
    cases b <;> simp_all

theorem crcByte_inj {r r' : Word16} {b : Byte} (h : crcByte r b = crcByte r' b) : r = r' := by
  simp only [crcByte, List.foldl] at h
  exact crcBit_inj (crcBit_inj (crcBit_inj (crcBit_inj (crcBit_inj (crcBit_inj (crcBit_inj (crcBit_inj h)))))))

/-- Eight data bits equal to the register's high byte shift it out. -/
theorem crcByte_match {r : Word16} {b : Byte} (h : ∀ i, i < 8 → r.getLsbD (8 + i) = b.getLsbD i) :
    crcByte r b = r <<< 8 := by
  have step : ∀ n, n < 8 → crcBit (r <<< n) (b.getLsbD (7 - n)) = r <<< (n + 1) := by
    intro n hn
    rw [crcBit_equal, BitVec.shiftLeft_add]
    have e : 8 + (7 - n) = 15 - n := by omega
    have l : n ≤ 15 := by omega
    rw [← h (7 - n) (by omega), e, BitVec.getLsbD_shiftLeft]
    simp [show ¬ 15 < n by omega]
  have s0 := step 0 (by decide)
  rw [BitVec.shiftLeft_zero] at s0
  simp only [crcByte, List.foldl]
  rw [s0, step 1 (by decide), step 2 (by decide), step 3 (by decide), step 4 (by decide), step 5 (by decide),
    step 6 (by decide), step 7 (by decide)]

/-- Taken on through two bytes, the register is 0 exactly when they are its own bytes (R163). -/
theorem crc_residue (r : Word16) (hi lo : Byte) : crcByte (crcByte r hi) lo = 0 ↔ r = hi ++ lo := by
  have zero : crcByte (crcByte (hi ++ lo) hi) lo = 0 := by
    rw [crcByte_match (r := hi ++ lo) (b := hi), crcByte_match (b := lo)]
    · apply BitVec.eq_of_getLsbD_eq
      intro i hi
      simp only [BitVec.getLsbD_shiftLeft, BitVec.getLsbD_zero]
      by_cases h : i < 8
      · simp [h]
      · simp [h, show i - 8 < 8 by omega]
    · intro i hi8
      simp only [BitVec.getLsbD_shiftLeft, BitVec.getLsbD_append]
      simp [show ¬ 8 + i < 8 by omega, show 8 + i < 16 by omega, hi8]
    · intro i hi8
      simp only [BitVec.getLsbD_append]
      simp [show ¬ 8 + i < 8 by omega]
  constructor
  · intro h; exact crcByte_inj (crcByte_inj (h.trans zero.symm))
  · intro h; rw [h]; exact zero

end Sys2Proof.Machine
end

