-- ==== Sys2Proof/Laws/Frames.lean ====
section
/-! SUPPORT. The frame of each operation over the state: every record that the operation leaves unchanged, once for all.
A component stands whole where no field of it is written, and by fields where some are. -/

namespace Sys2Proof.Machine

set_option linter.all false
set_option maxHeartbeats 1000000

@[simp] theorem raiseOpt_frame (s : State) (k : NoticeKind) (o : Nat) (v : Option Word32) :
    (State.raiseOpt s k o v).pending = s.pending ∧ (State.raiseOpt s k o v).power = s.power ∧
    (State.raiseOpt s k o v).link = s.link ∧ (State.raiseOpt s k o v).classifier = s.classifier ∧
    (State.raiseOpt s k o v).field = s.field ∧ (State.raiseOpt s k o v).table = s.table ∧
    (State.raiseOpt s k o v).feed = s.feed ∧ (State.raiseOpt s k o v).kilns = s.kilns ∧
    (State.raiseOpt s k o v).scale = s.scale ∧ (State.raiseOpt s k o v).press = s.press ∧
    (State.raiseOpt s k o v).tickets = s.tickets ∧ (State.raiseOpt s k o v).mgmt.time = s.mgmt.time ∧
    (State.raiseOpt s k o v).mgmt.ticks = s.mgmt.ticks ∧ (State.raiseOpt s k o v).mgmt.timeSet = s.mgmt.timeSet ∧
    (State.raiseOpt s k o v).mgmt.station = s.mgmt.station := by
  generalize h : (State.raiseOpt s k o v) = t
  unfold State.raiseOpt at h
  (try dsimp only at h)
  (repeat' split at h) <;> subst h <;> simp

@[simp] theorem raise_frame (s : State) (k : NoticeKind) (o : Nat) (v : Int) :
    (State.raise s k o v).pending = s.pending ∧ (State.raise s k o v).power = s.power ∧
    (State.raise s k o v).link = s.link ∧ (State.raise s k o v).classifier = s.classifier ∧
    (State.raise s k o v).field = s.field ∧ (State.raise s k o v).table = s.table ∧
    (State.raise s k o v).feed = s.feed ∧ (State.raise s k o v).kilns = s.kilns ∧
    (State.raise s k o v).scale = s.scale ∧ (State.raise s k o v).press = s.press ∧
    (State.raise s k o v).tickets = s.tickets ∧ (State.raise s k o v).mgmt.time = s.mgmt.time ∧
    (State.raise s k o v).mgmt.ticks = s.mgmt.ticks ∧ (State.raise s k o v).mgmt.timeSet = s.mgmt.timeSet ∧
    (State.raise s k o v).mgmt.station = s.mgmt.station := by
  generalize h : (State.raise s k o v) = t
  unfold State.raise at h
  (try dsimp only at h)
  (repeat' split at h) <;> subst h <;> simp

@[simp] theorem updLot_frame (s : State) (n : Nat) (f : Lot → Lot) :
    (State.updLot s n f).pending = s.pending ∧ (State.updLot s n f).power = s.power ∧
    (State.updLot s n f).link = s.link ∧ (State.updLot s n f).classifier = s.classifier ∧
    (State.updLot s n f).field = s.field ∧ (State.updLot s n f).table.varieties = s.table.varieties ∧
    (State.updLot s n f).feed = s.feed ∧ (State.updLot s n f).kilns = s.kilns ∧ (State.updLot s n f).scale = s.scale ∧
    (State.updLot s n f).press = s.press ∧ (State.updLot s n f).tickets = s.tickets ∧
    (State.updLot s n f).mgmt = s.mgmt := by
  generalize h : (State.updLot s n f) = t
  unfold State.updLot at h
  (try dsimp only at h)
  (repeat' split at h) <;> subst h <;> simp

@[simp] theorem updCharge_frame (s : State) (r : ChargeRef) (f : Charge → Charge) :
    (State.updCharge s r f).pending = s.pending ∧ (State.updCharge s r f).power = s.power ∧
    (State.updCharge s r f).link = s.link ∧ (State.updCharge s r f).classifier = s.classifier ∧
    (State.updCharge s r f).field = s.field ∧ (State.updCharge s r f).table.varieties = s.table.varieties ∧
    (State.updCharge s r f).feed = s.feed ∧ (State.updCharge s r f).kilns = s.kilns ∧
    (State.updCharge s r f).scale = s.scale ∧ (State.updCharge s r f).press = s.press ∧
    (State.updCharge s r f).tickets = s.tickets ∧ (State.updCharge s r f).mgmt = s.mgmt := by
  generalize h : (State.updCharge s r f) = t
  unfold State.updCharge at h
  (try dsimp only at h)
  (repeat' split at h) <;> subst h <;> simp

@[simp] theorem removeLot_frame (s : State) (n : Nat) :
    (State.removeLot s n).pending = s.pending ∧ (State.removeLot s n).power = s.power ∧
    (State.removeLot s n).link = s.link ∧ (State.removeLot s n).classifier = s.classifier ∧
    (State.removeLot s n).field = s.field ∧ (State.removeLot s n).table.varieties = s.table.varieties ∧
    (State.removeLot s n).feed = s.feed ∧ (State.removeLot s n).kilns = s.kilns ∧
    (State.removeLot s n).scale = s.scale ∧ (State.removeLot s n).press = s.press ∧
    (State.removeLot s n).tickets = s.tickets ∧ (State.removeLot s n).mgmt = s.mgmt := by
  generalize h : (State.removeLot s n) = t
  unfold State.removeLot at h
  (try dsimp only at h)
  (repeat' split at h) <;> subst h <;> simp

@[simp] theorem setNode_frame (s : State) (i : NodeIdx) (n : Node) :
    (State.setNode s i n).pending = s.pending ∧ (State.setNode s i n).power = s.power ∧
    (State.setNode s i n).link = s.link ∧ (State.setNode s i n).classifier = s.classifier ∧
    (State.setNode s i n).field.cadences = s.field.cadences ∧
    (State.setNode s i n).field.pollQueue = s.field.pollQueue ∧
    (State.setNode s i n).field.commandQueue = s.field.commandQueue ∧
    (State.setNode s i n).field.transaction = s.field.transaction ∧
    (State.setNode s i n).field.printRequest = s.field.printRequest ∧
    (State.setNode s i n).field.passStreak = s.field.passStreak ∧ (State.setNode s i n).table = s.table ∧
    (State.setNode s i n).feed = s.feed ∧ (State.setNode s i n).kilns = s.kilns ∧
    (State.setNode s i n).scale = s.scale ∧ (State.setNode s i n).press = s.press ∧
    (State.setNode s i n).tickets = s.tickets ∧ (State.setNode s i n).mgmt = s.mgmt := by
  generalize h : (State.setNode s i n) = t
  unfold State.setNode at h
  (try dsimp only at h)
  (repeat' split at h) <;> subst h <;> simp

@[simp] theorem placeCommand_frame (s : State) (i : NodeIdx) (c : Commanded) :
    (State.placeCommand s i c).pending = s.pending ∧ (State.placeCommand s i c).power = s.power ∧
    (State.placeCommand s i c).link = s.link ∧ (State.placeCommand s i c).classifier = s.classifier ∧
    (State.placeCommand s i c).field.nodes = s.field.nodes ∧
    (State.placeCommand s i c).field.cadences = s.field.cadences ∧
    (State.placeCommand s i c).field.pollQueue = s.field.pollQueue ∧
    (State.placeCommand s i c).field.transaction = s.field.transaction ∧
    (State.placeCommand s i c).field.printRequest = s.field.printRequest ∧
    (State.placeCommand s i c).field.passStreak = s.field.passStreak ∧ (State.placeCommand s i c).table = s.table ∧
    (State.placeCommand s i c).feed = s.feed ∧ (State.placeCommand s i c).kilns = s.kilns ∧
    (State.placeCommand s i c).scale = s.scale ∧ (State.placeCommand s i c).press = s.press ∧
    (State.placeCommand s i c).tickets = s.tickets ∧ (State.placeCommand s i c).mgmt = s.mgmt := by
  generalize h : (State.placeCommand s i c) = t
  unfold State.placeCommand at h
  (try dsimp only at h)
  (repeat' split at h) <;> subst h <;> simp

@[simp] theorem writeCommanded_frame (s : State) (i : Option NodeIdx) (c : Commanded) :
    (State.writeCommanded s i c).pending = s.pending ∧ (State.writeCommanded s i c).power = s.power ∧
    (State.writeCommanded s i c).link = s.link ∧ (State.writeCommanded s i c).classifier = s.classifier ∧
    (State.writeCommanded s i c).field.cadences = s.field.cadences ∧
    (State.writeCommanded s i c).field.pollQueue = s.field.pollQueue ∧
    (State.writeCommanded s i c).field.transaction = s.field.transaction ∧
    (State.writeCommanded s i c).field.printRequest = s.field.printRequest ∧
    (State.writeCommanded s i c).field.passStreak = s.field.passStreak ∧
    (State.writeCommanded s i c).table = s.table ∧ (State.writeCommanded s i c).feed = s.feed ∧
    (State.writeCommanded s i c).kilns = s.kilns ∧ (State.writeCommanded s i c).scale = s.scale ∧
    (State.writeCommanded s i c).press = s.press ∧ (State.writeCommanded s i c).tickets = s.tickets ∧
    (State.writeCommanded s i c).mgmt = s.mgmt := by
  generalize h : (State.writeCommanded s i c) = t
  unfold State.writeCommanded at h
  (try dsimp only at h)
  (repeat' split at h) <;> subst h <;> simp

@[simp] theorem clearCommanded_frame (s : State) (i : Option NodeIdx) :
    (State.clearCommanded s i).pending = s.pending ∧ (State.clearCommanded s i).power = s.power ∧
    (State.clearCommanded s i).link = s.link ∧ (State.clearCommanded s i).classifier = s.classifier ∧
    (State.clearCommanded s i).field.cadences = s.field.cadences ∧
    (State.clearCommanded s i).field.pollQueue = s.field.pollQueue ∧
    (State.clearCommanded s i).field.commandQueue = s.field.commandQueue ∧
    (State.clearCommanded s i).field.transaction = s.field.transaction ∧
    (State.clearCommanded s i).field.printRequest = s.field.printRequest ∧
    (State.clearCommanded s i).field.passStreak = s.field.passStreak ∧ (State.clearCommanded s i).table = s.table ∧
    (State.clearCommanded s i).feed = s.feed ∧ (State.clearCommanded s i).kilns = s.kilns ∧
    (State.clearCommanded s i).scale = s.scale ∧ (State.clearCommanded s i).press = s.press ∧
    (State.clearCommanded s i).tickets = s.tickets ∧ (State.clearCommanded s i).mgmt = s.mgmt := by
  generalize h : (State.clearCommanded s i) = t
  unfold State.clearCommanded at h
  (try dsimp only at h)
  (repeat' split at h) <;> subst h <;> simp

@[simp] theorem updKiln_frame (s : State) (k : Kiln) (f : KilnRun → KilnRun) :
    (State.updKiln s k f).pending = s.pending ∧ (State.updKiln s k f).power = s.power ∧
    (State.updKiln s k f).link = s.link ∧ (State.updKiln s k f).classifier = s.classifier ∧
    (State.updKiln s k f).field = s.field ∧ (State.updKiln s k f).table = s.table ∧
    (State.updKiln s k f).feed = s.feed ∧ (State.updKiln s k f).kilns.entries = s.kilns.entries ∧
    (State.updKiln s k f).kilns.schedules = s.kilns.schedules ∧ (State.updKiln s k f).kilns.steps = s.kilns.steps ∧
    (State.updKiln s k f).scale = s.scale ∧ (State.updKiln s k f).press = s.press ∧
    (State.updKiln s k f).tickets = s.tickets ∧ (State.updKiln s k f).mgmt = s.mgmt := by
  generalize h : (State.updKiln s k f) = t
  unfold State.updKiln at h
  (try dsimp only at h)
  (repeat' split at h) <;> subst h <;> simp

@[simp] theorem updKilnCharge_frame (s : State) (k : Kiln) (f : Charge → Charge) :
    (State.updKilnCharge s k f).pending = s.pending ∧ (State.updKilnCharge s k f).power = s.power ∧
    (State.updKilnCharge s k f).link = s.link ∧ (State.updKilnCharge s k f).classifier = s.classifier ∧
    (State.updKilnCharge s k f).field = s.field ∧ (State.updKilnCharge s k f).table.varieties = s.table.varieties ∧
    (State.updKilnCharge s k f).feed = s.feed ∧ (State.updKilnCharge s k f).kilns = s.kilns ∧
    (State.updKilnCharge s k f).scale = s.scale ∧ (State.updKilnCharge s k f).press = s.press ∧
    (State.updKilnCharge s k f).tickets = s.tickets ∧ (State.updKilnCharge s k f).mgmt = s.mgmt := by
  generalize h : (State.updKilnCharge s k f) = t
  unfold State.updKilnCharge at h
  (try dsimp only at h)
  (repeat' split at h) <;> subst h <;> simp

@[simp] theorem updBale_frame (s : State) (n : Nat) (f : Bale → Bale) :
    (State.updBale s n f).pending = s.pending ∧ (State.updBale s n f).power = s.power ∧
    (State.updBale s n f).link = s.link ∧ (State.updBale s n f).classifier = s.classifier ∧
    (State.updBale s n f).field = s.field ∧ (State.updBale s n f).table = s.table ∧
    (State.updBale s n f).feed = s.feed ∧ (State.updBale s n f).kilns = s.kilns ∧
    (State.updBale s n f).scale = s.scale ∧ (State.updBale s n f).press.queue = s.press.queue ∧
    (State.updBale s n f).press.tares = s.press.tares ∧ (State.updBale s n f).press.cycle = s.press.cycle ∧
    (State.updBale s n f).press.hold = s.press.hold ∧ (State.updBale s n f).press.command = s.press.command ∧
    (State.updBale s n f).tickets = s.tickets ∧ (State.updBale s n f).mgmt = s.mgmt := by
  generalize h : (State.updBale s n f) = t
  unfold State.updBale at h
  (try dsimp only at h)
  (repeat' split at h) <;> subst h <;> simp

@[simp] theorem judgePress_frame (s : State) :
    (State.judgePress s).pending = s.pending ∧ (State.judgePress s).power = s.power ∧
    (State.judgePress s).link = s.link ∧ (State.judgePress s).classifier = s.classifier ∧
    (State.judgePress s).field.cadences = s.field.cadences ∧
    (State.judgePress s).field.pollQueue = s.field.pollQueue ∧
    (State.judgePress s).field.transaction = s.field.transaction ∧
    (State.judgePress s).field.printRequest = s.field.printRequest ∧
    (State.judgePress s).field.passStreak = s.field.passStreak ∧ (State.judgePress s).table = s.table ∧
    (State.judgePress s).feed = s.feed ∧ (State.judgePress s).kilns = s.kilns ∧ (State.judgePress s).scale = s.scale ∧
    (State.judgePress s).press.queue = s.press.queue ∧ (State.judgePress s).press.bales = s.press.bales ∧
    (State.judgePress s).press.tares = s.press.tares ∧ (State.judgePress s).press.cycle = s.press.cycle ∧
    (State.judgePress s).press.hold = s.press.hold ∧ (State.judgePress s).tickets = s.tickets ∧
    (State.judgePress s).mgmt = s.mgmt := by
  generalize h : (State.judgePress s) = t
  unfold State.judgePress at h
  (try dsimp only at h)
  (repeat' split at h) <;> subst h <;> simp

@[simp] theorem judgeStore_frame (s : State) :
    (State.judgeStore s).pending = s.pending ∧ (State.judgeStore s).power = s.power ∧
    (State.judgeStore s).link = s.link ∧ (State.judgeStore s).classifier = s.classifier ∧
    (State.judgeStore s).field.cadences = s.field.cadences ∧
    (State.judgeStore s).field.pollQueue = s.field.pollQueue ∧
    (State.judgeStore s).field.transaction = s.field.transaction ∧
    (State.judgeStore s).field.printRequest = s.field.printRequest ∧
    (State.judgeStore s).field.passStreak = s.field.passStreak ∧ (State.judgeStore s).table = s.table ∧
    (State.judgeStore s).feed = s.feed ∧ (State.judgeStore s).kilns = s.kilns ∧ (State.judgeStore s).scale = s.scale ∧
    (State.judgeStore s).press.queue = s.press.queue ∧ (State.judgeStore s).press.bales = s.press.bales ∧
    (State.judgeStore s).press.tares = s.press.tares ∧ (State.judgeStore s).press.cycle = s.press.cycle ∧
    (State.judgeStore s).tickets = s.tickets ∧ (State.judgeStore s).mgmt.time = s.mgmt.time ∧
    (State.judgeStore s).mgmt.ticks = s.mgmt.ticks ∧ (State.judgeStore s).mgmt.timeSet = s.mgmt.timeSet ∧
    (State.judgeStore s).mgmt.station = s.mgmt.station := by
  generalize h : (State.judgeStore s) = t
  unfold State.judgeStore at h
  (try dsimp only at h)
  (repeat' split at h) <;> subst h <;> simp

@[simp] theorem becomeHead_frame (s : State) (k : Kiln) :
    (State.becomeHead s k).pending = s.pending ∧ (State.becomeHead s k).power = s.power ∧
    (State.becomeHead s k).link = s.link ∧ (State.becomeHead s k).classifier = s.classifier ∧
    (State.becomeHead s k).field = s.field ∧ (State.becomeHead s k).table.varieties = s.table.varieties ∧
    (State.becomeHead s k).feed = s.feed ∧ (State.becomeHead s k).kilns.entries = s.kilns.entries ∧
    (State.becomeHead s k).kilns.schedules = s.kilns.schedules ∧ (State.becomeHead s k).kilns.steps = s.kilns.steps ∧
    (State.becomeHead s k).scale = s.scale ∧ (State.becomeHead s k).press = s.press ∧
    (State.becomeHead s k).tickets = s.tickets ∧ (State.becomeHead s k).mgmt = s.mgmt := by
  generalize h : (State.becomeHead s k) = t
  unfold State.becomeHead at h
  (try dsimp only at h)
  (repeat' split at h) <;> subst h <;> simp

@[simp] theorem joinPressQueue_frame (s : State) (k : Kiln) :
    (State.joinPressQueue s k).pending = s.pending ∧ (State.joinPressQueue s k).power = s.power ∧
    (State.joinPressQueue s k).link = s.link ∧ (State.joinPressQueue s k).classifier = s.classifier ∧
    (State.joinPressQueue s k).field.cadences = s.field.cadences ∧
    (State.joinPressQueue s k).field.pollQueue = s.field.pollQueue ∧
    (State.joinPressQueue s k).field.transaction = s.field.transaction ∧
    (State.joinPressQueue s k).field.printRequest = s.field.printRequest ∧
    (State.joinPressQueue s k).field.passStreak = s.field.passStreak ∧
    (State.joinPressQueue s k).table.varieties = s.table.varieties ∧ (State.joinPressQueue s k).feed = s.feed ∧
    (State.joinPressQueue s k).kilns.entries = s.kilns.entries ∧
    (State.joinPressQueue s k).kilns.schedules = s.kilns.schedules ∧
    (State.joinPressQueue s k).kilns.steps = s.kilns.steps ∧ (State.joinPressQueue s k).scale = s.scale ∧
    (State.joinPressQueue s k).press.bales = s.press.bales ∧ (State.joinPressQueue s k).press.tares = s.press.tares ∧
    (State.joinPressQueue s k).press.cycle = s.press.cycle ∧ (State.joinPressQueue s k).press.hold = s.press.hold ∧
    (State.joinPressQueue s k).tickets = s.tickets ∧ (State.joinPressQueue s k).mgmt = s.mgmt := by
  generalize h : (State.joinPressQueue s k) = t
  unfold State.joinPressQueue at h
  (try dsimp only at h)
  (repeat' split at h) <;> subst h <;> simp

@[simp] theorem writeBurner_frame (s : State) (k : Kiln) :
    (State.writeBurner s k).pending = s.pending ∧ (State.writeBurner s k).power = s.power ∧
    (State.writeBurner s k).link = s.link ∧ (State.writeBurner s k).classifier = s.classifier ∧
    (State.writeBurner s k).field.cadences = s.field.cadences ∧
    (State.writeBurner s k).field.pollQueue = s.field.pollQueue ∧
    (State.writeBurner s k).field.transaction = s.field.transaction ∧
    (State.writeBurner s k).field.printRequest = s.field.printRequest ∧
    (State.writeBurner s k).field.passStreak = s.field.passStreak ∧ (State.writeBurner s k).table = s.table ∧
    (State.writeBurner s k).feed = s.feed ∧ (State.writeBurner s k).kilns.entries = s.kilns.entries ∧
    (State.writeBurner s k).kilns.schedules = s.kilns.schedules ∧
    (State.writeBurner s k).kilns.steps = s.kilns.steps ∧ (State.writeBurner s k).scale = s.scale ∧
    (State.writeBurner s k).press = s.press ∧ (State.writeBurner s k).tickets = s.tickets ∧
    (State.writeBurner s k).mgmt = s.mgmt := by
  generalize h : (State.writeBurner s k) = t
  unfold State.writeBurner at h
  (try dsimp only at h)
  (repeat' split at h) <;> subst h <;> simp

@[simp] theorem kilnDried_frame (s : State) (k : Kiln) :
    (State.kilnDried s k).pending = s.pending ∧ (State.kilnDried s k).power = s.power ∧
    (State.kilnDried s k).link = s.link ∧ (State.kilnDried s k).classifier = s.classifier ∧
    (State.kilnDried s k).field.cadences = s.field.cadences ∧
    (State.kilnDried s k).field.pollQueue = s.field.pollQueue ∧
    (State.kilnDried s k).field.transaction = s.field.transaction ∧
    (State.kilnDried s k).field.printRequest = s.field.printRequest ∧
    (State.kilnDried s k).field.passStreak = s.field.passStreak ∧
    (State.kilnDried s k).table.varieties = s.table.varieties ∧ (State.kilnDried s k).feed = s.feed ∧
    (State.kilnDried s k).kilns.entries = s.kilns.entries ∧
    (State.kilnDried s k).kilns.schedules = s.kilns.schedules ∧ (State.kilnDried s k).kilns.steps = s.kilns.steps ∧
    (State.kilnDried s k).scale = s.scale ∧ (State.kilnDried s k).press.bales = s.press.bales ∧
    (State.kilnDried s k).press.tares = s.press.tares ∧ (State.kilnDried s k).press.cycle = s.press.cycle ∧
    (State.kilnDried s k).press.hold = s.press.hold ∧ (State.kilnDried s k).tickets = s.tickets ∧
    (State.kilnDried s k).mgmt.time = s.mgmt.time ∧ (State.kilnDried s k).mgmt.ticks = s.mgmt.ticks ∧
    (State.kilnDried s k).mgmt.timeSet = s.mgmt.timeSet ∧ (State.kilnDried s k).mgmt.station = s.mgmt.station := by
  generalize h : (State.kilnDried s k) = t
  unfold State.kilnDried at h
  (try dsimp only at h)
  (repeat' split at h) <;> subst h <;> simp

@[simp] theorem enterStep_frame (s : State) (k : Kiln) :
    (State.enterStep s k).pending = s.pending ∧ (State.enterStep s k).power = s.power ∧
    (State.enterStep s k).link = s.link ∧ (State.enterStep s k).classifier = s.classifier ∧
    (State.enterStep s k).field.cadences = s.field.cadences ∧
    (State.enterStep s k).field.pollQueue = s.field.pollQueue ∧
    (State.enterStep s k).field.transaction = s.field.transaction ∧
    (State.enterStep s k).field.printRequest = s.field.printRequest ∧
    (State.enterStep s k).field.passStreak = s.field.passStreak ∧
    (State.enterStep s k).table.varieties = s.table.varieties ∧ (State.enterStep s k).feed = s.feed ∧
    (State.enterStep s k).kilns.entries = s.kilns.entries ∧
    (State.enterStep s k).kilns.schedules = s.kilns.schedules ∧ (State.enterStep s k).kilns.steps = s.kilns.steps ∧
    (State.enterStep s k).scale = s.scale ∧ (State.enterStep s k).press.bales = s.press.bales ∧
    (State.enterStep s k).press.tares = s.press.tares ∧ (State.enterStep s k).press.cycle = s.press.cycle ∧
    (State.enterStep s k).press.hold = s.press.hold ∧ (State.enterStep s k).tickets = s.tickets ∧
    (State.enterStep s k).mgmt.time = s.mgmt.time ∧ (State.enterStep s k).mgmt.ticks = s.mgmt.ticks ∧
    (State.enterStep s k).mgmt.timeSet = s.mgmt.timeSet ∧ (State.enterStep s k).mgmt.station = s.mgmt.station := by
  generalize h : (State.enterStep s k) = t
  unfold State.enterStep at h
  (try dsimp only at h)
  (repeat' split at h) <;> subst h <;> simp

@[simp] theorem nextStep_frame (s : State) (k : Kiln) :
    (State.nextStep s k).pending = s.pending ∧ (State.nextStep s k).power = s.power ∧
    (State.nextStep s k).link = s.link ∧ (State.nextStep s k).classifier = s.classifier ∧
    (State.nextStep s k).field.cadences = s.field.cadences ∧
    (State.nextStep s k).field.pollQueue = s.field.pollQueue ∧
    (State.nextStep s k).field.transaction = s.field.transaction ∧
    (State.nextStep s k).field.printRequest = s.field.printRequest ∧
    (State.nextStep s k).field.passStreak = s.field.passStreak ∧
    (State.nextStep s k).table.varieties = s.table.varieties ∧ (State.nextStep s k).feed = s.feed ∧
    (State.nextStep s k).kilns.entries = s.kilns.entries ∧ (State.nextStep s k).kilns.schedules = s.kilns.schedules ∧
    (State.nextStep s k).kilns.steps = s.kilns.steps ∧ (State.nextStep s k).scale = s.scale ∧
    (State.nextStep s k).press.bales = s.press.bales ∧ (State.nextStep s k).press.tares = s.press.tares ∧
    (State.nextStep s k).press.cycle = s.press.cycle ∧ (State.nextStep s k).press.hold = s.press.hold ∧
    (State.nextStep s k).tickets = s.tickets ∧ (State.nextStep s k).mgmt.time = s.mgmt.time ∧
    (State.nextStep s k).mgmt.ticks = s.mgmt.ticks ∧ (State.nextStep s k).mgmt.timeSet = s.mgmt.timeSet ∧
    (State.nextStep s k).mgmt.station = s.mgmt.station := by
  generalize h : (State.nextStep s k) = t
  unfold State.nextStep at h
  (try dsimp only at h)
  (repeat' split at h) <;> subst h <;> simp

@[simp] theorem holdKiln_frame (s : State) (k : Kiln) (reason : HoldReason) :
    (State.holdKiln s k reason).pending = s.pending ∧ (State.holdKiln s k reason).power = s.power ∧
    (State.holdKiln s k reason).link = s.link ∧ (State.holdKiln s k reason).classifier = s.classifier ∧
    (State.holdKiln s k reason).field.cadences = s.field.cadences ∧
    (State.holdKiln s k reason).field.pollQueue = s.field.pollQueue ∧
    (State.holdKiln s k reason).field.transaction = s.field.transaction ∧
    (State.holdKiln s k reason).field.printRequest = s.field.printRequest ∧
    (State.holdKiln s k reason).field.passStreak = s.field.passStreak ∧ (State.holdKiln s k reason).table = s.table ∧
    (State.holdKiln s k reason).feed = s.feed ∧ (State.holdKiln s k reason).kilns.entries = s.kilns.entries ∧
    (State.holdKiln s k reason).kilns.schedules = s.kilns.schedules ∧
    (State.holdKiln s k reason).kilns.steps = s.kilns.steps ∧ (State.holdKiln s k reason).scale = s.scale ∧
    (State.holdKiln s k reason).press = s.press ∧ (State.holdKiln s k reason).tickets = s.tickets ∧
    (State.holdKiln s k reason).mgmt.time = s.mgmt.time ∧ (State.holdKiln s k reason).mgmt.ticks = s.mgmt.ticks ∧
    (State.holdKiln s k reason).mgmt.timeSet = s.mgmt.timeSet ∧
    (State.holdKiln s k reason).mgmt.station = s.mgmt.station := by
  generalize h : (State.holdKiln s k reason) = t
  unfold State.holdKiln at h
  (try dsimp only at h)
  (repeat' split at h) <;> subst h <;> simp

@[simp] theorem kilnAir_frame (s : State) (k : Kiln) (value : Int) :
    (State.kilnAir s k value).pending = s.pending ∧ (State.kilnAir s k value).power = s.power ∧
    (State.kilnAir s k value).link = s.link ∧ (State.kilnAir s k value).classifier = s.classifier ∧
    (State.kilnAir s k value).field.cadences = s.field.cadences ∧
    (State.kilnAir s k value).field.pollQueue = s.field.pollQueue ∧
    (State.kilnAir s k value).field.transaction = s.field.transaction ∧
    (State.kilnAir s k value).field.printRequest = s.field.printRequest ∧
    (State.kilnAir s k value).field.passStreak = s.field.passStreak ∧ (State.kilnAir s k value).table = s.table ∧
    (State.kilnAir s k value).feed = s.feed ∧ (State.kilnAir s k value).kilns.entries = s.kilns.entries ∧
    (State.kilnAir s k value).kilns.schedules = s.kilns.schedules ∧
    (State.kilnAir s k value).kilns.steps = s.kilns.steps ∧ (State.kilnAir s k value).scale = s.scale ∧
    (State.kilnAir s k value).press = s.press ∧ (State.kilnAir s k value).tickets = s.tickets ∧
    (State.kilnAir s k value).mgmt.time = s.mgmt.time ∧ (State.kilnAir s k value).mgmt.ticks = s.mgmt.ticks ∧
    (State.kilnAir s k value).mgmt.timeSet = s.mgmt.timeSet ∧ (State.kilnAir s k value).mgmt.station = s.mgmt.station := by
  generalize h : (State.kilnAir s k value) = t
  unfold State.kilnAir at h
  (try dsimp only at h)
  (repeat' split at h) <;> subst h <;> simp

@[simp] theorem kilnExhaust_frame (s : State) (k : Kiln) (value : Int) :
    (State.kilnExhaust s k value).pending = s.pending ∧ (State.kilnExhaust s k value).power = s.power ∧
    (State.kilnExhaust s k value).link = s.link ∧ (State.kilnExhaust s k value).classifier = s.classifier ∧
    (State.kilnExhaust s k value).field.cadences = s.field.cadences ∧
    (State.kilnExhaust s k value).field.pollQueue = s.field.pollQueue ∧
    (State.kilnExhaust s k value).field.transaction = s.field.transaction ∧
    (State.kilnExhaust s k value).field.printRequest = s.field.printRequest ∧
    (State.kilnExhaust s k value).field.passStreak = s.field.passStreak ∧
    (State.kilnExhaust s k value).table.varieties = s.table.varieties ∧ (State.kilnExhaust s k value).feed = s.feed ∧
    (State.kilnExhaust s k value).kilns.entries = s.kilns.entries ∧
    (State.kilnExhaust s k value).kilns.schedules = s.kilns.schedules ∧
    (State.kilnExhaust s k value).kilns.steps = s.kilns.steps ∧ (State.kilnExhaust s k value).scale = s.scale ∧
    (State.kilnExhaust s k value).press.bales = s.press.bales ∧
    (State.kilnExhaust s k value).press.tares = s.press.tares ∧
    (State.kilnExhaust s k value).press.cycle = s.press.cycle ∧
    (State.kilnExhaust s k value).press.hold = s.press.hold ∧ (State.kilnExhaust s k value).tickets = s.tickets ∧
    (State.kilnExhaust s k value).mgmt.time = s.mgmt.time ∧ (State.kilnExhaust s k value).mgmt.ticks = s.mgmt.ticks ∧
    (State.kilnExhaust s k value).mgmt.timeSet = s.mgmt.timeSet ∧
    (State.kilnExhaust s k value).mgmt.station = s.mgmt.station := by
  generalize h : (State.kilnExhaust s k value) = t
  unfold State.kilnExhaust at h
  (try dsimp only at h)
  (repeat' split at h) <;> subst h <;> simp

@[simp] theorem startRun_frame (s : State) (k : Kiln) (d : Fin 8) :
    (State.startRun s k d).pending = s.pending ∧ (State.startRun s k d).power = s.power ∧
    (State.startRun s k d).link = s.link ∧ (State.startRun s k d).classifier = s.classifier ∧
    (State.startRun s k d).field.cadences = s.field.cadences ∧
    (State.startRun s k d).field.pollQueue = s.field.pollQueue ∧
    (State.startRun s k d).field.transaction = s.field.transaction ∧
    (State.startRun s k d).field.printRequest = s.field.printRequest ∧
    (State.startRun s k d).field.passStreak = s.field.passStreak ∧
    (State.startRun s k d).table.varieties = s.table.varieties ∧ (State.startRun s k d).feed = s.feed ∧
    (State.startRun s k d).kilns.entries = s.kilns.entries ∧
    (State.startRun s k d).kilns.schedules = s.kilns.schedules ∧ (State.startRun s k d).kilns.steps = s.kilns.steps ∧
    (State.startRun s k d).scale = s.scale ∧ (State.startRun s k d).press.bales = s.press.bales ∧
    (State.startRun s k d).press.tares = s.press.tares ∧ (State.startRun s k d).press.cycle = s.press.cycle ∧
    (State.startRun s k d).press.hold = s.press.hold ∧ (State.startRun s k d).tickets = s.tickets ∧
    (State.startRun s k d).mgmt.time = s.mgmt.time ∧ (State.startRun s k d).mgmt.ticks = s.mgmt.ticks ∧
    (State.startRun s k d).mgmt.timeSet = s.mgmt.timeSet ∧ (State.startRun s k d).mgmt.station = s.mgmt.station := by
  generalize h : (State.startRun s k d) = t
  unfold State.startRun at h
  (try dsimp only at h)
  (repeat' split at h) <;> subst h <;> simp

@[simp] theorem autoStart_frame (s : State) (k : Kiln) :
    (State.autoStart s k).pending = s.pending ∧ (State.autoStart s k).power = s.power ∧
    (State.autoStart s k).link = s.link ∧ (State.autoStart s k).classifier = s.classifier ∧
    (State.autoStart s k).field.cadences = s.field.cadences ∧
    (State.autoStart s k).field.pollQueue = s.field.pollQueue ∧
    (State.autoStart s k).field.transaction = s.field.transaction ∧
    (State.autoStart s k).field.printRequest = s.field.printRequest ∧
    (State.autoStart s k).field.passStreak = s.field.passStreak ∧
    (State.autoStart s k).table.varieties = s.table.varieties ∧ (State.autoStart s k).feed = s.feed ∧
    (State.autoStart s k).kilns.entries = s.kilns.entries ∧
    (State.autoStart s k).kilns.schedules = s.kilns.schedules ∧ (State.autoStart s k).kilns.steps = s.kilns.steps ∧
    (State.autoStart s k).scale = s.scale ∧ (State.autoStart s k).press.bales = s.press.bales ∧
    (State.autoStart s k).press.tares = s.press.tares ∧ (State.autoStart s k).press.cycle = s.press.cycle ∧
    (State.autoStart s k).press.hold = s.press.hold ∧ (State.autoStart s k).tickets = s.tickets ∧
    (State.autoStart s k).mgmt.time = s.mgmt.time ∧ (State.autoStart s k).mgmt.ticks = s.mgmt.ticks ∧
    (State.autoStart s k).mgmt.timeSet = s.mgmt.timeSet ∧ (State.autoStart s k).mgmt.station = s.mgmt.station := by
  generalize h : (State.autoStart s k) = t
  unfold State.autoStart at h
  (try dsimp only at h)
  (repeat' split at h) <;> subst h <;> simp

@[simp] theorem kilnLoaded_frame (s : State) (k : Kiln) :
    (State.kilnLoaded s k).pending = s.pending ∧ (State.kilnLoaded s k).power = s.power ∧
    (State.kilnLoaded s k).link = s.link ∧ (State.kilnLoaded s k).classifier = s.classifier ∧
    (State.kilnLoaded s k).field.cadences = s.field.cadences ∧
    (State.kilnLoaded s k).field.pollQueue = s.field.pollQueue ∧
    (State.kilnLoaded s k).field.transaction = s.field.transaction ∧
    (State.kilnLoaded s k).field.printRequest = s.field.printRequest ∧
    (State.kilnLoaded s k).field.passStreak = s.field.passStreak ∧
    (State.kilnLoaded s k).table.varieties = s.table.varieties ∧ (State.kilnLoaded s k).feed = s.feed ∧
    (State.kilnLoaded s k).kilns.entries = s.kilns.entries ∧
    (State.kilnLoaded s k).kilns.schedules = s.kilns.schedules ∧ (State.kilnLoaded s k).kilns.steps = s.kilns.steps ∧
    (State.kilnLoaded s k).scale = s.scale ∧ (State.kilnLoaded s k).press.bales = s.press.bales ∧
    (State.kilnLoaded s k).press.tares = s.press.tares ∧ (State.kilnLoaded s k).press.cycle = s.press.cycle ∧
    (State.kilnLoaded s k).press.hold = s.press.hold ∧ (State.kilnLoaded s k).tickets = s.tickets ∧
    (State.kilnLoaded s k).mgmt.time = s.mgmt.time ∧ (State.kilnLoaded s k).mgmt.ticks = s.mgmt.ticks ∧
    (State.kilnLoaded s k).mgmt.timeSet = s.mgmt.timeSet ∧ (State.kilnLoaded s k).mgmt.station = s.mgmt.station := by
  generalize h : (State.kilnLoaded s k) = t
  unfold State.kilnLoaded at h
  (try dsimp only at h)
  (repeat' split at h) <;> subst h <;> simp

@[simp] theorem kilnEmptied_frame (s : State) (k : Kiln) :
    (State.kilnEmptied s k).pending = s.pending ∧ (State.kilnEmptied s k).power = s.power ∧
    (State.kilnEmptied s k).link = s.link ∧ (State.kilnEmptied s k).classifier = s.classifier ∧
    (State.kilnEmptied s k).field.cadences = s.field.cadences ∧
    (State.kilnEmptied s k).field.pollQueue = s.field.pollQueue ∧
    (State.kilnEmptied s k).field.transaction = s.field.transaction ∧
    (State.kilnEmptied s k).field.printRequest = s.field.printRequest ∧
    (State.kilnEmptied s k).field.passStreak = s.field.passStreak ∧ (State.kilnEmptied s k).table = s.table ∧
    (State.kilnEmptied s k).feed = s.feed ∧ (State.kilnEmptied s k).kilns.entries = s.kilns.entries ∧
    (State.kilnEmptied s k).kilns.schedules = s.kilns.schedules ∧
    (State.kilnEmptied s k).kilns.steps = s.kilns.steps ∧ (State.kilnEmptied s k).scale = s.scale ∧
    (State.kilnEmptied s k).press = s.press ∧ (State.kilnEmptied s k).tickets = s.tickets ∧
    (State.kilnEmptied s k).mgmt = s.mgmt := by
  generalize h : (State.kilnEmptied s k) = t
  unfold State.kilnEmptied at h
  (try dsimp only at h)
  (repeat' split at h) <;> subst h <;> simp

@[simp] theorem stepEnd_frame (s : State) (k : Kiln) :
    (State.stepEnd s k).pending = s.pending ∧ (State.stepEnd s k).power = s.power ∧
    (State.stepEnd s k).link = s.link ∧ (State.stepEnd s k).classifier = s.classifier ∧
    (State.stepEnd s k).field.cadences = s.field.cadences ∧ (State.stepEnd s k).field.pollQueue = s.field.pollQueue ∧
    (State.stepEnd s k).field.transaction = s.field.transaction ∧
    (State.stepEnd s k).field.printRequest = s.field.printRequest ∧
    (State.stepEnd s k).field.passStreak = s.field.passStreak ∧
    (State.stepEnd s k).table.varieties = s.table.varieties ∧ (State.stepEnd s k).feed = s.feed ∧
    (State.stepEnd s k).kilns.entries = s.kilns.entries ∧ (State.stepEnd s k).kilns.schedules = s.kilns.schedules ∧
    (State.stepEnd s k).kilns.steps = s.kilns.steps ∧ (State.stepEnd s k).scale = s.scale ∧
    (State.stepEnd s k).press.bales = s.press.bales ∧ (State.stepEnd s k).press.tares = s.press.tares ∧
    (State.stepEnd s k).press.cycle = s.press.cycle ∧ (State.stepEnd s k).press.hold = s.press.hold ∧
    (State.stepEnd s k).tickets = s.tickets ∧ (State.stepEnd s k).mgmt.time = s.mgmt.time ∧
    (State.stepEnd s k).mgmt.ticks = s.mgmt.ticks ∧ (State.stepEnd s k).mgmt.timeSet = s.mgmt.timeSet ∧
    (State.stepEnd s k).mgmt.station = s.mgmt.station := by
  generalize h : (State.stepEnd s k) = t
  unfold State.stepEnd at h
  (try dsimp only at h)
  (repeat' split at h) <;> subst h <;> simp

@[simp] theorem rampMinute_frame (s : State) (k : Kiln) :
    (State.rampMinute s k).pending = s.pending ∧ (State.rampMinute s k).power = s.power ∧
    (State.rampMinute s k).link = s.link ∧ (State.rampMinute s k).classifier = s.classifier ∧
    (State.rampMinute s k).field.cadences = s.field.cadences ∧
    (State.rampMinute s k).field.pollQueue = s.field.pollQueue ∧
    (State.rampMinute s k).field.transaction = s.field.transaction ∧
    (State.rampMinute s k).field.printRequest = s.field.printRequest ∧
    (State.rampMinute s k).field.passStreak = s.field.passStreak ∧
    (State.rampMinute s k).table.varieties = s.table.varieties ∧ (State.rampMinute s k).feed = s.feed ∧
    (State.rampMinute s k).kilns.entries = s.kilns.entries ∧
    (State.rampMinute s k).kilns.schedules = s.kilns.schedules ∧ (State.rampMinute s k).kilns.steps = s.kilns.steps ∧
    (State.rampMinute s k).scale = s.scale ∧ (State.rampMinute s k).press.bales = s.press.bales ∧
    (State.rampMinute s k).press.tares = s.press.tares ∧ (State.rampMinute s k).press.cycle = s.press.cycle ∧
    (State.rampMinute s k).press.hold = s.press.hold ∧ (State.rampMinute s k).tickets = s.tickets ∧
    (State.rampMinute s k).mgmt.time = s.mgmt.time ∧ (State.rampMinute s k).mgmt.ticks = s.mgmt.ticks ∧
    (State.rampMinute s k).mgmt.timeSet = s.mgmt.timeSet ∧ (State.rampMinute s k).mgmt.station = s.mgmt.station := by
  generalize h : (State.rampMinute s k) = t
  unfold State.rampMinute at h
  (try dsimp only at h)
  (repeat' split at h) <;> subst h <;> simp

@[simp] theorem dryToOvertime_frame (s : State) (k : Kiln) :
    (State.dryToOvertime s k).pending = s.pending ∧ (State.dryToOvertime s k).power = s.power ∧
    (State.dryToOvertime s k).link = s.link ∧ (State.dryToOvertime s k).classifier = s.classifier ∧
    (State.dryToOvertime s k).field.cadences = s.field.cadences ∧
    (State.dryToOvertime s k).field.pollQueue = s.field.pollQueue ∧
    (State.dryToOvertime s k).field.transaction = s.field.transaction ∧
    (State.dryToOvertime s k).field.printRequest = s.field.printRequest ∧
    (State.dryToOvertime s k).field.passStreak = s.field.passStreak ∧ (State.dryToOvertime s k).table = s.table ∧
    (State.dryToOvertime s k).feed = s.feed ∧ (State.dryToOvertime s k).kilns.entries = s.kilns.entries ∧
    (State.dryToOvertime s k).kilns.schedules = s.kilns.schedules ∧
    (State.dryToOvertime s k).kilns.steps = s.kilns.steps ∧ (State.dryToOvertime s k).scale = s.scale ∧
    (State.dryToOvertime s k).press = s.press ∧ (State.dryToOvertime s k).tickets = s.tickets ∧
    (State.dryToOvertime s k).mgmt.time = s.mgmt.time ∧ (State.dryToOvertime s k).mgmt.ticks = s.mgmt.ticks ∧
    (State.dryToOvertime s k).mgmt.timeSet = s.mgmt.timeSet ∧ (State.dryToOvertime s k).mgmt.station = s.mgmt.station := by
  generalize h : (State.dryToOvertime s k) = t
  unfold State.dryToOvertime at h
  (try dsimp only at h)
  (repeat' split at h) <;> subst h <;> simp

@[simp] theorem abortCoolingEnd_frame (s : State) (k : Kiln) :
    (State.abortCoolingEnd s k).pending = s.pending ∧ (State.abortCoolingEnd s k).power = s.power ∧
    (State.abortCoolingEnd s k).link = s.link ∧ (State.abortCoolingEnd s k).classifier = s.classifier ∧
    (State.abortCoolingEnd s k).field.cadences = s.field.cadences ∧
    (State.abortCoolingEnd s k).field.pollQueue = s.field.pollQueue ∧
    (State.abortCoolingEnd s k).field.transaction = s.field.transaction ∧
    (State.abortCoolingEnd s k).field.printRequest = s.field.printRequest ∧
    (State.abortCoolingEnd s k).field.passStreak = s.field.passStreak ∧
    (State.abortCoolingEnd s k).table.varieties = s.table.varieties ∧ (State.abortCoolingEnd s k).feed = s.feed ∧
    (State.abortCoolingEnd s k).kilns.entries = s.kilns.entries ∧
    (State.abortCoolingEnd s k).kilns.schedules = s.kilns.schedules ∧
    (State.abortCoolingEnd s k).kilns.steps = s.kilns.steps ∧ (State.abortCoolingEnd s k).scale = s.scale ∧
    (State.abortCoolingEnd s k).press.bales = s.press.bales ∧
    (State.abortCoolingEnd s k).press.tares = s.press.tares ∧
    (State.abortCoolingEnd s k).press.cycle = s.press.cycle ∧ (State.abortCoolingEnd s k).press.hold = s.press.hold ∧
    (State.abortCoolingEnd s k).tickets = s.tickets ∧ (State.abortCoolingEnd s k).mgmt.time = s.mgmt.time ∧
    (State.abortCoolingEnd s k).mgmt.ticks = s.mgmt.ticks ∧
    (State.abortCoolingEnd s k).mgmt.timeSet = s.mgmt.timeSet ∧
    (State.abortCoolingEnd s k).mgmt.station = s.mgmt.station := by
  generalize h : (State.abortCoolingEnd s k) = t
  unfold State.abortCoolingEnd at h
  (try dsimp only at h)
  (repeat' split at h) <;> subst h <;> simp

@[simp] theorem refreshExpiry_frame (s : State) (k : Kiln) :
    (State.refreshExpiry s k).pending = s.pending ∧ (State.refreshExpiry s k).power = s.power ∧
    (State.refreshExpiry s k).link = s.link ∧ (State.refreshExpiry s k).classifier = s.classifier ∧
    (State.refreshExpiry s k).field.cadences = s.field.cadences ∧
    (State.refreshExpiry s k).field.pollQueue = s.field.pollQueue ∧
    (State.refreshExpiry s k).field.transaction = s.field.transaction ∧
    (State.refreshExpiry s k).field.printRequest = s.field.printRequest ∧
    (State.refreshExpiry s k).field.passStreak = s.field.passStreak ∧ (State.refreshExpiry s k).table = s.table ∧
    (State.refreshExpiry s k).feed = s.feed ∧ (State.refreshExpiry s k).kilns.entries = s.kilns.entries ∧
    (State.refreshExpiry s k).kilns.schedules = s.kilns.schedules ∧
    (State.refreshExpiry s k).kilns.steps = s.kilns.steps ∧ (State.refreshExpiry s k).scale = s.scale ∧
    (State.refreshExpiry s k).press = s.press ∧ (State.refreshExpiry s k).tickets = s.tickets ∧
    (State.refreshExpiry s k).mgmt = s.mgmt := by
  generalize h : (State.refreshExpiry s k) = t
  unfold State.refreshExpiry at h
  (try dsimp only at h)
  (repeat' split at h) <;> subst h <;> simp

@[simp] theorem performKilnStart_frame (kiln : Byte) (s : State) :
    (performKilnStart kiln s).state.pending = s.pending ∧ (performKilnStart kiln s).state.power = s.power ∧
    (performKilnStart kiln s).state.link = s.link ∧ (performKilnStart kiln s).state.classifier = s.classifier ∧
    (performKilnStart kiln s).state.field.cadences = s.field.cadences ∧
    (performKilnStart kiln s).state.field.pollQueue = s.field.pollQueue ∧
    (performKilnStart kiln s).state.field.transaction = s.field.transaction ∧
    (performKilnStart kiln s).state.field.printRequest = s.field.printRequest ∧
    (performKilnStart kiln s).state.field.passStreak = s.field.passStreak ∧
    (performKilnStart kiln s).state.table.varieties = s.table.varieties ∧
    (performKilnStart kiln s).state.feed = s.feed ∧ (performKilnStart kiln s).state.kilns.entries = s.kilns.entries ∧
    (performKilnStart kiln s).state.kilns.schedules = s.kilns.schedules ∧
    (performKilnStart kiln s).state.kilns.steps = s.kilns.steps ∧ (performKilnStart kiln s).state.scale = s.scale ∧
    (performKilnStart kiln s).state.press.bales = s.press.bales ∧
    (performKilnStart kiln s).state.press.tares = s.press.tares ∧
    (performKilnStart kiln s).state.press.cycle = s.press.cycle ∧
    (performKilnStart kiln s).state.press.hold = s.press.hold ∧ (performKilnStart kiln s).state.tickets = s.tickets ∧
    (performKilnStart kiln s).state.mgmt.time = s.mgmt.time ∧
    (performKilnStart kiln s).state.mgmt.ticks = s.mgmt.ticks ∧
    (performKilnStart kiln s).state.mgmt.timeSet = s.mgmt.timeSet ∧
    (performKilnStart kiln s).state.mgmt.station = s.mgmt.station := by
  generalize h : (performKilnStart kiln s) = t
  unfold performKilnStart at h
  (try dsimp only at h)
  (repeat' split at h) <;> subst h <;> simp

@[simp] theorem performKilnHold_frame (kiln : Byte) (s : State) :
    (performKilnHold kiln s).state.pending = s.pending ∧ (performKilnHold kiln s).state.power = s.power ∧
    (performKilnHold kiln s).state.link = s.link ∧ (performKilnHold kiln s).state.classifier = s.classifier ∧
    (performKilnHold kiln s).state.field.cadences = s.field.cadences ∧
    (performKilnHold kiln s).state.field.pollQueue = s.field.pollQueue ∧
    (performKilnHold kiln s).state.field.transaction = s.field.transaction ∧
    (performKilnHold kiln s).state.field.printRequest = s.field.printRequest ∧
    (performKilnHold kiln s).state.field.passStreak = s.field.passStreak ∧
    (performKilnHold kiln s).state.table = s.table ∧ (performKilnHold kiln s).state.feed = s.feed ∧
    (performKilnHold kiln s).state.kilns.entries = s.kilns.entries ∧
    (performKilnHold kiln s).state.kilns.schedules = s.kilns.schedules ∧
    (performKilnHold kiln s).state.kilns.steps = s.kilns.steps ∧ (performKilnHold kiln s).state.scale = s.scale ∧
    (performKilnHold kiln s).state.press = s.press ∧ (performKilnHold kiln s).state.tickets = s.tickets ∧
    (performKilnHold kiln s).state.mgmt.time = s.mgmt.time ∧
    (performKilnHold kiln s).state.mgmt.ticks = s.mgmt.ticks ∧
    (performKilnHold kiln s).state.mgmt.timeSet = s.mgmt.timeSet ∧
    (performKilnHold kiln s).state.mgmt.station = s.mgmt.station := by
  generalize h : (performKilnHold kiln s) = t
  unfold performKilnHold at h
  (try dsimp only at h)
  (repeat' split at h) <;> subst h <;> simp

@[simp] theorem resume_frame (s : State) (k : Kiln) (m : ResumeMode) :
    (State.resume s k m).pending = s.pending ∧ (State.resume s k m).power = s.power ∧
    (State.resume s k m).link = s.link ∧ (State.resume s k m).classifier = s.classifier ∧
    (State.resume s k m).field.cadences = s.field.cadences ∧
    (State.resume s k m).field.pollQueue = s.field.pollQueue ∧
    (State.resume s k m).field.transaction = s.field.transaction ∧
    (State.resume s k m).field.printRequest = s.field.printRequest ∧
    (State.resume s k m).field.passStreak = s.field.passStreak ∧
    (State.resume s k m).table.varieties = s.table.varieties ∧ (State.resume s k m).feed = s.feed ∧
    (State.resume s k m).kilns.entries = s.kilns.entries ∧ (State.resume s k m).kilns.schedules = s.kilns.schedules ∧
    (State.resume s k m).kilns.steps = s.kilns.steps ∧ (State.resume s k m).scale = s.scale ∧
    (State.resume s k m).press.bales = s.press.bales ∧ (State.resume s k m).press.tares = s.press.tares ∧
    (State.resume s k m).press.cycle = s.press.cycle ∧ (State.resume s k m).press.hold = s.press.hold ∧
    (State.resume s k m).tickets = s.tickets ∧ (State.resume s k m).mgmt.time = s.mgmt.time ∧
    (State.resume s k m).mgmt.ticks = s.mgmt.ticks ∧ (State.resume s k m).mgmt.timeSet = s.mgmt.timeSet ∧
    (State.resume s k m).mgmt.station = s.mgmt.station := by
  generalize h : (State.resume s k m) = t
  unfold State.resume at h
  (try dsimp only at h)
  (repeat' split at h) <;> subst h <;> simp

@[simp] theorem performKilnResume_frame (kiln mode : Byte) (s : State) :
    (performKilnResume kiln mode s).state.pending = s.pending ∧
    (performKilnResume kiln mode s).state.power = s.power ∧ (performKilnResume kiln mode s).state.link = s.link ∧
    (performKilnResume kiln mode s).state.classifier = s.classifier ∧
    (performKilnResume kiln mode s).state.field.cadences = s.field.cadences ∧
    (performKilnResume kiln mode s).state.field.pollQueue = s.field.pollQueue ∧
    (performKilnResume kiln mode s).state.field.transaction = s.field.transaction ∧
    (performKilnResume kiln mode s).state.field.printRequest = s.field.printRequest ∧
    (performKilnResume kiln mode s).state.field.passStreak = s.field.passStreak ∧
    (performKilnResume kiln mode s).state.table.varieties = s.table.varieties ∧
    (performKilnResume kiln mode s).state.feed = s.feed ∧
    (performKilnResume kiln mode s).state.kilns.entries = s.kilns.entries ∧
    (performKilnResume kiln mode s).state.kilns.schedules = s.kilns.schedules ∧
    (performKilnResume kiln mode s).state.kilns.steps = s.kilns.steps ∧
    (performKilnResume kiln mode s).state.scale = s.scale ∧
    (performKilnResume kiln mode s).state.press.bales = s.press.bales ∧
    (performKilnResume kiln mode s).state.press.tares = s.press.tares ∧
    (performKilnResume kiln mode s).state.press.cycle = s.press.cycle ∧
    (performKilnResume kiln mode s).state.press.hold = s.press.hold ∧
    (performKilnResume kiln mode s).state.tickets = s.tickets ∧
    (performKilnResume kiln mode s).state.mgmt.time = s.mgmt.time ∧
    (performKilnResume kiln mode s).state.mgmt.ticks = s.mgmt.ticks ∧
    (performKilnResume kiln mode s).state.mgmt.timeSet = s.mgmt.timeSet ∧
    (performKilnResume kiln mode s).state.mgmt.station = s.mgmt.station := by
  generalize h : (performKilnResume kiln mode s) = t
  unfold performKilnResume at h
  (try dsimp only at h)
  (repeat' split at h) <;> subst h <;> simp

@[simp] theorem abort_frame (s : State) (k : Kiln) :
    (State.abort s k).pending = s.pending ∧ (State.abort s k).power = s.power ∧ (State.abort s k).link = s.link ∧
    (State.abort s k).classifier = s.classifier ∧ (State.abort s k).field.cadences = s.field.cadences ∧
    (State.abort s k).field.pollQueue = s.field.pollQueue ∧
    (State.abort s k).field.transaction = s.field.transaction ∧
    (State.abort s k).field.printRequest = s.field.printRequest ∧
    (State.abort s k).field.passStreak = s.field.passStreak ∧ (State.abort s k).table.varieties = s.table.varieties ∧
    (State.abort s k).feed = s.feed ∧ (State.abort s k).kilns.entries = s.kilns.entries ∧
    (State.abort s k).kilns.schedules = s.kilns.schedules ∧ (State.abort s k).kilns.steps = s.kilns.steps ∧
    (State.abort s k).scale = s.scale ∧ (State.abort s k).press.bales = s.press.bales ∧
    (State.abort s k).press.tares = s.press.tares ∧ (State.abort s k).press.cycle = s.press.cycle ∧
    (State.abort s k).press.hold = s.press.hold ∧ (State.abort s k).tickets = s.tickets ∧
    (State.abort s k).mgmt.time = s.mgmt.time ∧ (State.abort s k).mgmt.ticks = s.mgmt.ticks ∧
    (State.abort s k).mgmt.timeSet = s.mgmt.timeSet ∧ (State.abort s k).mgmt.station = s.mgmt.station := by
  generalize h : (State.abort s k) = t
  unfold State.abort at h
  (try dsimp only at h)
  (repeat' split at h) <;> subst h <;> simp

@[simp] theorem performKilnAbort_frame (kiln : Byte) (s : State) :
    (performKilnAbort kiln s).state.pending = s.pending ∧ (performKilnAbort kiln s).state.power = s.power ∧
    (performKilnAbort kiln s).state.link = s.link ∧ (performKilnAbort kiln s).state.classifier = s.classifier ∧
    (performKilnAbort kiln s).state.field.cadences = s.field.cadences ∧
    (performKilnAbort kiln s).state.field.pollQueue = s.field.pollQueue ∧
    (performKilnAbort kiln s).state.field.transaction = s.field.transaction ∧
    (performKilnAbort kiln s).state.field.printRequest = s.field.printRequest ∧
    (performKilnAbort kiln s).state.field.passStreak = s.field.passStreak ∧
    (performKilnAbort kiln s).state.table.varieties = s.table.varieties ∧
    (performKilnAbort kiln s).state.feed = s.feed ∧ (performKilnAbort kiln s).state.kilns.entries = s.kilns.entries ∧
    (performKilnAbort kiln s).state.kilns.schedules = s.kilns.schedules ∧
    (performKilnAbort kiln s).state.kilns.steps = s.kilns.steps ∧ (performKilnAbort kiln s).state.scale = s.scale ∧
    (performKilnAbort kiln s).state.press.bales = s.press.bales ∧
    (performKilnAbort kiln s).state.press.tares = s.press.tares ∧
    (performKilnAbort kiln s).state.press.cycle = s.press.cycle ∧
    (performKilnAbort kiln s).state.press.hold = s.press.hold ∧ (performKilnAbort kiln s).state.tickets = s.tickets ∧
    (performKilnAbort kiln s).state.mgmt.time = s.mgmt.time ∧
    (performKilnAbort kiln s).state.mgmt.ticks = s.mgmt.ticks ∧
    (performKilnAbort kiln s).state.mgmt.timeSet = s.mgmt.timeSet ∧
    (performKilnAbort kiln s).state.mgmt.station = s.mgmt.station := by
  generalize h : (performKilnAbort kiln s) = t
  unfold performKilnAbort at h
  (try dsimp only at h)
  (repeat' split at h) <;> subst h <;> simp

@[simp] theorem performKilnRead_frame (kiln : Byte) (s : State) :
    (performKilnRead kiln s).state.pending = s.pending ∧ (performKilnRead kiln s).state.power = s.power ∧
    (performKilnRead kiln s).state.link = s.link ∧ (performKilnRead kiln s).state.classifier = s.classifier ∧
    (performKilnRead kiln s).state.field = s.field ∧ (performKilnRead kiln s).state.table = s.table ∧
    (performKilnRead kiln s).state.feed = s.feed ∧ (performKilnRead kiln s).state.kilns = s.kilns ∧
    (performKilnRead kiln s).state.scale = s.scale ∧ (performKilnRead kiln s).state.press = s.press ∧
    (performKilnRead kiln s).state.tickets = s.tickets ∧ (performKilnRead kiln s).state.mgmt = s.mgmt := by
  generalize h : (performKilnRead kiln s) = t
  unfold performKilnRead at h
  (try dsimp only at h)
  (repeat' split at h) <;> subst h <;> simp

@[simp] theorem setPrint_frame (s : State) (n : Nat) (p : PrintState) :
    (State.setPrint s n p).pending = s.pending ∧ (State.setPrint s n p).power = s.power ∧
    (State.setPrint s n p).link = s.link ∧ (State.setPrint s n p).classifier = s.classifier ∧
    (State.setPrint s n p).field = s.field ∧ (State.setPrint s n p).table = s.table ∧
    (State.setPrint s n p).feed = s.feed ∧ (State.setPrint s n p).kilns = s.kilns ∧
    (State.setPrint s n p).scale = s.scale ∧ (State.setPrint s n p).press = s.press ∧
    (State.setPrint s n p).tickets.baseSet = s.tickets.baseSet ∧
    (State.setPrint s n p).tickets.nextTicket = s.tickets.nextTicket ∧
    (State.setPrint s n p).tickets.lastTicket = s.tickets.lastTicket ∧
    (State.setPrint s n p).tickets.nextBale = s.tickets.nextBale ∧
    (State.setPrint s n p).tickets.lastBale = s.tickets.lastBale ∧
    (State.setPrint s n p).tickets.wait = s.tickets.wait ∧
    (State.setPrint s n p).tickets.process = s.tickets.process ∧ (State.setPrint s n p).mgmt = s.mgmt := by
  generalize h : (State.setPrint s n p) = t
  unfold State.setPrint at h
  (try dsimp only at h)
  (repeat' split at h) <;> subst h <;> simp

@[simp] theorem setProcess_frame (s : State) (p : PrintProcess) :
    (State.setProcess s p).pending = s.pending ∧ (State.setProcess s p).power = s.power ∧
    (State.setProcess s p).link = s.link ∧ (State.setProcess s p).classifier = s.classifier ∧
    (State.setProcess s p).field = s.field ∧ (State.setProcess s p).table = s.table ∧
    (State.setProcess s p).feed = s.feed ∧ (State.setProcess s p).kilns = s.kilns ∧
    (State.setProcess s p).scale = s.scale ∧ (State.setProcess s p).press = s.press ∧
    (State.setProcess s p).tickets.baseSet = s.tickets.baseSet ∧
    (State.setProcess s p).tickets.nextTicket = s.tickets.nextTicket ∧
    (State.setProcess s p).tickets.lastTicket = s.tickets.lastTicket ∧
    (State.setProcess s p).tickets.nextBale = s.tickets.nextBale ∧
    (State.setProcess s p).tickets.lastBale = s.tickets.lastBale ∧
    (State.setProcess s p).tickets.wait = s.tickets.wait ∧ (State.setProcess s p).tickets.queue = s.tickets.queue ∧
    (State.setProcess s p).mgmt = s.mgmt := by
  generalize h : (State.setProcess s p) = t
  unfold State.setProcess at h
  (try dsimp only at h)
  (repeat' split at h) <;> subst h <;> simp

@[simp] theorem printScan_frame (s : State) :
    (State.printScan s).pending = s.pending ∧ (State.printScan s).power = s.power ∧
    (State.printScan s).link = s.link ∧ (State.printScan s).classifier = s.classifier ∧
    (State.printScan s).field.nodes = s.field.nodes ∧ (State.printScan s).field.cadences = s.field.cadences ∧
    (State.printScan s).field.pollQueue = s.field.pollQueue ∧
    (State.printScan s).field.commandQueue = s.field.commandQueue ∧
    (State.printScan s).field.transaction = s.field.transaction ∧
    (State.printScan s).field.passStreak = s.field.passStreak ∧ (State.printScan s).table = s.table ∧
    (State.printScan s).feed = s.feed ∧ (State.printScan s).kilns = s.kilns ∧ (State.printScan s).scale = s.scale ∧
    (State.printScan s).press = s.press ∧ (State.printScan s).tickets.baseSet = s.tickets.baseSet ∧
    (State.printScan s).tickets.nextTicket = s.tickets.nextTicket ∧
    (State.printScan s).tickets.lastTicket = s.tickets.lastTicket ∧
    (State.printScan s).tickets.nextBale = s.tickets.nextBale ∧
    (State.printScan s).tickets.lastBale = s.tickets.lastBale ∧ (State.printScan s).tickets.wait = s.tickets.wait ∧
    (State.printScan s).mgmt = s.mgmt := by
  generalize h : (State.printScan s) = t
  unfold State.printScan at h
  (try dsimp only at h)
  (repeat' split at h) <;> subst h <;> simp

@[simp] theorem promptPrint_frame (s : State) :
    (State.promptPrint s).pending = s.pending ∧ (State.promptPrint s).power = s.power ∧
    (State.promptPrint s).link = s.link ∧ (State.promptPrint s).classifier = s.classifier ∧
    (State.promptPrint s).field.nodes = s.field.nodes ∧ (State.promptPrint s).field.cadences = s.field.cadences ∧
    (State.promptPrint s).field.pollQueue = s.field.pollQueue ∧
    (State.promptPrint s).field.commandQueue = s.field.commandQueue ∧
    (State.promptPrint s).field.transaction = s.field.transaction ∧
    (State.promptPrint s).field.passStreak = s.field.passStreak ∧ (State.promptPrint s).table = s.table ∧
    (State.promptPrint s).feed = s.feed ∧ (State.promptPrint s).kilns = s.kilns ∧
    (State.promptPrint s).scale = s.scale ∧ (State.promptPrint s).press = s.press ∧
    (State.promptPrint s).tickets.baseSet = s.tickets.baseSet ∧
    (State.promptPrint s).tickets.nextTicket = s.tickets.nextTicket ∧
    (State.promptPrint s).tickets.lastTicket = s.tickets.lastTicket ∧
    (State.promptPrint s).tickets.nextBale = s.tickets.nextBale ∧
    (State.promptPrint s).tickets.lastBale = s.tickets.lastBale ∧
    (State.promptPrint s).tickets.wait = s.tickets.wait ∧ (State.promptPrint s).mgmt = s.mgmt := by
  generalize h : (State.promptPrint s) = t
  unfold State.promptPrint at h
  (try dsimp only at h)
  (repeat' split at h) <;> subst h <;> simp

@[simp] theorem testComposition_frame (s : State) (r : ChargeRef) :
    (State.testComposition s r).pending = s.pending ∧ (State.testComposition s r).power = s.power ∧
    (State.testComposition s r).link = s.link ∧ (State.testComposition s r).classifier = s.classifier ∧
    (State.testComposition s r).field = s.field ∧ (State.testComposition s r).table = s.table ∧
    (State.testComposition s r).feed = s.feed ∧ (State.testComposition s r).kilns = s.kilns ∧
    (State.testComposition s r).scale = s.scale ∧ (State.testComposition s r).press = s.press ∧
    (State.testComposition s r).tickets.baseSet = s.tickets.baseSet ∧
    (State.testComposition s r).tickets.nextTicket = s.tickets.nextTicket ∧
    (State.testComposition s r).tickets.lastTicket = s.tickets.lastTicket ∧
    (State.testComposition s r).tickets.nextBale = s.tickets.nextBale ∧
    (State.testComposition s r).tickets.lastBale = s.tickets.lastBale ∧
    (State.testComposition s r).tickets.queue = s.tickets.queue ∧
    (State.testComposition s r).tickets.process = s.tickets.process ∧ (State.testComposition s r).mgmt = s.mgmt := by
  generalize h : (State.testComposition s r) = t
  unfold State.testComposition at h
  (try dsimp only at h)
  (repeat' split at h) <;> subst h <;> simp

@[simp] theorem issueTicket_frame (s : State) (r : ChargeRef) (t : Ticket) :
    (State.issueTicket s r t).pending = s.pending ∧ (State.issueTicket s r t).power = s.power ∧
    (State.issueTicket s r t).link = s.link ∧ (State.issueTicket s r t).classifier = s.classifier ∧
    (State.issueTicket s r t).field.nodes = s.field.nodes ∧
    (State.issueTicket s r t).field.cadences = s.field.cadences ∧
    (State.issueTicket s r t).field.pollQueue = s.field.pollQueue ∧
    (State.issueTicket s r t).field.commandQueue = s.field.commandQueue ∧
    (State.issueTicket s r t).field.transaction = s.field.transaction ∧
    (State.issueTicket s r t).field.passStreak = s.field.passStreak ∧
    (State.issueTicket s r t).table.varieties = s.table.varieties ∧ (State.issueTicket s r t).feed = s.feed ∧
    (State.issueTicket s r t).kilns = s.kilns ∧ (State.issueTicket s r t).scale = s.scale ∧
    (State.issueTicket s r t).press.queue = s.press.queue ∧ (State.issueTicket s r t).press.tares = s.press.tares ∧
    (State.issueTicket s r t).press.cycle = s.press.cycle ∧ (State.issueTicket s r t).press.hold = s.press.hold ∧
    (State.issueTicket s r t).press.command = s.press.command ∧
    (State.issueTicket s r t).tickets.baseSet = s.tickets.baseSet ∧
    (State.issueTicket s r t).tickets.nextBale = s.tickets.nextBale ∧
    (State.issueTicket s r t).tickets.lastBale = s.tickets.lastBale ∧
    (State.issueTicket s r t).tickets.wait = s.tickets.wait ∧ (State.issueTicket s r t).mgmt.time = s.mgmt.time ∧
    (State.issueTicket s r t).mgmt.ticks = s.mgmt.ticks ∧ (State.issueTicket s r t).mgmt.timeSet = s.mgmt.timeSet ∧
    (State.issueTicket s r t).mgmt.station = s.mgmt.station := by
  generalize h : (State.issueTicket s r t) = t
  unfold State.issueTicket at h
  (try dsimp only at h)
  (repeat' split at h) <;> subst h <;> simp

@[simp] theorem compose_frame (s : State) (r : ChargeRef) :
    (State.compose s r).pending = s.pending ∧ (State.compose s r).power = s.power ∧
    (State.compose s r).link = s.link ∧ (State.compose s r).classifier = s.classifier ∧
    (State.compose s r).field.nodes = s.field.nodes ∧ (State.compose s r).field.cadences = s.field.cadences ∧
    (State.compose s r).field.pollQueue = s.field.pollQueue ∧
    (State.compose s r).field.commandQueue = s.field.commandQueue ∧
    (State.compose s r).field.transaction = s.field.transaction ∧
    (State.compose s r).field.passStreak = s.field.passStreak ∧
    (State.compose s r).table.varieties = s.table.varieties ∧ (State.compose s r).feed = s.feed ∧
    (State.compose s r).kilns = s.kilns ∧ (State.compose s r).scale = s.scale ∧
    (State.compose s r).press.queue = s.press.queue ∧ (State.compose s r).press.tares = s.press.tares ∧
    (State.compose s r).press.cycle = s.press.cycle ∧ (State.compose s r).press.hold = s.press.hold ∧
    (State.compose s r).press.command = s.press.command ∧ (State.compose s r).tickets.baseSet = s.tickets.baseSet ∧
    (State.compose s r).tickets.nextBale = s.tickets.nextBale ∧
    (State.compose s r).tickets.lastBale = s.tickets.lastBale ∧ (State.compose s r).mgmt.time = s.mgmt.time ∧
    (State.compose s r).mgmt.ticks = s.mgmt.ticks ∧ (State.compose s r).mgmt.timeSet = s.mgmt.timeSet ∧
    (State.compose s r).mgmt.station = s.mgmt.station := by
  generalize h : (State.compose s r) = t
  unfold State.compose at h
  (try dsimp only at h)
  (repeat' split at h) <;> subst h <;> simp

@[simp] theorem serveFuel_frame (n : Nat) (s : State) :
    (State.serveFuel n s).pending = s.pending ∧ (State.serveFuel n s).power = s.power ∧
    (State.serveFuel n s).link = s.link ∧ (State.serveFuel n s).classifier = s.classifier ∧
    (State.serveFuel n s).field.nodes = s.field.nodes ∧ (State.serveFuel n s).field.cadences = s.field.cadences ∧
    (State.serveFuel n s).field.pollQueue = s.field.pollQueue ∧
    (State.serveFuel n s).field.commandQueue = s.field.commandQueue ∧
    (State.serveFuel n s).field.transaction = s.field.transaction ∧
    (State.serveFuel n s).field.passStreak = s.field.passStreak ∧
    (State.serveFuel n s).table.varieties = s.table.varieties ∧ (State.serveFuel n s).feed = s.feed ∧
    (State.serveFuel n s).kilns = s.kilns ∧ (State.serveFuel n s).scale = s.scale ∧
    (State.serveFuel n s).press.queue = s.press.queue ∧ (State.serveFuel n s).press.tares = s.press.tares ∧
    (State.serveFuel n s).press.cycle = s.press.cycle ∧ (State.serveFuel n s).press.hold = s.press.hold ∧
    (State.serveFuel n s).press.command = s.press.command ∧
    (State.serveFuel n s).tickets.baseSet = s.tickets.baseSet ∧
    (State.serveFuel n s).tickets.nextBale = s.tickets.nextBale ∧
    (State.serveFuel n s).tickets.lastBale = s.tickets.lastBale ∧ (State.serveFuel n s).mgmt.time = s.mgmt.time ∧
    (State.serveFuel n s).mgmt.ticks = s.mgmt.ticks ∧ (State.serveFuel n s).mgmt.timeSet = s.mgmt.timeSet ∧
    (State.serveFuel n s).mgmt.station = s.mgmt.station := by
  induction n generalizing s with
  | zero => simp [State.serveFuel]
  | succ n ih =>
    unfold State.serveFuel
    split
    · simp
    · split
      · simp [ih]
      · simp

@[simp] theorem serve_frame (s : State) :
    (State.serve s).pending = s.pending ∧ (State.serve s).power = s.power ∧ (State.serve s).link = s.link ∧
    (State.serve s).classifier = s.classifier ∧ (State.serve s).field.nodes = s.field.nodes ∧
    (State.serve s).field.cadences = s.field.cadences ∧ (State.serve s).field.pollQueue = s.field.pollQueue ∧
    (State.serve s).field.commandQueue = s.field.commandQueue ∧
    (State.serve s).field.transaction = s.field.transaction ∧ (State.serve s).field.passStreak = s.field.passStreak ∧
    (State.serve s).table.varieties = s.table.varieties ∧ (State.serve s).feed = s.feed ∧
    (State.serve s).kilns = s.kilns ∧ (State.serve s).scale = s.scale ∧ (State.serve s).press.queue = s.press.queue ∧
    (State.serve s).press.tares = s.press.tares ∧ (State.serve s).press.cycle = s.press.cycle ∧
    (State.serve s).press.hold = s.press.hold ∧ (State.serve s).press.command = s.press.command ∧
    (State.serve s).tickets.baseSet = s.tickets.baseSet ∧ (State.serve s).tickets.nextBale = s.tickets.nextBale ∧
    (State.serve s).tickets.lastBale = s.tickets.lastBale ∧ (State.serve s).mgmt.time = s.mgmt.time ∧
    (State.serve s).mgmt.ticks = s.mgmt.ticks ∧ (State.serve s).mgmt.timeSet = s.mgmt.timeSet ∧
    (State.serve s).mgmt.station = s.mgmt.station := by
  generalize h : (State.serve s) = t
  unfold State.serve at h
  (try dsimp only at h)
  (repeat' split at h) <;> subst h <;> simp

@[simp] theorem offerCharge_frame (s : State) (r : ChargeRef) :
    (State.offerCharge s r).pending = s.pending ∧ (State.offerCharge s r).power = s.power ∧
    (State.offerCharge s r).link = s.link ∧ (State.offerCharge s r).classifier = s.classifier ∧
    (State.offerCharge s r).field.nodes = s.field.nodes ∧ (State.offerCharge s r).field.cadences = s.field.cadences ∧
    (State.offerCharge s r).field.pollQueue = s.field.pollQueue ∧
    (State.offerCharge s r).field.commandQueue = s.field.commandQueue ∧
    (State.offerCharge s r).field.transaction = s.field.transaction ∧
    (State.offerCharge s r).field.passStreak = s.field.passStreak ∧
    (State.offerCharge s r).table.varieties = s.table.varieties ∧ (State.offerCharge s r).feed = s.feed ∧
    (State.offerCharge s r).kilns = s.kilns ∧ (State.offerCharge s r).scale = s.scale ∧
    (State.offerCharge s r).press.queue = s.press.queue ∧ (State.offerCharge s r).press.tares = s.press.tares ∧
    (State.offerCharge s r).press.cycle = s.press.cycle ∧ (State.offerCharge s r).press.hold = s.press.hold ∧
    (State.offerCharge s r).press.command = s.press.command ∧
    (State.offerCharge s r).tickets.baseSet = s.tickets.baseSet ∧
    (State.offerCharge s r).tickets.nextBale = s.tickets.nextBale ∧
    (State.offerCharge s r).tickets.lastBale = s.tickets.lastBale ∧ (State.offerCharge s r).mgmt.time = s.mgmt.time ∧
    (State.offerCharge s r).mgmt.ticks = s.mgmt.ticks ∧ (State.offerCharge s r).mgmt.timeSet = s.mgmt.timeSet ∧
    (State.offerCharge s r).mgmt.station = s.mgmt.station := by
  generalize h : (State.offerCharge s r) = t
  unfold State.offerCharge at h
  (try dsimp only at h)
  (repeat' split at h) <;> subst h <;> simp

@[simp] theorem performTicketBase_frame (nextTicket nextBale : Word32) (s : State) :
    (performTicketBase nextTicket nextBale s).state.pending = s.pending ∧
    (performTicketBase nextTicket nextBale s).state.power = s.power ∧
    (performTicketBase nextTicket nextBale s).state.link = s.link ∧
    (performTicketBase nextTicket nextBale s).state.classifier = s.classifier ∧
    (performTicketBase nextTicket nextBale s).state.field = s.field ∧
    (performTicketBase nextTicket nextBale s).state.table = s.table ∧
    (performTicketBase nextTicket nextBale s).state.feed = s.feed ∧
    (performTicketBase nextTicket nextBale s).state.kilns = s.kilns ∧
    (performTicketBase nextTicket nextBale s).state.scale = s.scale ∧
    (performTicketBase nextTicket nextBale s).state.press = s.press ∧
    (performTicketBase nextTicket nextBale s).state.tickets.lastTicket = s.tickets.lastTicket ∧
    (performTicketBase nextTicket nextBale s).state.tickets.lastBale = s.tickets.lastBale ∧
    (performTicketBase nextTicket nextBale s).state.tickets.wait = s.tickets.wait ∧
    (performTicketBase nextTicket nextBale s).state.tickets.queue = s.tickets.queue ∧
    (performTicketBase nextTicket nextBale s).state.tickets.process = s.tickets.process ∧
    (performTicketBase nextTicket nextBale s).state.mgmt = s.mgmt := by
  generalize h : (performTicketBase nextTicket nextBale s) = t
  unfold performTicketBase at h
  (try dsimp only at h)
  (repeat' split at h) <;> subst h <;> simp

@[simp] theorem performTicketRead_frame (ticket : Word32) (s : State) :
    (performTicketRead ticket s).state.pending = s.pending ∧ (performTicketRead ticket s).state.power = s.power ∧
    (performTicketRead ticket s).state.link = s.link ∧
    (performTicketRead ticket s).state.classifier.requests = s.classifier.requests ∧
    (performTicketRead ticket s).state.classifier.dropped = s.classifier.dropped ∧
    (performTicketRead ticket s).state.classifier.misdirected = s.classifier.misdirected ∧
    (performTicketRead ticket s).state.classifier.routes = s.classifier.routes ∧
    (performTicketRead ticket s).state.classifier.passQueue = s.classifier.passQueue ∧
    (performTicketRead ticket s).state.classifier.forwardQueue = s.classifier.forwardQueue ∧
    (performTicketRead ticket s).state.classifier.reply = s.classifier.reply ∧
    (performTicketRead ticket s).state.classifier.sending = s.classifier.sending ∧
    (performTicketRead ticket s).state.field = s.field ∧ (performTicketRead ticket s).state.table = s.table ∧
    (performTicketRead ticket s).state.feed = s.feed ∧ (performTicketRead ticket s).state.kilns = s.kilns ∧
    (performTicketRead ticket s).state.scale = s.scale ∧ (performTicketRead ticket s).state.press = s.press ∧
    (performTicketRead ticket s).state.tickets = s.tickets ∧ (performTicketRead ticket s).state.mgmt = s.mgmt := by
  generalize h : (performTicketRead ticket s) = t
  unfold performTicketRead at h
  (try dsimp only at h)
  (repeat' split at h) <;> subst h <;> simp

@[simp] theorem takeTicket_frame (s : State) (t : Ticket) :
    (State.takeTicket s t).pending = s.pending ∧ (State.takeTicket s t).power = s.power ∧
    (State.takeTicket s t).link = s.link ∧ (State.takeTicket s t).classifier = s.classifier ∧
    (State.takeTicket s t).field.cadences = s.field.cadences ∧
    (State.takeTicket s t).field.pollQueue = s.field.pollQueue ∧
    (State.takeTicket s t).field.transaction = s.field.transaction ∧
    (State.takeTicket s t).field.passStreak = s.field.passStreak ∧
    (State.takeTicket s t).table.varieties = s.table.varieties ∧ (State.takeTicket s t).feed = s.feed ∧
    (State.takeTicket s t).kilns = s.kilns ∧ (State.takeTicket s t).scale = s.scale ∧
    (State.takeTicket s t).press.queue = s.press.queue ∧ (State.takeTicket s t).press.tares = s.press.tares ∧
    (State.takeTicket s t).press.cycle = s.press.cycle ∧ (State.takeTicket s t).tickets.baseSet = s.tickets.baseSet ∧
    (State.takeTicket s t).tickets.nextBale = s.tickets.nextBale ∧
    (State.takeTicket s t).tickets.lastBale = s.tickets.lastBale ∧ (State.takeTicket s t).mgmt.time = s.mgmt.time ∧
    (State.takeTicket s t).mgmt.ticks = s.mgmt.ticks ∧ (State.takeTicket s t).mgmt.timeSet = s.mgmt.timeSet ∧
    (State.takeTicket s t).mgmt.station = s.mgmt.station := by
  generalize h : (State.takeTicket s t) = t
  unfold State.takeTicket at h
  (try dsimp only at h)
  (repeat' split at h) <;> subst h <;> simp

@[simp] theorem performTicketTake_frame (ticket : Word32) (s : State) :
    (performTicketTake ticket s).state.pending = s.pending ∧ (performTicketTake ticket s).state.power = s.power ∧
    (performTicketTake ticket s).state.link = s.link ∧ (performTicketTake ticket s).state.classifier = s.classifier ∧
    (performTicketTake ticket s).state.field.cadences = s.field.cadences ∧
    (performTicketTake ticket s).state.field.pollQueue = s.field.pollQueue ∧
    (performTicketTake ticket s).state.field.transaction = s.field.transaction ∧
    (performTicketTake ticket s).state.field.passStreak = s.field.passStreak ∧
    (performTicketTake ticket s).state.table.varieties = s.table.varieties ∧
    (performTicketTake ticket s).state.feed = s.feed ∧ (performTicketTake ticket s).state.kilns = s.kilns ∧
    (performTicketTake ticket s).state.scale = s.scale ∧
    (performTicketTake ticket s).state.press.queue = s.press.queue ∧
    (performTicketTake ticket s).state.press.tares = s.press.tares ∧
    (performTicketTake ticket s).state.press.cycle = s.press.cycle ∧
    (performTicketTake ticket s).state.tickets.baseSet = s.tickets.baseSet ∧
    (performTicketTake ticket s).state.tickets.nextBale = s.tickets.nextBale ∧
    (performTicketTake ticket s).state.tickets.lastBale = s.tickets.lastBale ∧
    (performTicketTake ticket s).state.mgmt.time = s.mgmt.time ∧
    (performTicketTake ticket s).state.mgmt.ticks = s.mgmt.ticks ∧
    (performTicketTake ticket s).state.mgmt.timeSet = s.mgmt.timeSet ∧
    (performTicketTake ticket s).state.mgmt.station = s.mgmt.station := by
  generalize h : (performTicketTake ticket s) = t
  unfold performTicketTake at h
  (try dsimp only at h)
  (repeat' split at h) <;> subst h <;> simp

@[simp] theorem performTicketReprint_frame (ticket : Word32) (s : State) :
    (performTicketReprint ticket s).state.pending = s.pending ∧
    (performTicketReprint ticket s).state.power = s.power ∧ (performTicketReprint ticket s).state.link = s.link ∧
    (performTicketReprint ticket s).state.classifier = s.classifier ∧
    (performTicketReprint ticket s).state.field.nodes = s.field.nodes ∧
    (performTicketReprint ticket s).state.field.cadences = s.field.cadences ∧
    (performTicketReprint ticket s).state.field.pollQueue = s.field.pollQueue ∧
    (performTicketReprint ticket s).state.field.commandQueue = s.field.commandQueue ∧
    (performTicketReprint ticket s).state.field.transaction = s.field.transaction ∧
    (performTicketReprint ticket s).state.field.passStreak = s.field.passStreak ∧
    (performTicketReprint ticket s).state.table = s.table ∧ (performTicketReprint ticket s).state.feed = s.feed ∧
    (performTicketReprint ticket s).state.kilns = s.kilns ∧ (performTicketReprint ticket s).state.scale = s.scale ∧
    (performTicketReprint ticket s).state.press = s.press ∧
    (performTicketReprint ticket s).state.tickets.baseSet = s.tickets.baseSet ∧
    (performTicketReprint ticket s).state.tickets.nextTicket = s.tickets.nextTicket ∧
    (performTicketReprint ticket s).state.tickets.lastTicket = s.tickets.lastTicket ∧
    (performTicketReprint ticket s).state.tickets.nextBale = s.tickets.nextBale ∧
    (performTicketReprint ticket s).state.tickets.lastBale = s.tickets.lastBale ∧
    (performTicketReprint ticket s).state.tickets.wait = s.tickets.wait ∧
    (performTicketReprint ticket s).state.mgmt = s.mgmt := by
  generalize h : (performTicketReprint ticket s) = t
  unfold performTicketReprint at h
  (try dsimp only at h)
  (repeat' split at h) <;> subst h <;> simp

@[simp] theorem updFeed_frame (s : State) (f : Feed → Feed) :
    (State.updFeed s f).pending = s.pending ∧ (State.updFeed s f).power = s.power ∧
    (State.updFeed s f).link = s.link ∧ (State.updFeed s f).classifier = s.classifier ∧
    (State.updFeed s f).field = s.field ∧ (State.updFeed s f).table = s.table ∧ (State.updFeed s f).kilns = s.kilns ∧
    (State.updFeed s f).scale = s.scale ∧ (State.updFeed s f).press = s.press ∧
    (State.updFeed s f).tickets = s.tickets ∧ (State.updFeed s f).mgmt = s.mgmt := by
  generalize h : (State.updFeed s f) = t
  unfold State.updFeed at h
  (try dsimp only at h)
  (repeat' split at h) <;> subst h <;> simp

@[simp] theorem updHold_frame (s : State) (f : FeedHold → FeedHold) :
    (State.updHold s f).pending = s.pending ∧ (State.updHold s f).power = s.power ∧
    (State.updHold s f).link = s.link ∧ (State.updHold s f).classifier = s.classifier ∧
    (State.updHold s f).field = s.field ∧ (State.updHold s f).table = s.table ∧
    (State.updHold s f).feed.feedLot = s.feed.feedLot ∧ (State.updHold s f).feed.beltLot = s.feed.beltLot ∧
    (State.updHold s f).feed.changeover = s.feed.changeover ∧ (State.updHold s f).feed.timer = s.feed.timer ∧
    (State.updHold s f).feed.picker = s.feed.picker ∧ (State.updHold s f).feed.fillOrder = s.feed.fillOrder ∧
    (State.updHold s f).feed.loading = s.feed.loading ∧
    (State.updHold s f).feed.divertConfirmed = s.feed.divertConfirmed ∧
    (State.updHold s f).feed.divertWatch = s.feed.divertWatch ∧
    (State.updHold s f).feed.unassigned = s.feed.unassigned ∧ (State.updHold s f).kilns = s.kilns ∧
    (State.updHold s f).scale = s.scale ∧ (State.updHold s f).press = s.press ∧
    (State.updHold s f).tickets = s.tickets ∧ (State.updHold s f).mgmt = s.mgmt := by
  generalize h : (State.updHold s f) = t
  unfold State.updHold at h
  (try dsimp only at h)
  (repeat' split at h) <;> subst h <;> simp

@[simp] theorem raiseFeedHeld_frame (s : State) (reason : Nat) :
    (State.raiseFeedHeld s reason).pending = s.pending ∧ (State.raiseFeedHeld s reason).power = s.power ∧
    (State.raiseFeedHeld s reason).link = s.link ∧ (State.raiseFeedHeld s reason).classifier = s.classifier ∧
    (State.raiseFeedHeld s reason).field = s.field ∧ (State.raiseFeedHeld s reason).table = s.table ∧
    (State.raiseFeedHeld s reason).feed = s.feed ∧ (State.raiseFeedHeld s reason).kilns = s.kilns ∧
    (State.raiseFeedHeld s reason).scale = s.scale ∧ (State.raiseFeedHeld s reason).press = s.press ∧
    (State.raiseFeedHeld s reason).tickets = s.tickets ∧ (State.raiseFeedHeld s reason).mgmt.time = s.mgmt.time ∧
    (State.raiseFeedHeld s reason).mgmt.ticks = s.mgmt.ticks ∧
    (State.raiseFeedHeld s reason).mgmt.timeSet = s.mgmt.timeSet ∧
    (State.raiseFeedHeld s reason).mgmt.station = s.mgmt.station := by
  generalize h : (State.raiseFeedHeld s reason) = t
  unfold State.raiseFeedHeld at h
  (try dsimp only at h)
  (repeat' split at h) <;> subst h <;> simp

@[simp] theorem judgeHeld_frame (s : State) (before : FeedHold) :
    (State.judgeHeld s before).pending = s.pending ∧ (State.judgeHeld s before).power = s.power ∧
    (State.judgeHeld s before).link = s.link ∧ (State.judgeHeld s before).classifier = s.classifier ∧
    (State.judgeHeld s before).field = s.field ∧ (State.judgeHeld s before).table = s.table ∧
    (State.judgeHeld s before).feed = s.feed ∧ (State.judgeHeld s before).kilns = s.kilns ∧
    (State.judgeHeld s before).scale = s.scale ∧ (State.judgeHeld s before).press = s.press ∧
    (State.judgeHeld s before).tickets = s.tickets ∧ (State.judgeHeld s before).mgmt.time = s.mgmt.time ∧
    (State.judgeHeld s before).mgmt.ticks = s.mgmt.ticks ∧ (State.judgeHeld s before).mgmt.timeSet = s.mgmt.timeSet ∧
    (State.judgeHeld s before).mgmt.station = s.mgmt.station := by
  generalize h : (State.judgeHeld s before) = t
  unfold State.judgeHeld at h
  (try dsimp only at h)
  (repeat' split at h) <;> subst h <;> simp

@[simp] theorem judgePicker_frame (s : State) :
    (State.judgePicker s).pending = s.pending ∧ (State.judgePicker s).power = s.power ∧
    (State.judgePicker s).link = s.link ∧ (State.judgePicker s).classifier = s.classifier ∧
    (State.judgePicker s).field.cadences = s.field.cadences ∧
    (State.judgePicker s).field.pollQueue = s.field.pollQueue ∧
    (State.judgePicker s).field.transaction = s.field.transaction ∧
    (State.judgePicker s).field.printRequest = s.field.printRequest ∧
    (State.judgePicker s).field.passStreak = s.field.passStreak ∧ (State.judgePicker s).table = s.table ∧
    (State.judgePicker s).feed.feedLot = s.feed.feedLot ∧ (State.judgePicker s).feed.beltLot = s.feed.beltLot ∧
    (State.judgePicker s).feed.changeover = s.feed.changeover ∧ (State.judgePicker s).feed.timer = s.feed.timer ∧
    (State.judgePicker s).feed.hold = s.feed.hold ∧ (State.judgePicker s).feed.fillOrder = s.feed.fillOrder ∧
    (State.judgePicker s).feed.loading = s.feed.loading ∧
    (State.judgePicker s).feed.divertConfirmed = s.feed.divertConfirmed ∧
    (State.judgePicker s).feed.divertWatch = s.feed.divertWatch ∧
    (State.judgePicker s).feed.unassigned = s.feed.unassigned ∧ (State.judgePicker s).kilns = s.kilns ∧
    (State.judgePicker s).scale = s.scale ∧ (State.judgePicker s).press = s.press ∧
    (State.judgePicker s).tickets = s.tickets ∧ (State.judgePicker s).mgmt = s.mgmt := by
  generalize h : (State.judgePicker s) = t
  unfold State.judgePicker at h
  (try dsimp only at h)
  (repeat' split at h) <;> subst h <;> simp

@[simp] theorem feedEvent_frame (f : State → State) (s : State) :
    (feedEvent f s).pending = (f s).pending ∧ (feedEvent f s).power = (f s).power ∧
    (feedEvent f s).link = (f s).link ∧ (feedEvent f s).classifier = (f s).classifier ∧
    (feedEvent f s).field.cadences = (f s).field.cadences ∧ (feedEvent f s).field.pollQueue = (f s).field.pollQueue ∧
    (feedEvent f s).field.transaction = (f s).field.transaction ∧
    (feedEvent f s).field.printRequest = (f s).field.printRequest ∧
    (feedEvent f s).field.passStreak = (f s).field.passStreak ∧ (feedEvent f s).table = (f s).table ∧
    (feedEvent f s).feed.feedLot = (f s).feed.feedLot ∧ (feedEvent f s).feed.beltLot = (f s).feed.beltLot ∧
    (feedEvent f s).feed.changeover = (f s).feed.changeover ∧ (feedEvent f s).feed.timer = (f s).feed.timer ∧
    (feedEvent f s).feed.hold = (f s).feed.hold ∧ (feedEvent f s).feed.fillOrder = (f s).feed.fillOrder ∧
    (feedEvent f s).feed.loading = (f s).feed.loading ∧
    (feedEvent f s).feed.divertConfirmed = (f s).feed.divertConfirmed ∧
    (feedEvent f s).feed.divertWatch = (f s).feed.divertWatch ∧
    (feedEvent f s).feed.unassigned = (f s).feed.unassigned ∧ (feedEvent f s).kilns = (f s).kilns ∧
    (feedEvent f s).scale = (f s).scale ∧ (feedEvent f s).press = (f s).press ∧
    (feedEvent f s).tickets = (f s).tickets ∧ (feedEvent f s).mgmt.time = (f s).mgmt.time ∧
    (feedEvent f s).mgmt.ticks = (f s).mgmt.ticks ∧ (feedEvent f s).mgmt.timeSet = (f s).mgmt.timeSet ∧
    (feedEvent f s).mgmt.station = (f s).mgmt.station := by
  simp [feedEvent]

@[simp] theorem startDivertWatch_frame (s : State) :
    (State.startDivertWatch s).pending = s.pending ∧ (State.startDivertWatch s).power = s.power ∧
    (State.startDivertWatch s).link = s.link ∧ (State.startDivertWatch s).classifier = s.classifier ∧
    (State.startDivertWatch s).field = s.field ∧ (State.startDivertWatch s).table = s.table ∧
    (State.startDivertWatch s).feed.feedLot = s.feed.feedLot ∧
    (State.startDivertWatch s).feed.beltLot = s.feed.beltLot ∧
    (State.startDivertWatch s).feed.changeover = s.feed.changeover ∧
    (State.startDivertWatch s).feed.timer = s.feed.timer ∧ (State.startDivertWatch s).feed.hold = s.feed.hold ∧
    (State.startDivertWatch s).feed.picker = s.feed.picker ∧
    (State.startDivertWatch s).feed.fillOrder = s.feed.fillOrder ∧
    (State.startDivertWatch s).feed.loading = s.feed.loading ∧
    (State.startDivertWatch s).feed.divertConfirmed = s.feed.divertConfirmed ∧
    (State.startDivertWatch s).feed.unassigned = s.feed.unassigned ∧ (State.startDivertWatch s).kilns = s.kilns ∧
    (State.startDivertWatch s).scale = s.scale ∧ (State.startDivertWatch s).press = s.press ∧
    (State.startDivertWatch s).tickets = s.tickets ∧ (State.startDivertWatch s).mgmt.time = s.mgmt.time ∧
    (State.startDivertWatch s).mgmt.ticks = s.mgmt.ticks ∧ (State.startDivertWatch s).mgmt.timeSet = s.mgmt.timeSet ∧
    (State.startDivertWatch s).mgmt.station = s.mgmt.station := by
  generalize h : (State.startDivertWatch s) = t
  unfold State.startDivertWatch at h
  (try dsimp only at h)
  (repeat' split at h) <;> subst h <;> simp

@[simp] theorem takeKiln_frame (s : State) (b : Nat) (k : Kiln) :
    (State.takeKiln s b k).pending = s.pending ∧ (State.takeKiln s b k).power = s.power ∧
    (State.takeKiln s b k).link = s.link ∧ (State.takeKiln s b k).classifier = s.classifier ∧
    (State.takeKiln s b k).field.cadences = s.field.cadences ∧
    (State.takeKiln s b k).field.pollQueue = s.field.pollQueue ∧
    (State.takeKiln s b k).field.transaction = s.field.transaction ∧
    (State.takeKiln s b k).field.printRequest = s.field.printRequest ∧
    (State.takeKiln s b k).field.passStreak = s.field.passStreak ∧
    (State.takeKiln s b k).table.varieties = s.table.varieties ∧
    (State.takeKiln s b k).feed.feedLot = s.feed.feedLot ∧ (State.takeKiln s b k).feed.beltLot = s.feed.beltLot ∧
    (State.takeKiln s b k).feed.changeover = s.feed.changeover ∧ (State.takeKiln s b k).feed.timer = s.feed.timer ∧
    (State.takeKiln s b k).feed.picker = s.feed.picker ∧ (State.takeKiln s b k).feed.fillOrder = s.feed.fillOrder ∧
    (State.takeKiln s b k).feed.unassigned = s.feed.unassigned ∧
    (State.takeKiln s b k).kilns.entries = s.kilns.entries ∧
    (State.takeKiln s b k).kilns.schedules = s.kilns.schedules ∧ (State.takeKiln s b k).kilns.steps = s.kilns.steps ∧
    (State.takeKiln s b k).scale = s.scale ∧ (State.takeKiln s b k).press = s.press ∧
    (State.takeKiln s b k).tickets = s.tickets ∧ (State.takeKiln s b k).mgmt.time = s.mgmt.time ∧
    (State.takeKiln s b k).mgmt.ticks = s.mgmt.ticks ∧ (State.takeKiln s b k).mgmt.timeSet = s.mgmt.timeSet ∧
    (State.takeKiln s b k).mgmt.station = s.mgmt.station := by
  generalize h : (State.takeKiln s b k) = t
  unfold State.takeKiln at h
  (try dsimp only at h)
  (repeat' split at h) <;> subst h <;> simp

@[simp] theorem hitChargeLimit_frame (s : State) (b : Nat) (k : Kiln) :
    (State.hitChargeLimit s b k).pending = s.pending ∧ (State.hitChargeLimit s b k).power = s.power ∧
    (State.hitChargeLimit s b k).link = s.link ∧ (State.hitChargeLimit s b k).classifier = s.classifier ∧
    (State.hitChargeLimit s b k).field = s.field ∧ (State.hitChargeLimit s b k).table = s.table ∧
    (State.hitChargeLimit s b k).feed.feedLot = s.feed.feedLot ∧
    (State.hitChargeLimit s b k).feed.beltLot = s.feed.beltLot ∧
    (State.hitChargeLimit s b k).feed.changeover = s.feed.changeover ∧
    (State.hitChargeLimit s b k).feed.timer = s.feed.timer ∧
    (State.hitChargeLimit s b k).feed.picker = s.feed.picker ∧
    (State.hitChargeLimit s b k).feed.fillOrder = s.feed.fillOrder ∧
    (State.hitChargeLimit s b k).feed.loading = s.feed.loading ∧
    (State.hitChargeLimit s b k).feed.divertConfirmed = s.feed.divertConfirmed ∧
    (State.hitChargeLimit s b k).feed.divertWatch = s.feed.divertWatch ∧
    (State.hitChargeLimit s b k).feed.unassigned = s.feed.unassigned ∧ (State.hitChargeLimit s b k).kilns = s.kilns ∧
    (State.hitChargeLimit s b k).scale = s.scale ∧ (State.hitChargeLimit s b k).press = s.press ∧
    (State.hitChargeLimit s b k).tickets = s.tickets ∧ (State.hitChargeLimit s b k).mgmt.time = s.mgmt.time ∧
    (State.hitChargeLimit s b k).mgmt.ticks = s.mgmt.ticks ∧
    (State.hitChargeLimit s b k).mgmt.timeSet = s.mgmt.timeSet ∧
    (State.hitChargeLimit s b k).mgmt.station = s.mgmt.station := by
  generalize h : (State.hitChargeLimit s b k) = t
  unfold State.hitChargeLimit at h
  (try dsimp only at h)
  (repeat' split at h) <;> subst h <;> simp

@[simp] theorem selectKiln_frame (s : State) (b : Nat) :
    (State.selectKiln s b).pending = s.pending ∧ (State.selectKiln s b).power = s.power ∧
    (State.selectKiln s b).link = s.link ∧ (State.selectKiln s b).classifier = s.classifier ∧
    (State.selectKiln s b).field.cadences = s.field.cadences ∧
    (State.selectKiln s b).field.pollQueue = s.field.pollQueue ∧
    (State.selectKiln s b).field.transaction = s.field.transaction ∧
    (State.selectKiln s b).field.printRequest = s.field.printRequest ∧
    (State.selectKiln s b).field.passStreak = s.field.passStreak ∧
    (State.selectKiln s b).table.varieties = s.table.varieties ∧
    (State.selectKiln s b).feed.feedLot = s.feed.feedLot ∧ (State.selectKiln s b).feed.beltLot = s.feed.beltLot ∧
    (State.selectKiln s b).feed.changeover = s.feed.changeover ∧ (State.selectKiln s b).feed.timer = s.feed.timer ∧
    (State.selectKiln s b).feed.picker = s.feed.picker ∧ (State.selectKiln s b).feed.fillOrder = s.feed.fillOrder ∧
    (State.selectKiln s b).feed.unassigned = s.feed.unassigned ∧
    (State.selectKiln s b).kilns.entries = s.kilns.entries ∧
    (State.selectKiln s b).kilns.schedules = s.kilns.schedules ∧ (State.selectKiln s b).kilns.steps = s.kilns.steps ∧
    (State.selectKiln s b).scale = s.scale ∧ (State.selectKiln s b).press = s.press ∧
    (State.selectKiln s b).tickets = s.tickets ∧ (State.selectKiln s b).mgmt.time = s.mgmt.time ∧
    (State.selectKiln s b).mgmt.ticks = s.mgmt.ticks ∧ (State.selectKiln s b).mgmt.timeSet = s.mgmt.timeSet ∧
    (State.selectKiln s b).mgmt.station = s.mgmt.station := by
  generalize h : (State.selectKiln s b) = t
  unfold State.selectKiln at h
  (try dsimp only at h)
  (repeat' split at h) <;> subst h <;> simp

@[simp] theorem attemptSelection_frame (s : State) :
    (State.attemptSelection s).pending = s.pending ∧ (State.attemptSelection s).power = s.power ∧
    (State.attemptSelection s).link = s.link ∧ (State.attemptSelection s).classifier = s.classifier ∧
    (State.attemptSelection s).field.cadences = s.field.cadences ∧
    (State.attemptSelection s).field.pollQueue = s.field.pollQueue ∧
    (State.attemptSelection s).field.transaction = s.field.transaction ∧
    (State.attemptSelection s).field.printRequest = s.field.printRequest ∧
    (State.attemptSelection s).field.passStreak = s.field.passStreak ∧
    (State.attemptSelection s).table.varieties = s.table.varieties ∧
    (State.attemptSelection s).feed.feedLot = s.feed.feedLot ∧
    (State.attemptSelection s).feed.beltLot = s.feed.beltLot ∧
    (State.attemptSelection s).feed.changeover = s.feed.changeover ∧
    (State.attemptSelection s).feed.timer = s.feed.timer ∧ (State.attemptSelection s).feed.picker = s.feed.picker ∧
    (State.attemptSelection s).feed.fillOrder = s.feed.fillOrder ∧
    (State.attemptSelection s).feed.unassigned = s.feed.unassigned ∧
    (State.attemptSelection s).kilns.entries = s.kilns.entries ∧
    (State.attemptSelection s).kilns.schedules = s.kilns.schedules ∧
    (State.attemptSelection s).kilns.steps = s.kilns.steps ∧ (State.attemptSelection s).scale = s.scale ∧
    (State.attemptSelection s).press = s.press ∧ (State.attemptSelection s).tickets = s.tickets ∧
    (State.attemptSelection s).mgmt.time = s.mgmt.time ∧ (State.attemptSelection s).mgmt.ticks = s.mgmt.ticks ∧
    (State.attemptSelection s).mgmt.timeSet = s.mgmt.timeSet ∧
    (State.attemptSelection s).mgmt.station = s.mgmt.station := by
  generalize h : (State.attemptSelection s) = t
  unfold State.attemptSelection at h
  (try dsimp only at h)
  (repeat' split at h) <;> subst h <;> simp

@[simp] theorem closeCharge_frame (s : State) (k : Kiln) :
    (State.closeCharge s k).pending = s.pending ∧ (State.closeCharge s k).power = s.power ∧
    (State.closeCharge s k).link = s.link ∧ (State.closeCharge s k).classifier = s.classifier ∧
    (State.closeCharge s k).field = s.field ∧ (State.closeCharge s k).table.varieties = s.table.varieties ∧
    (State.closeCharge s k).feed = s.feed ∧ (State.closeCharge s k).kilns = s.kilns ∧
    (State.closeCharge s k).scale = s.scale ∧ (State.closeCharge s k).press = s.press ∧
    (State.closeCharge s k).tickets = s.tickets ∧ (State.closeCharge s k).mgmt.time = s.mgmt.time ∧
    (State.closeCharge s k).mgmt.ticks = s.mgmt.ticks ∧ (State.closeCharge s k).mgmt.timeSet = s.mgmt.timeSet ∧
    (State.closeCharge s k).mgmt.station = s.mgmt.station := by
  generalize h : (State.closeCharge s k) = t
  unfold State.closeCharge at h
  (try dsimp only at h)
  (repeat' split at h) <;> subst h <;> simp

@[simp] theorem closeFill_frame (s : State) (k : Kiln) :
    (State.closeFill s k).pending = s.pending ∧ (State.closeFill s k).power = s.power ∧
    (State.closeFill s k).link = s.link ∧ (State.closeFill s k).classifier = s.classifier ∧
    (State.closeFill s k).field.cadences = s.field.cadences ∧
    (State.closeFill s k).field.pollQueue = s.field.pollQueue ∧
    (State.closeFill s k).field.transaction = s.field.transaction ∧
    (State.closeFill s k).field.printRequest = s.field.printRequest ∧
    (State.closeFill s k).field.passStreak = s.field.passStreak ∧
    (State.closeFill s k).table.varieties = s.table.varieties ∧ (State.closeFill s k).feed.feedLot = s.feed.feedLot ∧
    (State.closeFill s k).feed.beltLot = s.feed.beltLot ∧ (State.closeFill s k).feed.changeover = s.feed.changeover ∧
    (State.closeFill s k).feed.timer = s.feed.timer ∧ (State.closeFill s k).feed.picker = s.feed.picker ∧
    (State.closeFill s k).feed.fillOrder = s.feed.fillOrder ∧
    (State.closeFill s k).feed.unassigned = s.feed.unassigned ∧
    (State.closeFill s k).kilns.entries = s.kilns.entries ∧
    (State.closeFill s k).kilns.schedules = s.kilns.schedules ∧ (State.closeFill s k).kilns.steps = s.kilns.steps ∧
    (State.closeFill s k).scale = s.scale ∧ (State.closeFill s k).press.bales = s.press.bales ∧
    (State.closeFill s k).press.tares = s.press.tares ∧ (State.closeFill s k).press.cycle = s.press.cycle ∧
    (State.closeFill s k).press.hold = s.press.hold ∧ (State.closeFill s k).tickets = s.tickets ∧
    (State.closeFill s k).mgmt.time = s.mgmt.time ∧ (State.closeFill s k).mgmt.ticks = s.mgmt.ticks ∧
    (State.closeFill s k).mgmt.timeSet = s.mgmt.timeSet ∧ (State.closeFill s k).mgmt.station = s.mgmt.station := by
  generalize h : (State.closeFill s k) = t
  unfold State.closeFill at h
  (try dsimp only at h)
  (repeat' split at h) <;> subst h <;> simp

@[simp] theorem closeAndSelect_frame (s : State) (k : Kiln) :
    (State.closeAndSelect s k).pending = s.pending ∧ (State.closeAndSelect s k).power = s.power ∧
    (State.closeAndSelect s k).link = s.link ∧ (State.closeAndSelect s k).classifier = s.classifier ∧
    (State.closeAndSelect s k).field.cadences = s.field.cadences ∧
    (State.closeAndSelect s k).field.pollQueue = s.field.pollQueue ∧
    (State.closeAndSelect s k).field.transaction = s.field.transaction ∧
    (State.closeAndSelect s k).field.printRequest = s.field.printRequest ∧
    (State.closeAndSelect s k).field.passStreak = s.field.passStreak ∧
    (State.closeAndSelect s k).table.varieties = s.table.varieties ∧
    (State.closeAndSelect s k).feed.feedLot = s.feed.feedLot ∧
    (State.closeAndSelect s k).feed.beltLot = s.feed.beltLot ∧
    (State.closeAndSelect s k).feed.changeover = s.feed.changeover ∧
    (State.closeAndSelect s k).feed.timer = s.feed.timer ∧ (State.closeAndSelect s k).feed.picker = s.feed.picker ∧
    (State.closeAndSelect s k).feed.fillOrder = s.feed.fillOrder ∧
    (State.closeAndSelect s k).feed.unassigned = s.feed.unassigned ∧
    (State.closeAndSelect s k).kilns.entries = s.kilns.entries ∧
    (State.closeAndSelect s k).kilns.schedules = s.kilns.schedules ∧
    (State.closeAndSelect s k).kilns.steps = s.kilns.steps ∧ (State.closeAndSelect s k).scale = s.scale ∧
    (State.closeAndSelect s k).press.bales = s.press.bales ∧ (State.closeAndSelect s k).press.tares = s.press.tares ∧
    (State.closeAndSelect s k).press.cycle = s.press.cycle ∧ (State.closeAndSelect s k).press.hold = s.press.hold ∧
    (State.closeAndSelect s k).tickets = s.tickets ∧ (State.closeAndSelect s k).mgmt.time = s.mgmt.time ∧
    (State.closeAndSelect s k).mgmt.ticks = s.mgmt.ticks ∧ (State.closeAndSelect s k).mgmt.timeSet = s.mgmt.timeSet ∧
    (State.closeAndSelect s k).mgmt.station = s.mgmt.station := by
  generalize h : (State.closeAndSelect s k) = t
  unfold State.closeAndSelect at h
  (try dsimp only at h)
  (repeat' split at h) <;> subst h <;> simp

@[simp] theorem finishOldLot_frame (s : State) :
    (State.finishOldLot s).pending = s.pending ∧ (State.finishOldLot s).power = s.power ∧
    (State.finishOldLot s).link = s.link ∧ (State.finishOldLot s).classifier = s.classifier ∧
    (State.finishOldLot s).field = s.field ∧ (State.finishOldLot s).table.varieties = s.table.varieties ∧
    (State.finishOldLot s).feed = s.feed ∧ (State.finishOldLot s).kilns = s.kilns ∧
    (State.finishOldLot s).scale = s.scale ∧ (State.finishOldLot s).press = s.press ∧
    (State.finishOldLot s).tickets = s.tickets ∧ (State.finishOldLot s).mgmt = s.mgmt := by
  generalize h : (State.finishOldLot s) = t
  unfold State.finishOldLot at h
  (try dsimp only at h)
  (repeat' split at h) <;> subst h <;> simp

@[simp] theorem completeChangeover_frame (s : State) :
    (State.completeChangeover s).pending = s.pending ∧ (State.completeChangeover s).power = s.power ∧
    (State.completeChangeover s).link = s.link ∧ (State.completeChangeover s).classifier = s.classifier ∧
    (State.completeChangeover s).field.cadences = s.field.cadences ∧
    (State.completeChangeover s).field.pollQueue = s.field.pollQueue ∧
    (State.completeChangeover s).field.transaction = s.field.transaction ∧
    (State.completeChangeover s).field.printRequest = s.field.printRequest ∧
    (State.completeChangeover s).field.passStreak = s.field.passStreak ∧
    (State.completeChangeover s).table.varieties = s.table.varieties ∧
    (State.completeChangeover s).feed.feedLot = s.feed.feedLot ∧
    (State.completeChangeover s).feed.timer = s.feed.timer ∧
    (State.completeChangeover s).feed.picker = s.feed.picker ∧
    (State.completeChangeover s).feed.fillOrder = s.feed.fillOrder ∧
    (State.completeChangeover s).feed.unassigned = s.feed.unassigned ∧
    (State.completeChangeover s).kilns.entries = s.kilns.entries ∧
    (State.completeChangeover s).kilns.schedules = s.kilns.schedules ∧
    (State.completeChangeover s).kilns.steps = s.kilns.steps ∧ (State.completeChangeover s).scale = s.scale ∧
    (State.completeChangeover s).press.bales = s.press.bales ∧
    (State.completeChangeover s).press.tares = s.press.tares ∧
    (State.completeChangeover s).press.cycle = s.press.cycle ∧
    (State.completeChangeover s).press.hold = s.press.hold ∧ (State.completeChangeover s).tickets = s.tickets ∧
    (State.completeChangeover s).mgmt.time = s.mgmt.time ∧ (State.completeChangeover s).mgmt.ticks = s.mgmt.ticks ∧
    (State.completeChangeover s).mgmt.timeSet = s.mgmt.timeSet ∧
    (State.completeChangeover s).mgmt.station = s.mgmt.station := by
  generalize h : (State.completeChangeover s) = t
  unfold State.completeChangeover at h
  (try dsimp only at h)
  (repeat' split at h) <;> subst h <;> simp

@[simp] theorem changeoverExpiry_frame (s : State) :
    (State.changeoverExpiry s).pending = s.pending ∧ (State.changeoverExpiry s).power = s.power ∧
    (State.changeoverExpiry s).link = s.link ∧ (State.changeoverExpiry s).classifier = s.classifier ∧
    (State.changeoverExpiry s).field.cadences = s.field.cadences ∧
    (State.changeoverExpiry s).field.pollQueue = s.field.pollQueue ∧
    (State.changeoverExpiry s).field.transaction = s.field.transaction ∧
    (State.changeoverExpiry s).field.printRequest = s.field.printRequest ∧
    (State.changeoverExpiry s).field.passStreak = s.field.passStreak ∧
    (State.changeoverExpiry s).table.varieties = s.table.varieties ∧
    (State.changeoverExpiry s).feed.feedLot = s.feed.feedLot ∧
    (State.changeoverExpiry s).feed.picker = s.feed.picker ∧
    (State.changeoverExpiry s).feed.fillOrder = s.feed.fillOrder ∧
    (State.changeoverExpiry s).feed.unassigned = s.feed.unassigned ∧
    (State.changeoverExpiry s).kilns.entries = s.kilns.entries ∧
    (State.changeoverExpiry s).kilns.schedules = s.kilns.schedules ∧
    (State.changeoverExpiry s).kilns.steps = s.kilns.steps ∧ (State.changeoverExpiry s).scale = s.scale ∧
    (State.changeoverExpiry s).press.bales = s.press.bales ∧ (State.changeoverExpiry s).press.tares = s.press.tares ∧
    (State.changeoverExpiry s).press.cycle = s.press.cycle ∧ (State.changeoverExpiry s).press.hold = s.press.hold ∧
    (State.changeoverExpiry s).tickets = s.tickets ∧ (State.changeoverExpiry s).mgmt.time = s.mgmt.time ∧
    (State.changeoverExpiry s).mgmt.ticks = s.mgmt.ticks ∧ (State.changeoverExpiry s).mgmt.timeSet = s.mgmt.timeSet ∧
    (State.changeoverExpiry s).mgmt.station = s.mgmt.station := by
  generalize h : (State.changeoverExpiry s) = t
  unfold State.changeoverExpiry at h
  (try dsimp only at h)
  (repeat' split at h) <;> subst h <;> simp

@[simp] theorem beltAnswered_frame (s : State) :
    (State.beltAnswered s).pending = s.pending ∧ (State.beltAnswered s).power = s.power ∧
    (State.beltAnswered s).link = s.link ∧ (State.beltAnswered s).classifier = s.classifier ∧
    (State.beltAnswered s).field.cadences = s.field.cadences ∧
    (State.beltAnswered s).field.pollQueue = s.field.pollQueue ∧
    (State.beltAnswered s).field.transaction = s.field.transaction ∧
    (State.beltAnswered s).field.printRequest = s.field.printRequest ∧
    (State.beltAnswered s).field.passStreak = s.field.passStreak ∧
    (State.beltAnswered s).table.varieties = s.table.varieties ∧
    (State.beltAnswered s).feed.feedLot = s.feed.feedLot ∧ (State.beltAnswered s).feed.timer = s.feed.timer ∧
    (State.beltAnswered s).feed.picker = s.feed.picker ∧ (State.beltAnswered s).feed.fillOrder = s.feed.fillOrder ∧
    (State.beltAnswered s).feed.unassigned = s.feed.unassigned ∧
    (State.beltAnswered s).kilns.entries = s.kilns.entries ∧
    (State.beltAnswered s).kilns.schedules = s.kilns.schedules ∧ (State.beltAnswered s).kilns.steps = s.kilns.steps ∧
    (State.beltAnswered s).scale = s.scale ∧ (State.beltAnswered s).press.bales = s.press.bales ∧
    (State.beltAnswered s).press.tares = s.press.tares ∧ (State.beltAnswered s).press.cycle = s.press.cycle ∧
    (State.beltAnswered s).press.hold = s.press.hold ∧ (State.beltAnswered s).tickets = s.tickets ∧
    (State.beltAnswered s).mgmt.time = s.mgmt.time ∧ (State.beltAnswered s).mgmt.ticks = s.mgmt.ticks ∧
    (State.beltAnswered s).mgmt.timeSet = s.mgmt.timeSet ∧ (State.beltAnswered s).mgmt.station = s.mgmt.station := by
  generalize h : (State.beltAnswered s) = t
  unfold State.beltAnswered at h
  (try dsimp only at h)
  (repeat' split at h) <;> subst h <;> simp

@[simp] theorem divertWatchExpiry_frame (s : State) :
    (State.divertWatchExpiry s).pending = s.pending ∧ (State.divertWatchExpiry s).power = s.power ∧
    (State.divertWatchExpiry s).link = s.link ∧ (State.divertWatchExpiry s).classifier = s.classifier ∧
    (State.divertWatchExpiry s).field = s.field ∧ (State.divertWatchExpiry s).table = s.table ∧
    (State.divertWatchExpiry s).feed.feedLot = s.feed.feedLot ∧
    (State.divertWatchExpiry s).feed.beltLot = s.feed.beltLot ∧
    (State.divertWatchExpiry s).feed.changeover = s.feed.changeover ∧
    (State.divertWatchExpiry s).feed.timer = s.feed.timer ∧ (State.divertWatchExpiry s).feed.hold = s.feed.hold ∧
    (State.divertWatchExpiry s).feed.picker = s.feed.picker ∧
    (State.divertWatchExpiry s).feed.fillOrder = s.feed.fillOrder ∧
    (State.divertWatchExpiry s).feed.loading = s.feed.loading ∧
    (State.divertWatchExpiry s).feed.divertConfirmed = s.feed.divertConfirmed ∧
    (State.divertWatchExpiry s).feed.unassigned = s.feed.unassigned ∧ (State.divertWatchExpiry s).kilns = s.kilns ∧
    (State.divertWatchExpiry s).scale = s.scale ∧ (State.divertWatchExpiry s).press = s.press ∧
    (State.divertWatchExpiry s).tickets = s.tickets ∧ (State.divertWatchExpiry s).mgmt.time = s.mgmt.time ∧
    (State.divertWatchExpiry s).mgmt.ticks = s.mgmt.ticks ∧
    (State.divertWatchExpiry s).mgmt.timeSet = s.mgmt.timeSet ∧
    (State.divertWatchExpiry s).mgmt.station = s.mgmt.station := by
  generalize h : (State.divertWatchExpiry s) = t
  unfold State.divertWatchExpiry at h
  (try dsimp only at h)
  (repeat' split at h) <;> subst h <;> simp

@[simp] theorem divertReport_frame (s : State) (target : Option Kiln) :
    (State.divertReport s target).pending = s.pending ∧ (State.divertReport s target).power = s.power ∧
    (State.divertReport s target).link = s.link ∧ (State.divertReport s target).classifier = s.classifier ∧
    (State.divertReport s target).field = s.field ∧ (State.divertReport s target).table = s.table ∧
    (State.divertReport s target).feed.feedLot = s.feed.feedLot ∧
    (State.divertReport s target).feed.beltLot = s.feed.beltLot ∧
    (State.divertReport s target).feed.changeover = s.feed.changeover ∧
    (State.divertReport s target).feed.timer = s.feed.timer ∧
    (State.divertReport s target).feed.picker = s.feed.picker ∧
    (State.divertReport s target).feed.fillOrder = s.feed.fillOrder ∧
    (State.divertReport s target).feed.loading = s.feed.loading ∧
    (State.divertReport s target).feed.unassigned = s.feed.unassigned ∧
    (State.divertReport s target).kilns = s.kilns ∧ (State.divertReport s target).scale = s.scale ∧
    (State.divertReport s target).press = s.press ∧ (State.divertReport s target).tickets = s.tickets ∧
    (State.divertReport s target).mgmt = s.mgmt := by
  generalize h : (State.divertReport s target) = t
  unfold State.divertReport at h
  (try dsimp only at h)
  (repeat' split at h) <;> subst h <;> simp

@[simp] theorem credit_frame (s : State) (inc : Nat) :
    (State.credit s inc).pending = s.pending ∧ (State.credit s inc).power = s.power ∧
    (State.credit s inc).link = s.link ∧ (State.credit s inc).classifier = s.classifier ∧
    (State.credit s inc).field.cadences = s.field.cadences ∧
    (State.credit s inc).field.pollQueue = s.field.pollQueue ∧
    (State.credit s inc).field.transaction = s.field.transaction ∧
    (State.credit s inc).field.printRequest = s.field.printRequest ∧
    (State.credit s inc).field.passStreak = s.field.passStreak ∧
    (State.credit s inc).table.varieties = s.table.varieties ∧ (State.credit s inc).feed.feedLot = s.feed.feedLot ∧
    (State.credit s inc).feed.beltLot = s.feed.beltLot ∧ (State.credit s inc).feed.changeover = s.feed.changeover ∧
    (State.credit s inc).feed.timer = s.feed.timer ∧ (State.credit s inc).feed.picker = s.feed.picker ∧
    (State.credit s inc).feed.fillOrder = s.feed.fillOrder ∧ (State.credit s inc).kilns.entries = s.kilns.entries ∧
    (State.credit s inc).kilns.schedules = s.kilns.schedules ∧ (State.credit s inc).kilns.steps = s.kilns.steps ∧
    (State.credit s inc).scale = s.scale ∧ (State.credit s inc).press.bales = s.press.bales ∧
    (State.credit s inc).press.tares = s.press.tares ∧ (State.credit s inc).press.cycle = s.press.cycle ∧
    (State.credit s inc).press.hold = s.press.hold ∧ (State.credit s inc).tickets = s.tickets ∧
    (State.credit s inc).mgmt.time = s.mgmt.time ∧ (State.credit s inc).mgmt.ticks = s.mgmt.ticks ∧
    (State.credit s inc).mgmt.timeSet = s.mgmt.timeSet ∧ (State.credit s inc).mgmt.station = s.mgmt.station := by
  generalize h : (State.credit s inc) = t
  unfold State.credit at h
  (try dsimp only at h)
  (repeat' split at h) <;> subst h <;> simp

@[simp] theorem green_frame (s : State) (i : NodeIdx) (value : Word32) :
    (State.green s i value).pending = s.pending ∧ (State.green s i value).power = s.power ∧
    (State.green s i value).link = s.link ∧ (State.green s i value).classifier = s.classifier ∧
    (State.green s i value).field.cadences = s.field.cadences ∧
    (State.green s i value).field.pollQueue = s.field.pollQueue ∧
    (State.green s i value).field.transaction = s.field.transaction ∧
    (State.green s i value).field.printRequest = s.field.printRequest ∧
    (State.green s i value).field.passStreak = s.field.passStreak ∧
    (State.green s i value).table.varieties = s.table.varieties ∧
    (State.green s i value).feed.feedLot = s.feed.feedLot ∧ (State.green s i value).feed.beltLot = s.feed.beltLot ∧
    (State.green s i value).feed.changeover = s.feed.changeover ∧ (State.green s i value).feed.timer = s.feed.timer ∧
    (State.green s i value).feed.picker = s.feed.picker ∧ (State.green s i value).feed.fillOrder = s.feed.fillOrder ∧
    (State.green s i value).kilns.entries = s.kilns.entries ∧
    (State.green s i value).kilns.schedules = s.kilns.schedules ∧
    (State.green s i value).kilns.steps = s.kilns.steps ∧ (State.green s i value).scale = s.scale ∧
    (State.green s i value).press.bales = s.press.bales ∧ (State.green s i value).press.tares = s.press.tares ∧
    (State.green s i value).press.cycle = s.press.cycle ∧ (State.green s i value).press.hold = s.press.hold ∧
    (State.green s i value).tickets = s.tickets ∧ (State.green s i value).mgmt.time = s.mgmt.time ∧
    (State.green s i value).mgmt.ticks = s.mgmt.ticks ∧ (State.green s i value).mgmt.timeSet = s.mgmt.timeSet ∧
    (State.green s i value).mgmt.station = s.mgmt.station := by
  generalize h : (State.green s i value) = t
  unfold State.green at h
  (try dsimp only at h)
  (repeat' split at h) <;> subst h <;> simp

@[simp] theorem feedLot_frame (s : State) (new : Option Nat) :
    (State.feedLot s new).pending = s.pending ∧ (State.feedLot s new).power = s.power ∧
    (State.feedLot s new).link = s.link ∧ (State.feedLot s new).classifier = s.classifier ∧
    (State.feedLot s new).field.cadences = s.field.cadences ∧
    (State.feedLot s new).field.pollQueue = s.field.pollQueue ∧
    (State.feedLot s new).field.transaction = s.field.transaction ∧
    (State.feedLot s new).field.printRequest = s.field.printRequest ∧
    (State.feedLot s new).field.passStreak = s.field.passStreak ∧
    (State.feedLot s new).table.varieties = s.table.varieties ∧ (State.feedLot s new).feed.picker = s.feed.picker ∧
    (State.feedLot s new).feed.fillOrder = s.feed.fillOrder ∧
    (State.feedLot s new).feed.unassigned = s.feed.unassigned ∧
    (State.feedLot s new).kilns.entries = s.kilns.entries ∧
    (State.feedLot s new).kilns.schedules = s.kilns.schedules ∧ (State.feedLot s new).kilns.steps = s.kilns.steps ∧
    (State.feedLot s new).scale = s.scale ∧ (State.feedLot s new).press.bales = s.press.bales ∧
    (State.feedLot s new).press.tares = s.press.tares ∧ (State.feedLot s new).press.cycle = s.press.cycle ∧
    (State.feedLot s new).press.hold = s.press.hold ∧ (State.feedLot s new).tickets = s.tickets ∧
    (State.feedLot s new).mgmt.time = s.mgmt.time ∧ (State.feedLot s new).mgmt.ticks = s.mgmt.ticks ∧
    (State.feedLot s new).mgmt.timeSet = s.mgmt.timeSet ∧ (State.feedLot s new).mgmt.station = s.mgmt.station := by
  generalize h : (State.feedLot s new) = t
  unfold State.feedLot at h
  (try dsimp only at h)
  (repeat' split at h) <;> subst h <;> simp

@[simp] theorem performLotFeed_frame (lot : Word16) (s : State) :
    (performLotFeed lot s).state.pending = s.pending ∧ (performLotFeed lot s).state.power = s.power ∧
    (performLotFeed lot s).state.link = s.link ∧ (performLotFeed lot s).state.classifier = s.classifier ∧
    (performLotFeed lot s).state.field.cadences = s.field.cadences ∧
    (performLotFeed lot s).state.field.pollQueue = s.field.pollQueue ∧
    (performLotFeed lot s).state.field.transaction = s.field.transaction ∧
    (performLotFeed lot s).state.field.printRequest = s.field.printRequest ∧
    (performLotFeed lot s).state.field.passStreak = s.field.passStreak ∧
    (performLotFeed lot s).state.table.varieties = s.table.varieties ∧
    (performLotFeed lot s).state.feed.fillOrder = s.feed.fillOrder ∧
    (performLotFeed lot s).state.feed.unassigned = s.feed.unassigned ∧
    (performLotFeed lot s).state.kilns.entries = s.kilns.entries ∧
    (performLotFeed lot s).state.kilns.schedules = s.kilns.schedules ∧
    (performLotFeed lot s).state.kilns.steps = s.kilns.steps ∧ (performLotFeed lot s).state.scale = s.scale ∧
    (performLotFeed lot s).state.press.bales = s.press.bales ∧
    (performLotFeed lot s).state.press.tares = s.press.tares ∧
    (performLotFeed lot s).state.press.cycle = s.press.cycle ∧
    (performLotFeed lot s).state.press.hold = s.press.hold ∧ (performLotFeed lot s).state.tickets = s.tickets ∧
    (performLotFeed lot s).state.mgmt.time = s.mgmt.time ∧ (performLotFeed lot s).state.mgmt.ticks = s.mgmt.ticks ∧
    (performLotFeed lot s).state.mgmt.timeSet = s.mgmt.timeSet ∧
    (performLotFeed lot s).state.mgmt.station = s.mgmt.station := by
  generalize h : (performLotFeed lot s) = t
  unfold performLotFeed at h
  (try dsimp only at h)
  (repeat' split at h) <;> subst h <;> simp

@[simp] theorem performFeedHold_frame (flag : Byte) (s : State) :
    (performFeedHold flag s).state.pending = s.pending ∧ (performFeedHold flag s).state.power = s.power ∧
    (performFeedHold flag s).state.link = s.link ∧ (performFeedHold flag s).state.classifier = s.classifier ∧
    (performFeedHold flag s).state.field.cadences = s.field.cadences ∧
    (performFeedHold flag s).state.field.pollQueue = s.field.pollQueue ∧
    (performFeedHold flag s).state.field.transaction = s.field.transaction ∧
    (performFeedHold flag s).state.field.printRequest = s.field.printRequest ∧
    (performFeedHold flag s).state.field.passStreak = s.field.passStreak ∧
    (performFeedHold flag s).state.table = s.table ∧ (performFeedHold flag s).state.feed.feedLot = s.feed.feedLot ∧
    (performFeedHold flag s).state.feed.beltLot = s.feed.beltLot ∧
    (performFeedHold flag s).state.feed.changeover = s.feed.changeover ∧
    (performFeedHold flag s).state.feed.timer = s.feed.timer ∧
    (performFeedHold flag s).state.feed.fillOrder = s.feed.fillOrder ∧
    (performFeedHold flag s).state.feed.loading = s.feed.loading ∧
    (performFeedHold flag s).state.feed.divertConfirmed = s.feed.divertConfirmed ∧
    (performFeedHold flag s).state.feed.divertWatch = s.feed.divertWatch ∧
    (performFeedHold flag s).state.feed.unassigned = s.feed.unassigned ∧
    (performFeedHold flag s).state.kilns = s.kilns ∧ (performFeedHold flag s).state.scale = s.scale ∧
    (performFeedHold flag s).state.press = s.press ∧ (performFeedHold flag s).state.tickets = s.tickets ∧
    (performFeedHold flag s).state.mgmt.time = s.mgmt.time ∧
    (performFeedHold flag s).state.mgmt.ticks = s.mgmt.ticks ∧
    (performFeedHold flag s).state.mgmt.timeSet = s.mgmt.timeSet ∧
    (performFeedHold flag s).state.mgmt.station = s.mgmt.station := by
  generalize h : (performFeedHold flag s) = t
  unfold performFeedHold at h
  (try dsimp only at h)
  (repeat' split at h) <;> subst h <;> simp

@[simp] theorem performFillOrder_frame (count : Byte) (kilns : List Byte) (s : State) :
    (performFillOrder count kilns s).state.pending = s.pending ∧
    (performFillOrder count kilns s).state.power = s.power ∧ (performFillOrder count kilns s).state.link = s.link ∧
    (performFillOrder count kilns s).state.classifier = s.classifier ∧
    (performFillOrder count kilns s).state.field.cadences = s.field.cadences ∧
    (performFillOrder count kilns s).state.field.pollQueue = s.field.pollQueue ∧
    (performFillOrder count kilns s).state.field.transaction = s.field.transaction ∧
    (performFillOrder count kilns s).state.field.printRequest = s.field.printRequest ∧
    (performFillOrder count kilns s).state.field.passStreak = s.field.passStreak ∧
    (performFillOrder count kilns s).state.table.varieties = s.table.varieties ∧
    (performFillOrder count kilns s).state.feed.feedLot = s.feed.feedLot ∧
    (performFillOrder count kilns s).state.feed.beltLot = s.feed.beltLot ∧
    (performFillOrder count kilns s).state.feed.changeover = s.feed.changeover ∧
    (performFillOrder count kilns s).state.feed.timer = s.feed.timer ∧
    (performFillOrder count kilns s).state.feed.unassigned = s.feed.unassigned ∧
    (performFillOrder count kilns s).state.kilns.entries = s.kilns.entries ∧
    (performFillOrder count kilns s).state.kilns.schedules = s.kilns.schedules ∧
    (performFillOrder count kilns s).state.kilns.steps = s.kilns.steps ∧
    (performFillOrder count kilns s).state.scale = s.scale ∧ (performFillOrder count kilns s).state.press = s.press ∧
    (performFillOrder count kilns s).state.tickets = s.tickets ∧
    (performFillOrder count kilns s).state.mgmt.time = s.mgmt.time ∧
    (performFillOrder count kilns s).state.mgmt.ticks = s.mgmt.ticks ∧
    (performFillOrder count kilns s).state.mgmt.timeSet = s.mgmt.timeSet ∧
    (performFillOrder count kilns s).state.mgmt.station = s.mgmt.station := by
  generalize h : (performFillOrder count kilns s) = t
  unfold performFillOrder at h
  (try dsimp only at h)
  (repeat' split at h) <;> subst h <;> simp

@[simp] theorem performLoadClose_frame (s : State) :
    (performLoadClose s).state.pending = s.pending ∧ (performLoadClose s).state.power = s.power ∧
    (performLoadClose s).state.link = s.link ∧ (performLoadClose s).state.classifier = s.classifier ∧
    (performLoadClose s).state.field.cadences = s.field.cadences ∧
    (performLoadClose s).state.field.pollQueue = s.field.pollQueue ∧
    (performLoadClose s).state.field.transaction = s.field.transaction ∧
    (performLoadClose s).state.field.printRequest = s.field.printRequest ∧
    (performLoadClose s).state.field.passStreak = s.field.passStreak ∧
    (performLoadClose s).state.table.varieties = s.table.varieties ∧
    (performLoadClose s).state.feed.feedLot = s.feed.feedLot ∧
    (performLoadClose s).state.feed.beltLot = s.feed.beltLot ∧
    (performLoadClose s).state.feed.changeover = s.feed.changeover ∧
    (performLoadClose s).state.feed.timer = s.feed.timer ∧
    (performLoadClose s).state.feed.fillOrder = s.feed.fillOrder ∧
    (performLoadClose s).state.kilns.entries = s.kilns.entries ∧
    (performLoadClose s).state.kilns.schedules = s.kilns.schedules ∧
    (performLoadClose s).state.kilns.steps = s.kilns.steps ∧ (performLoadClose s).state.scale = s.scale ∧
    (performLoadClose s).state.press.bales = s.press.bales ∧ (performLoadClose s).state.press.tares = s.press.tares ∧
    (performLoadClose s).state.press.cycle = s.press.cycle ∧ (performLoadClose s).state.press.hold = s.press.hold ∧
    (performLoadClose s).state.tickets = s.tickets ∧ (performLoadClose s).state.mgmt.time = s.mgmt.time ∧
    (performLoadClose s).state.mgmt.ticks = s.mgmt.ticks ∧ (performLoadClose s).state.mgmt.timeSet = s.mgmt.timeSet ∧
    (performLoadClose s).state.mgmt.station = s.mgmt.station := by
  generalize h : (performLoadClose s) = t
  unfold performLoadClose at h
  (try dsimp only at h)
  (repeat' split at h) <;> subst h <;> simp

@[simp] theorem fillBale_frame (s : State) (b : Bale) (gross : Int) :
    (State.fillBale s b gross).pending = s.pending ∧ (State.fillBale s b gross).power = s.power ∧
    (State.fillBale s b gross).link = s.link ∧ (State.fillBale s b gross).classifier = s.classifier ∧
    (State.fillBale s b gross).field = s.field ∧ (State.fillBale s b gross).table.varieties = s.table.varieties ∧
    (State.fillBale s b gross).feed = s.feed ∧ (State.fillBale s b gross).kilns = s.kilns ∧
    (State.fillBale s b gross).scale = s.scale ∧ (State.fillBale s b gross).press.queue = s.press.queue ∧
    (State.fillBale s b gross).press.tares = s.press.tares ∧ (State.fillBale s b gross).press.cycle = s.press.cycle ∧
    (State.fillBale s b gross).press.hold = s.press.hold ∧
    (State.fillBale s b gross).press.command = s.press.command ∧ (State.fillBale s b gross).tickets = s.tickets ∧
    (State.fillBale s b gross).mgmt.time = s.mgmt.time ∧ (State.fillBale s b gross).mgmt.ticks = s.mgmt.ticks ∧
    (State.fillBale s b gross).mgmt.timeSet = s.mgmt.timeSet ∧
    (State.fillBale s b gross).mgmt.station = s.mgmt.station := by
  generalize h : (State.fillBale s b gross) = t
  unfold State.fillBale at h
  (try dsimp only at h)
  (repeat' split at h) <;> subst h <;> simp

@[simp] theorem captured_frame (s : State) (weight : Int) :
    (State.captured s weight).pending = s.pending ∧ (State.captured s weight).power = s.power ∧
    (State.captured s weight).link = s.link ∧ (State.captured s weight).classifier = s.classifier ∧
    (State.captured s weight).field.nodes = s.field.nodes ∧
    (State.captured s weight).field.cadences = s.field.cadences ∧
    (State.captured s weight).field.pollQueue = s.field.pollQueue ∧
    (State.captured s weight).field.commandQueue = s.field.commandQueue ∧
    (State.captured s weight).field.transaction = s.field.transaction ∧
    (State.captured s weight).field.passStreak = s.field.passStreak ∧
    (State.captured s weight).table.varieties = s.table.varieties ∧ (State.captured s weight).feed = s.feed ∧
    (State.captured s weight).kilns = s.kilns ∧ (State.captured s weight).scale = s.scale ∧
    (State.captured s weight).press.queue = s.press.queue ∧ (State.captured s weight).press.tares = s.press.tares ∧
    (State.captured s weight).press.cycle = s.press.cycle ∧ (State.captured s weight).press.hold = s.press.hold ∧
    (State.captured s weight).press.command = s.press.command ∧
    (State.captured s weight).tickets.baseSet = s.tickets.baseSet ∧
    (State.captured s weight).tickets.nextBale = s.tickets.nextBale ∧
    (State.captured s weight).tickets.lastBale = s.tickets.lastBale ∧
    (State.captured s weight).mgmt.time = s.mgmt.time ∧ (State.captured s weight).mgmt.ticks = s.mgmt.ticks ∧
    (State.captured s weight).mgmt.timeSet = s.mgmt.timeSet ∧ (State.captured s weight).mgmt.station = s.mgmt.station := by
  generalize h : (State.captured s weight) = t
  unfold State.captured at h
  (try dsimp only at h)
  (repeat' split at h) <;> subst h <;> simp

@[simp] theorem notCaptured_frame (s : State) :
    (State.notCaptured s).pending = s.pending ∧ (State.notCaptured s).power = s.power ∧
    (State.notCaptured s).link = s.link ∧ (State.notCaptured s).classifier = s.classifier ∧
    (State.notCaptured s).field.nodes = s.field.nodes ∧ (State.notCaptured s).field.cadences = s.field.cadences ∧
    (State.notCaptured s).field.pollQueue = s.field.pollQueue ∧
    (State.notCaptured s).field.commandQueue = s.field.commandQueue ∧
    (State.notCaptured s).field.transaction = s.field.transaction ∧
    (State.notCaptured s).field.passStreak = s.field.passStreak ∧
    (State.notCaptured s).table.varieties = s.table.varieties ∧ (State.notCaptured s).feed = s.feed ∧
    (State.notCaptured s).kilns = s.kilns ∧ (State.notCaptured s).scale = s.scale ∧
    (State.notCaptured s).press.queue = s.press.queue ∧ (State.notCaptured s).press.tares = s.press.tares ∧
    (State.notCaptured s).press.cycle = s.press.cycle ∧ (State.notCaptured s).press.hold = s.press.hold ∧
    (State.notCaptured s).press.command = s.press.command ∧
    (State.notCaptured s).tickets.baseSet = s.tickets.baseSet ∧
    (State.notCaptured s).tickets.nextBale = s.tickets.nextBale ∧
    (State.notCaptured s).tickets.lastBale = s.tickets.lastBale ∧ (State.notCaptured s).mgmt.time = s.mgmt.time ∧
    (State.notCaptured s).mgmt.ticks = s.mgmt.ticks ∧ (State.notCaptured s).mgmt.timeSet = s.mgmt.timeSet ∧
    (State.notCaptured s).mgmt.station = s.mgmt.station := by
  generalize h : (State.notCaptured s) = t
  unfold State.notCaptured at h
  (try dsimp only at h)
  (repeat' split at h) <;> subst h <;> simp

@[simp] theorem updScale_frame (s : State) (f : Scale → Scale) :
    (State.updScale s f).pending = s.pending ∧ (State.updScale s f).power = s.power ∧
    (State.updScale s f).link = s.link ∧ (State.updScale s f).classifier = s.classifier ∧
    (State.updScale s f).field = s.field ∧ (State.updScale s f).table = s.table ∧ (State.updScale s f).feed = s.feed ∧
    (State.updScale s f).kilns = s.kilns ∧ (State.updScale s f).press = s.press ∧
    (State.updScale s f).tickets = s.tickets ∧ (State.updScale s f).mgmt = s.mgmt := by
  generalize h : (State.updScale s f) = t
  unfold State.updScale at h
  (try dsimp only at h)
  (repeat' split at h) <;> subst h <;> simp

@[simp] theorem judgeBlock_frame (s : State) :
    (State.judgeBlock s).pending = s.pending ∧ (State.judgeBlock s).power = s.power ∧
    (State.judgeBlock s).link = s.link ∧ (State.judgeBlock s).classifier = s.classifier ∧
    (State.judgeBlock s).field.nodes = s.field.nodes ∧ (State.judgeBlock s).field.cadences = s.field.cadences ∧
    (State.judgeBlock s).field.pollQueue = s.field.pollQueue ∧
    (State.judgeBlock s).field.commandQueue = s.field.commandQueue ∧
    (State.judgeBlock s).field.transaction = s.field.transaction ∧
    (State.judgeBlock s).field.passStreak = s.field.passStreak ∧
    (State.judgeBlock s).table.varieties = s.table.varieties ∧ (State.judgeBlock s).feed = s.feed ∧
    (State.judgeBlock s).kilns = s.kilns ∧ (State.judgeBlock s).press.queue = s.press.queue ∧
    (State.judgeBlock s).press.tares = s.press.tares ∧ (State.judgeBlock s).press.cycle = s.press.cycle ∧
    (State.judgeBlock s).press.hold = s.press.hold ∧ (State.judgeBlock s).press.command = s.press.command ∧
    (State.judgeBlock s).tickets.baseSet = s.tickets.baseSet ∧
    (State.judgeBlock s).tickets.nextBale = s.tickets.nextBale ∧
    (State.judgeBlock s).tickets.lastBale = s.tickets.lastBale ∧ (State.judgeBlock s).mgmt.time = s.mgmt.time ∧
    (State.judgeBlock s).mgmt.ticks = s.mgmt.ticks ∧ (State.judgeBlock s).mgmt.timeSet = s.mgmt.timeSet ∧
    (State.judgeBlock s).mgmt.station = s.mgmt.station := by
  generalize h : (State.judgeBlock s) = t
  unfold State.judgeBlock at h
  (try dsimp only at h)
  (repeat' split at h) <;> subst h <;> simp

@[simp] theorem enterFault_frame (s : State) (cause : FaultCause) :
    (State.enterFault s cause).pending = s.pending ∧ (State.enterFault s cause).power = s.power ∧
    (State.enterFault s cause).link = s.link ∧ (State.enterFault s cause).classifier = s.classifier ∧
    (State.enterFault s cause).field.nodes = s.field.nodes ∧
    (State.enterFault s cause).field.cadences = s.field.cadences ∧
    (State.enterFault s cause).field.pollQueue = s.field.pollQueue ∧
    (State.enterFault s cause).field.commandQueue = s.field.commandQueue ∧
    (State.enterFault s cause).field.transaction = s.field.transaction ∧
    (State.enterFault s cause).field.passStreak = s.field.passStreak ∧
    (State.enterFault s cause).table.varieties = s.table.varieties ∧ (State.enterFault s cause).feed = s.feed ∧
    (State.enterFault s cause).kilns = s.kilns ∧ (State.enterFault s cause).press.queue = s.press.queue ∧
    (State.enterFault s cause).press.tares = s.press.tares ∧ (State.enterFault s cause).press.cycle = s.press.cycle ∧
    (State.enterFault s cause).press.hold = s.press.hold ∧
    (State.enterFault s cause).press.command = s.press.command ∧
    (State.enterFault s cause).tickets.baseSet = s.tickets.baseSet ∧
    (State.enterFault s cause).tickets.nextBale = s.tickets.nextBale ∧
    (State.enterFault s cause).tickets.lastBale = s.tickets.lastBale ∧
    (State.enterFault s cause).mgmt.time = s.mgmt.time ∧ (State.enterFault s cause).mgmt.ticks = s.mgmt.ticks ∧
    (State.enterFault s cause).mgmt.timeSet = s.mgmt.timeSet ∧
    (State.enterFault s cause).mgmt.station = s.mgmt.station := by
  generalize h : (State.enterFault s cause) = t
  unfold State.enterFault at h
  (try dsimp only at h)
  (repeat' split at h) <;> subst h <;> simp

@[simp] theorem faultCause_frame (s : State) (cause : FaultCause) :
    (State.faultCause s cause).pending = s.pending ∧ (State.faultCause s cause).power = s.power ∧
    (State.faultCause s cause).link = s.link ∧ (State.faultCause s cause).classifier = s.classifier ∧
    (State.faultCause s cause).field.nodes = s.field.nodes ∧
    (State.faultCause s cause).field.cadences = s.field.cadences ∧
    (State.faultCause s cause).field.pollQueue = s.field.pollQueue ∧
    (State.faultCause s cause).field.commandQueue = s.field.commandQueue ∧
    (State.faultCause s cause).field.transaction = s.field.transaction ∧
    (State.faultCause s cause).field.passStreak = s.field.passStreak ∧
    (State.faultCause s cause).table.varieties = s.table.varieties ∧ (State.faultCause s cause).feed = s.feed ∧
    (State.faultCause s cause).kilns = s.kilns ∧ (State.faultCause s cause).press.queue = s.press.queue ∧
    (State.faultCause s cause).press.tares = s.press.tares ∧ (State.faultCause s cause).press.cycle = s.press.cycle ∧
    (State.faultCause s cause).press.hold = s.press.hold ∧
    (State.faultCause s cause).press.command = s.press.command ∧
    (State.faultCause s cause).tickets.baseSet = s.tickets.baseSet ∧
    (State.faultCause s cause).tickets.nextBale = s.tickets.nextBale ∧
    (State.faultCause s cause).tickets.lastBale = s.tickets.lastBale ∧
    (State.faultCause s cause).mgmt.time = s.mgmt.time ∧ (State.faultCause s cause).mgmt.ticks = s.mgmt.ticks ∧
    (State.faultCause s cause).mgmt.timeSet = s.mgmt.timeSet ∧
    (State.faultCause s cause).mgmt.station = s.mgmt.station := by
  generalize h : (State.faultCause s cause) = t
  unfold State.faultCause at h
  (try dsimp only at h)
  (repeat' split at h) <;> subst h <;> simp

@[simp] theorem takeReading_frame (s : State) (r : Int) :
    (State.takeReading s r).pending = s.pending ∧ (State.takeReading s r).power = s.power ∧
    (State.takeReading s r).link = s.link ∧ (State.takeReading s r).classifier = s.classifier ∧
    (State.takeReading s r).field.nodes = s.field.nodes ∧ (State.takeReading s r).field.cadences = s.field.cadences ∧
    (State.takeReading s r).field.pollQueue = s.field.pollQueue ∧
    (State.takeReading s r).field.commandQueue = s.field.commandQueue ∧
    (State.takeReading s r).field.transaction = s.field.transaction ∧
    (State.takeReading s r).field.passStreak = s.field.passStreak ∧
    (State.takeReading s r).table.varieties = s.table.varieties ∧ (State.takeReading s r).feed = s.feed ∧
    (State.takeReading s r).kilns = s.kilns ∧ (State.takeReading s r).press.queue = s.press.queue ∧
    (State.takeReading s r).press.tares = s.press.tares ∧ (State.takeReading s r).press.cycle = s.press.cycle ∧
    (State.takeReading s r).press.hold = s.press.hold ∧ (State.takeReading s r).press.command = s.press.command ∧
    (State.takeReading s r).tickets.baseSet = s.tickets.baseSet ∧
    (State.takeReading s r).tickets.nextBale = s.tickets.nextBale ∧
    (State.takeReading s r).tickets.lastBale = s.tickets.lastBale ∧ (State.takeReading s r).mgmt.time = s.mgmt.time ∧
    (State.takeReading s r).mgmt.ticks = s.mgmt.ticks ∧ (State.takeReading s r).mgmt.timeSet = s.mgmt.timeSet ∧
    (State.takeReading s r).mgmt.station = s.mgmt.station := by
  generalize h : (State.takeReading s r) = t
  unfold State.takeReading at h
  (try dsimp only at h)
  (repeat' split at h) <;> subst h <;> simp

@[simp] theorem takeSample_frame (s : State) (st : Byte) (sample : Int) :
    (State.takeSample s st sample).pending = s.pending ∧ (State.takeSample s st sample).power = s.power ∧
    (State.takeSample s st sample).link = s.link ∧ (State.takeSample s st sample).classifier = s.classifier ∧
    (State.takeSample s st sample).field.nodes = s.field.nodes ∧
    (State.takeSample s st sample).field.cadences = s.field.cadences ∧
    (State.takeSample s st sample).field.pollQueue = s.field.pollQueue ∧
    (State.takeSample s st sample).field.commandQueue = s.field.commandQueue ∧
    (State.takeSample s st sample).field.transaction = s.field.transaction ∧
    (State.takeSample s st sample).field.passStreak = s.field.passStreak ∧
    (State.takeSample s st sample).table.varieties = s.table.varieties ∧
    (State.takeSample s st sample).feed = s.feed ∧ (State.takeSample s st sample).kilns = s.kilns ∧
    (State.takeSample s st sample).press.queue = s.press.queue ∧
    (State.takeSample s st sample).press.tares = s.press.tares ∧
    (State.takeSample s st sample).press.cycle = s.press.cycle ∧
    (State.takeSample s st sample).press.hold = s.press.hold ∧
    (State.takeSample s st sample).press.command = s.press.command ∧
    (State.takeSample s st sample).tickets.baseSet = s.tickets.baseSet ∧
    (State.takeSample s st sample).tickets.nextBale = s.tickets.nextBale ∧
    (State.takeSample s st sample).tickets.lastBale = s.tickets.lastBale ∧
    (State.takeSample s st sample).mgmt.time = s.mgmt.time ∧
    (State.takeSample s st sample).mgmt.ticks = s.mgmt.ticks ∧
    (State.takeSample s st sample).mgmt.timeSet = s.mgmt.timeSet ∧
    (State.takeSample s st sample).mgmt.station = s.mgmt.station := by
  generalize h : (State.takeSample s st sample) = t
  unfold State.takeSample at h
  (try dsimp only at h)
  (repeat' split at h) <;> subst h <;> simp

@[simp] theorem frameStart_frame (s : State) :
    (State.frameStart s).pending = s.pending ∧ (State.frameStart s).power = s.power ∧
    (State.frameStart s).link = s.link ∧ (State.frameStart s).classifier = s.classifier ∧
    (State.frameStart s).field = s.field ∧ (State.frameStart s).table = s.table ∧ (State.frameStart s).feed = s.feed ∧
    (State.frameStart s).kilns = s.kilns ∧ (State.frameStart s).press = s.press ∧
    (State.frameStart s).tickets = s.tickets ∧ (State.frameStart s).mgmt = s.mgmt := by
  generalize h : (State.frameStart s) = t
  unfold State.frameStart at h
  (try dsimp only at h)
  (repeat' split at h) <;> subst h <;> simp

@[simp] theorem frameComplete_frame (s : State) (st : Byte) (sample : BitVec 24) :
    (State.frameComplete s st sample).pending = s.pending ∧ (State.frameComplete s st sample).power = s.power ∧
    (State.frameComplete s st sample).link = s.link ∧ (State.frameComplete s st sample).classifier = s.classifier ∧
    (State.frameComplete s st sample).field.nodes = s.field.nodes ∧
    (State.frameComplete s st sample).field.cadences = s.field.cadences ∧
    (State.frameComplete s st sample).field.pollQueue = s.field.pollQueue ∧
    (State.frameComplete s st sample).field.commandQueue = s.field.commandQueue ∧
    (State.frameComplete s st sample).field.transaction = s.field.transaction ∧
    (State.frameComplete s st sample).field.passStreak = s.field.passStreak ∧
    (State.frameComplete s st sample).table.varieties = s.table.varieties ∧
    (State.frameComplete s st sample).feed = s.feed ∧ (State.frameComplete s st sample).kilns = s.kilns ∧
    (State.frameComplete s st sample).press.queue = s.press.queue ∧
    (State.frameComplete s st sample).press.tares = s.press.tares ∧
    (State.frameComplete s st sample).press.cycle = s.press.cycle ∧
    (State.frameComplete s st sample).press.hold = s.press.hold ∧
    (State.frameComplete s st sample).press.command = s.press.command ∧
    (State.frameComplete s st sample).tickets.baseSet = s.tickets.baseSet ∧
    (State.frameComplete s st sample).tickets.nextBale = s.tickets.nextBale ∧
    (State.frameComplete s st sample).tickets.lastBale = s.tickets.lastBale ∧
    (State.frameComplete s st sample).mgmt.time = s.mgmt.time ∧
    (State.frameComplete s st sample).mgmt.ticks = s.mgmt.ticks ∧
    (State.frameComplete s st sample).mgmt.timeSet = s.mgmt.timeSet ∧
    (State.frameComplete s st sample).mgmt.station = s.mgmt.station := by
  generalize h : (State.frameComplete s st sample) = t
  unfold State.frameComplete at h
  (try dsimp only at h)
  (repeat' split at h) <;> subst h <;> simp

@[simp] theorem frameTorn_frame (s : State) :
    (State.frameTorn s).pending = s.pending ∧ (State.frameTorn s).power = s.power ∧
    (State.frameTorn s).link = s.link ∧ (State.frameTorn s).classifier = s.classifier ∧
    (State.frameTorn s).field = s.field ∧ (State.frameTorn s).table = s.table ∧ (State.frameTorn s).feed = s.feed ∧
    (State.frameTorn s).kilns = s.kilns ∧ (State.frameTorn s).press = s.press ∧
    (State.frameTorn s).tickets = s.tickets ∧ (State.frameTorn s).mgmt = s.mgmt := by
  generalize h : (State.frameTorn s) = t
  unfold State.frameTorn at h
  (try dsimp only at h)
  (repeat' split at h) <;> subst h <;> simp

@[simp] theorem watchExpiry_frame (s : State) :
    (State.watchExpiry s).pending = s.pending ∧ (State.watchExpiry s).power = s.power ∧
    (State.watchExpiry s).link = s.link ∧ (State.watchExpiry s).classifier = s.classifier ∧
    (State.watchExpiry s).field.nodes = s.field.nodes ∧ (State.watchExpiry s).field.cadences = s.field.cadences ∧
    (State.watchExpiry s).field.pollQueue = s.field.pollQueue ∧
    (State.watchExpiry s).field.commandQueue = s.field.commandQueue ∧
    (State.watchExpiry s).field.transaction = s.field.transaction ∧
    (State.watchExpiry s).field.passStreak = s.field.passStreak ∧
    (State.watchExpiry s).table.varieties = s.table.varieties ∧ (State.watchExpiry s).feed = s.feed ∧
    (State.watchExpiry s).kilns = s.kilns ∧ (State.watchExpiry s).press.queue = s.press.queue ∧
    (State.watchExpiry s).press.tares = s.press.tares ∧ (State.watchExpiry s).press.cycle = s.press.cycle ∧
    (State.watchExpiry s).press.hold = s.press.hold ∧ (State.watchExpiry s).press.command = s.press.command ∧
    (State.watchExpiry s).tickets.baseSet = s.tickets.baseSet ∧
    (State.watchExpiry s).tickets.nextBale = s.tickets.nextBale ∧
    (State.watchExpiry s).tickets.lastBale = s.tickets.lastBale ∧ (State.watchExpiry s).mgmt.time = s.mgmt.time ∧
    (State.watchExpiry s).mgmt.ticks = s.mgmt.ticks ∧ (State.watchExpiry s).mgmt.timeSet = s.mgmt.timeSet ∧
    (State.watchExpiry s).mgmt.station = s.mgmt.station := by
  generalize h : (State.watchExpiry s) = t
  unfold State.watchExpiry at h
  (try dsimp only at h)
  (repeat' split at h) <;> subst h <;> simp

@[simp] theorem settleTimeout_frame (s : State) :
    (State.settleTimeout s).pending = s.pending ∧ (State.settleTimeout s).power = s.power ∧
    (State.settleTimeout s).link = s.link ∧ (State.settleTimeout s).classifier = s.classifier ∧
    (State.settleTimeout s).field.nodes = s.field.nodes ∧ (State.settleTimeout s).field.cadences = s.field.cadences ∧
    (State.settleTimeout s).field.pollQueue = s.field.pollQueue ∧
    (State.settleTimeout s).field.commandQueue = s.field.commandQueue ∧
    (State.settleTimeout s).field.transaction = s.field.transaction ∧
    (State.settleTimeout s).field.passStreak = s.field.passStreak ∧
    (State.settleTimeout s).table.varieties = s.table.varieties ∧ (State.settleTimeout s).feed = s.feed ∧
    (State.settleTimeout s).kilns = s.kilns ∧ (State.settleTimeout s).press.queue = s.press.queue ∧
    (State.settleTimeout s).press.tares = s.press.tares ∧ (State.settleTimeout s).press.cycle = s.press.cycle ∧
    (State.settleTimeout s).press.hold = s.press.hold ∧ (State.settleTimeout s).press.command = s.press.command ∧
    (State.settleTimeout s).tickets.baseSet = s.tickets.baseSet ∧
    (State.settleTimeout s).tickets.nextBale = s.tickets.nextBale ∧
    (State.settleTimeout s).tickets.lastBale = s.tickets.lastBale ∧ (State.settleTimeout s).mgmt.time = s.mgmt.time ∧
    (State.settleTimeout s).mgmt.ticks = s.mgmt.ticks ∧ (State.settleTimeout s).mgmt.timeSet = s.mgmt.timeSet ∧
    (State.settleTimeout s).mgmt.station = s.mgmt.station := by
  generalize h : (State.settleTimeout s) = t
  unfold State.settleTimeout at h
  (try dsimp only at h)
  (repeat' split at h) <;> subst h <;> simp

@[simp] theorem scaleOnScale_frame (s : State) :
    (State.scaleOnScale s).pending = s.pending ∧ (State.scaleOnScale s).power = s.power ∧
    (State.scaleOnScale s).link = s.link ∧ (State.scaleOnScale s).classifier = s.classifier ∧
    (State.scaleOnScale s).field.nodes = s.field.nodes ∧ (State.scaleOnScale s).field.cadences = s.field.cadences ∧
    (State.scaleOnScale s).field.pollQueue = s.field.pollQueue ∧
    (State.scaleOnScale s).field.commandQueue = s.field.commandQueue ∧
    (State.scaleOnScale s).field.transaction = s.field.transaction ∧
    (State.scaleOnScale s).field.passStreak = s.field.passStreak ∧
    (State.scaleOnScale s).table.varieties = s.table.varieties ∧ (State.scaleOnScale s).feed = s.feed ∧
    (State.scaleOnScale s).kilns = s.kilns ∧ (State.scaleOnScale s).press.queue = s.press.queue ∧
    (State.scaleOnScale s).press.tares = s.press.tares ∧ (State.scaleOnScale s).press.cycle = s.press.cycle ∧
    (State.scaleOnScale s).press.hold = s.press.hold ∧ (State.scaleOnScale s).press.command = s.press.command ∧
    (State.scaleOnScale s).tickets.baseSet = s.tickets.baseSet ∧
    (State.scaleOnScale s).tickets.nextBale = s.tickets.nextBale ∧
    (State.scaleOnScale s).tickets.lastBale = s.tickets.lastBale ∧ (State.scaleOnScale s).mgmt.time = s.mgmt.time ∧
    (State.scaleOnScale s).mgmt.ticks = s.mgmt.ticks ∧ (State.scaleOnScale s).mgmt.timeSet = s.mgmt.timeSet ∧
    (State.scaleOnScale s).mgmt.station = s.mgmt.station := by
  generalize h : (State.scaleOnScale s) = t
  unfold State.scaleOnScale at h
  (try dsimp only at h)
  (repeat' split at h) <;> subst h <;> simp

@[simp] theorem createBale_frame (s : State) (k : Kiln) (r : ChargeRef) (value : Word32) (weighing : Bool) :
    (State.createBale s k r value weighing).pending = s.pending ∧
    (State.createBale s k r value weighing).power = s.power ∧ (State.createBale s k r value weighing).link = s.link ∧
    (State.createBale s k r value weighing).classifier = s.classifier ∧
    (State.createBale s k r value weighing).field.cadences = s.field.cadences ∧
    (State.createBale s k r value weighing).field.pollQueue = s.field.pollQueue ∧
    (State.createBale s k r value weighing).field.transaction = s.field.transaction ∧
    (State.createBale s k r value weighing).field.passStreak = s.field.passStreak ∧
    (State.createBale s k r value weighing).table.varieties = s.table.varieties ∧
    (State.createBale s k r value weighing).feed = s.feed ∧ (State.createBale s k r value weighing).kilns = s.kilns ∧
    (State.createBale s k r value weighing).scale = s.scale ∧
    (State.createBale s k r value weighing).press.queue = s.press.queue ∧
    (State.createBale s k r value weighing).press.tares = s.press.tares ∧
    (State.createBale s k r value weighing).tickets.baseSet = s.tickets.baseSet ∧
    (State.createBale s k r value weighing).mgmt.time = s.mgmt.time ∧
    (State.createBale s k r value weighing).mgmt.ticks = s.mgmt.ticks ∧
    (State.createBale s k r value weighing).mgmt.timeSet = s.mgmt.timeSet ∧
    (State.createBale s k r value weighing).mgmt.station = s.mgmt.station := by
  generalize h : (State.createBale s k r value weighing) = t
  unfold State.createBale at h
  (try dsimp only at h)
  (repeat' split at h) <;> subst h <;> simp

@[simp] theorem newCycle_frame (s : State) (value : Word32) (weighing : Bool) :
    (State.newCycle s value weighing).pending = s.pending ∧ (State.newCycle s value weighing).power = s.power ∧
    (State.newCycle s value weighing).link = s.link ∧ (State.newCycle s value weighing).classifier = s.classifier ∧
    (State.newCycle s value weighing).field.cadences = s.field.cadences ∧
    (State.newCycle s value weighing).field.pollQueue = s.field.pollQueue ∧
    (State.newCycle s value weighing).field.transaction = s.field.transaction ∧
    (State.newCycle s value weighing).field.passStreak = s.field.passStreak ∧
    (State.newCycle s value weighing).table.varieties = s.table.varieties ∧
    (State.newCycle s value weighing).feed = s.feed ∧ (State.newCycle s value weighing).kilns = s.kilns ∧
    (State.newCycle s value weighing).scale = s.scale ∧
    (State.newCycle s value weighing).press.queue = s.press.queue ∧
    (State.newCycle s value weighing).press.tares = s.press.tares ∧
    (State.newCycle s value weighing).tickets.baseSet = s.tickets.baseSet ∧
    (State.newCycle s value weighing).mgmt.time = s.mgmt.time ∧
    (State.newCycle s value weighing).mgmt.ticks = s.mgmt.ticks ∧
    (State.newCycle s value weighing).mgmt.timeSet = s.mgmt.timeSet ∧
    (State.newCycle s value weighing).mgmt.station = s.mgmt.station := by
  generalize h : (State.newCycle s value weighing) = t
  unfold State.newCycle at h
  (try dsimp only at h)
  (repeat' split at h) <;> subst h <;> simp

@[simp] theorem onScale_frame (s : State) (value : Word32) :
    (State.onScale s value).pending = s.pending ∧ (State.onScale s value).power = s.power ∧
    (State.onScale s value).link = s.link ∧ (State.onScale s value).classifier = s.classifier ∧
    (State.onScale s value).field.cadences = s.field.cadences ∧
    (State.onScale s value).field.pollQueue = s.field.pollQueue ∧
    (State.onScale s value).field.transaction = s.field.transaction ∧
    (State.onScale s value).field.passStreak = s.field.passStreak ∧
    (State.onScale s value).table.varieties = s.table.varieties ∧ (State.onScale s value).feed = s.feed ∧
    (State.onScale s value).kilns = s.kilns ∧ (State.onScale s value).press.queue = s.press.queue ∧
    (State.onScale s value).press.tares = s.press.tares ∧
    (State.onScale s value).tickets.baseSet = s.tickets.baseSet ∧ (State.onScale s value).mgmt.time = s.mgmt.time ∧
    (State.onScale s value).mgmt.ticks = s.mgmt.ticks ∧ (State.onScale s value).mgmt.timeSet = s.mgmt.timeSet ∧
    (State.onScale s value).mgmt.station = s.mgmt.station := by
  generalize h : (State.onScale s value) = t
  unfold State.onScale at h
  (try dsimp only at h)
  (repeat' split at h) <;> subst h <;> simp

@[simp] theorem offScale_frame (s : State) :
    (State.offScale s).pending = s.pending ∧ (State.offScale s).power = s.power ∧ (State.offScale s).link = s.link ∧
    (State.offScale s).classifier = s.classifier ∧ (State.offScale s).field.nodes = s.field.nodes ∧
    (State.offScale s).field.cadences = s.field.cadences ∧ (State.offScale s).field.pollQueue = s.field.pollQueue ∧
    (State.offScale s).field.commandQueue = s.field.commandQueue ∧
    (State.offScale s).field.transaction = s.field.transaction ∧
    (State.offScale s).field.passStreak = s.field.passStreak ∧
    (State.offScale s).table.varieties = s.table.varieties ∧ (State.offScale s).feed = s.feed ∧
    (State.offScale s).kilns = s.kilns ∧ (State.offScale s).press.queue = s.press.queue ∧
    (State.offScale s).press.tares = s.press.tares ∧ (State.offScale s).press.hold = s.press.hold ∧
    (State.offScale s).press.command = s.press.command ∧ (State.offScale s).tickets.baseSet = s.tickets.baseSet ∧
    (State.offScale s).tickets.nextBale = s.tickets.nextBale ∧
    (State.offScale s).tickets.lastBale = s.tickets.lastBale ∧ (State.offScale s).mgmt.time = s.mgmt.time ∧
    (State.offScale s).mgmt.ticks = s.mgmt.ticks ∧ (State.offScale s).mgmt.timeSet = s.mgmt.timeSet ∧
    (State.offScale s).mgmt.station = s.mgmt.station := by
  generalize h : (State.offScale s) = t
  unfold State.offScale at h
  (try dsimp only at h)
  (repeat' split at h) <;> subst h <;> simp

@[simp] theorem moisture_frame (s : State) (value : Word32) :
    (State.moisture s value).pending = s.pending ∧ (State.moisture s value).power = s.power ∧
    (State.moisture s value).link = s.link ∧ (State.moisture s value).classifier = s.classifier ∧
    (State.moisture s value).field = s.field ∧ (State.moisture s value).table = s.table ∧
    (State.moisture s value).feed = s.feed ∧ (State.moisture s value).kilns = s.kilns ∧
    (State.moisture s value).scale = s.scale ∧ (State.moisture s value).press.queue = s.press.queue ∧
    (State.moisture s value).press.tares = s.press.tares ∧ (State.moisture s value).press.cycle = s.press.cycle ∧
    (State.moisture s value).press.hold = s.press.hold ∧ (State.moisture s value).press.command = s.press.command ∧
    (State.moisture s value).tickets = s.tickets ∧ (State.moisture s value).mgmt = s.mgmt := by
  generalize h : (State.moisture s value) = t
  unfold State.moisture at h
  (try dsimp only at h)
  (repeat' split at h) <;> subst h <;> simp

@[simp] theorem advanceHead_frame (s : State) :
    (State.advanceHead s).pending = s.pending ∧ (State.advanceHead s).power = s.power ∧
    (State.advanceHead s).link = s.link ∧ (State.advanceHead s).classifier = s.classifier ∧
    (State.advanceHead s).field = s.field ∧ (State.advanceHead s).table.varieties = s.table.varieties ∧
    (State.advanceHead s).feed = s.feed ∧ (State.advanceHead s).kilns.entries = s.kilns.entries ∧
    (State.advanceHead s).kilns.schedules = s.kilns.schedules ∧ (State.advanceHead s).kilns.steps = s.kilns.steps ∧
    (State.advanceHead s).scale = s.scale ∧ (State.advanceHead s).press = s.press ∧
    (State.advanceHead s).tickets = s.tickets ∧ (State.advanceHead s).mgmt = s.mgmt := by
  generalize h : (State.advanceHead s) = t
  unfold State.advanceHead at h
  (try dsimp only at h)
  (repeat' split at h) <;> subst h <;> simp

@[simp] theorem unloadHead_frame (s : State) (k : Kiln) :
    (State.unloadHead s k).pending = s.pending ∧ (State.unloadHead s k).power = s.power ∧
    (State.unloadHead s k).link = s.link ∧ (State.unloadHead s k).classifier = s.classifier ∧
    (State.unloadHead s k).field.cadences = s.field.cadences ∧
    (State.unloadHead s k).field.pollQueue = s.field.pollQueue ∧
    (State.unloadHead s k).field.transaction = s.field.transaction ∧
    (State.unloadHead s k).field.passStreak = s.field.passStreak ∧
    (State.unloadHead s k).table.varieties = s.table.varieties ∧
    (State.unloadHead s k).feed.feedLot = s.feed.feedLot ∧ (State.unloadHead s k).feed.beltLot = s.feed.beltLot ∧
    (State.unloadHead s k).feed.changeover = s.feed.changeover ∧ (State.unloadHead s k).feed.timer = s.feed.timer ∧
    (State.unloadHead s k).feed.picker = s.feed.picker ∧ (State.unloadHead s k).feed.fillOrder = s.feed.fillOrder ∧
    (State.unloadHead s k).feed.unassigned = s.feed.unassigned ∧
    (State.unloadHead s k).kilns.entries = s.kilns.entries ∧
    (State.unloadHead s k).kilns.schedules = s.kilns.schedules ∧ (State.unloadHead s k).kilns.steps = s.kilns.steps ∧
    (State.unloadHead s k).scale = s.scale ∧ (State.unloadHead s k).press.tares = s.press.tares ∧
    (State.unloadHead s k).press.cycle = s.press.cycle ∧ (State.unloadHead s k).press.hold = s.press.hold ∧
    (State.unloadHead s k).tickets.baseSet = s.tickets.baseSet ∧
    (State.unloadHead s k).tickets.nextBale = s.tickets.nextBale ∧
    (State.unloadHead s k).tickets.lastBale = s.tickets.lastBale ∧ (State.unloadHead s k).mgmt.time = s.mgmt.time ∧
    (State.unloadHead s k).mgmt.ticks = s.mgmt.ticks ∧ (State.unloadHead s k).mgmt.timeSet = s.mgmt.timeSet ∧
    (State.unloadHead s k).mgmt.station = s.mgmt.station := by
  generalize h : (State.unloadHead s k) = t
  unfold State.unloadHead at h
  (try dsimp only at h)
  (repeat' split at h) <;> subst h <;> simp

@[simp] theorem unloadDone_frame (s : State) :
    (State.unloadDone s).pending = s.pending ∧ (State.unloadDone s).power = s.power ∧
    (State.unloadDone s).link = s.link ∧ (State.unloadDone s).classifier = s.classifier ∧
    (State.unloadDone s).field.cadences = s.field.cadences ∧
    (State.unloadDone s).field.pollQueue = s.field.pollQueue ∧
    (State.unloadDone s).field.transaction = s.field.transaction ∧
    (State.unloadDone s).field.passStreak = s.field.passStreak ∧
    (State.unloadDone s).table.varieties = s.table.varieties ∧ (State.unloadDone s).feed.feedLot = s.feed.feedLot ∧
    (State.unloadDone s).feed.beltLot = s.feed.beltLot ∧ (State.unloadDone s).feed.changeover = s.feed.changeover ∧
    (State.unloadDone s).feed.timer = s.feed.timer ∧ (State.unloadDone s).feed.picker = s.feed.picker ∧
    (State.unloadDone s).feed.fillOrder = s.feed.fillOrder ∧
    (State.unloadDone s).feed.unassigned = s.feed.unassigned ∧ (State.unloadDone s).kilns.entries = s.kilns.entries ∧
    (State.unloadDone s).kilns.schedules = s.kilns.schedules ∧ (State.unloadDone s).kilns.steps = s.kilns.steps ∧
    (State.unloadDone s).scale = s.scale ∧ (State.unloadDone s).press.tares = s.press.tares ∧
    (State.unloadDone s).press.cycle = s.press.cycle ∧ (State.unloadDone s).press.hold = s.press.hold ∧
    (State.unloadDone s).tickets.baseSet = s.tickets.baseSet ∧
    (State.unloadDone s).tickets.nextBale = s.tickets.nextBale ∧
    (State.unloadDone s).tickets.lastBale = s.tickets.lastBale ∧ (State.unloadDone s).mgmt.time = s.mgmt.time ∧
    (State.unloadDone s).mgmt.ticks = s.mgmt.ticks ∧ (State.unloadDone s).mgmt.timeSet = s.mgmt.timeSet ∧
    (State.unloadDone s).mgmt.station = s.mgmt.station := by
  generalize h : (State.unloadDone s) = t
  unfold State.unloadDone at h
  (try dsimp only at h)
  (repeat' split at h) <;> subst h <;> simp

@[simp] theorem performUnloadDone_frame (kiln : Byte) (s : State) :
    (performUnloadDone kiln s).state.pending = s.pending ∧ (performUnloadDone kiln s).state.power = s.power ∧
    (performUnloadDone kiln s).state.link = s.link ∧ (performUnloadDone kiln s).state.classifier = s.classifier ∧
    (performUnloadDone kiln s).state.field.cadences = s.field.cadences ∧
    (performUnloadDone kiln s).state.field.pollQueue = s.field.pollQueue ∧
    (performUnloadDone kiln s).state.field.transaction = s.field.transaction ∧
    (performUnloadDone kiln s).state.field.passStreak = s.field.passStreak ∧
    (performUnloadDone kiln s).state.table.varieties = s.table.varieties ∧
    (performUnloadDone kiln s).state.feed.feedLot = s.feed.feedLot ∧
    (performUnloadDone kiln s).state.feed.beltLot = s.feed.beltLot ∧
    (performUnloadDone kiln s).state.feed.changeover = s.feed.changeover ∧
    (performUnloadDone kiln s).state.feed.timer = s.feed.timer ∧
    (performUnloadDone kiln s).state.feed.fillOrder = s.feed.fillOrder ∧
    (performUnloadDone kiln s).state.feed.unassigned = s.feed.unassigned ∧
    (performUnloadDone kiln s).state.kilns.entries = s.kilns.entries ∧
    (performUnloadDone kiln s).state.kilns.schedules = s.kilns.schedules ∧
    (performUnloadDone kiln s).state.kilns.steps = s.kilns.steps ∧ (performUnloadDone kiln s).state.scale = s.scale ∧
    (performUnloadDone kiln s).state.press.tares = s.press.tares ∧
    (performUnloadDone kiln s).state.press.cycle = s.press.cycle ∧
    (performUnloadDone kiln s).state.press.hold = s.press.hold ∧
    (performUnloadDone kiln s).state.tickets.baseSet = s.tickets.baseSet ∧
    (performUnloadDone kiln s).state.tickets.nextBale = s.tickets.nextBale ∧
    (performUnloadDone kiln s).state.tickets.lastBale = s.tickets.lastBale ∧
    (performUnloadDone kiln s).state.mgmt.time = s.mgmt.time ∧
    (performUnloadDone kiln s).state.mgmt.ticks = s.mgmt.ticks ∧
    (performUnloadDone kiln s).state.mgmt.timeSet = s.mgmt.timeSet ∧
    (performUnloadDone kiln s).state.mgmt.station = s.mgmt.station := by
  generalize h : (performUnloadDone kiln s) = t
  unfold performUnloadDone at h
  (try dsimp only at h)
  (repeat' split at h) <;> subst h <;> simp

@[simp] theorem performPressHold_frame (flag : Byte) (s : State) :
    (performPressHold flag s).state.pending = s.pending ∧ (performPressHold flag s).state.power = s.power ∧
    (performPressHold flag s).state.link = s.link ∧ (performPressHold flag s).state.classifier = s.classifier ∧
    (performPressHold flag s).state.field.cadences = s.field.cadences ∧
    (performPressHold flag s).state.field.pollQueue = s.field.pollQueue ∧
    (performPressHold flag s).state.field.transaction = s.field.transaction ∧
    (performPressHold flag s).state.field.printRequest = s.field.printRequest ∧
    (performPressHold flag s).state.field.passStreak = s.field.passStreak ∧
    (performPressHold flag s).state.table = s.table ∧ (performPressHold flag s).state.feed = s.feed ∧
    (performPressHold flag s).state.kilns = s.kilns ∧ (performPressHold flag s).state.scale = s.scale ∧
    (performPressHold flag s).state.press.queue = s.press.queue ∧
    (performPressHold flag s).state.press.bales = s.press.bales ∧
    (performPressHold flag s).state.press.tares = s.press.tares ∧
    (performPressHold flag s).state.press.cycle = s.press.cycle ∧
    (performPressHold flag s).state.tickets = s.tickets ∧ (performPressHold flag s).state.mgmt = s.mgmt := by
  generalize h : (performPressHold flag s) = t
  unfold performPressHold at h
  (try dsimp only at h)
  (repeat' split at h) <;> subst h <;> simp

@[simp] theorem performBaleWeight_frame (bale gross : Word32) (s : State) :
    (performBaleWeight bale gross s).state.pending = s.pending ∧
    (performBaleWeight bale gross s).state.power = s.power ∧ (performBaleWeight bale gross s).state.link = s.link ∧
    (performBaleWeight bale gross s).state.classifier = s.classifier ∧
    (performBaleWeight bale gross s).state.field.nodes = s.field.nodes ∧
    (performBaleWeight bale gross s).state.field.cadences = s.field.cadences ∧
    (performBaleWeight bale gross s).state.field.pollQueue = s.field.pollQueue ∧
    (performBaleWeight bale gross s).state.field.commandQueue = s.field.commandQueue ∧
    (performBaleWeight bale gross s).state.field.transaction = s.field.transaction ∧
    (performBaleWeight bale gross s).state.field.passStreak = s.field.passStreak ∧
    (performBaleWeight bale gross s).state.table.varieties = s.table.varieties ∧
    (performBaleWeight bale gross s).state.feed = s.feed ∧ (performBaleWeight bale gross s).state.kilns = s.kilns ∧
    (performBaleWeight bale gross s).state.scale = s.scale ∧
    (performBaleWeight bale gross s).state.press.queue = s.press.queue ∧
    (performBaleWeight bale gross s).state.press.tares = s.press.tares ∧
    (performBaleWeight bale gross s).state.press.cycle = s.press.cycle ∧
    (performBaleWeight bale gross s).state.press.hold = s.press.hold ∧
    (performBaleWeight bale gross s).state.press.command = s.press.command ∧
    (performBaleWeight bale gross s).state.tickets.baseSet = s.tickets.baseSet ∧
    (performBaleWeight bale gross s).state.tickets.nextBale = s.tickets.nextBale ∧
    (performBaleWeight bale gross s).state.tickets.lastBale = s.tickets.lastBale ∧
    (performBaleWeight bale gross s).state.mgmt.time = s.mgmt.time ∧
    (performBaleWeight bale gross s).state.mgmt.ticks = s.mgmt.ticks ∧
    (performBaleWeight bale gross s).state.mgmt.timeSet = s.mgmt.timeSet ∧
    (performBaleWeight bale gross s).state.mgmt.station = s.mgmt.station := by
  generalize h : (performBaleWeight bale gross s) = t
  unfold performBaleWeight at h
  (try dsimp only at h)
  (repeat' split at h) <;> subst h <;> simp

@[simp] theorem performBaleRead_frame (bale : Word32) (s : State) :
    (performBaleRead bale s).state.pending = s.pending ∧ (performBaleRead bale s).state.power = s.power ∧
    (performBaleRead bale s).state.link = s.link ∧ (performBaleRead bale s).state.classifier = s.classifier ∧
    (performBaleRead bale s).state.field = s.field ∧ (performBaleRead bale s).state.table = s.table ∧
    (performBaleRead bale s).state.feed = s.feed ∧ (performBaleRead bale s).state.kilns = s.kilns ∧
    (performBaleRead bale s).state.scale = s.scale ∧ (performBaleRead bale s).state.press = s.press ∧
    (performBaleRead bale s).state.tickets = s.tickets ∧ (performBaleRead bale s).state.mgmt = s.mgmt := by
  generalize h : (performBaleRead bale s) = t
  unfold performBaleRead at h
  (try dsimp only at h)
  (repeat' split at h) <;> subst h <;> simp

@[simp] theorem performScaleRead_frame (s : State) :
    (performScaleRead s).state.pending = s.pending ∧ (performScaleRead s).state.power = s.power ∧
    (performScaleRead s).state.link = s.link ∧ (performScaleRead s).state.classifier = s.classifier ∧
    (performScaleRead s).state.field = s.field ∧ (performScaleRead s).state.table = s.table ∧
    (performScaleRead s).state.feed = s.feed ∧ (performScaleRead s).state.kilns = s.kilns ∧
    (performScaleRead s).state.scale = s.scale ∧ (performScaleRead s).state.press = s.press ∧
    (performScaleRead s).state.tickets = s.tickets ∧ (performScaleRead s).state.mgmt = s.mgmt := by
  generalize h : (performScaleRead s) = t
  unfold performScaleRead at h
  (try dsimp only at h)
  (repeat' split at h) <;> subst h <;> simp

@[simp] theorem performScaleZero_frame (s : State) :
    (performScaleZero s).state.pending = s.pending ∧ (performScaleZero s).state.power = s.power ∧
    (performScaleZero s).state.link = s.link ∧ (performScaleZero s).state.classifier = s.classifier ∧
    (performScaleZero s).state.field = s.field ∧ (performScaleZero s).state.table = s.table ∧
    (performScaleZero s).state.feed = s.feed ∧ (performScaleZero s).state.kilns = s.kilns ∧
    (performScaleZero s).state.press = s.press ∧ (performScaleZero s).state.tickets = s.tickets ∧
    (performScaleZero s).state.mgmt = s.mgmt := by
  generalize h : (performScaleZero s) = t
  unfold performScaleZero at h
  (try dsimp only at h)
  (repeat' split at h) <;> subst h <;> simp

@[simp] theorem performScaleCommand_frame (word : Byte) (s : State) :
    (performScaleCommand word s).state.pending = s.pending ∧ (performScaleCommand word s).state.power = s.power ∧
    (performScaleCommand word s).state.link = s.link ∧ (performScaleCommand word s).state.classifier = s.classifier ∧
    (performScaleCommand word s).state.field = s.field ∧ (performScaleCommand word s).state.table = s.table ∧
    (performScaleCommand word s).state.feed = s.feed ∧ (performScaleCommand word s).state.kilns = s.kilns ∧
    (performScaleCommand word s).state.press = s.press ∧ (performScaleCommand word s).state.tickets = s.tickets ∧
    (performScaleCommand word s).state.mgmt = s.mgmt := by
  generalize h : (performScaleCommand word s) = t
  unfold performScaleCommand at h
  (try dsimp only at h)
  (repeat' split at h) <;> subst h <;> simp

@[simp] theorem nodeAnswered_frame (s : State) (i : NodeIdx) :
    (State.nodeAnswered s i).pending = s.pending ∧ (State.nodeAnswered s i).power = s.power ∧
    (State.nodeAnswered s i).link = s.link ∧ (State.nodeAnswered s i).classifier = s.classifier ∧
    (State.nodeAnswered s i).field.cadences = s.field.cadences ∧
    (State.nodeAnswered s i).field.pollQueue = s.field.pollQueue ∧
    (State.nodeAnswered s i).field.commandQueue = s.field.commandQueue ∧
    (State.nodeAnswered s i).field.transaction = s.field.transaction ∧
    (State.nodeAnswered s i).field.printRequest = s.field.printRequest ∧
    (State.nodeAnswered s i).field.passStreak = s.field.passStreak ∧ (State.nodeAnswered s i).table = s.table ∧
    (State.nodeAnswered s i).feed = s.feed ∧ (State.nodeAnswered s i).kilns = s.kilns ∧
    (State.nodeAnswered s i).scale = s.scale ∧ (State.nodeAnswered s i).press = s.press ∧
    (State.nodeAnswered s i).tickets = s.tickets ∧ (State.nodeAnswered s i).mgmt.time = s.mgmt.time ∧
    (State.nodeAnswered s i).mgmt.ticks = s.mgmt.ticks ∧ (State.nodeAnswered s i).mgmt.timeSet = s.mgmt.timeSet ∧
    (State.nodeAnswered s i).mgmt.station = s.mgmt.station := by
  generalize h : (State.nodeAnswered s i) = t
  unfold State.nodeAnswered at h
  (try dsimp only at h)
  (repeat' split at h) <;> subst h <;> simp

@[simp] theorem reportAnswer_frame (s : State) (i : NodeIdx) :
    (State.reportAnswer s i).pending = s.pending ∧ (State.reportAnswer s i).power = s.power ∧
    (State.reportAnswer s i).link = s.link ∧ (State.reportAnswer s i).classifier = s.classifier ∧
    (State.reportAnswer s i).field.cadences = s.field.cadences ∧
    (State.reportAnswer s i).field.pollQueue = s.field.pollQueue ∧
    (State.reportAnswer s i).field.transaction = s.field.transaction ∧
    (State.reportAnswer s i).field.passStreak = s.field.passStreak ∧
    (State.reportAnswer s i).table.varieties = s.table.varieties ∧
    (State.reportAnswer s i).feed.feedLot = s.feed.feedLot ∧ (State.reportAnswer s i).feed.timer = s.feed.timer ∧
    (State.reportAnswer s i).feed.picker = s.feed.picker ∧
    (State.reportAnswer s i).feed.fillOrder = s.feed.fillOrder ∧
    (State.reportAnswer s i).feed.unassigned = s.feed.unassigned ∧
    (State.reportAnswer s i).kilns.entries = s.kilns.entries ∧
    (State.reportAnswer s i).kilns.schedules = s.kilns.schedules ∧
    (State.reportAnswer s i).kilns.steps = s.kilns.steps ∧ (State.reportAnswer s i).scale = s.scale ∧
    (State.reportAnswer s i).press.bales = s.press.bales ∧ (State.reportAnswer s i).press.tares = s.press.tares ∧
    (State.reportAnswer s i).press.cycle = s.press.cycle ∧ (State.reportAnswer s i).press.hold = s.press.hold ∧
    (State.reportAnswer s i).tickets.baseSet = s.tickets.baseSet ∧
    (State.reportAnswer s i).tickets.nextTicket = s.tickets.nextTicket ∧
    (State.reportAnswer s i).tickets.lastTicket = s.tickets.lastTicket ∧
    (State.reportAnswer s i).tickets.nextBale = s.tickets.nextBale ∧
    (State.reportAnswer s i).tickets.lastBale = s.tickets.lastBale ∧
    (State.reportAnswer s i).tickets.wait = s.tickets.wait ∧ (State.reportAnswer s i).mgmt.time = s.mgmt.time ∧
    (State.reportAnswer s i).mgmt.ticks = s.mgmt.ticks ∧ (State.reportAnswer s i).mgmt.timeSet = s.mgmt.timeSet ∧
    (State.reportAnswer s i).mgmt.station = s.mgmt.station := by
  generalize h : (State.reportAnswer s i) = t
  unfold State.reportAnswer at h
  (try dsimp only at h)
  (repeat' split at h) <;> subst h <;> simp

@[simp] theorem holdBound_frame (s : State) (n : Node) (reason : HoldReason) :
    (State.holdBound s n reason).pending = s.pending ∧ (State.holdBound s n reason).power = s.power ∧
    (State.holdBound s n reason).link = s.link ∧ (State.holdBound s n reason).classifier = s.classifier ∧
    (State.holdBound s n reason).field.cadences = s.field.cadences ∧
    (State.holdBound s n reason).field.pollQueue = s.field.pollQueue ∧
    (State.holdBound s n reason).field.transaction = s.field.transaction ∧
    (State.holdBound s n reason).field.printRequest = s.field.printRequest ∧
    (State.holdBound s n reason).field.passStreak = s.field.passStreak ∧
    (State.holdBound s n reason).table = s.table ∧ (State.holdBound s n reason).feed = s.feed ∧
    (State.holdBound s n reason).kilns.entries = s.kilns.entries ∧
    (State.holdBound s n reason).kilns.schedules = s.kilns.schedules ∧
    (State.holdBound s n reason).kilns.steps = s.kilns.steps ∧ (State.holdBound s n reason).scale = s.scale ∧
    (State.holdBound s n reason).press = s.press ∧ (State.holdBound s n reason).tickets = s.tickets ∧
    (State.holdBound s n reason).mgmt.time = s.mgmt.time ∧ (State.holdBound s n reason).mgmt.ticks = s.mgmt.ticks ∧
    (State.holdBound s n reason).mgmt.timeSet = s.mgmt.timeSet ∧
    (State.holdBound s n reason).mgmt.station = s.mgmt.station := by
  generalize h : (State.holdBound s n reason) = t
  unfold State.holdBound at h
  (try dsimp only at h)
  (repeat' split at h) <;> subst h <;> simp

@[simp] theorem reportLost_frame (s : State) (n : Node) :
    (State.reportLost s n).pending = s.pending ∧ (State.reportLost s n).power = s.power ∧
    (State.reportLost s n).link = s.link ∧ (State.reportLost s n).classifier = s.classifier ∧
    (State.reportLost s n).field.cadences = s.field.cadences ∧
    (State.reportLost s n).field.pollQueue = s.field.pollQueue ∧
    (State.reportLost s n).field.transaction = s.field.transaction ∧
    (State.reportLost s n).field.printRequest = s.field.printRequest ∧
    (State.reportLost s n).field.passStreak = s.field.passStreak ∧ (State.reportLost s n).table = s.table ∧
    (State.reportLost s n).feed = s.feed ∧ (State.reportLost s n).kilns.entries = s.kilns.entries ∧
    (State.reportLost s n).kilns.schedules = s.kilns.schedules ∧ (State.reportLost s n).kilns.steps = s.kilns.steps ∧
    (State.reportLost s n).scale = s.scale ∧ (State.reportLost s n).press = s.press ∧
    (State.reportLost s n).tickets.baseSet = s.tickets.baseSet ∧
    (State.reportLost s n).tickets.nextTicket = s.tickets.nextTicket ∧
    (State.reportLost s n).tickets.lastTicket = s.tickets.lastTicket ∧
    (State.reportLost s n).tickets.nextBale = s.tickets.nextBale ∧
    (State.reportLost s n).tickets.lastBale = s.tickets.lastBale ∧
    (State.reportLost s n).tickets.wait = s.tickets.wait ∧ (State.reportLost s n).tickets.queue = s.tickets.queue ∧
    (State.reportLost s n).mgmt.time = s.mgmt.time ∧ (State.reportLost s n).mgmt.ticks = s.mgmt.ticks ∧
    (State.reportLost s n).mgmt.timeSet = s.mgmt.timeSet ∧ (State.reportLost s n).mgmt.station = s.mgmt.station := by
  generalize h : (State.reportLost s n) = t
  unfold State.reportLost at h
  (try dsimp only at h)
  (repeat' split at h) <;> subst h <;> simp

@[simp] theorem nodeMissed_frame (s : State) (i : NodeIdx) :
    (State.nodeMissed s i).pending = s.pending ∧ (State.nodeMissed s i).power = s.power ∧
    (State.nodeMissed s i).link = s.link ∧ (State.nodeMissed s i).classifier = s.classifier ∧
    (State.nodeMissed s i).field.cadences = s.field.cadences ∧
    (State.nodeMissed s i).field.pollQueue = s.field.pollQueue ∧
    (State.nodeMissed s i).field.transaction = s.field.transaction ∧
    (State.nodeMissed s i).field.printRequest = s.field.printRequest ∧
    (State.nodeMissed s i).field.passStreak = s.field.passStreak ∧ (State.nodeMissed s i).table = s.table ∧
    (State.nodeMissed s i).feed = s.feed ∧ (State.nodeMissed s i).kilns.entries = s.kilns.entries ∧
    (State.nodeMissed s i).kilns.schedules = s.kilns.schedules ∧ (State.nodeMissed s i).kilns.steps = s.kilns.steps ∧
    (State.nodeMissed s i).scale = s.scale ∧ (State.nodeMissed s i).press = s.press ∧
    (State.nodeMissed s i).tickets.baseSet = s.tickets.baseSet ∧
    (State.nodeMissed s i).tickets.nextTicket = s.tickets.nextTicket ∧
    (State.nodeMissed s i).tickets.lastTicket = s.tickets.lastTicket ∧
    (State.nodeMissed s i).tickets.nextBale = s.tickets.nextBale ∧
    (State.nodeMissed s i).tickets.lastBale = s.tickets.lastBale ∧
    (State.nodeMissed s i).tickets.wait = s.tickets.wait ∧ (State.nodeMissed s i).tickets.queue = s.tickets.queue ∧
    (State.nodeMissed s i).mgmt.time = s.mgmt.time ∧ (State.nodeMissed s i).mgmt.ticks = s.mgmt.ticks ∧
    (State.nodeMissed s i).mgmt.timeSet = s.mgmt.timeSet ∧ (State.nodeMissed s i).mgmt.station = s.mgmt.station := by
  generalize h : (State.nodeMissed s i) = t
  unfold State.nodeMissed at h
  (try dsimp only at h)
  (repeat' split at h) <;> subst h <;> simp

@[simp] theorem missOn_frame (s : State) (t : Transaction) :
    (State.missOn s t).pending = s.pending ∧ (State.missOn s t).power = s.power ∧ (State.missOn s t).link = s.link ∧
    (State.missOn s t).classifier = s.classifier ∧ (State.missOn s t).field.cadences = s.field.cadences ∧
    (State.missOn s t).field.pollQueue = s.field.pollQueue ∧
    (State.missOn s t).field.transaction = s.field.transaction ∧
    (State.missOn s t).field.printRequest = s.field.printRequest ∧
    (State.missOn s t).field.passStreak = s.field.passStreak ∧ (State.missOn s t).table = s.table ∧
    (State.missOn s t).feed = s.feed ∧ (State.missOn s t).kilns.entries = s.kilns.entries ∧
    (State.missOn s t).kilns.schedules = s.kilns.schedules ∧ (State.missOn s t).kilns.steps = s.kilns.steps ∧
    (State.missOn s t).scale = s.scale ∧ (State.missOn s t).press = s.press ∧
    (State.missOn s t).tickets.baseSet = s.tickets.baseSet ∧
    (State.missOn s t).tickets.nextTicket = s.tickets.nextTicket ∧
    (State.missOn s t).tickets.lastTicket = s.tickets.lastTicket ∧
    (State.missOn s t).tickets.nextBale = s.tickets.nextBale ∧
    (State.missOn s t).tickets.lastBale = s.tickets.lastBale ∧ (State.missOn s t).tickets.wait = s.tickets.wait ∧
    (State.missOn s t).tickets.queue = s.tickets.queue ∧ (State.missOn s t).mgmt.time = s.mgmt.time ∧
    (State.missOn s t).mgmt.ticks = s.mgmt.ticks ∧ (State.missOn s t).mgmt.timeSet = s.mgmt.timeSet ∧
    (State.missOn s t).mgmt.station = s.mgmt.station := by
  generalize h : (State.missOn s t) = t
  unfold State.missOn at h
  (try dsimp only at h)
  (repeat' split at h) <;> subst h <;> simp

@[simp] theorem forward_frame (s : State) (f : Frame) :
    (State.forward s f).pending = s.pending ∧ (State.forward s f).power = s.power ∧
    (State.forward s f).link = s.link ∧ (State.forward s f).classifier.requests = s.classifier.requests ∧
    (State.forward s f).classifier.dropped = s.classifier.dropped ∧
    (State.forward s f).classifier.misdirected = s.classifier.misdirected ∧
    (State.forward s f).classifier.routes = s.classifier.routes ∧
    (State.forward s f).classifier.passQueue = s.classifier.passQueue ∧
    (State.forward s f).classifier.reply = s.classifier.reply ∧
    (State.forward s f).classifier.block = s.classifier.block ∧
    (State.forward s f).classifier.sending = s.classifier.sending ∧ (State.forward s f).field = s.field ∧
    (State.forward s f).table = s.table ∧ (State.forward s f).feed = s.feed ∧ (State.forward s f).kilns = s.kilns ∧
    (State.forward s f).scale = s.scale ∧ (State.forward s f).press = s.press ∧
    (State.forward s f).tickets = s.tickets ∧ (State.forward s f).mgmt = s.mgmt := by
  generalize h : (State.forward s f) = t
  unfold State.forward at h
  (try dsimp only at h)
  (repeat' split at h) <;> subst h <;> simp

@[simp] theorem applyRoute_frame (s : State) (r : Route) (i : NodeIdx) (f : Frame) :
    (State.applyRoute s r i f).pending = s.pending ∧ (State.applyRoute s r i f).power = s.power ∧
    (State.applyRoute s r i f).link = s.link ∧ (State.applyRoute s r i f).classifier = s.classifier ∧
    (State.applyRoute s r i f).field.cadences = s.field.cadences ∧
    (State.applyRoute s r i f).field.pollQueue = s.field.pollQueue ∧
    (State.applyRoute s r i f).field.transaction = s.field.transaction ∧
    (State.applyRoute s r i f).field.passStreak = s.field.passStreak ∧
    (State.applyRoute s r i f).table.varieties = s.table.varieties ∧
    (State.applyRoute s r i f).feed.feedLot = s.feed.feedLot ∧
    (State.applyRoute s r i f).feed.beltLot = s.feed.beltLot ∧
    (State.applyRoute s r i f).feed.changeover = s.feed.changeover ∧
    (State.applyRoute s r i f).feed.timer = s.feed.timer ∧ (State.applyRoute s r i f).feed.picker = s.feed.picker ∧
    (State.applyRoute s r i f).feed.fillOrder = s.feed.fillOrder ∧
    (State.applyRoute s r i f).kilns.entries = s.kilns.entries ∧
    (State.applyRoute s r i f).kilns.schedules = s.kilns.schedules ∧
    (State.applyRoute s r i f).kilns.steps = s.kilns.steps ∧ (State.applyRoute s r i f).press.tares = s.press.tares ∧
    (State.applyRoute s r i f).tickets.baseSet = s.tickets.baseSet ∧
    (State.applyRoute s r i f).mgmt.time = s.mgmt.time ∧ (State.applyRoute s r i f).mgmt.ticks = s.mgmt.ticks ∧
    (State.applyRoute s r i f).mgmt.timeSet = s.mgmt.timeSet ∧
    (State.applyRoute s r i f).mgmt.station = s.mgmt.station := by
  generalize h : (State.applyRoute s r i f) = t
  unfold State.applyRoute at h
  (try dsimp only at h)
  (repeat' split at h) <;> subst h <;> simp

@[simp] theorem jobAction_frame (s : State) (r : Route) (x : RouteIdx) (i : NodeIdx) (f : Frame) :
    (State.jobAction s r x i f).pending = s.pending ∧ (State.jobAction s r x i f).power = s.power ∧
    (State.jobAction s r x i f).link = s.link ∧ (State.jobAction s r x i f).classifier = s.classifier ∧
    (State.jobAction s r x i f).field.cadences = s.field.cadences ∧
    (State.jobAction s r x i f).field.pollQueue = s.field.pollQueue ∧
    (State.jobAction s r x i f).field.transaction = s.field.transaction ∧
    (State.jobAction s r x i f).field.passStreak = s.field.passStreak ∧
    (State.jobAction s r x i f).table.varieties = s.table.varieties ∧
    (State.jobAction s r x i f).feed.feedLot = s.feed.feedLot ∧
    (State.jobAction s r x i f).feed.beltLot = s.feed.beltLot ∧
    (State.jobAction s r x i f).feed.changeover = s.feed.changeover ∧
    (State.jobAction s r x i f).feed.timer = s.feed.timer ∧ (State.jobAction s r x i f).feed.picker = s.feed.picker ∧
    (State.jobAction s r x i f).feed.fillOrder = s.feed.fillOrder ∧
    (State.jobAction s r x i f).kilns.entries = s.kilns.entries ∧
    (State.jobAction s r x i f).kilns.schedules = s.kilns.schedules ∧
    (State.jobAction s r x i f).kilns.steps = s.kilns.steps ∧
    (State.jobAction s r x i f).press.tares = s.press.tares ∧
    (State.jobAction s r x i f).tickets.baseSet = s.tickets.baseSet ∧
    (State.jobAction s r x i f).mgmt.time = s.mgmt.time ∧ (State.jobAction s r x i f).mgmt.ticks = s.mgmt.ticks ∧
    (State.jobAction s r x i f).mgmt.timeSet = s.mgmt.timeSet ∧
    (State.jobAction s r x i f).mgmt.station = s.mgmt.station := by
  generalize h : (State.jobAction s r x i f) = t
  unfold State.jobAction at h
  (try dsimp only at h)
  (repeat' split at h) <;> subst h <;> simp

@[simp] theorem copyIf_frame (s : State) (c : Bool) (f : Frame) :
    (State.copyIf s c f).pending = s.pending ∧ (State.copyIf s c f).power = s.power ∧
    (State.copyIf s c f).link = s.link ∧ (State.copyIf s c f).classifier.requests = s.classifier.requests ∧
    (State.copyIf s c f).classifier.dropped = s.classifier.dropped ∧
    (State.copyIf s c f).classifier.misdirected = s.classifier.misdirected ∧
    (State.copyIf s c f).classifier.routes = s.classifier.routes ∧
    (State.copyIf s c f).classifier.passQueue = s.classifier.passQueue ∧
    (State.copyIf s c f).classifier.reply = s.classifier.reply ∧
    (State.copyIf s c f).classifier.block = s.classifier.block ∧
    (State.copyIf s c f).classifier.sending = s.classifier.sending ∧ (State.copyIf s c f).field = s.field ∧
    (State.copyIf s c f).table = s.table ∧ (State.copyIf s c f).feed = s.feed ∧ (State.copyIf s c f).kilns = s.kilns ∧
    (State.copyIf s c f).scale = s.scale ∧ (State.copyIf s c f).press = s.press ∧
    (State.copyIf s c f).tickets = s.tickets ∧ (State.copyIf s c f).mgmt = s.mgmt := by
  generalize h : (State.copyIf s c f) = t
  unfold State.copyIf at h
  (try dsimp only at h)
  (repeat' split at h) <;> subst h <;> simp

@[simp] theorem classify_frame (s : State) (i : NodeIdx) (f : Frame) :
    (State.classify s i f).pending = s.pending ∧ (State.classify s i f).power = s.power ∧
    (State.classify s i f).link = s.link ∧ (State.classify s i f).classifier.requests = s.classifier.requests ∧
    (State.classify s i f).classifier.dropped = s.classifier.dropped ∧
    (State.classify s i f).classifier.misdirected = s.classifier.misdirected ∧
    (State.classify s i f).classifier.routes = s.classifier.routes ∧
    (State.classify s i f).classifier.passQueue = s.classifier.passQueue ∧
    (State.classify s i f).classifier.reply = s.classifier.reply ∧
    (State.classify s i f).classifier.block = s.classifier.block ∧
    (State.classify s i f).classifier.sending = s.classifier.sending ∧
    (State.classify s i f).field.cadences = s.field.cadences ∧
    (State.classify s i f).field.pollQueue = s.field.pollQueue ∧
    (State.classify s i f).field.transaction = s.field.transaction ∧
    (State.classify s i f).field.passStreak = s.field.passStreak ∧
    (State.classify s i f).table.varieties = s.table.varieties ∧
    (State.classify s i f).feed.feedLot = s.feed.feedLot ∧ (State.classify s i f).feed.beltLot = s.feed.beltLot ∧
    (State.classify s i f).feed.changeover = s.feed.changeover ∧ (State.classify s i f).feed.timer = s.feed.timer ∧
    (State.classify s i f).feed.picker = s.feed.picker ∧ (State.classify s i f).feed.fillOrder = s.feed.fillOrder ∧
    (State.classify s i f).kilns.entries = s.kilns.entries ∧
    (State.classify s i f).kilns.schedules = s.kilns.schedules ∧ (State.classify s i f).kilns.steps = s.kilns.steps ∧
    (State.classify s i f).press.tares = s.press.tares ∧ (State.classify s i f).tickets.baseSet = s.tickets.baseSet ∧
    (State.classify s i f).mgmt.time = s.mgmt.time ∧ (State.classify s i f).mgmt.ticks = s.mgmt.ticks ∧
    (State.classify s i f).mgmt.timeSet = s.mgmt.timeSet ∧ (State.classify s i f).mgmt.station = s.mgmt.station := by
  generalize h : (State.classify s i f) = t
  unfold State.classify at h
  (try dsimp only at h)
  (repeat' split at h) <;> subst h <;> simp

@[simp] theorem endTransaction_frame (s : State) :
    (State.endTransaction s).pending = s.pending ∧ (State.endTransaction s).power = s.power ∧
    (State.endTransaction s).link = s.link ∧ (State.endTransaction s).classifier = s.classifier ∧
    (State.endTransaction s).field.nodes = s.field.nodes ∧
    (State.endTransaction s).field.cadences = s.field.cadences ∧
    (State.endTransaction s).field.pollQueue = s.field.pollQueue ∧
    (State.endTransaction s).field.commandQueue = s.field.commandQueue ∧
    (State.endTransaction s).field.printRequest = s.field.printRequest ∧
    (State.endTransaction s).field.passStreak = s.field.passStreak ∧ (State.endTransaction s).table = s.table ∧
    (State.endTransaction s).feed = s.feed ∧ (State.endTransaction s).kilns = s.kilns ∧
    (State.endTransaction s).scale = s.scale ∧ (State.endTransaction s).press = s.press ∧
    (State.endTransaction s).tickets = s.tickets ∧ (State.endTransaction s).mgmt = s.mgmt := by
  generalize h : (State.endTransaction s) = t
  unfold State.endTransaction at h
  (try dsimp only at h)
  (repeat' split at h) <;> subst h <;> simp

@[simp] theorem countUnsolicited_frame (s : State) :
    (State.countUnsolicited s).pending = s.pending ∧ (State.countUnsolicited s).power = s.power ∧
    (State.countUnsolicited s).link.addr = s.link.addr ∧ (State.countUnsolicited s).link.upRate = s.link.upRate ∧
    (State.countUnsolicited s).link.fpRate = s.link.fpRate ∧ (State.countUnsolicited s).link.live = s.link.live ∧
    (State.countUnsolicited s).link.silence = s.link.silence ∧ (State.countUnsolicited s).link.up = s.link.up ∧
    (State.countUnsolicited s).link.fp = s.link.fp ∧ (State.countUnsolicited s).link.upOverlong = s.link.upOverlong ∧
    (State.countUnsolicited s).link.fpOverlong = s.link.fpOverlong ∧
    (State.countUnsolicited s).link.fpReceiving = s.link.fpReceiving ∧
    (State.countUnsolicited s).link.driver = s.link.driver ∧ (State.countUnsolicited s).classifier = s.classifier ∧
    (State.countUnsolicited s).field = s.field ∧ (State.countUnsolicited s).table = s.table ∧
    (State.countUnsolicited s).feed = s.feed ∧ (State.countUnsolicited s).kilns = s.kilns ∧
    (State.countUnsolicited s).scale = s.scale ∧ (State.countUnsolicited s).press = s.press ∧
    (State.countUnsolicited s).tickets = s.tickets ∧ (State.countUnsolicited s).mgmt = s.mgmt := by
  generalize h : (State.countUnsolicited s) = t
  unfold State.countUnsolicited at h
  (try dsimp only at h)
  (repeat' split at h) <;> subst h <;> simp

@[simp] theorem pollAnswered_frame (s : State) (i : NodeIdx) (f : Frame) :
    (State.pollAnswered s i f).pending = s.pending ∧ (State.pollAnswered s i f).power = s.power ∧
    (State.pollAnswered s i f).link = s.link ∧
    (State.pollAnswered s i f).classifier.requests = s.classifier.requests ∧
    (State.pollAnswered s i f).classifier.dropped = s.classifier.dropped ∧
    (State.pollAnswered s i f).classifier.misdirected = s.classifier.misdirected ∧
    (State.pollAnswered s i f).classifier.routes = s.classifier.routes ∧
    (State.pollAnswered s i f).classifier.passQueue = s.classifier.passQueue ∧
    (State.pollAnswered s i f).classifier.reply = s.classifier.reply ∧
    (State.pollAnswered s i f).classifier.block = s.classifier.block ∧
    (State.pollAnswered s i f).classifier.sending = s.classifier.sending ∧
    (State.pollAnswered s i f).field.cadences = s.field.cadences ∧
    (State.pollAnswered s i f).field.pollQueue = s.field.pollQueue ∧
    (State.pollAnswered s i f).field.transaction = s.field.transaction ∧
    (State.pollAnswered s i f).field.passStreak = s.field.passStreak ∧
    (State.pollAnswered s i f).table.varieties = s.table.varieties ∧
    (State.pollAnswered s i f).feed.feedLot = s.feed.feedLot ∧
    (State.pollAnswered s i f).feed.beltLot = s.feed.beltLot ∧
    (State.pollAnswered s i f).feed.changeover = s.feed.changeover ∧
    (State.pollAnswered s i f).feed.timer = s.feed.timer ∧ (State.pollAnswered s i f).feed.picker = s.feed.picker ∧
    (State.pollAnswered s i f).feed.fillOrder = s.feed.fillOrder ∧
    (State.pollAnswered s i f).kilns.entries = s.kilns.entries ∧
    (State.pollAnswered s i f).kilns.schedules = s.kilns.schedules ∧
    (State.pollAnswered s i f).kilns.steps = s.kilns.steps ∧ (State.pollAnswered s i f).press.tares = s.press.tares ∧
    (State.pollAnswered s i f).tickets.baseSet = s.tickets.baseSet ∧
    (State.pollAnswered s i f).mgmt.time = s.mgmt.time ∧ (State.pollAnswered s i f).mgmt.ticks = s.mgmt.ticks ∧
    (State.pollAnswered s i f).mgmt.timeSet = s.mgmt.timeSet ∧
    (State.pollAnswered s i f).mgmt.station = s.mgmt.station := by
  generalize h : (State.pollAnswered s i f) = t
  unfold State.pollAnswered at h
  (try dsimp only at h)
  (repeat' split at h) <;> subst h <;> simp

@[simp] theorem reportConfirmed_frame (s : State) (c : Commanded) :
    (State.reportConfirmed s c).pending = s.pending ∧ (State.reportConfirmed s c).power = s.power ∧
    (State.reportConfirmed s c).link = s.link ∧ (State.reportConfirmed s c).classifier = s.classifier ∧
    (State.reportConfirmed s c).field = s.field ∧ (State.reportConfirmed s c).table = s.table ∧
    (State.reportConfirmed s c).feed.feedLot = s.feed.feedLot ∧
    (State.reportConfirmed s c).feed.beltLot = s.feed.beltLot ∧
    (State.reportConfirmed s c).feed.changeover = s.feed.changeover ∧
    (State.reportConfirmed s c).feed.timer = s.feed.timer ∧ (State.reportConfirmed s c).feed.picker = s.feed.picker ∧
    (State.reportConfirmed s c).feed.fillOrder = s.feed.fillOrder ∧
    (State.reportConfirmed s c).feed.loading = s.feed.loading ∧
    (State.reportConfirmed s c).feed.unassigned = s.feed.unassigned ∧ (State.reportConfirmed s c).kilns = s.kilns ∧
    (State.reportConfirmed s c).scale = s.scale ∧ (State.reportConfirmed s c).press = s.press ∧
    (State.reportConfirmed s c).tickets = s.tickets ∧ (State.reportConfirmed s c).mgmt = s.mgmt := by
  generalize h : (State.reportConfirmed s c) = t
  unfold State.reportConfirmed at h
  (try dsimp only at h)
  (repeat' split at h) <;> subst h <;> simp

@[simp] theorem commandAnswered_frame (s : State) (i : NodeIdx) (code : Byte) (f : Frame) :
    (State.commandAnswered s i code f).pending = s.pending ∧ (State.commandAnswered s i code f).power = s.power ∧
    (State.commandAnswered s i code f).link = s.link ∧ (State.commandAnswered s i code f).classifier = s.classifier ∧
    (State.commandAnswered s i code f).field.cadences = s.field.cadences ∧
    (State.commandAnswered s i code f).field.pollQueue = s.field.pollQueue ∧
    (State.commandAnswered s i code f).field.commandQueue = s.field.commandQueue ∧
    (State.commandAnswered s i code f).field.transaction = s.field.transaction ∧
    (State.commandAnswered s i code f).field.printRequest = s.field.printRequest ∧
    (State.commandAnswered s i code f).field.passStreak = s.field.passStreak ∧
    (State.commandAnswered s i code f).table = s.table ∧
    (State.commandAnswered s i code f).feed.feedLot = s.feed.feedLot ∧
    (State.commandAnswered s i code f).feed.beltLot = s.feed.beltLot ∧
    (State.commandAnswered s i code f).feed.changeover = s.feed.changeover ∧
    (State.commandAnswered s i code f).feed.timer = s.feed.timer ∧
    (State.commandAnswered s i code f).feed.picker = s.feed.picker ∧
    (State.commandAnswered s i code f).feed.fillOrder = s.feed.fillOrder ∧
    (State.commandAnswered s i code f).feed.loading = s.feed.loading ∧
    (State.commandAnswered s i code f).feed.unassigned = s.feed.unassigned ∧
    (State.commandAnswered s i code f).kilns = s.kilns ∧ (State.commandAnswered s i code f).scale = s.scale ∧
    (State.commandAnswered s i code f).press = s.press ∧ (State.commandAnswered s i code f).tickets = s.tickets ∧
    (State.commandAnswered s i code f).mgmt.time = s.mgmt.time ∧
    (State.commandAnswered s i code f).mgmt.ticks = s.mgmt.ticks ∧
    (State.commandAnswered s i code f).mgmt.timeSet = s.mgmt.timeSet ∧
    (State.commandAnswered s i code f).mgmt.station = s.mgmt.station := by
  generalize h : (State.commandAnswered s i code f) = t
  unfold State.commandAnswered at h
  (try dsimp only at h)
  (repeat' split at h) <;> subst h <;> simp

@[simp] theorem blockAnswered_frame (s : State) (i : NodeIdx) (ticket : Nat) (f : Frame) :
    (State.blockAnswered s i ticket f).pending = s.pending ∧ (State.blockAnswered s i ticket f).power = s.power ∧
    (State.blockAnswered s i ticket f).link = s.link ∧ (State.blockAnswered s i ticket f).classifier = s.classifier ∧
    (State.blockAnswered s i ticket f).field.nodes = s.field.nodes ∧
    (State.blockAnswered s i ticket f).field.cadences = s.field.cadences ∧
    (State.blockAnswered s i ticket f).field.pollQueue = s.field.pollQueue ∧
    (State.blockAnswered s i ticket f).field.commandQueue = s.field.commandQueue ∧
    (State.blockAnswered s i ticket f).field.transaction = s.field.transaction ∧
    (State.blockAnswered s i ticket f).field.passStreak = s.field.passStreak ∧
    (State.blockAnswered s i ticket f).table = s.table ∧ (State.blockAnswered s i ticket f).feed = s.feed ∧
    (State.blockAnswered s i ticket f).kilns = s.kilns ∧ (State.blockAnswered s i ticket f).scale = s.scale ∧
    (State.blockAnswered s i ticket f).press = s.press ∧
    (State.blockAnswered s i ticket f).tickets.baseSet = s.tickets.baseSet ∧
    (State.blockAnswered s i ticket f).tickets.nextTicket = s.tickets.nextTicket ∧
    (State.blockAnswered s i ticket f).tickets.lastTicket = s.tickets.lastTicket ∧
    (State.blockAnswered s i ticket f).tickets.nextBale = s.tickets.nextBale ∧
    (State.blockAnswered s i ticket f).tickets.lastBale = s.tickets.lastBale ∧
    (State.blockAnswered s i ticket f).tickets.wait = s.tickets.wait ∧
    (State.blockAnswered s i ticket f).mgmt.time = s.mgmt.time ∧
    (State.blockAnswered s i ticket f).mgmt.ticks = s.mgmt.ticks ∧
    (State.blockAnswered s i ticket f).mgmt.timeSet = s.mgmt.timeSet ∧
    (State.blockAnswered s i ticket f).mgmt.station = s.mgmt.station := by
  generalize h : (State.blockAnswered s i ticket f) = t
  unfold State.blockAnswered at h
  (try dsimp only at h)
  (repeat' split at h) <;> subst h <;> simp

@[simp] theorem answerBody_frame (s : State) (t : Transaction) (i : NodeIdx) (f : Frame) :
    (State.answerBody s t i f).pending = s.pending ∧ (State.answerBody s t i f).power = s.power ∧
    (State.answerBody s t i f).link = s.link ∧
    (State.answerBody s t i f).classifier.requests = s.classifier.requests ∧
    (State.answerBody s t i f).classifier.dropped = s.classifier.dropped ∧
    (State.answerBody s t i f).classifier.misdirected = s.classifier.misdirected ∧
    (State.answerBody s t i f).classifier.routes = s.classifier.routes ∧
    (State.answerBody s t i f).classifier.passQueue = s.classifier.passQueue ∧
    (State.answerBody s t i f).classifier.reply = s.classifier.reply ∧
    (State.answerBody s t i f).classifier.block = s.classifier.block ∧
    (State.answerBody s t i f).classifier.sending = s.classifier.sending ∧
    (State.answerBody s t i f).field.cadences = s.field.cadences ∧
    (State.answerBody s t i f).field.pollQueue = s.field.pollQueue ∧
    (State.answerBody s t i f).field.transaction = s.field.transaction ∧
    (State.answerBody s t i f).field.passStreak = s.field.passStreak ∧
    (State.answerBody s t i f).table.varieties = s.table.varieties ∧
    (State.answerBody s t i f).feed.feedLot = s.feed.feedLot ∧
    (State.answerBody s t i f).feed.beltLot = s.feed.beltLot ∧
    (State.answerBody s t i f).feed.changeover = s.feed.changeover ∧
    (State.answerBody s t i f).feed.timer = s.feed.timer ∧ (State.answerBody s t i f).feed.picker = s.feed.picker ∧
    (State.answerBody s t i f).feed.fillOrder = s.feed.fillOrder ∧
    (State.answerBody s t i f).kilns.entries = s.kilns.entries ∧
    (State.answerBody s t i f).kilns.schedules = s.kilns.schedules ∧
    (State.answerBody s t i f).kilns.steps = s.kilns.steps ∧ (State.answerBody s t i f).press.tares = s.press.tares ∧
    (State.answerBody s t i f).tickets.baseSet = s.tickets.baseSet ∧
    (State.answerBody s t i f).mgmt.time = s.mgmt.time ∧ (State.answerBody s t i f).mgmt.ticks = s.mgmt.ticks ∧
    (State.answerBody s t i f).mgmt.timeSet = s.mgmt.timeSet ∧
    (State.answerBody s t i f).mgmt.station = s.mgmt.station := by
  generalize h : (State.answerBody s t i f) = t
  unfold State.answerBody at h
  (try dsimp only at h)
  (repeat' split at h) <;> subst h <;> simp

@[simp] theorem answered_frame (s : State) (t : Transaction) (f : Frame) :
    (State.answered s t f).pending = s.pending ∧ (State.answered s t f).power = s.power ∧
    (State.answered s t f).link.addr = s.link.addr ∧ (State.answered s t f).link.upRate = s.link.upRate ∧
    (State.answered s t f).link.fpRate = s.link.fpRate ∧ (State.answered s t f).link.live = s.link.live ∧
    (State.answered s t f).link.silence = s.link.silence ∧ (State.answered s t f).link.up = s.link.up ∧
    (State.answered s t f).link.fp = s.link.fp ∧ (State.answered s t f).link.upOverlong = s.link.upOverlong ∧
    (State.answered s t f).link.fpOverlong = s.link.fpOverlong ∧
    (State.answered s t f).link.fpReceiving = s.link.fpReceiving ∧
    (State.answered s t f).link.driver = s.link.driver ∧
    (State.answered s t f).classifier.requests = s.classifier.requests ∧
    (State.answered s t f).classifier.dropped = s.classifier.dropped ∧
    (State.answered s t f).classifier.misdirected = s.classifier.misdirected ∧
    (State.answered s t f).classifier.routes = s.classifier.routes ∧
    (State.answered s t f).classifier.passQueue = s.classifier.passQueue ∧
    (State.answered s t f).classifier.reply = s.classifier.reply ∧
    (State.answered s t f).classifier.block = s.classifier.block ∧
    (State.answered s t f).classifier.sending = s.classifier.sending ∧
    (State.answered s t f).field.cadences = s.field.cadences ∧
    (State.answered s t f).field.pollQueue = s.field.pollQueue ∧
    (State.answered s t f).field.passStreak = s.field.passStreak ∧
    (State.answered s t f).table.varieties = s.table.varieties ∧
    (State.answered s t f).feed.feedLot = s.feed.feedLot ∧ (State.answered s t f).feed.timer = s.feed.timer ∧
    (State.answered s t f).feed.picker = s.feed.picker ∧ (State.answered s t f).feed.fillOrder = s.feed.fillOrder ∧
    (State.answered s t f).kilns.entries = s.kilns.entries ∧
    (State.answered s t f).kilns.schedules = s.kilns.schedules ∧ (State.answered s t f).kilns.steps = s.kilns.steps ∧
    (State.answered s t f).press.tares = s.press.tares ∧ (State.answered s t f).tickets.baseSet = s.tickets.baseSet ∧
    (State.answered s t f).mgmt.time = s.mgmt.time ∧ (State.answered s t f).mgmt.ticks = s.mgmt.ticks ∧
    (State.answered s t f).mgmt.timeSet = s.mgmt.timeSet ∧ (State.answered s t f).mgmt.station = s.mgmt.station := by
  generalize h : (State.answered s t f) = t
  unfold State.answered at h
  (try dsimp only at h)
  (repeat' split at h) <;> subst h <;> simp

@[simp] theorem expired_frame (s : State) (t : Transaction) :
    (State.expired s t).pending = s.pending ∧ (State.expired s t).power = s.power ∧
    (State.expired s t).link = s.link ∧ (State.expired s t).classifier = s.classifier ∧
    (State.expired s t).field.cadences = s.field.cadences ∧ (State.expired s t).field.pollQueue = s.field.pollQueue ∧
    (State.expired s t).field.printRequest = s.field.printRequest ∧
    (State.expired s t).field.passStreak = s.field.passStreak ∧ (State.expired s t).table = s.table ∧
    (State.expired s t).feed = s.feed ∧ (State.expired s t).kilns.entries = s.kilns.entries ∧
    (State.expired s t).kilns.schedules = s.kilns.schedules ∧ (State.expired s t).kilns.steps = s.kilns.steps ∧
    (State.expired s t).scale = s.scale ∧ (State.expired s t).press = s.press ∧
    (State.expired s t).tickets.baseSet = s.tickets.baseSet ∧
    (State.expired s t).tickets.nextTicket = s.tickets.nextTicket ∧
    (State.expired s t).tickets.lastTicket = s.tickets.lastTicket ∧
    (State.expired s t).tickets.nextBale = s.tickets.nextBale ∧
    (State.expired s t).tickets.lastBale = s.tickets.lastBale ∧ (State.expired s t).tickets.wait = s.tickets.wait ∧
    (State.expired s t).mgmt.time = s.mgmt.time ∧ (State.expired s t).mgmt.ticks = s.mgmt.ticks ∧
    (State.expired s t).mgmt.timeSet = s.mgmt.timeSet ∧ (State.expired s t).mgmt.station = s.mgmt.station := by
  generalize h : (State.expired s t) = t
  unfold State.expired at h
  (try dsimp only at h)
  (repeat' split at h) <;> subst h <;> simp

@[simp] theorem afterOther_frame (s : State) :
    (State.afterOther s).pending = s.pending ∧ (State.afterOther s).power = s.power ∧
    (State.afterOther s).link = s.link ∧ (State.afterOther s).classifier = s.classifier ∧
    (State.afterOther s).field.cadences = s.field.cadences ∧
    (State.afterOther s).field.pollQueue = s.field.pollQueue ∧
    (State.afterOther s).field.printRequest = s.field.printRequest ∧
    (State.afterOther s).field.passStreak = s.field.passStreak ∧ (State.afterOther s).table = s.table ∧
    (State.afterOther s).feed = s.feed ∧ (State.afterOther s).kilns.entries = s.kilns.entries ∧
    (State.afterOther s).kilns.schedules = s.kilns.schedules ∧ (State.afterOther s).kilns.steps = s.kilns.steps ∧
    (State.afterOther s).scale = s.scale ∧ (State.afterOther s).press = s.press ∧
    (State.afterOther s).tickets.baseSet = s.tickets.baseSet ∧
    (State.afterOther s).tickets.nextTicket = s.tickets.nextTicket ∧
    (State.afterOther s).tickets.lastTicket = s.tickets.lastTicket ∧
    (State.afterOther s).tickets.nextBale = s.tickets.nextBale ∧
    (State.afterOther s).tickets.lastBale = s.tickets.lastBale ∧ (State.afterOther s).tickets.wait = s.tickets.wait ∧
    (State.afterOther s).mgmt.time = s.mgmt.time ∧ (State.afterOther s).mgmt.ticks = s.mgmt.ticks ∧
    (State.afterOther s).mgmt.timeSet = s.mgmt.timeSet ∧ (State.afterOther s).mgmt.station = s.mgmt.station := by
  generalize h : (State.afterOther s) = t
  unfold State.afterOther at h
  (try dsimp only at h)
  (repeat' split at h) <;> subst h <;> simp

@[simp] theorem offerFrame_frame (s : State) (f : Frame) :
    (State.offerFrame s f).pending = s.pending ∧ (State.offerFrame s f).power = s.power ∧
    (State.offerFrame s f).link.addr = s.link.addr ∧ (State.offerFrame s f).link.upRate = s.link.upRate ∧
    (State.offerFrame s f).link.fpRate = s.link.fpRate ∧ (State.offerFrame s f).link.live = s.link.live ∧
    (State.offerFrame s f).link.silence = s.link.silence ∧ (State.offerFrame s f).link.up = s.link.up ∧
    (State.offerFrame s f).link.fp = s.link.fp ∧ (State.offerFrame s f).link.upOverlong = s.link.upOverlong ∧
    (State.offerFrame s f).link.fpOverlong = s.link.fpOverlong ∧
    (State.offerFrame s f).link.fpReceiving = s.link.fpReceiving ∧
    (State.offerFrame s f).link.driver = s.link.driver ∧
    (State.offerFrame s f).classifier.requests = s.classifier.requests ∧
    (State.offerFrame s f).classifier.dropped = s.classifier.dropped ∧
    (State.offerFrame s f).classifier.misdirected = s.classifier.misdirected ∧
    (State.offerFrame s f).classifier.routes = s.classifier.routes ∧
    (State.offerFrame s f).classifier.passQueue = s.classifier.passQueue ∧
    (State.offerFrame s f).classifier.reply = s.classifier.reply ∧
    (State.offerFrame s f).classifier.block = s.classifier.block ∧
    (State.offerFrame s f).classifier.sending = s.classifier.sending ∧
    (State.offerFrame s f).field.cadences = s.field.cadences ∧
    (State.offerFrame s f).field.pollQueue = s.field.pollQueue ∧
    (State.offerFrame s f).field.passStreak = s.field.passStreak ∧
    (State.offerFrame s f).table.varieties = s.table.varieties ∧
    (State.offerFrame s f).feed.feedLot = s.feed.feedLot ∧ (State.offerFrame s f).feed.timer = s.feed.timer ∧
    (State.offerFrame s f).feed.picker = s.feed.picker ∧ (State.offerFrame s f).feed.fillOrder = s.feed.fillOrder ∧
    (State.offerFrame s f).kilns.entries = s.kilns.entries ∧
    (State.offerFrame s f).kilns.schedules = s.kilns.schedules ∧ (State.offerFrame s f).kilns.steps = s.kilns.steps ∧
    (State.offerFrame s f).press.tares = s.press.tares ∧ (State.offerFrame s f).tickets.baseSet = s.tickets.baseSet ∧
    (State.offerFrame s f).mgmt.time = s.mgmt.time ∧ (State.offerFrame s f).mgmt.ticks = s.mgmt.ticks ∧
    (State.offerFrame s f).mgmt.timeSet = s.mgmt.timeSet ∧ (State.offerFrame s f).mgmt.station = s.mgmt.station := by
  generalize h : (State.offerFrame s f) = t
  unfold State.offerFrame at h
  (try dsimp only at h)
  (repeat' split at h) <;> subst h <;> simp

@[simp] theorem fieldArrival_frame (s : State) (chars : List Byte) :
    (State.fieldArrival s chars).pending = s.pending ∧ (State.fieldArrival s chars).power = s.power ∧
    (State.fieldArrival s chars).link.addr = s.link.addr ∧ (State.fieldArrival s chars).link.upRate = s.link.upRate ∧
    (State.fieldArrival s chars).link.fpRate = s.link.fpRate ∧ (State.fieldArrival s chars).link.live = s.link.live ∧
    (State.fieldArrival s chars).link.silence = s.link.silence ∧ (State.fieldArrival s chars).link.up = s.link.up ∧
    (State.fieldArrival s chars).link.upOverlong = s.link.upOverlong ∧
    (State.fieldArrival s chars).link.driver = s.link.driver ∧
    (State.fieldArrival s chars).classifier.requests = s.classifier.requests ∧
    (State.fieldArrival s chars).classifier.dropped = s.classifier.dropped ∧
    (State.fieldArrival s chars).classifier.misdirected = s.classifier.misdirected ∧
    (State.fieldArrival s chars).classifier.routes = s.classifier.routes ∧
    (State.fieldArrival s chars).classifier.passQueue = s.classifier.passQueue ∧
    (State.fieldArrival s chars).classifier.reply = s.classifier.reply ∧
    (State.fieldArrival s chars).classifier.block = s.classifier.block ∧
    (State.fieldArrival s chars).classifier.sending = s.classifier.sending ∧
    (State.fieldArrival s chars).field.cadences = s.field.cadences ∧
    (State.fieldArrival s chars).field.pollQueue = s.field.pollQueue ∧
    (State.fieldArrival s chars).field.passStreak = s.field.passStreak ∧
    (State.fieldArrival s chars).table.varieties = s.table.varieties ∧
    (State.fieldArrival s chars).feed.feedLot = s.feed.feedLot ∧
    (State.fieldArrival s chars).feed.timer = s.feed.timer ∧
    (State.fieldArrival s chars).feed.picker = s.feed.picker ∧
    (State.fieldArrival s chars).feed.fillOrder = s.feed.fillOrder ∧
    (State.fieldArrival s chars).kilns.entries = s.kilns.entries ∧
    (State.fieldArrival s chars).kilns.schedules = s.kilns.schedules ∧
    (State.fieldArrival s chars).kilns.steps = s.kilns.steps ∧
    (State.fieldArrival s chars).press.tares = s.press.tares ∧
    (State.fieldArrival s chars).tickets.baseSet = s.tickets.baseSet ∧
    (State.fieldArrival s chars).mgmt.time = s.mgmt.time ∧ (State.fieldArrival s chars).mgmt.ticks = s.mgmt.ticks ∧
    (State.fieldArrival s chars).mgmt.timeSet = s.mgmt.timeSet ∧
    (State.fieldArrival s chars).mgmt.station = s.mgmt.station := by
  generalize h : (State.fieldArrival s chars) = t
  unfold State.fieldArrival at h
  (try dsimp only at h)
  (repeat' split at h) <;> subst h <;> simp

@[simp] theorem receptionStart_frame (s : State) :
    (State.receptionStart s).pending = s.pending ∧ (State.receptionStart s).power = s.power ∧
    (State.receptionStart s).link.addr = s.link.addr ∧ (State.receptionStart s).link.upRate = s.link.upRate ∧
    (State.receptionStart s).link.fpRate = s.link.fpRate ∧ (State.receptionStart s).link.live = s.link.live ∧
    (State.receptionStart s).link.silence = s.link.silence ∧ (State.receptionStart s).link.up = s.link.up ∧
    (State.receptionStart s).link.fp = s.link.fp ∧ (State.receptionStart s).link.unsolicited = s.link.unsolicited ∧
    (State.receptionStart s).link.upOverlong = s.link.upOverlong ∧
    (State.receptionStart s).link.fpOverlong = s.link.fpOverlong ∧
    (State.receptionStart s).link.driver = s.link.driver ∧ (State.receptionStart s).classifier = s.classifier ∧
    (State.receptionStart s).field = s.field ∧ (State.receptionStart s).table = s.table ∧
    (State.receptionStart s).feed = s.feed ∧ (State.receptionStart s).kilns = s.kilns ∧
    (State.receptionStart s).scale = s.scale ∧ (State.receptionStart s).press = s.press ∧
    (State.receptionStart s).tickets = s.tickets ∧ (State.receptionStart s).mgmt = s.mgmt := by
  generalize h : (State.receptionStart s) = t
  unfold State.receptionStart at h
  (try dsimp only at h)
  (repeat' split at h) <;> subst h <;> simp

@[simp] theorem windowExpiry_frame (s : State) :
    (State.windowExpiry s).pending = s.pending ∧ (State.windowExpiry s).power = s.power ∧
    (State.windowExpiry s).link = s.link ∧ (State.windowExpiry s).classifier = s.classifier ∧
    (State.windowExpiry s).field.cadences = s.field.cadences ∧
    (State.windowExpiry s).field.pollQueue = s.field.pollQueue ∧
    (State.windowExpiry s).field.printRequest = s.field.printRequest ∧
    (State.windowExpiry s).field.passStreak = s.field.passStreak ∧ (State.windowExpiry s).table = s.table ∧
    (State.windowExpiry s).feed = s.feed ∧ (State.windowExpiry s).kilns.entries = s.kilns.entries ∧
    (State.windowExpiry s).kilns.schedules = s.kilns.schedules ∧ (State.windowExpiry s).kilns.steps = s.kilns.steps ∧
    (State.windowExpiry s).scale = s.scale ∧ (State.windowExpiry s).press = s.press ∧
    (State.windowExpiry s).tickets.baseSet = s.tickets.baseSet ∧
    (State.windowExpiry s).tickets.nextTicket = s.tickets.nextTicket ∧
    (State.windowExpiry s).tickets.lastTicket = s.tickets.lastTicket ∧
    (State.windowExpiry s).tickets.nextBale = s.tickets.nextBale ∧
    (State.windowExpiry s).tickets.lastBale = s.tickets.lastBale ∧
    (State.windowExpiry s).tickets.wait = s.tickets.wait ∧ (State.windowExpiry s).mgmt.time = s.mgmt.time ∧
    (State.windowExpiry s).mgmt.ticks = s.mgmt.ticks ∧ (State.windowExpiry s).mgmt.timeSet = s.mgmt.timeSet ∧
    (State.windowExpiry s).mgmt.station = s.mgmt.station := by
  generalize h : (State.windowExpiry s) = t
  unfold State.windowExpiry at h
  (try dsimp only at h)
  (repeat' split at h) <;> subst h <;> simp

@[simp] theorem guardEnd_frame (s : State) :
    (State.guardEnd s).pending = s.pending ∧ (State.guardEnd s).power = s.power ∧ (State.guardEnd s).link = s.link ∧
    (State.guardEnd s).classifier = s.classifier ∧ (State.guardEnd s).field.nodes = s.field.nodes ∧
    (State.guardEnd s).field.cadences = s.field.cadences ∧ (State.guardEnd s).field.pollQueue = s.field.pollQueue ∧
    (State.guardEnd s).field.commandQueue = s.field.commandQueue ∧
    (State.guardEnd s).field.printRequest = s.field.printRequest ∧
    (State.guardEnd s).field.passStreak = s.field.passStreak ∧ (State.guardEnd s).table = s.table ∧
    (State.guardEnd s).feed = s.feed ∧ (State.guardEnd s).kilns = s.kilns ∧ (State.guardEnd s).scale = s.scale ∧
    (State.guardEnd s).press = s.press ∧ (State.guardEnd s).tickets = s.tickets ∧ (State.guardEnd s).mgmt = s.mgmt := by
  generalize h : (State.guardEnd s) = t
  unfold State.guardEnd at h
  (try dsimp only at h)
  (repeat' split at h) <;> subst h <;> simp

@[simp] theorem transmitDone_frame (s : State) :
    (State.transmitDone s).pending = s.pending ∧ (State.transmitDone s).power = s.power ∧
    (State.transmitDone s).link.addr = s.link.addr ∧ (State.transmitDone s).link.upRate = s.link.upRate ∧
    (State.transmitDone s).link.fpRate = s.link.fpRate ∧ (State.transmitDone s).link.live = s.link.live ∧
    (State.transmitDone s).link.silence = s.link.silence ∧ (State.transmitDone s).link.up = s.link.up ∧
    (State.transmitDone s).link.fp = s.link.fp ∧ (State.transmitDone s).link.unsolicited = s.link.unsolicited ∧
    (State.transmitDone s).link.upOverlong = s.link.upOverlong ∧
    (State.transmitDone s).link.fpOverlong = s.link.fpOverlong ∧
    (State.transmitDone s).link.fpReceiving = s.link.fpReceiving ∧ (State.transmitDone s).classifier = s.classifier ∧
    (State.transmitDone s).field.nodes = s.field.nodes ∧ (State.transmitDone s).field.cadences = s.field.cadences ∧
    (State.transmitDone s).field.pollQueue = s.field.pollQueue ∧
    (State.transmitDone s).field.commandQueue = s.field.commandQueue ∧
    (State.transmitDone s).field.printRequest = s.field.printRequest ∧
    (State.transmitDone s).field.passStreak = s.field.passStreak ∧ (State.transmitDone s).table = s.table ∧
    (State.transmitDone s).feed = s.feed ∧ (State.transmitDone s).kilns = s.kilns ∧
    (State.transmitDone s).scale = s.scale ∧ (State.transmitDone s).press = s.press ∧
    (State.transmitDone s).tickets = s.tickets ∧ (State.transmitDone s).mgmt = s.mgmt := by
  generalize h : (State.transmitDone s) = t
  unfold State.transmitDone at h
  (try dsimp only at h)
  (repeat' split at h) <;> subst h <;> simp

@[simp] theorem openTransaction_frame (s : State) (kind : TransactionKind) (address : Byte) (node : Option NodeIdx) (frames : List Frame) (window : Nat) :
    (State.openTransaction s kind address node frames window).pending = s.pending ∧
    (State.openTransaction s kind address node frames window).power = s.power ∧
    (State.openTransaction s kind address node frames window).link.addr = s.link.addr ∧
    (State.openTransaction s kind address node frames window).link.upRate = s.link.upRate ∧
    (State.openTransaction s kind address node frames window).link.fpRate = s.link.fpRate ∧
    (State.openTransaction s kind address node frames window).link.live = s.link.live ∧
    (State.openTransaction s kind address node frames window).link.silence = s.link.silence ∧
    (State.openTransaction s kind address node frames window).link.up = s.link.up ∧
    (State.openTransaction s kind address node frames window).link.fp = s.link.fp ∧
    (State.openTransaction s kind address node frames window).link.unsolicited = s.link.unsolicited ∧
    (State.openTransaction s kind address node frames window).link.upOverlong = s.link.upOverlong ∧
    (State.openTransaction s kind address node frames window).link.fpOverlong = s.link.fpOverlong ∧
    (State.openTransaction s kind address node frames window).link.fpReceiving = s.link.fpReceiving ∧
    (State.openTransaction s kind address node frames window).classifier = s.classifier ∧
    (State.openTransaction s kind address node frames window).field.nodes = s.field.nodes ∧
    (State.openTransaction s kind address node frames window).field.cadences = s.field.cadences ∧
    (State.openTransaction s kind address node frames window).field.pollQueue = s.field.pollQueue ∧
    (State.openTransaction s kind address node frames window).field.commandQueue = s.field.commandQueue ∧
    (State.openTransaction s kind address node frames window).field.printRequest = s.field.printRequest ∧
    (State.openTransaction s kind address node frames window).field.passStreak = s.field.passStreak ∧
    (State.openTransaction s kind address node frames window).table = s.table ∧
    (State.openTransaction s kind address node frames window).feed = s.feed ∧
    (State.openTransaction s kind address node frames window).kilns = s.kilns ∧
    (State.openTransaction s kind address node frames window).scale = s.scale ∧
    (State.openTransaction s kind address node frames window).press = s.press ∧
    (State.openTransaction s kind address node frames window).tickets = s.tickets ∧
    (State.openTransaction s kind address node frames window).mgmt = s.mgmt := by
  generalize h : (State.openTransaction s kind address node frames window) = t
  unfold State.openTransaction at h
  (try dsimp only at h)
  (repeat' split at h) <;> subst h <;> simp

@[simp] theorem startCommand_frame (s : State) (c : Command) (rest : List Command) :
    (State.startCommand s c rest).pending = s.pending ∧ (State.startCommand s c rest).power = s.power ∧
    (State.startCommand s c rest).link.addr = s.link.addr ∧
    (State.startCommand s c rest).link.upRate = s.link.upRate ∧
    (State.startCommand s c rest).link.fpRate = s.link.fpRate ∧
    (State.startCommand s c rest).link.live = s.link.live ∧
    (State.startCommand s c rest).link.silence = s.link.silence ∧ (State.startCommand s c rest).link.up = s.link.up ∧
    (State.startCommand s c rest).link.fp = s.link.fp ∧
    (State.startCommand s c rest).link.unsolicited = s.link.unsolicited ∧
    (State.startCommand s c rest).link.upOverlong = s.link.upOverlong ∧
    (State.startCommand s c rest).link.fpOverlong = s.link.fpOverlong ∧
    (State.startCommand s c rest).link.fpReceiving = s.link.fpReceiving ∧
    (State.startCommand s c rest).classifier = s.classifier ∧
    (State.startCommand s c rest).field.nodes = s.field.nodes ∧
    (State.startCommand s c rest).field.cadences = s.field.cadences ∧
    (State.startCommand s c rest).field.pollQueue = s.field.pollQueue ∧
    (State.startCommand s c rest).field.printRequest = s.field.printRequest ∧
    (State.startCommand s c rest).field.passStreak = s.field.passStreak ∧
    (State.startCommand s c rest).table = s.table ∧ (State.startCommand s c rest).feed = s.feed ∧
    (State.startCommand s c rest).kilns = s.kilns ∧ (State.startCommand s c rest).scale = s.scale ∧
    (State.startCommand s c rest).press = s.press ∧ (State.startCommand s c rest).tickets = s.tickets ∧
    (State.startCommand s c rest).mgmt = s.mgmt := by
  generalize h : (State.startCommand s c rest) = t
  unfold State.startCommand at h
  (try dsimp only at h)
  (repeat' split at h) <;> subst h <;> simp

@[simp] theorem startBlock_frame (s : State) (ticket : Nat) :
    (State.startBlock s ticket).pending = s.pending ∧ (State.startBlock s ticket).power = s.power ∧
    (State.startBlock s ticket).link.addr = s.link.addr ∧ (State.startBlock s ticket).link.upRate = s.link.upRate ∧
    (State.startBlock s ticket).link.fpRate = s.link.fpRate ∧ (State.startBlock s ticket).link.live = s.link.live ∧
    (State.startBlock s ticket).link.silence = s.link.silence ∧ (State.startBlock s ticket).link.up = s.link.up ∧
    (State.startBlock s ticket).link.fp = s.link.fp ∧
    (State.startBlock s ticket).link.unsolicited = s.link.unsolicited ∧
    (State.startBlock s ticket).link.upOverlong = s.link.upOverlong ∧
    (State.startBlock s ticket).link.fpOverlong = s.link.fpOverlong ∧
    (State.startBlock s ticket).link.fpReceiving = s.link.fpReceiving ∧
    (State.startBlock s ticket).classifier = s.classifier ∧ (State.startBlock s ticket).field.nodes = s.field.nodes ∧
    (State.startBlock s ticket).field.cadences = s.field.cadences ∧
    (State.startBlock s ticket).field.pollQueue = s.field.pollQueue ∧
    (State.startBlock s ticket).field.commandQueue = s.field.commandQueue ∧
    (State.startBlock s ticket).field.passStreak = s.field.passStreak ∧ (State.startBlock s ticket).table = s.table ∧
    (State.startBlock s ticket).feed = s.feed ∧ (State.startBlock s ticket).kilns = s.kilns ∧
    (State.startBlock s ticket).scale = s.scale ∧ (State.startBlock s ticket).press = s.press ∧
    (State.startBlock s ticket).tickets = s.tickets ∧ (State.startBlock s ticket).mgmt = s.mgmt := by
  generalize h : (State.startBlock s ticket) = t
  unfold State.startBlock at h
  (try dsimp only at h)
  (repeat' split at h) <;> subst h <;> simp

@[simp] theorem startPass_frame (s : State) (f : Frame) (rest : List Frame) :
    (State.startPass s f rest).pending = s.pending ∧ (State.startPass s f rest).power = s.power ∧
    (State.startPass s f rest).link.addr = s.link.addr ∧ (State.startPass s f rest).link.upRate = s.link.upRate ∧
    (State.startPass s f rest).link.fpRate = s.link.fpRate ∧ (State.startPass s f rest).link.live = s.link.live ∧
    (State.startPass s f rest).link.silence = s.link.silence ∧ (State.startPass s f rest).link.up = s.link.up ∧
    (State.startPass s f rest).link.fp = s.link.fp ∧
    (State.startPass s f rest).link.unsolicited = s.link.unsolicited ∧
    (State.startPass s f rest).link.upOverlong = s.link.upOverlong ∧
    (State.startPass s f rest).link.fpOverlong = s.link.fpOverlong ∧
    (State.startPass s f rest).link.fpReceiving = s.link.fpReceiving ∧
    (State.startPass s f rest).classifier.requests = s.classifier.requests ∧
    (State.startPass s f rest).classifier.dropped = s.classifier.dropped ∧
    (State.startPass s f rest).classifier.misdirected = s.classifier.misdirected ∧
    (State.startPass s f rest).classifier.routes = s.classifier.routes ∧
    (State.startPass s f rest).classifier.forwardQueue = s.classifier.forwardQueue ∧
    (State.startPass s f rest).classifier.reply = s.classifier.reply ∧
    (State.startPass s f rest).classifier.block = s.classifier.block ∧
    (State.startPass s f rest).classifier.sending = s.classifier.sending ∧
    (State.startPass s f rest).field.nodes = s.field.nodes ∧
    (State.startPass s f rest).field.cadences = s.field.cadences ∧
    (State.startPass s f rest).field.pollQueue = s.field.pollQueue ∧
    (State.startPass s f rest).field.commandQueue = s.field.commandQueue ∧
    (State.startPass s f rest).field.printRequest = s.field.printRequest ∧
    (State.startPass s f rest).table = s.table ∧ (State.startPass s f rest).feed = s.feed ∧
    (State.startPass s f rest).kilns = s.kilns ∧ (State.startPass s f rest).scale = s.scale ∧
    (State.startPass s f rest).press = s.press ∧ (State.startPass s f rest).tickets = s.tickets ∧
    (State.startPass s f rest).mgmt = s.mgmt := by
  generalize h : (State.startPass s f rest) = t
  unfold State.startPass at h
  (try dsimp only at h)
  (repeat' split at h) <;> subst h <;> simp

@[simp] theorem startPoll_frame (s : State) (i : NodeIdx) (rest : List NodeIdx) :
    (State.startPoll s i rest).pending = s.pending ∧ (State.startPoll s i rest).power = s.power ∧
    (State.startPoll s i rest).link.addr = s.link.addr ∧ (State.startPoll s i rest).link.upRate = s.link.upRate ∧
    (State.startPoll s i rest).link.fpRate = s.link.fpRate ∧ (State.startPoll s i rest).link.live = s.link.live ∧
    (State.startPoll s i rest).link.silence = s.link.silence ∧ (State.startPoll s i rest).link.up = s.link.up ∧
    (State.startPoll s i rest).link.fp = s.link.fp ∧
    (State.startPoll s i rest).link.unsolicited = s.link.unsolicited ∧
    (State.startPoll s i rest).link.upOverlong = s.link.upOverlong ∧
    (State.startPoll s i rest).link.fpOverlong = s.link.fpOverlong ∧
    (State.startPoll s i rest).link.fpReceiving = s.link.fpReceiving ∧
    (State.startPoll s i rest).classifier = s.classifier ∧ (State.startPoll s i rest).field.nodes = s.field.nodes ∧
    (State.startPoll s i rest).field.cadences = s.field.cadences ∧
    (State.startPoll s i rest).field.commandQueue = s.field.commandQueue ∧
    (State.startPoll s i rest).field.printRequest = s.field.printRequest ∧
    (State.startPoll s i rest).table = s.table ∧ (State.startPoll s i rest).feed = s.feed ∧
    (State.startPoll s i rest).kilns = s.kilns ∧ (State.startPoll s i rest).scale = s.scale ∧
    (State.startPoll s i rest).press = s.press ∧ (State.startPoll s i rest).tickets = s.tickets ∧
    (State.startPoll s i rest).mgmt = s.mgmt := by
  generalize h : (State.startPoll s i rest) = t
  unfold State.startPoll at h
  (try dsimp only at h)
  (repeat' split at h) <;> subst h <;> simp

/-- A choice writes nothing but itself (R38). -/
@[simp] theorem choosing_frame (s : State) (c : Option FieldSource) :
    (s.choosing c).pending = s.pending ∧ (s.choosing c).power = s.power ∧ (s.choosing c).link = s.link ∧
    (s.choosing c).classifier = s.classifier ∧ (s.choosing c).field.nodes = s.field.nodes ∧
    (s.choosing c).field.cadences = s.field.cadences ∧ (s.choosing c).field.pollQueue = s.field.pollQueue ∧
    (s.choosing c).field.commandQueue = s.field.commandQueue ∧
    (s.choosing c).field.transaction = s.field.transaction ∧
    (s.choosing c).field.printRequest = s.field.printRequest ∧ (s.choosing c).field.passStreak = s.field.passStreak ∧
    (s.choosing c).table = s.table ∧ (s.choosing c).feed = s.feed ∧ (s.choosing c).kilns = s.kilns ∧
    (s.choosing c).scale = s.scale ∧ (s.choosing c).press = s.press ∧ (s.choosing c).tickets = s.tickets ∧
    (s.choosing c).mgmt = s.mgmt := by and_intros <;> rfl

@[simp] theorem startSource_frame (s : State) (c : FieldSource) :
    (State.startSource s c).pending = s.pending ∧ (State.startSource s c).power = s.power ∧
    (State.startSource s c).link.addr = s.link.addr ∧ (State.startSource s c).link.upRate = s.link.upRate ∧
    (State.startSource s c).link.fpRate = s.link.fpRate ∧ (State.startSource s c).link.live = s.link.live ∧
    (State.startSource s c).link.silence = s.link.silence ∧ (State.startSource s c).link.up = s.link.up ∧
    (State.startSource s c).link.fp = s.link.fp ∧
    (State.startSource s c).link.unsolicited = s.link.unsolicited ∧
    (State.startSource s c).link.upOverlong = s.link.upOverlong ∧
    (State.startSource s c).link.fpOverlong = s.link.fpOverlong ∧
    (State.startSource s c).link.fpReceiving = s.link.fpReceiving ∧
    (State.startSource s c).classifier.requests = s.classifier.requests ∧
    (State.startSource s c).classifier.dropped = s.classifier.dropped ∧
    (State.startSource s c).classifier.misdirected = s.classifier.misdirected ∧
    (State.startSource s c).classifier.routes = s.classifier.routes ∧
    (State.startSource s c).classifier.forwardQueue = s.classifier.forwardQueue ∧
    (State.startSource s c).classifier.reply = s.classifier.reply ∧
    (State.startSource s c).classifier.block = s.classifier.block ∧
    (State.startSource s c).classifier.sending = s.classifier.sending ∧
    (State.startSource s c).field.nodes = s.field.nodes ∧
    (State.startSource s c).field.cadences = s.field.cadences ∧ (State.startSource s c).table = s.table ∧
    (State.startSource s c).feed = s.feed ∧ (State.startSource s c).kilns = s.kilns ∧
    (State.startSource s c).scale = s.scale ∧ (State.startSource s c).press = s.press ∧
    (State.startSource s c).tickets = s.tickets ∧ (State.startSource s c).mgmt = s.mgmt := by
  generalize h : (State.startSource s c) = t
  unfold State.startSource at h
  (try dsimp only at h)
  (repeat' split at h) <;> subst h <;> simp

@[simp] theorem startTransaction_frame (s : State) :
    (State.startTransaction s).pending = s.pending ∧ (State.startTransaction s).power = s.power ∧
    (State.startTransaction s).link.addr = s.link.addr ∧ (State.startTransaction s).link.upRate = s.link.upRate ∧
    (State.startTransaction s).link.fpRate = s.link.fpRate ∧ (State.startTransaction s).link.live = s.link.live ∧
    (State.startTransaction s).link.silence = s.link.silence ∧ (State.startTransaction s).link.up = s.link.up ∧
    (State.startTransaction s).link.fp = s.link.fp ∧
    (State.startTransaction s).link.unsolicited = s.link.unsolicited ∧
    (State.startTransaction s).link.upOverlong = s.link.upOverlong ∧
    (State.startTransaction s).link.fpOverlong = s.link.fpOverlong ∧
    (State.startTransaction s).link.fpReceiving = s.link.fpReceiving ∧
    (State.startTransaction s).classifier.requests = s.classifier.requests ∧
    (State.startTransaction s).classifier.dropped = s.classifier.dropped ∧
    (State.startTransaction s).classifier.misdirected = s.classifier.misdirected ∧
    (State.startTransaction s).classifier.routes = s.classifier.routes ∧
    (State.startTransaction s).classifier.forwardQueue = s.classifier.forwardQueue ∧
    (State.startTransaction s).classifier.reply = s.classifier.reply ∧
    (State.startTransaction s).classifier.block = s.classifier.block ∧
    (State.startTransaction s).classifier.sending = s.classifier.sending ∧
    (State.startTransaction s).field.nodes = s.field.nodes ∧
    (State.startTransaction s).field.cadences = s.field.cadences ∧ (State.startTransaction s).table = s.table ∧
    (State.startTransaction s).feed = s.feed ∧ (State.startTransaction s).kilns = s.kilns ∧
    (State.startTransaction s).scale = s.scale ∧ (State.startTransaction s).press = s.press ∧
    (State.startTransaction s).tickets = s.tickets ∧ (State.startTransaction s).mgmt = s.mgmt := by
  generalize h : (State.startTransaction s) = t
  unfold State.startTransaction at h
  (try dsimp only at h)
  (repeat' split at h) <;> subst h <;> simp

@[simp] theorem scheduleNode_frame (c : CadenceId) (s : State) (i : NodeIdx) :
    (State.scheduleNode c s i).pending = s.pending ∧ (State.scheduleNode c s i).power = s.power ∧
    (State.scheduleNode c s i).link = s.link ∧ (State.scheduleNode c s i).classifier = s.classifier ∧
    (State.scheduleNode c s i).field.nodes = s.field.nodes ∧
    (State.scheduleNode c s i).field.cadences = s.field.cadences ∧
    (State.scheduleNode c s i).field.transaction = s.field.transaction ∧
    (State.scheduleNode c s i).field.printRequest = s.field.printRequest ∧
    (State.scheduleNode c s i).field.passStreak = s.field.passStreak ∧ (State.scheduleNode c s i).table = s.table ∧
    (State.scheduleNode c s i).feed = s.feed ∧ (State.scheduleNode c s i).kilns = s.kilns ∧
    (State.scheduleNode c s i).scale = s.scale ∧ (State.scheduleNode c s i).press = s.press ∧
    (State.scheduleNode c s i).tickets = s.tickets ∧ (State.scheduleNode c s i).mgmt.time = s.mgmt.time ∧
    (State.scheduleNode c s i).mgmt.ticks = s.mgmt.ticks ∧ (State.scheduleNode c s i).mgmt.timeSet = s.mgmt.timeSet ∧
    (State.scheduleNode c s i).mgmt.station = s.mgmt.station := by
  generalize h : (State.scheduleNode c s i) = t
  unfold State.scheduleNode at h
  (try dsimp only at h)
  (repeat' split at h) <;> subst h <;> simp

@[simp] theorem updCadence_frame (s : State) (c : CadenceId) (f : Cadence → Cadence) :
    (State.updCadence s c f).pending = s.pending ∧ (State.updCadence s c f).power = s.power ∧
    (State.updCadence s c f).link = s.link ∧ (State.updCadence s c f).classifier = s.classifier ∧
    (State.updCadence s c f).field.nodes = s.field.nodes ∧
    (State.updCadence s c f).field.pollQueue = s.field.pollQueue ∧
    (State.updCadence s c f).field.commandQueue = s.field.commandQueue ∧
    (State.updCadence s c f).field.transaction = s.field.transaction ∧
    (State.updCadence s c f).field.printRequest = s.field.printRequest ∧
    (State.updCadence s c f).field.passStreak = s.field.passStreak ∧ (State.updCadence s c f).table = s.table ∧
    (State.updCadence s c f).feed = s.feed ∧ (State.updCadence s c f).kilns = s.kilns ∧
    (State.updCadence s c f).scale = s.scale ∧ (State.updCadence s c f).press = s.press ∧
    (State.updCadence s c f).tickets = s.tickets ∧ (State.updCadence s c f).mgmt = s.mgmt := by
  generalize h : (State.updCadence s c f) = t
  unfold State.updCadence at h
  (try dsimp only at h)
  (repeat' split at h) <;> subst h <;> simp

@[simp] theorem cadenceExpiry_frame (s : State) (c : CadenceId) :
    (State.cadenceExpiry s c).pending = s.pending ∧ (State.cadenceExpiry s c).power = s.power ∧
    (State.cadenceExpiry s c).link = s.link ∧ (State.cadenceExpiry s c).classifier = s.classifier ∧
    (State.cadenceExpiry s c).field.nodes = s.field.nodes ∧
    (State.cadenceExpiry s c).field.transaction = s.field.transaction ∧
    (State.cadenceExpiry s c).field.printRequest = s.field.printRequest ∧
    (State.cadenceExpiry s c).field.passStreak = s.field.passStreak ∧ (State.cadenceExpiry s c).table = s.table ∧
    (State.cadenceExpiry s c).feed = s.feed ∧ (State.cadenceExpiry s c).kilns = s.kilns ∧
    (State.cadenceExpiry s c).scale = s.scale ∧ (State.cadenceExpiry s c).press = s.press ∧
    (State.cadenceExpiry s c).tickets = s.tickets ∧ (State.cadenceExpiry s c).mgmt.time = s.mgmt.time ∧
    (State.cadenceExpiry s c).mgmt.ticks = s.mgmt.ticks ∧ (State.cadenceExpiry s c).mgmt.timeSet = s.mgmt.timeSet ∧
    (State.cadenceExpiry s c).mgmt.station = s.mgmt.station := by
  have fold : ∀ (is : List NodeIdx) (s : State), (is.foldl (State.scheduleNode c) s).pending = s.pending ∧ (is.foldl (State.scheduleNode c) s).power = s.power ∧ (is.foldl (State.scheduleNode c) s).link = s.link ∧ (is.foldl (State.scheduleNode c) s).classifier = s.classifier ∧ (is.foldl (State.scheduleNode c) s).field.nodes = s.field.nodes ∧ (is.foldl (State.scheduleNode c) s).field.transaction = s.field.transaction ∧ (is.foldl (State.scheduleNode c) s).field.printRequest = s.field.printRequest ∧ (is.foldl (State.scheduleNode c) s).field.passStreak = s.field.passStreak ∧ (is.foldl (State.scheduleNode c) s).table = s.table ∧ (is.foldl (State.scheduleNode c) s).feed = s.feed ∧ (is.foldl (State.scheduleNode c) s).kilns = s.kilns ∧ (is.foldl (State.scheduleNode c) s).scale = s.scale ∧ (is.foldl (State.scheduleNode c) s).press = s.press ∧ (is.foldl (State.scheduleNode c) s).tickets = s.tickets ∧ (is.foldl (State.scheduleNode c) s).mgmt.time = s.mgmt.time ∧ (is.foldl (State.scheduleNode c) s).mgmt.ticks = s.mgmt.ticks ∧ (is.foldl (State.scheduleNode c) s).mgmt.timeSet = s.mgmt.timeSet ∧ (is.foldl (State.scheduleNode c) s).mgmt.station = s.mgmt.station := by
    intro is
    induction is with
    | nil => intro s; simp
    | cons i is ih => intro s; simp [ih]
  unfold State.cadenceExpiry
  split <;> simp [fold]

@[simp] theorem restartField_frame (s : State) :
    (State.restartField s).pending = s.pending ∧ (State.restartField s).power = s.power ∧
    (State.restartField s).link = s.link ∧ (State.restartField s).classifier.requests = s.classifier.requests ∧
    (State.restartField s).classifier.dropped = s.classifier.dropped ∧
    (State.restartField s).classifier.misdirected = s.classifier.misdirected ∧
    (State.restartField s).classifier.routes = s.classifier.routes ∧
    (State.restartField s).classifier.forwardQueue = s.classifier.forwardQueue ∧
    (State.restartField s).classifier.reply = s.classifier.reply ∧
    (State.restartField s).classifier.block = s.classifier.block ∧
    (State.restartField s).classifier.sending = s.classifier.sending ∧ (State.restartField s).table = s.table ∧
    (State.restartField s).feed = s.feed ∧ (State.restartField s).kilns = s.kilns ∧
    (State.restartField s).scale = s.scale ∧ (State.restartField s).press = s.press ∧
    (State.restartField s).tickets.baseSet = s.tickets.baseSet ∧
    (State.restartField s).tickets.nextTicket = s.tickets.nextTicket ∧
    (State.restartField s).tickets.lastTicket = s.tickets.lastTicket ∧
    (State.restartField s).tickets.nextBale = s.tickets.nextBale ∧
    (State.restartField s).tickets.lastBale = s.tickets.lastBale ∧
    (State.restartField s).tickets.wait = s.tickets.wait ∧ (State.restartField s).mgmt = s.mgmt := by
  generalize h : (State.restartField s) = t
  unfold State.restartField at h
  (try dsimp only at h)
  (repeat' split at h) <;> subst h <;> simp

@[simp] theorem printerWritten_frame (s : State) (before after : Option Role) :
    (State.printerWritten s before after).pending = s.pending ∧
    (State.printerWritten s before after).power = s.power ∧ (State.printerWritten s before after).link = s.link ∧
    (State.printerWritten s before after).classifier = s.classifier ∧
    (State.printerWritten s before after).field.nodes = s.field.nodes ∧
    (State.printerWritten s before after).field.cadences = s.field.cadences ∧
    (State.printerWritten s before after).field.pollQueue = s.field.pollQueue ∧
    (State.printerWritten s before after).field.commandQueue = s.field.commandQueue ∧
    (State.printerWritten s before after).field.transaction = s.field.transaction ∧
    (State.printerWritten s before after).field.passStreak = s.field.passStreak ∧
    (State.printerWritten s before after).table = s.table ∧ (State.printerWritten s before after).feed = s.feed ∧
    (State.printerWritten s before after).kilns = s.kilns ∧ (State.printerWritten s before after).scale = s.scale ∧
    (State.printerWritten s before after).press = s.press ∧
    (State.printerWritten s before after).tickets.baseSet = s.tickets.baseSet ∧
    (State.printerWritten s before after).tickets.nextTicket = s.tickets.nextTicket ∧
    (State.printerWritten s before after).tickets.lastTicket = s.tickets.lastTicket ∧
    (State.printerWritten s before after).tickets.nextBale = s.tickets.nextBale ∧
    (State.printerWritten s before after).tickets.lastBale = s.tickets.lastBale ∧
    (State.printerWritten s before after).tickets.wait = s.tickets.wait ∧
    (State.printerWritten s before after).mgmt = s.mgmt := by
  generalize h : (State.printerWritten s before after) = t
  unfold State.printerWritten at h
  (try dsimp only at h)
  (repeat' split at h) <;> subst h <;> simp

@[simp] theorem writeNode_frame (s : State) (i : NodeIdx) (g : NodeImage) :
    (State.writeNode s i g).pending = s.pending ∧ (State.writeNode s i g).power = s.power ∧
    (State.writeNode s i g).link = s.link ∧ (State.writeNode s i g).classifier = s.classifier ∧
    (State.writeNode s i g).field.cadences = s.field.cadences ∧
    (State.writeNode s i g).field.passStreak = s.field.passStreak ∧ (State.writeNode s i g).table = s.table ∧
    (State.writeNode s i g).feed = s.feed ∧ (State.writeNode s i g).kilns = s.kilns ∧
    (State.writeNode s i g).scale = s.scale ∧ (State.writeNode s i g).press = s.press ∧
    (State.writeNode s i g).tickets.baseSet = s.tickets.baseSet ∧
    (State.writeNode s i g).tickets.nextTicket = s.tickets.nextTicket ∧
    (State.writeNode s i g).tickets.lastTicket = s.tickets.lastTicket ∧
    (State.writeNode s i g).tickets.nextBale = s.tickets.nextBale ∧
    (State.writeNode s i g).tickets.lastBale = s.tickets.lastBale ∧
    (State.writeNode s i g).tickets.wait = s.tickets.wait ∧ (State.writeNode s i g).mgmt = s.mgmt := by
  simp [State.writeNode, FieldMaster.afterWrite]

@[simp] theorem performNodeWrite_frame (index : Byte) (image : List Byte) (s : State) :
    (performNodeWrite index image s).state.pending = s.pending ∧
    (performNodeWrite index image s).state.power = s.power ∧ (performNodeWrite index image s).state.link = s.link ∧
    (performNodeWrite index image s).state.classifier = s.classifier ∧
    (performNodeWrite index image s).state.field.cadences = s.field.cadences ∧
    (performNodeWrite index image s).state.field.passStreak = s.field.passStreak ∧
    (performNodeWrite index image s).state.table = s.table ∧ (performNodeWrite index image s).state.feed = s.feed ∧
    (performNodeWrite index image s).state.kilns = s.kilns ∧ (performNodeWrite index image s).state.scale = s.scale ∧
    (performNodeWrite index image s).state.press = s.press ∧
    (performNodeWrite index image s).state.tickets.baseSet = s.tickets.baseSet ∧
    (performNodeWrite index image s).state.tickets.nextTicket = s.tickets.nextTicket ∧
    (performNodeWrite index image s).state.tickets.lastTicket = s.tickets.lastTicket ∧
    (performNodeWrite index image s).state.tickets.nextBale = s.tickets.nextBale ∧
    (performNodeWrite index image s).state.tickets.lastBale = s.tickets.lastBale ∧
    (performNodeWrite index image s).state.tickets.wait = s.tickets.wait ∧
    (performNodeWrite index image s).state.mgmt = s.mgmt := by
  generalize h : (performNodeWrite index image s) = t
  unfold performNodeWrite at h
  (try dsimp only at h)
  (repeat' split at h) <;> subst h <;> simp

@[simp] theorem performRouteWrite_frame (index : Byte) (image : List Byte) (s : State) :
    (performRouteWrite index image s).state.pending = s.pending ∧
    (performRouteWrite index image s).state.power = s.power ∧ (performRouteWrite index image s).state.link = s.link ∧
    (performRouteWrite index image s).state.classifier.requests = s.classifier.requests ∧
    (performRouteWrite index image s).state.classifier.dropped = s.classifier.dropped ∧
    (performRouteWrite index image s).state.classifier.misdirected = s.classifier.misdirected ∧
    (performRouteWrite index image s).state.classifier.passQueue = s.classifier.passQueue ∧
    (performRouteWrite index image s).state.classifier.forwardQueue = s.classifier.forwardQueue ∧
    (performRouteWrite index image s).state.classifier.reply = s.classifier.reply ∧
    (performRouteWrite index image s).state.classifier.block = s.classifier.block ∧
    (performRouteWrite index image s).state.classifier.sending = s.classifier.sending ∧
    (performRouteWrite index image s).state.field = s.field ∧
    (performRouteWrite index image s).state.table = s.table ∧ (performRouteWrite index image s).state.feed = s.feed ∧
    (performRouteWrite index image s).state.kilns = s.kilns ∧
    (performRouteWrite index image s).state.scale = s.scale ∧
    (performRouteWrite index image s).state.press = s.press ∧
    (performRouteWrite index image s).state.tickets = s.tickets ∧
    (performRouteWrite index image s).state.mgmt = s.mgmt := by
  generalize h : (performRouteWrite index image s) = t
  unfold performRouteWrite at h
  (try dsimp only at h)
  (repeat' split at h) <;> subst h <;> simp

@[simp] theorem performCadenceWrite_frame (index : Byte) (image : List Byte) (s : State) :
    (performCadenceWrite index image s).state.pending = s.pending ∧
    (performCadenceWrite index image s).state.power = s.power ∧
    (performCadenceWrite index image s).state.link = s.link ∧
    (performCadenceWrite index image s).state.classifier = s.classifier ∧
    (performCadenceWrite index image s).state.field.nodes = s.field.nodes ∧
    (performCadenceWrite index image s).state.field.pollQueue = s.field.pollQueue ∧
    (performCadenceWrite index image s).state.field.commandQueue = s.field.commandQueue ∧
    (performCadenceWrite index image s).state.field.transaction = s.field.transaction ∧
    (performCadenceWrite index image s).state.field.printRequest = s.field.printRequest ∧
    (performCadenceWrite index image s).state.field.passStreak = s.field.passStreak ∧
    (performCadenceWrite index image s).state.table = s.table ∧
    (performCadenceWrite index image s).state.feed = s.feed ∧
    (performCadenceWrite index image s).state.kilns = s.kilns ∧
    (performCadenceWrite index image s).state.scale = s.scale ∧
    (performCadenceWrite index image s).state.press = s.press ∧
    (performCadenceWrite index image s).state.tickets = s.tickets ∧
    (performCadenceWrite index image s).state.mgmt = s.mgmt := by
  generalize h : (performCadenceWrite index image s) = t
  unfold performCadenceWrite at h
  (try dsimp only at h)
  (repeat' split at h) <;> subst h <;> simp

@[simp] theorem setKilnEntry_frame (s : State) (k : Kiln) (e : KilnEntry) :
    (State.setKilnEntry s k e).pending = s.pending ∧ (State.setKilnEntry s k e).power = s.power ∧
    (State.setKilnEntry s k e).link = s.link ∧ (State.setKilnEntry s k e).classifier = s.classifier ∧
    (State.setKilnEntry s k e).field = s.field ∧ (State.setKilnEntry s k e).table = s.table ∧
    (State.setKilnEntry s k e).feed = s.feed ∧ (State.setKilnEntry s k e).kilns.run = s.kilns.run ∧
    (State.setKilnEntry s k e).kilns.schedules = s.kilns.schedules ∧
    (State.setKilnEntry s k e).kilns.steps = s.kilns.steps ∧ (State.setKilnEntry s k e).scale = s.scale ∧
    (State.setKilnEntry s k e).press = s.press ∧ (State.setKilnEntry s k e).tickets = s.tickets ∧
    (State.setKilnEntry s k e).mgmt = s.mgmt := by
  generalize h : (State.setKilnEntry s k e) = t
  unfold State.setKilnEntry at h
  (try dsimp only at h)
  (repeat' split at h) <;> subst h <;> simp

@[simp] theorem performKilnWrite_frame (index : Byte) (image : List Byte) (s : State) :
    (performKilnWrite index image s).state.pending = s.pending ∧
    (performKilnWrite index image s).state.power = s.power ∧ (performKilnWrite index image s).state.link = s.link ∧
    (performKilnWrite index image s).state.classifier = s.classifier ∧
    (performKilnWrite index image s).state.field.cadences = s.field.cadences ∧
    (performKilnWrite index image s).state.field.pollQueue = s.field.pollQueue ∧
    (performKilnWrite index image s).state.field.transaction = s.field.transaction ∧
    (performKilnWrite index image s).state.field.printRequest = s.field.printRequest ∧
    (performKilnWrite index image s).state.field.passStreak = s.field.passStreak ∧
    (performKilnWrite index image s).state.table.varieties = s.table.varieties ∧
    (performKilnWrite index image s).state.feed.feedLot = s.feed.feedLot ∧
    (performKilnWrite index image s).state.feed.beltLot = s.feed.beltLot ∧
    (performKilnWrite index image s).state.feed.changeover = s.feed.changeover ∧
    (performKilnWrite index image s).state.feed.timer = s.feed.timer ∧
    (performKilnWrite index image s).state.feed.fillOrder = s.feed.fillOrder ∧
    (performKilnWrite index image s).state.feed.unassigned = s.feed.unassigned ∧
    (performKilnWrite index image s).state.kilns.schedules = s.kilns.schedules ∧
    (performKilnWrite index image s).state.kilns.steps = s.kilns.steps ∧
    (performKilnWrite index image s).state.scale = s.scale ∧ (performKilnWrite index image s).state.press = s.press ∧
    (performKilnWrite index image s).state.tickets = s.tickets ∧
    (performKilnWrite index image s).state.mgmt.time = s.mgmt.time ∧
    (performKilnWrite index image s).state.mgmt.ticks = s.mgmt.ticks ∧
    (performKilnWrite index image s).state.mgmt.timeSet = s.mgmt.timeSet ∧
    (performKilnWrite index image s).state.mgmt.station = s.mgmt.station := by
  generalize h : (performKilnWrite index image s) = t
  unfold performKilnWrite at h
  (try dsimp only at h)
  (repeat' split at h) <;> subst h <;> simp

@[simp] theorem performScheduleWrite_frame (index : Byte) (image : List Byte) (s : State) :
    (performScheduleWrite index image s).state.pending = s.pending ∧
    (performScheduleWrite index image s).state.power = s.power ∧
    (performScheduleWrite index image s).state.link = s.link ∧
    (performScheduleWrite index image s).state.classifier = s.classifier ∧
    (performScheduleWrite index image s).state.field = s.field ∧
    (performScheduleWrite index image s).state.table = s.table ∧
    (performScheduleWrite index image s).state.feed = s.feed ∧
    (performScheduleWrite index image s).state.kilns.entries = s.kilns.entries ∧
    (performScheduleWrite index image s).state.kilns.run = s.kilns.run ∧
    (performScheduleWrite index image s).state.kilns.steps = s.kilns.steps ∧
    (performScheduleWrite index image s).state.scale = s.scale ∧
    (performScheduleWrite index image s).state.press = s.press ∧
    (performScheduleWrite index image s).state.tickets = s.tickets ∧
    (performScheduleWrite index image s).state.mgmt = s.mgmt := by
  generalize h : (performScheduleWrite index image s) = t
  unfold performScheduleWrite at h
  (try dsimp only at h)
  (repeat' split at h) <;> subst h <;> simp

@[simp] theorem performStepWrite_frame (index : Byte) (image : List Byte) (s : State) :
    (performStepWrite index image s).state.pending = s.pending ∧
    (performStepWrite index image s).state.power = s.power ∧ (performStepWrite index image s).state.link = s.link ∧
    (performStepWrite index image s).state.classifier = s.classifier ∧
    (performStepWrite index image s).state.field = s.field ∧ (performStepWrite index image s).state.table = s.table ∧
    (performStepWrite index image s).state.feed = s.feed ∧
    (performStepWrite index image s).state.kilns.entries = s.kilns.entries ∧
    (performStepWrite index image s).state.kilns.run = s.kilns.run ∧
    (performStepWrite index image s).state.kilns.schedules = s.kilns.schedules ∧
    (performStepWrite index image s).state.scale = s.scale ∧ (performStepWrite index image s).state.press = s.press ∧
    (performStepWrite index image s).state.tickets = s.tickets ∧ (performStepWrite index image s).state.mgmt = s.mgmt := by
  generalize h : (performStepWrite index image s) = t
  unfold performStepWrite at h
  (try dsimp only at h)
  (repeat' split at h) <;> subst h <;> simp

@[simp] theorem performVarietyWrite_frame (index : Byte) (image : List Byte) (s : State) :
    (performVarietyWrite index image s).state.pending = s.pending ∧
    (performVarietyWrite index image s).state.power = s.power ∧
    (performVarietyWrite index image s).state.link = s.link ∧
    (performVarietyWrite index image s).state.classifier = s.classifier ∧
    (performVarietyWrite index image s).state.field = s.field ∧
    (performVarietyWrite index image s).state.table.lots = s.table.lots ∧
    (performVarietyWrite index image s).state.feed = s.feed ∧
    (performVarietyWrite index image s).state.kilns = s.kilns ∧
    (performVarietyWrite index image s).state.scale = s.scale ∧
    (performVarietyWrite index image s).state.press = s.press ∧
    (performVarietyWrite index image s).state.tickets = s.tickets ∧
    (performVarietyWrite index image s).state.mgmt = s.mgmt := by
  generalize h : (performVarietyWrite index image s) = t
  unfold performVarietyWrite at h
  (try dsimp only at h)
  (repeat' split at h) <;> subst h <;> simp

@[simp] theorem performTareWrite_frame (index : Byte) (image : List Byte) (s : State) :
    (performTareWrite index image s).state.pending = s.pending ∧
    (performTareWrite index image s).state.power = s.power ∧ (performTareWrite index image s).state.link = s.link ∧
    (performTareWrite index image s).state.classifier = s.classifier ∧
    (performTareWrite index image s).state.field = s.field ∧ (performTareWrite index image s).state.table = s.table ∧
    (performTareWrite index image s).state.feed = s.feed ∧ (performTareWrite index image s).state.kilns = s.kilns ∧
    (performTareWrite index image s).state.scale = s.scale ∧
    (performTareWrite index image s).state.press.queue = s.press.queue ∧
    (performTareWrite index image s).state.press.bales = s.press.bales ∧
    (performTareWrite index image s).state.press.cycle = s.press.cycle ∧
    (performTareWrite index image s).state.press.hold = s.press.hold ∧
    (performTareWrite index image s).state.press.command = s.press.command ∧
    (performTareWrite index image s).state.tickets = s.tickets ∧ (performTareWrite index image s).state.mgmt = s.mgmt := by
  generalize h : (performTareWrite index image s) = t
  unfold performTareWrite at h
  (try dsimp only at h)
  (repeat' split at h) <;> subst h <;> simp

@[simp] theorem performScaleSetupWrite_frame (index : Byte) (image : List Byte) (s : State) :
    (performScaleSetupWrite index image s).state.pending = s.pending ∧
    (performScaleSetupWrite index image s).state.power = s.power ∧
    (performScaleSetupWrite index image s).state.link = s.link ∧
    (performScaleSetupWrite index image s).state.classifier = s.classifier ∧
    (performScaleSetupWrite index image s).state.field = s.field ∧
    (performScaleSetupWrite index image s).state.table = s.table ∧
    (performScaleSetupWrite index image s).state.feed = s.feed ∧
    (performScaleSetupWrite index image s).state.kilns = s.kilns ∧
    (performScaleSetupWrite index image s).state.press = s.press ∧
    (performScaleSetupWrite index image s).state.tickets = s.tickets ∧
    (performScaleSetupWrite index image s).state.mgmt = s.mgmt := by
  generalize h : (performScaleSetupWrite index image s) = t
  unfold performScaleSetupWrite at h
  (try dsimp only at h)
  (repeat' split at h) <;> subst h <;> simp

@[simp] theorem performStationWrite_frame (index : Byte) (image : List Byte) (s : State) :
    (performStationWrite index image s).state.pending = s.pending ∧
    (performStationWrite index image s).state.power = s.power ∧
    (performStationWrite index image s).state.link = s.link ∧
    (performStationWrite index image s).state.classifier = s.classifier ∧
    (performStationWrite index image s).state.field.cadences = s.field.cadences ∧
    (performStationWrite index image s).state.field.pollQueue = s.field.pollQueue ∧
    (performStationWrite index image s).state.field.transaction = s.field.transaction ∧
    (performStationWrite index image s).state.field.printRequest = s.field.printRequest ∧
    (performStationWrite index image s).state.field.passStreak = s.field.passStreak ∧
    (performStationWrite index image s).state.table = s.table ∧
    (performStationWrite index image s).state.feed = s.feed ∧
    (performStationWrite index image s).state.kilns = s.kilns ∧
    (performStationWrite index image s).state.scale = s.scale ∧
    (performStationWrite index image s).state.press.queue = s.press.queue ∧
    (performStationWrite index image s).state.press.bales = s.press.bales ∧
    (performStationWrite index image s).state.press.tares = s.press.tares ∧
    (performStationWrite index image s).state.press.cycle = s.press.cycle ∧
    (performStationWrite index image s).state.tickets = s.tickets ∧
    (performStationWrite index image s).state.mgmt.time = s.mgmt.time ∧
    (performStationWrite index image s).state.mgmt.ticks = s.mgmt.ticks ∧
    (performStationWrite index image s).state.mgmt.timeSet = s.mgmt.timeSet := by
  generalize h : (performStationWrite index image s) = t
  unfold performStationWrite at h
  (try dsimp only at h)
  (repeat' split at h) <;> subst h <;> simp

@[simp] theorem performTableRead_frame (table index part : Byte) (s : State) :
    (performTableRead table index part s).state.pending = s.pending ∧
    (performTableRead table index part s).state.power = s.power ∧
    (performTableRead table index part s).state.link = s.link ∧
    (performTableRead table index part s).state.classifier = s.classifier ∧
    (performTableRead table index part s).state.field = s.field ∧
    (performTableRead table index part s).state.table = s.table ∧
    (performTableRead table index part s).state.feed = s.feed ∧
    (performTableRead table index part s).state.kilns = s.kilns ∧
    (performTableRead table index part s).state.scale = s.scale ∧
    (performTableRead table index part s).state.press = s.press ∧
    (performTableRead table index part s).state.tickets = s.tickets ∧
    (performTableRead table index part s).state.mgmt = s.mgmt := by
  generalize h : (performTableRead table index part s) = t
  unfold performTableRead at h
  (try dsimp only at h)
  (repeat' split at h) <;> subst h <;> simp

@[simp] theorem performTableWrite_frame (table index : Byte) (image : List Byte) (s : State) :
    (performTableWrite table index image s).state.pending = s.pending ∧
    (performTableWrite table index image s).state.power = s.power ∧
    (performTableWrite table index image s).state.link = s.link ∧
    (performTableWrite table index image s).state.classifier.requests = s.classifier.requests ∧
    (performTableWrite table index image s).state.classifier.dropped = s.classifier.dropped ∧
    (performTableWrite table index image s).state.classifier.misdirected = s.classifier.misdirected ∧
    (performTableWrite table index image s).state.classifier.passQueue = s.classifier.passQueue ∧
    (performTableWrite table index image s).state.classifier.forwardQueue = s.classifier.forwardQueue ∧
    (performTableWrite table index image s).state.classifier.reply = s.classifier.reply ∧
    (performTableWrite table index image s).state.classifier.block = s.classifier.block ∧
    (performTableWrite table index image s).state.classifier.sending = s.classifier.sending ∧
    (performTableWrite table index image s).state.field.passStreak = s.field.passStreak ∧
    (performTableWrite table index image s).state.feed.feedLot = s.feed.feedLot ∧
    (performTableWrite table index image s).state.feed.beltLot = s.feed.beltLot ∧
    (performTableWrite table index image s).state.feed.changeover = s.feed.changeover ∧
    (performTableWrite table index image s).state.feed.timer = s.feed.timer ∧
    (performTableWrite table index image s).state.feed.fillOrder = s.feed.fillOrder ∧
    (performTableWrite table index image s).state.feed.unassigned = s.feed.unassigned ∧
    (performTableWrite table index image s).state.press.queue = s.press.queue ∧
    (performTableWrite table index image s).state.press.bales = s.press.bales ∧
    (performTableWrite table index image s).state.press.cycle = s.press.cycle ∧
    (performTableWrite table index image s).state.tickets.baseSet = s.tickets.baseSet ∧
    (performTableWrite table index image s).state.tickets.nextTicket = s.tickets.nextTicket ∧
    (performTableWrite table index image s).state.tickets.lastTicket = s.tickets.lastTicket ∧
    (performTableWrite table index image s).state.tickets.nextBale = s.tickets.nextBale ∧
    (performTableWrite table index image s).state.tickets.lastBale = s.tickets.lastBale ∧
    (performTableWrite table index image s).state.tickets.wait = s.tickets.wait ∧
    (performTableWrite table index image s).state.mgmt.time = s.mgmt.time ∧
    (performTableWrite table index image s).state.mgmt.ticks = s.mgmt.ticks ∧
    (performTableWrite table index image s).state.mgmt.timeSet = s.mgmt.timeSet := by
  generalize h : (performTableWrite table index image s) = t
  unfold performTableWrite at h
  (try dsimp only at h)
  (repeat' split at h) <;> subst h <;> simp

@[simp] theorem addLot_frame (s : State) (l : Lot) :
    (State.addLot s l).pending = s.pending ∧ (State.addLot s l).power = s.power ∧ (State.addLot s l).link = s.link ∧
    (State.addLot s l).classifier = s.classifier ∧ (State.addLot s l).field = s.field ∧
    (State.addLot s l).table.varieties = s.table.varieties ∧ (State.addLot s l).feed = s.feed ∧
    (State.addLot s l).kilns = s.kilns ∧ (State.addLot s l).scale = s.scale ∧ (State.addLot s l).press = s.press ∧
    (State.addLot s l).tickets = s.tickets ∧ (State.addLot s l).mgmt = s.mgmt := by
  generalize h : (State.addLot s l) = t
  unfold State.addLot at h
  (try dsimp only at h)
  (repeat' split at h) <;> subst h <;> simp

@[simp] theorem performLotOpen_frame (lot grower : Word16) (variety : Byte) (s : State) :
    (performLotOpen lot grower variety s).state.pending = s.pending ∧
    (performLotOpen lot grower variety s).state.power = s.power ∧
    (performLotOpen lot grower variety s).state.link = s.link ∧
    (performLotOpen lot grower variety s).state.classifier = s.classifier ∧
    (performLotOpen lot grower variety s).state.field = s.field ∧
    (performLotOpen lot grower variety s).state.table.varieties = s.table.varieties ∧
    (performLotOpen lot grower variety s).state.feed = s.feed ∧
    (performLotOpen lot grower variety s).state.kilns = s.kilns ∧
    (performLotOpen lot grower variety s).state.scale = s.scale ∧
    (performLotOpen lot grower variety s).state.press = s.press ∧
    (performLotOpen lot grower variety s).state.tickets = s.tickets ∧
    (performLotOpen lot grower variety s).state.mgmt = s.mgmt := by
  generalize h : (performLotOpen lot grower variety s) = t
  unfold performLotOpen at h
  (try dsimp only at h)
  (repeat' split at h) <;> subst h <;> simp

@[simp] theorem performLotRead_frame (lot : Word16) (item : Byte) (s : State) :
    (performLotRead lot item s).state.pending = s.pending ∧ (performLotRead lot item s).state.power = s.power ∧
    (performLotRead lot item s).state.link = s.link ∧ (performLotRead lot item s).state.classifier = s.classifier ∧
    (performLotRead lot item s).state.field = s.field ∧ (performLotRead lot item s).state.table = s.table ∧
    (performLotRead lot item s).state.feed = s.feed ∧ (performLotRead lot item s).state.kilns = s.kilns ∧
    (performLotRead lot item s).state.scale = s.scale ∧ (performLotRead lot item s).state.press = s.press ∧
    (performLotRead lot item s).state.tickets = s.tickets ∧ (performLotRead lot item s).state.mgmt = s.mgmt := by
  generalize h : (performLotRead lot item s) = t
  unfold performLotRead at h
  (try dsimp only at h)
  (repeat' split at h) <;> subst h <;> simp

@[simp] theorem performLotVoid_frame (lot : Word16) (s : State) :
    (performLotVoid lot s).state.pending = s.pending ∧ (performLotVoid lot s).state.power = s.power ∧
    (performLotVoid lot s).state.link = s.link ∧ (performLotVoid lot s).state.classifier = s.classifier ∧
    (performLotVoid lot s).state.field = s.field ∧ (performLotVoid lot s).state.table.varieties = s.table.varieties ∧
    (performLotVoid lot s).state.feed = s.feed ∧ (performLotVoid lot s).state.kilns = s.kilns ∧
    (performLotVoid lot s).state.scale = s.scale ∧ (performLotVoid lot s).state.press = s.press ∧
    (performLotVoid lot s).state.tickets = s.tickets ∧ (performLotVoid lot s).state.mgmt = s.mgmt := by
  generalize h : (performLotVoid lot s) = t
  unfold performLotVoid at h
  (try dsimp only at h)
  (repeat' split at h) <;> subst h <;> simp

@[simp] theorem performLotClose_frame (lot : Word16) (s : State) :
    (performLotClose lot s).state.pending = s.pending ∧ (performLotClose lot s).state.power = s.power ∧
    (performLotClose lot s).state.link = s.link ∧ (performLotClose lot s).state.classifier = s.classifier ∧
    (performLotClose lot s).state.field = s.field ∧
    (performLotClose lot s).state.table.varieties = s.table.varieties ∧ (performLotClose lot s).state.feed = s.feed ∧
    (performLotClose lot s).state.kilns = s.kilns ∧ (performLotClose lot s).state.scale = s.scale ∧
    (performLotClose lot s).state.press = s.press ∧ (performLotClose lot s).state.tickets = s.tickets ∧
    (performLotClose lot s).state.mgmt = s.mgmt := by
  generalize h : (performLotClose lot s) = t
  unfold performLotClose at h
  (try dsimp only at h)
  (repeat' split at h) <;> subst h <;> simp

@[simp] theorem clearCounts_frame (s : State) :
    (State.clearCounts s).pending = s.pending ∧ (State.clearCounts s).power = s.power ∧
    (State.clearCounts s).link.addr = s.link.addr ∧ (State.clearCounts s).link.upRate = s.link.upRate ∧
    (State.clearCounts s).link.fpRate = s.link.fpRate ∧ (State.clearCounts s).link.live = s.link.live ∧
    (State.clearCounts s).link.silence = s.link.silence ∧ (State.clearCounts s).link.upOverlong = s.link.upOverlong ∧
    (State.clearCounts s).link.fpOverlong = s.link.fpOverlong ∧
    (State.clearCounts s).link.fpReceiving = s.link.fpReceiving ∧ (State.clearCounts s).link.driver = s.link.driver ∧
    (State.clearCounts s).classifier.requests = s.classifier.requests ∧
    (State.clearCounts s).classifier.routes = s.classifier.routes ∧
    (State.clearCounts s).classifier.passQueue = s.classifier.passQueue ∧
    (State.clearCounts s).classifier.forwardQueue = s.classifier.forwardQueue ∧
    (State.clearCounts s).classifier.reply = s.classifier.reply ∧
    (State.clearCounts s).classifier.block = s.classifier.block ∧
    (State.clearCounts s).classifier.sending = s.classifier.sending ∧ (State.clearCounts s).field = s.field ∧
    (State.clearCounts s).table = s.table ∧ (State.clearCounts s).feed = s.feed ∧
    (State.clearCounts s).kilns = s.kilns ∧ (State.clearCounts s).scale = s.scale ∧
    (State.clearCounts s).press = s.press ∧ (State.clearCounts s).tickets = s.tickets ∧
    (State.clearCounts s).mgmt.time = s.mgmt.time ∧ (State.clearCounts s).mgmt.ticks = s.mgmt.ticks ∧
    (State.clearCounts s).mgmt.timeSet = s.mgmt.timeSet ∧ (State.clearCounts s).mgmt.station = s.mgmt.station ∧
    (State.clearCounts s).mgmt.notices = s.mgmt.notices := by
  generalize h : (State.clearCounts s) = t
  unfold State.clearCounts at h
  (try dsimp only at h)
  (repeat' split at h) <;> subst h <;> simp

@[simp] theorem performStatus_frame (clear page : Byte) (s : State) :
    (performStatus clear page s).state.pending = s.pending ∧ (performStatus clear page s).state.power = s.power ∧
    (performStatus clear page s).state.link.addr = s.link.addr ∧
    (performStatus clear page s).state.link.upRate = s.link.upRate ∧
    (performStatus clear page s).state.link.fpRate = s.link.fpRate ∧
    (performStatus clear page s).state.link.live = s.link.live ∧
    (performStatus clear page s).state.link.silence = s.link.silence ∧
    (performStatus clear page s).state.link.upOverlong = s.link.upOverlong ∧
    (performStatus clear page s).state.link.fpOverlong = s.link.fpOverlong ∧
    (performStatus clear page s).state.link.fpReceiving = s.link.fpReceiving ∧
    (performStatus clear page s).state.link.driver = s.link.driver ∧
    (performStatus clear page s).state.classifier.requests = s.classifier.requests ∧
    (performStatus clear page s).state.classifier.routes = s.classifier.routes ∧
    (performStatus clear page s).state.classifier.passQueue = s.classifier.passQueue ∧
    (performStatus clear page s).state.classifier.forwardQueue = s.classifier.forwardQueue ∧
    (performStatus clear page s).state.classifier.reply = s.classifier.reply ∧
    (performStatus clear page s).state.classifier.block = s.classifier.block ∧
    (performStatus clear page s).state.classifier.sending = s.classifier.sending ∧
    (performStatus clear page s).state.field = s.field ∧ (performStatus clear page s).state.table = s.table ∧
    (performStatus clear page s).state.feed = s.feed ∧ (performStatus clear page s).state.kilns = s.kilns ∧
    (performStatus clear page s).state.scale = s.scale ∧ (performStatus clear page s).state.press = s.press ∧
    (performStatus clear page s).state.tickets = s.tickets ∧
    (performStatus clear page s).state.mgmt.time = s.mgmt.time ∧
    (performStatus clear page s).state.mgmt.ticks = s.mgmt.ticks ∧
    (performStatus clear page s).state.mgmt.timeSet = s.mgmt.timeSet ∧
    (performStatus clear page s).state.mgmt.station = s.mgmt.station ∧
    (performStatus clear page s).state.mgmt.notices = s.mgmt.notices := by
  generalize h : (performStatus clear page s) = t
  unfold performStatus at h
  (try dsimp only at h)
  (repeat' split at h) <;> subst h <;> simp

@[simp] theorem performTimeSet_frame (time : Word32) (s : State) :
    (performTimeSet time s).state.pending = s.pending ∧ (performTimeSet time s).state.power = s.power ∧
    (performTimeSet time s).state.link = s.link ∧ (performTimeSet time s).state.classifier = s.classifier ∧
    (performTimeSet time s).state.field = s.field ∧ (performTimeSet time s).state.table = s.table ∧
    (performTimeSet time s).state.feed = s.feed ∧ (performTimeSet time s).state.kilns = s.kilns ∧
    (performTimeSet time s).state.scale = s.scale ∧ (performTimeSet time s).state.press = s.press ∧
    (performTimeSet time s).state.tickets = s.tickets ∧ (performTimeSet time s).state.mgmt.station = s.mgmt.station ∧
    (performTimeSet time s).state.mgmt.notices = s.mgmt.notices ∧
    (performTimeSet time s).state.mgmt.overflow = s.mgmt.overflow := by
  generalize h : (performTimeSet time s) = t
  unfold performTimeSet at h
  (try dsimp only at h)
  (repeat' split at h) <;> subst h <;> simp

@[simp] theorem secondPassed_frame (s : State) :
    (State.secondPassed s).pending = s.pending ∧ (State.secondPassed s).power = s.power ∧
    (State.secondPassed s).link = s.link ∧ (State.secondPassed s).classifier = s.classifier ∧
    (State.secondPassed s).field = s.field ∧ (State.secondPassed s).table = s.table ∧
    (State.secondPassed s).feed = s.feed ∧ (State.secondPassed s).kilns = s.kilns ∧
    (State.secondPassed s).scale = s.scale ∧ (State.secondPassed s).press = s.press ∧
    (State.secondPassed s).tickets = s.tickets ∧ (State.secondPassed s).mgmt.timeSet = s.mgmt.timeSet ∧
    (State.secondPassed s).mgmt.station = s.mgmt.station ∧ (State.secondPassed s).mgmt.notices = s.mgmt.notices ∧
    (State.secondPassed s).mgmt.overflow = s.mgmt.overflow := by
  generalize h : (State.secondPassed s) = t
  unfold State.secondPassed at h
  (try dsimp only at h)
  (repeat' split at h) <;> subst h <;> simp

@[simp] theorem restartStation_frame (s : State) :
    (State.restartStation s).pending = s.pending ∧ (State.restartStation s).power = s.power ∧
    (State.restartStation s).link = s.link ∧ (State.restartStation s).classifier.requests = s.classifier.requests ∧
    (State.restartStation s).classifier.dropped = s.classifier.dropped ∧
    (State.restartStation s).classifier.misdirected = s.classifier.misdirected ∧
    (State.restartStation s).classifier.reply = s.classifier.reply ∧
    (State.restartStation s).classifier.sending = s.classifier.sending ∧
    (State.restartStation s).tickets.baseSet = s.tickets.baseSet ∧
    (State.restartStation s).tickets.nextTicket = s.tickets.nextTicket ∧
    (State.restartStation s).tickets.lastTicket = s.tickets.lastTicket ∧
    (State.restartStation s).tickets.nextBale = s.tickets.nextBale ∧
    (State.restartStation s).tickets.lastBale = s.tickets.lastBale ∧
    (State.restartStation s).mgmt.time = s.mgmt.time ∧ (State.restartStation s).mgmt.ticks = s.mgmt.ticks ∧
    (State.restartStation s).mgmt.timeSet = s.mgmt.timeSet ∧ (State.restartStation s).mgmt.notices = s.mgmt.notices ∧
    (State.restartStation s).mgmt.overflow = s.mgmt.overflow := by
  simp [State.restartStation, Classifier.stationRestarted, Tickets.stationRestarted]

@[simp] theorem performRestart_frame (scope : Byte) (s : State) :
    (performRestart scope s).state.pending = s.pending ∧ (performRestart scope s).state.power = s.power ∧
    (performRestart scope s).state.link = s.link ∧
    (performRestart scope s).state.classifier.requests = s.classifier.requests ∧
    (performRestart scope s).state.classifier.dropped = s.classifier.dropped ∧
    (performRestart scope s).state.classifier.misdirected = s.classifier.misdirected ∧
    (performRestart scope s).state.classifier.reply = s.classifier.reply ∧
    (performRestart scope s).state.classifier.sending = s.classifier.sending ∧
    (performRestart scope s).state.tickets.baseSet = s.tickets.baseSet ∧
    (performRestart scope s).state.tickets.nextTicket = s.tickets.nextTicket ∧
    (performRestart scope s).state.tickets.lastTicket = s.tickets.lastTicket ∧
    (performRestart scope s).state.tickets.nextBale = s.tickets.nextBale ∧
    (performRestart scope s).state.tickets.lastBale = s.tickets.lastBale ∧
    (performRestart scope s).state.mgmt.time = s.mgmt.time ∧
    (performRestart scope s).state.mgmt.ticks = s.mgmt.ticks ∧
    (performRestart scope s).state.mgmt.timeSet = s.mgmt.timeSet ∧
    (performRestart scope s).state.mgmt.notices = s.mgmt.notices ∧
    (performRestart scope s).state.mgmt.overflow = s.mgmt.overflow := by
  generalize h : (performRestart scope s) = t
  unfold performRestart at h
  (try dsimp only at h)
  (repeat' split at h) <;> subst h <;> simp

@[simp] theorem performRequest_frame (r : Request) (s : State) :
    (performRequest r s).state.pending = s.pending ∧ (performRequest r s).state.power = s.power ∧
    (performRequest r s).state.link.addr = s.link.addr ∧ (performRequest r s).state.link.upRate = s.link.upRate ∧
    (performRequest r s).state.link.fpRate = s.link.fpRate ∧ (performRequest r s).state.link.live = s.link.live ∧
    (performRequest r s).state.link.silence = s.link.silence ∧
    (performRequest r s).state.link.upOverlong = s.link.upOverlong ∧
    (performRequest r s).state.link.fpOverlong = s.link.fpOverlong ∧
    (performRequest r s).state.link.fpReceiving = s.link.fpReceiving ∧
    (performRequest r s).state.link.driver = s.link.driver ∧
    (performRequest r s).state.classifier.requests = s.classifier.requests ∧
    (performRequest r s).state.classifier.reply = s.classifier.reply ∧
    (performRequest r s).state.classifier.sending = s.classifier.sending ∧
    (performRequest r s).state.tickets.lastBale = s.tickets.lastBale := by
  generalize h : (performRequest r s) = t
  unfold performRequest at h
  (try dsimp only at h)
  (repeat' split at h) <;> subst h <;> simp

@[simp] theorem setReply_frame (s : State) (payload : List Byte) :
    (State.setReply s payload).pending = s.pending ∧ (State.setReply s payload).power = s.power ∧
    (State.setReply s payload).link = s.link ∧
    (State.setReply s payload).classifier.requests = s.classifier.requests ∧
    (State.setReply s payload).classifier.dropped = s.classifier.dropped ∧
    (State.setReply s payload).classifier.misdirected = s.classifier.misdirected ∧
    (State.setReply s payload).classifier.routes = s.classifier.routes ∧
    (State.setReply s payload).classifier.passQueue = s.classifier.passQueue ∧
    (State.setReply s payload).classifier.forwardQueue = s.classifier.forwardQueue ∧
    (State.setReply s payload).classifier.block = s.classifier.block ∧
    (State.setReply s payload).classifier.sending = s.classifier.sending ∧
    (State.setReply s payload).field = s.field ∧ (State.setReply s payload).table = s.table ∧
    (State.setReply s payload).feed = s.feed ∧ (State.setReply s payload).kilns = s.kilns ∧
    (State.setReply s payload).scale = s.scale ∧ (State.setReply s payload).press = s.press ∧
    (State.setReply s payload).tickets = s.tickets ∧ (State.setReply s payload).mgmt = s.mgmt := by
  generalize h : (State.setReply s payload) = t
  unfold State.setReply at h
  (try dsimp only at h)
  (repeat' split at h) <;> subst h <;> simp

@[simp] theorem performPayload_frame (payload : List Byte) (s : State) :
    (performPayload payload s).2.2.state.pending = s.pending ∧ (performPayload payload s).2.2.state.power = s.power ∧
    (performPayload payload s).2.2.state.link.addr = s.link.addr ∧
    (performPayload payload s).2.2.state.link.upRate = s.link.upRate ∧
    (performPayload payload s).2.2.state.link.fpRate = s.link.fpRate ∧
    (performPayload payload s).2.2.state.link.live = s.link.live ∧
    (performPayload payload s).2.2.state.link.silence = s.link.silence ∧
    (performPayload payload s).2.2.state.link.upOverlong = s.link.upOverlong ∧
    (performPayload payload s).2.2.state.link.fpOverlong = s.link.fpOverlong ∧
    (performPayload payload s).2.2.state.link.fpReceiving = s.link.fpReceiving ∧
    (performPayload payload s).2.2.state.link.driver = s.link.driver ∧
    (performPayload payload s).2.2.state.classifier.requests = s.classifier.requests ∧
    (performPayload payload s).2.2.state.classifier.sending = s.classifier.sending ∧
    (performPayload payload s).2.2.state.tickets.lastBale = s.tickets.lastBale ∧
    (performPayload payload s).2.2.state.classifier.reply = s.classifier.reply := by
  unfold performPayload
  repeat' split
  all_goals simp

@[simp] theorem executeFrame_frame (s : State) (f : Frame) :
    (State.executeFrame s f).pending = s.pending ∧ (State.executeFrame s f).power = s.power ∧
    (State.executeFrame s f).link.addr = s.link.addr ∧ (State.executeFrame s f).link.upRate = s.link.upRate ∧
    (State.executeFrame s f).link.fpRate = s.link.fpRate ∧ (State.executeFrame s f).link.live = s.link.live ∧
    (State.executeFrame s f).link.silence = s.link.silence ∧
    (State.executeFrame s f).link.upOverlong = s.link.upOverlong ∧
    (State.executeFrame s f).link.fpOverlong = s.link.fpOverlong ∧
    (State.executeFrame s f).link.fpReceiving = s.link.fpReceiving ∧
    (State.executeFrame s f).link.driver = s.link.driver ∧
    (State.executeFrame s f).classifier.requests = s.classifier.requests ∧
    (State.executeFrame s f).classifier.sending = s.classifier.sending ∧
    (State.executeFrame s f).tickets.lastBale = s.tickets.lastBale := by
  generalize h : (State.executeFrame s f) = t
  unfold State.executeFrame at h
  (try dsimp only at h)
  (repeat' split at h) <;> subst h <;> simp

@[simp] theorem executeHead_frame (s : State) :
    (State.executeHead s).pending = s.pending ∧ (State.executeHead s).power = s.power ∧
    (State.executeHead s).link.addr = s.link.addr ∧ (State.executeHead s).link.upRate = s.link.upRate ∧
    (State.executeHead s).link.fpRate = s.link.fpRate ∧ (State.executeHead s).link.live = s.link.live ∧
    (State.executeHead s).link.silence = s.link.silence ∧ (State.executeHead s).link.upOverlong = s.link.upOverlong ∧
    (State.executeHead s).link.fpOverlong = s.link.fpOverlong ∧
    (State.executeHead s).link.fpReceiving = s.link.fpReceiving ∧ (State.executeHead s).link.driver = s.link.driver ∧
    (State.executeHead s).classifier.requests = s.classifier.requests ∧
    (State.executeHead s).classifier.sending = s.classifier.sending ∧
    (State.executeHead s).tickets.lastBale = s.tickets.lastBale := by
  generalize h : (State.executeHead s) = t
  unfold State.executeHead at h
  (try dsimp only at h)
  (repeat' split at h) <;> subst h <;> simp

@[simp] theorem admitRequest_frame (s : State) (f : Frame) :
    (State.admitRequest s f).pending = s.pending ∧ (State.admitRequest s f).power = s.power ∧
    (State.admitRequest s f).link.addr = s.link.addr ∧ (State.admitRequest s f).link.upRate = s.link.upRate ∧
    (State.admitRequest s f).link.fpRate = s.link.fpRate ∧ (State.admitRequest s f).link.live = s.link.live ∧
    (State.admitRequest s f).link.silence = s.link.silence ∧
    (State.admitRequest s f).link.upOverlong = s.link.upOverlong ∧
    (State.admitRequest s f).link.fpOverlong = s.link.fpOverlong ∧
    (State.admitRequest s f).link.fpReceiving = s.link.fpReceiving ∧
    (State.admitRequest s f).link.driver = s.link.driver ∧
    (State.admitRequest s f).classifier.sending = s.classifier.sending ∧
    (State.admitRequest s f).tickets.lastBale = s.tickets.lastBale := by
  generalize h : (State.admitRequest s f) = t
  unfold State.admitRequest at h
  (try dsimp only at h)
  (repeat' split at h) <;> subst h <;> simp

@[simp] theorem completeRequest_frame (s : State) :
    (State.completeRequest s).pending = s.pending ∧ (State.completeRequest s).power = s.power ∧
    (State.completeRequest s).link.addr = s.link.addr ∧ (State.completeRequest s).link.upRate = s.link.upRate ∧
    (State.completeRequest s).link.fpRate = s.link.fpRate ∧ (State.completeRequest s).link.live = s.link.live ∧
    (State.completeRequest s).link.silence = s.link.silence ∧
    (State.completeRequest s).link.upOverlong = s.link.upOverlong ∧
    (State.completeRequest s).link.fpOverlong = s.link.fpOverlong ∧
    (State.completeRequest s).link.fpReceiving = s.link.fpReceiving ∧
    (State.completeRequest s).link.driver = s.link.driver ∧
    (State.completeRequest s).classifier.sending = s.classifier.sending ∧
    (State.completeRequest s).tickets.lastBale = s.tickets.lastBale := by
  generalize h : (State.completeRequest s) = t
  unfold State.completeRequest at h
  (try dsimp only at h)
  (repeat' split at h) <;> subst h <;> simp

@[simp] theorem submit_frame (tag : Byte) (r : Request) (s : State) :
    (State.submit tag r s).pending = s.pending ∧ (State.submit tag r s).power = s.power ∧
    (State.submit tag r s).link.addr = s.link.addr ∧ (State.submit tag r s).link.upRate = s.link.upRate ∧
    (State.submit tag r s).link.fpRate = s.link.fpRate ∧ (State.submit tag r s).link.live = s.link.live ∧
    (State.submit tag r s).link.silence = s.link.silence ∧
    (State.submit tag r s).link.upOverlong = s.link.upOverlong ∧
    (State.submit tag r s).link.fpOverlong = s.link.fpOverlong ∧
    (State.submit tag r s).link.fpReceiving = s.link.fpReceiving ∧
    (State.submit tag r s).link.driver = s.link.driver ∧
    (State.submit tag r s).classifier.sending = s.classifier.sending ∧
    (State.submit tag r s).tickets.lastBale = s.tickets.lastBale := by
  generalize h : (State.submit tag r s) = t
  unfold State.submit at h
  (try dsimp only at h)
  (repeat' split at h) <;> subst h <;> simp

@[simp] theorem updLink_frame (s : State) (f : Link → Link) :
    (State.updLink s f).pending = s.pending ∧ (State.updLink s f).power = s.power ∧
    (State.updLink s f).classifier = s.classifier ∧ (State.updLink s f).field = s.field ∧
    (State.updLink s f).table = s.table ∧ (State.updLink s f).feed = s.feed ∧ (State.updLink s f).kilns = s.kilns ∧
    (State.updLink s f).scale = s.scale ∧ (State.updLink s f).press = s.press ∧
    (State.updLink s f).tickets = s.tickets ∧ (State.updLink s f).mgmt = s.mgmt := by
  generalize h : (State.updLink s f) = t
  unfold State.updLink at h
  (try dsimp only at h)
  (repeat' split at h) <;> subst h <;> simp

@[simp] theorem validArrival_frame (s : State) :
    (State.validArrival s).pending = s.pending ∧ (State.validArrival s).power = s.power ∧
    (State.validArrival s).link.addr = s.link.addr ∧ (State.validArrival s).link.upRate = s.link.upRate ∧
    (State.validArrival s).link.fpRate = s.link.fpRate ∧ (State.validArrival s).link.up = s.link.up ∧
    (State.validArrival s).link.fp = s.link.fp ∧ (State.validArrival s).link.unsolicited = s.link.unsolicited ∧
    (State.validArrival s).link.upOverlong = s.link.upOverlong ∧
    (State.validArrival s).link.fpOverlong = s.link.fpOverlong ∧
    (State.validArrival s).link.fpReceiving = s.link.fpReceiving ∧
    (State.validArrival s).link.driver = s.link.driver ∧ (State.validArrival s).classifier = s.classifier ∧
    (State.validArrival s).field = s.field ∧ (State.validArrival s).table = s.table ∧
    (State.validArrival s).feed = s.feed ∧ (State.validArrival s).kilns = s.kilns ∧
    (State.validArrival s).scale = s.scale ∧ (State.validArrival s).press = s.press ∧
    (State.validArrival s).tickets = s.tickets ∧ (State.validArrival s).mgmt.time = s.mgmt.time ∧
    (State.validArrival s).mgmt.ticks = s.mgmt.ticks ∧ (State.validArrival s).mgmt.timeSet = s.mgmt.timeSet ∧
    (State.validArrival s).mgmt.station = s.mgmt.station := by
  generalize h : (State.validArrival s) = t
  unfold State.validArrival at h
  (try dsimp only at h)
  (repeat' split at h) <;> subst h <;> simp

@[simp] theorem linkSilent_frame (s : State) :
    (State.linkSilent s).pending = s.pending ∧ (State.linkSilent s).power = s.power ∧
    (State.linkSilent s).link.addr = s.link.addr ∧ (State.linkSilent s).link.upRate = s.link.upRate ∧
    (State.linkSilent s).link.fpRate = s.link.fpRate ∧ (State.linkSilent s).link.up = s.link.up ∧
    (State.linkSilent s).link.fp = s.link.fp ∧ (State.linkSilent s).link.unsolicited = s.link.unsolicited ∧
    (State.linkSilent s).link.upOverlong = s.link.upOverlong ∧
    (State.linkSilent s).link.fpOverlong = s.link.fpOverlong ∧
    (State.linkSilent s).link.fpReceiving = s.link.fpReceiving ∧ (State.linkSilent s).link.driver = s.link.driver ∧
    (State.linkSilent s).classifier = s.classifier ∧ (State.linkSilent s).field = s.field ∧
    (State.linkSilent s).table = s.table ∧ (State.linkSilent s).feed = s.feed ∧ (State.linkSilent s).kilns = s.kilns ∧
    (State.linkSilent s).scale = s.scale ∧ (State.linkSilent s).press = s.press ∧
    (State.linkSilent s).tickets = s.tickets ∧ (State.linkSilent s).mgmt = s.mgmt := by
  generalize h : (State.linkSilent s) = t
  unfold State.linkSilent at h
  (try dsimp only at h)
  (repeat' split at h) <;> subst h <;> simp

@[simp] theorem offerPass_frame (s : State) (f : Frame) :
    (State.offerPass s f).pending = s.pending ∧ (State.offerPass s f).power = s.power ∧
    (State.offerPass s f).link = s.link ∧ (State.offerPass s f).classifier.requests = s.classifier.requests ∧
    (State.offerPass s f).classifier.dropped = s.classifier.dropped ∧
    (State.offerPass s f).classifier.misdirected = s.classifier.misdirected ∧
    (State.offerPass s f).classifier.routes = s.classifier.routes ∧
    (State.offerPass s f).classifier.forwardQueue = s.classifier.forwardQueue ∧
    (State.offerPass s f).classifier.reply = s.classifier.reply ∧
    (State.offerPass s f).classifier.block = s.classifier.block ∧
    (State.offerPass s f).classifier.sending = s.classifier.sending ∧ (State.offerPass s f).field = s.field ∧
    (State.offerPass s f).table = s.table ∧ (State.offerPass s f).feed = s.feed ∧
    (State.offerPass s f).kilns = s.kilns ∧ (State.offerPass s f).scale = s.scale ∧
    (State.offerPass s f).press = s.press ∧ (State.offerPass s f).tickets = s.tickets ∧
    (State.offerPass s f).mgmt.time = s.mgmt.time ∧ (State.offerPass s f).mgmt.ticks = s.mgmt.ticks ∧
    (State.offerPass s f).mgmt.timeSet = s.mgmt.timeSet ∧ (State.offerPass s f).mgmt.station = s.mgmt.station := by
  generalize h : (State.offerPass s f) = t
  unfold State.offerPass at h
  (try dsimp only at h)
  (repeat' split at h) <;> subst h <;> simp

@[simp] theorem classifyUpstream_frame (s : State) (f : Frame) :
    (State.classifyUpstream s f).pending = s.pending ∧ (State.classifyUpstream s f).power = s.power ∧
    (State.classifyUpstream s f).link.addr = s.link.addr ∧ (State.classifyUpstream s f).link.upRate = s.link.upRate ∧
    (State.classifyUpstream s f).link.fpRate = s.link.fpRate ∧ (State.classifyUpstream s f).link.live = s.link.live ∧
    (State.classifyUpstream s f).link.silence = s.link.silence ∧
    (State.classifyUpstream s f).link.upOverlong = s.link.upOverlong ∧
    (State.classifyUpstream s f).link.fpOverlong = s.link.fpOverlong ∧
    (State.classifyUpstream s f).link.fpReceiving = s.link.fpReceiving ∧
    (State.classifyUpstream s f).link.driver = s.link.driver ∧
    (State.classifyUpstream s f).classifier.sending = s.classifier.sending ∧
    (State.classifyUpstream s f).tickets.lastBale = s.tickets.lastBale := by
  generalize h : (State.classifyUpstream s f) = t
  unfold State.classifyUpstream at h
  (try dsimp only at h)
  (repeat' split at h) <;> subst h <;> simp

@[simp] theorem upstreamArrival_frame (s : State) (chars : List Byte) :
    (State.upstreamArrival s chars).pending = s.pending ∧ (State.upstreamArrival s chars).power = s.power ∧
    (State.upstreamArrival s chars).link.addr = s.link.addr ∧
    (State.upstreamArrival s chars).link.upRate = s.link.upRate ∧
    (State.upstreamArrival s chars).link.fpRate = s.link.fpRate ∧
    (State.upstreamArrival s chars).link.fpOverlong = s.link.fpOverlong ∧
    (State.upstreamArrival s chars).link.fpReceiving = s.link.fpReceiving ∧
    (State.upstreamArrival s chars).link.driver = s.link.driver ∧
    (State.upstreamArrival s chars).classifier.sending = s.classifier.sending ∧
    (State.upstreamArrival s chars).tickets.lastBale = s.tickets.lastBale := by
  generalize h : (State.upstreamArrival s chars) = t
  unfold State.upstreamArrival at h
  (try dsimp only at h)
  (repeat' split at h) <;> subst h <;> simp

@[simp] theorem idleGap_frame (s : State) (port : Port) :
    (State.idleGap s port).pending = s.pending ∧ (State.idleGap s port).power = s.power ∧
    (State.idleGap s port).link.addr = s.link.addr ∧ (State.idleGap s port).link.upRate = s.link.upRate ∧
    (State.idleGap s port).link.fpRate = s.link.fpRate ∧ (State.idleGap s port).link.live = s.link.live ∧
    (State.idleGap s port).link.silence = s.link.silence ∧ (State.idleGap s port).link.up = s.link.up ∧
    (State.idleGap s port).link.fp = s.link.fp ∧ (State.idleGap s port).link.unsolicited = s.link.unsolicited ∧
    (State.idleGap s port).link.fpReceiving = s.link.fpReceiving ∧
    (State.idleGap s port).link.driver = s.link.driver ∧ (State.idleGap s port).classifier = s.classifier ∧
    (State.idleGap s port).field = s.field ∧ (State.idleGap s port).table = s.table ∧
    (State.idleGap s port).feed = s.feed ∧ (State.idleGap s port).kilns = s.kilns ∧
    (State.idleGap s port).scale = s.scale ∧ (State.idleGap s port).press = s.press ∧
    (State.idleGap s port).tickets = s.tickets ∧ (State.idleGap s port).mgmt = s.mgmt := by
  generalize h : (State.idleGap s port) = t
  unfold State.idleGap at h
  (try dsimp only at h)
  (repeat' split at h) <;> subst h <;> simp

@[simp] theorem startUpstream_frame (s : State) (t : UpTransmit) :
    (State.startUpstream s t).pending = s.pending ∧ (State.startUpstream s t).power = s.power ∧
    (State.startUpstream s t).link = s.link ∧ (State.startUpstream s t).classifier.requests = s.classifier.requests ∧
    (State.startUpstream s t).classifier.dropped = s.classifier.dropped ∧
    (State.startUpstream s t).classifier.misdirected = s.classifier.misdirected ∧
    (State.startUpstream s t).classifier.routes = s.classifier.routes ∧
    (State.startUpstream s t).classifier.passQueue = s.classifier.passQueue ∧
    (State.startUpstream s t).classifier.reply = s.classifier.reply ∧
    (State.startUpstream s t).classifier.block = s.classifier.block ∧ (State.startUpstream s t).field = s.field ∧
    (State.startUpstream s t).table = s.table ∧ (State.startUpstream s t).feed = s.feed ∧
    (State.startUpstream s t).kilns = s.kilns ∧ (State.startUpstream s t).scale = s.scale ∧
    (State.startUpstream s t).press = s.press ∧ (State.startUpstream s t).tickets = s.tickets ∧
    (State.startUpstream s t).mgmt.time = s.mgmt.time ∧ (State.startUpstream s t).mgmt.ticks = s.mgmt.ticks ∧
    (State.startUpstream s t).mgmt.timeSet = s.mgmt.timeSet ∧
    (State.startUpstream s t).mgmt.station = s.mgmt.station ∧
    (State.startUpstream s t).mgmt.overflow = s.mgmt.overflow := by
  generalize h : (State.startUpstream s t) = t
  unfold State.startUpstream at h
  (try dsimp only at h)
  (repeat' split at h) <;> subst h <;> simp

@[simp] theorem upstreamTransmit_frame (s : State) :
    (State.upstreamTransmit s).pending = s.pending ∧ (State.upstreamTransmit s).power = s.power ∧
    (State.upstreamTransmit s).link = s.link ∧
    (State.upstreamTransmit s).classifier.requests = s.classifier.requests ∧
    (State.upstreamTransmit s).classifier.dropped = s.classifier.dropped ∧
    (State.upstreamTransmit s).classifier.misdirected = s.classifier.misdirected ∧
    (State.upstreamTransmit s).classifier.routes = s.classifier.routes ∧
    (State.upstreamTransmit s).classifier.passQueue = s.classifier.passQueue ∧
    (State.upstreamTransmit s).classifier.reply = s.classifier.reply ∧
    (State.upstreamTransmit s).classifier.block = s.classifier.block ∧ (State.upstreamTransmit s).field = s.field ∧
    (State.upstreamTransmit s).table = s.table ∧ (State.upstreamTransmit s).feed = s.feed ∧
    (State.upstreamTransmit s).kilns = s.kilns ∧ (State.upstreamTransmit s).scale = s.scale ∧
    (State.upstreamTransmit s).press = s.press ∧ (State.upstreamTransmit s).tickets = s.tickets ∧
    (State.upstreamTransmit s).mgmt.time = s.mgmt.time ∧ (State.upstreamTransmit s).mgmt.ticks = s.mgmt.ticks ∧
    (State.upstreamTransmit s).mgmt.timeSet = s.mgmt.timeSet ∧
    (State.upstreamTransmit s).mgmt.station = s.mgmt.station ∧
    (State.upstreamTransmit s).mgmt.overflow = s.mgmt.overflow := by
  generalize h : (State.upstreamTransmit s) = t
  unfold State.upstreamTransmit at h
  (try dsimp only at h)
  (repeat' split at h) <;> subst h <;> simp

@[simp] theorem replySent_frame (s : State) :
    (State.replySent s).pending = s.pending ∧ (State.replySent s).power = s.power ∧
    (State.replySent s).link.addr = s.link.addr ∧ (State.replySent s).link.upRate = s.link.upRate ∧
    (State.replySent s).link.fpRate = s.link.fpRate ∧ (State.replySent s).link.live = s.link.live ∧
    (State.replySent s).link.silence = s.link.silence ∧ (State.replySent s).link.upOverlong = s.link.upOverlong ∧
    (State.replySent s).link.fpOverlong = s.link.fpOverlong ∧
    (State.replySent s).link.fpReceiving = s.link.fpReceiving ∧ (State.replySent s).link.driver = s.link.driver ∧
    (State.replySent s).classifier.sending = s.classifier.sending ∧
    (State.replySent s).tickets.lastBale = s.tickets.lastBale := by
  generalize h : (State.replySent s) = t
  unfold State.replySent at h
  (try dsimp only at h)
  (repeat' split at h) <;> subst h <;> simp

@[simp] theorem segmentSent_frame (s : State) :
    (State.segmentSent s).pending = s.pending ∧ (State.segmentSent s).power = s.power ∧
    (State.segmentSent s).link.addr = s.link.addr ∧ (State.segmentSent s).link.upRate = s.link.upRate ∧
    (State.segmentSent s).link.fpRate = s.link.fpRate ∧ (State.segmentSent s).link.live = s.link.live ∧
    (State.segmentSent s).link.silence = s.link.silence ∧ (State.segmentSent s).link.upOverlong = s.link.upOverlong ∧
    (State.segmentSent s).link.fpOverlong = s.link.fpOverlong ∧
    (State.segmentSent s).link.fpReceiving = s.link.fpReceiving ∧ (State.segmentSent s).link.driver = s.link.driver ∧
    (State.segmentSent s).classifier.sending = s.classifier.sending ∧
    (State.segmentSent s).tickets.lastBale = s.tickets.lastBale := by
  generalize h : (State.segmentSent s) = t
  unfold State.segmentSent at h
  (try dsimp only at h)
  (repeat' split at h) <;> subst h <;> simp

@[simp] theorem upstreamFrameSent_frame (s : State) :
    (State.upstreamFrameSent s).pending = s.pending ∧ (State.upstreamFrameSent s).power = s.power ∧
    (State.upstreamFrameSent s).link.addr = s.link.addr ∧ (State.upstreamFrameSent s).link.upRate = s.link.upRate ∧
    (State.upstreamFrameSent s).link.fpRate = s.link.fpRate ∧ (State.upstreamFrameSent s).link.live = s.link.live ∧
    (State.upstreamFrameSent s).link.silence = s.link.silence ∧
    (State.upstreamFrameSent s).link.upOverlong = s.link.upOverlong ∧
    (State.upstreamFrameSent s).link.fpOverlong = s.link.fpOverlong ∧
    (State.upstreamFrameSent s).link.fpReceiving = s.link.fpReceiving ∧
    (State.upstreamFrameSent s).link.driver = s.link.driver ∧
    (State.upstreamFrameSent s).tickets.lastBale = s.tickets.lastBale := by
  generalize h : (State.upstreamFrameSent s) = t
  unfold State.upstreamFrameSent at h
  (try dsimp only at h)
  (repeat' split at h) <;> subst h <;> simp

end Sys2Proof.Machine
end

