-- ==== Sys2Proof/Laws/KeptGreen.lean ====
section
/-! SUPPORT. Every operation keeps the law of the green weight, and what ties the records it rests on (R6, R57, R67, R123, R124). -/

namespace Sys2Proof.Laws.Green

set_option linter.all false
set_option maxHeartbeats 1000000

open Sys2Proof Sys2Proof.Machine

/-- The law of the green weight on the records it rests on. -/
structure GreenIs (ls : List Lot) (run : Vector KilnRun 6) (ld : Option Kiln) (belt fl pend : Option Nat) (q : List Kiln) : Prop where
  ascending : (ls.map (fun l => l.number)).Pairwise (· < ·)
  balanced : ∀ l ∈ ls, l.GreenBalanced
  fed : ∀ n, (fl = some n ∨ belt = some n ∨ pend = some n) → ∃ l ∈ ls, l.number = n ∧ l.state = .feeding
  loading : ∀ k : Kiln, ld = some k → run[k].state = .loading ∧
    ∃ r : ChargeRef, run[k].charge = some r ∧ belt = some r.lot ∧ ∀ l ∈ ls, l.number = r.lot → r.index < l.charges.length
  onlyLoading : ∀ k : Kiln, run[k].state = .loading → ld = some k
  queueStates : ∀ k ∈ q, (run[k]).Queued
  queueOnce : q.Nodup
/-- The law of a state, with the loading kiln named apart: it holds within an event also while that field is behind. -/
@[irreducible] def GreenFor (ld : Option Kiln) (s : State) : Prop :=
  GreenIs s.table.lots s.kilns.run ld s.feed.beltLot s.feed.feedLot s.feed.changeover.pending s.press.queue
variable {ld : Option Kiln}
theorem greenFor_def (ld : Option Kiln) (s : State) : GreenFor ld s = GreenIs s.table.lots s.kilns.run ld s.feed.beltLot s.feed.feedLot s.feed.changeover.pending s.press.queue := by unfold GreenFor; rfl
theorem greenFor_mk (a b c d e f g h i j k l) : GreenFor ld (State.mk a b c d e f g h i j k l) = GreenIs f.lots h.run ld g.beltLot g.feedLot g.changeover.pending j.queue := by unfold GreenFor; rfl
theorem greenFor_iff (s : State) : GreenFor s.feed.loading s ↔ s.GreenLaw := by
  constructor
  · intro h; rw [greenFor_def] at h; obtain ⟨a,b,c,d,e,f,g⟩ := h; exact ⟨a,b,c,d,e,f,g⟩
  · intro h; rw [greenFor_def]; obtain ⟨a,b,c,d,e,f,g⟩ := h; exact ⟨a,b,c,d,e,f,g⟩

/-- the same lots by number -/
theorem lots_unique {ls : List Lot} (h : (ls.map (fun l => l.number)).Pairwise (· < ·)) {a b : Lot} (ha : a ∈ ls) (hb : b ∈ ls) (e : a.number = b.number) : a = b :=
  List.inj_on_of_nodup_map (h.imp Nat.ne_of_lt) ha hb e
theorem greenFor_updLotOf (s : State) (n : Nat) (f : Lot → Lot) (h : GreenFor ld s) (hn : ∀ l, (f l).number = l.number)
    (hs : ∀ l, l.state = .feeding → (f l).state = .feeding) (hc : ∀ l, l.charges.length ≤ (f l).charges.length)
    (hb : ∀ l, l.GreenBalanced → (f l).GreenBalanced) : GreenFor ld (s.updLot n f) := by
  rw [greenFor_def] at *
  obtain ⟨a,b,c,d,e,q1,q2⟩ := h
  simp only [updLot_lots, updLot_frame]
  refine ⟨?_, ?_, ?_, ?_, e, q1, q2⟩
  · rw [List.map_map]
    have : ((fun l : Lot => l.number) ∘ fun l => if l.number = n then f l else l) = (fun l => l.number) := by
      funext l; simp only [Function.comp]; split <;> simp [hn]
    rw [this]; exact a
  · intro l hl
    obtain ⟨l0, h0, rfl⟩ := List.mem_map.mp hl
    split
    · exact hb _ (b _ h0)
    · exact b _ h0
  · intro m hm
    obtain ⟨l, hl, h1, h2⟩ := c m hm
    refine ⟨_, List.mem_map_of_mem hl, ?_, ?_⟩
    · split <;> simp [hn, h1]
    · split
      · exact hs _ h2
      · exact h2
  · intro k hk
    obtain ⟨h1, r, h2, h3, h4⟩ := d k hk
    refine ⟨h1, r, h2, h3, ?_⟩
    intro l hl he
    obtain ⟨l0, h0, rfl⟩ := List.mem_map.mp hl
    have hn0 : (if l0.number = n then f l0 else l0).number = l0.number := by split <;> simp [hn]
    have := h4 l0 h0 (by rw [← hn0]; exact he)
    split
    · exact Nat.lt_of_lt_of_le this (hc l0)
    · exact this
theorem map_green_modify (cs : List Charge) (i : Nat) (f : Charge → Charge) (hf : ∀ c, (f c).green = c.green) :
    ((cs.modify i f).map (fun c => c.green)) = cs.map (fun c => c.green) := by
  induction cs generalizing i with
  | nil => simp
  | cons c cs ih => cases i <;> simp [hf, ih]
theorem sum_green_modify (cs : List Charge) (i : Nat) (f : Charge → Charge) (inc : Nat) (hf : ∀ c, (f c).green = c.green + inc) (hi : i < cs.length) :
    ((cs.modify i f).map (fun c => c.green)).sum = (cs.map (fun c => c.green)).sum + inc := by
  induction cs generalizing i with
  | nil => simp at hi
  | cons c cs ih =>
    cases i with
    | zero => simp [hf]; omega
    | succ i => simp at hi; simp [ih i hi]; omega
theorem greenFor_updChargeOf (s : State) (r : ChargeRef) (f : Charge → Charge) (h : GreenFor ld s) (hf : ∀ c, (f c).green = c.green) : GreenFor ld (s.updCharge r f) := by
  unfold State.updCharge
  apply greenFor_updLotOf _ _ _ h
  · intro l; rfl
  · intro l hl; exact hl
  · intro l; simp [Lot.updCharge]
  · intro l hl; simpa [Lot.GreenBalanced, Lot.updCharge, map_green_modify _ _ _ hf] using hl
theorem greenFor_updKilnChargeOf (s : State) (k : Kiln) (f : Charge → Charge) (h : GreenFor ld s) (hf : ∀ c, (f c).green = c.green) : GreenFor ld (s.updKilnCharge k f) := by
  unfold State.updKilnCharge
  split
  · exact h
  · exact greenFor_updChargeOf _ _ _ h hf
theorem run_set (v : Vector KilnRun 6) (k j : Kiln) (r : KilnRun) : (v.set k r)[j] = if k = j then r else v[j] := by
  by_cases h : k = j
  · subst h; simp
  · have : k.val ≠ j.val := fun e => h (Fin.ext e)
    simp [this, h]
theorem greenFor_updKilnOf (s : State) (k : Kiln) (f : KilnRun → KilnRun) (h : GreenFor ld s)
    (hc : (s.kiln k).state = .loading → (f (s.kiln k)).charge = (s.kiln k).charge)
    (hl : (f (s.kiln k)).state = .loading ↔ (s.kiln k).state = .loading)
    (hq : (s.kiln k).Queued → (f (s.kiln k)).Queued) : GreenFor ld (s.updKiln k f) := by
  rw [greenFor_def] at *
  obtain ⟨a,b,c,d,e,q1,q2⟩ := h
  simp only [updKiln_run, updKiln_frame]
  refine ⟨a, b, c, ?_, ?_, ?_, q2⟩
  · intro j hj
    obtain ⟨h1, r, h2, h3, h4⟩ := d j hj
    rw [run_set]
    split
    · rename_i e; subst e
      exact ⟨hl.mpr h1, r, (hc h1).trans h2, h3, h4⟩
    · exact ⟨h1, r, h2, h3, h4⟩
  · intro j hj
    rw [run_set] at hj
    split at hj
    · rename_i e'; subst e'; exact e _ (hl.mp hj)
    · exact e _ hj
  · intro j hj
    rw [run_set]
    split
    · rename_i e'; subst e'; exact hq (q1 _ hj)
    · exact q1 _ hj

/-- same state, same charge -/
theorem greenFor_updKilnSame (s : State) (k : Kiln) (f : KilnRun → KilnRun) (h : GreenFor ld s)
    (hs : ∀ r, (f r).state = r.state) (hc : ∀ r, (f r).charge = r.charge) : GreenFor ld (s.updKiln k f) :=
  greenFor_updKilnOf s k f h (fun _ => hc _) (by rw [hs]) (by intro h; simpa [KilnRun.Queued, hs] using h)

def free : KilnState → Bool
  | .loaded => true | .drying => true | .hold => true | .cooling => true | _ => false
theorem free_not_queue (s : State) (k : Kiln) (h : GreenFor ld s) (hf : free (s.kiln k).state = true) : k ∉ s.press.queue := by
  intro hk
  rw [greenFor_def] at h
  have := h.queueStates k hk
  simp only [KilnRun.Queued] at this
  change (s.kiln k).state = _ ∨ (s.kiln k).state = _ at this
  rcases this with e | e <;> rw [e] at hf <;> simp [free] at hf

/-- out of the queue: anything not loading -/
theorem greenFor_updKilnFree (s : State) (k : Kiln) (f : KilnRun → KilnRun) (h : GreenFor ld s) (hf : free (s.kiln k).state = true)
    (hl : (f (s.kiln k)).state ≠ .loading) : GreenFor ld (s.updKiln k f) := by
  apply greenFor_updKilnOf s k f h
  · intro e; rw [e] at hf; simp [free] at hf
  · constructor
    · intro e; exact absurd e hl
    · intro e; rw [e] at hf; simp [free] at hf
  · intro e; simp only [KilnRun.Queued] at e; rcases e with e | e <;> rw [e] at hf <;> simp [free] at hf
@[simp] theorem updLot_kiln (s : State) (n f k) : (s.updLot n f).kiln k = s.kiln k := rfl
theorem kiln_run (s : State) (k : Kiln) : s.kilns.run[k] = s.kiln k := rfl
theorem writeBurner_kiln (s : State) (k j : Kiln) : (s.writeBurner k).kiln j = if k = j then { s.kiln k with
    refresh := if (s.kiln k).state.refreshes then some (10 * (s.kilnEntry k).refresh) else none } else s.kiln j := by
  have : (s.writeBurner k).kiln j = (s.updKiln k (fun r => { r with
    refresh := if r.state.refreshes then some (10 * (s.kilnEntry k).refresh) else none })).kiln j := by
    simp [State.writeBurner, State.kiln]
  rw [this, kiln_updKiln]
@[simp] theorem greenFor_raiseOpt (s : State) (k : NoticeKind) (o : Nat) (v : Option Word32) (h : GreenFor ld s) : GreenFor ld (State.raiseOpt s k o v) := by simpa [greenFor_def] using h
@[simp] theorem greenFor_raise (s : State) (k : NoticeKind) (o : Nat) (v : Int) (h : GreenFor ld s) : GreenFor ld (State.raise s k o v) := by simpa [greenFor_def] using h
@[simp] theorem greenFor_removeLot (s : State) (n : Nat) (l : Lot) (hl : s.lot? n = some l) (hs : l.state ≠ .feeding) (h : GreenFor ld s) : GreenFor ld (State.removeLot s n) := by
  rw [greenFor_def] at *
  obtain ⟨a,b,c,d,e,q1,q2⟩ := h
  simp only [removeLot_lots, removeLot_frame]
  have hm := List.mem_of_find?_eq_some hl
  have hn : l.number = n := by simpa using List.find?_some hl
  refine ⟨?_, ?_, ?_, ?_, e, q1, q2⟩
  · exact a.sublist ((List.filter_sublist).map _)
  · intro x hx; exact b _ (List.mem_of_mem_filter hx)
  · intro m hmm
    obtain ⟨x, hx, h1, h2⟩ := c m hmm
    refine ⟨x, ?_, h1, h2⟩
    simp only [List.mem_filter, hx, true_and, decide_eq_true_eq]
    intro e'
    have := lots_unique a hx hm (by rw [e', hn])
    subst this; exact hs h2
  · intro k hk
    obtain ⟨h1, r, h2, h3, h4⟩ := d k hk
    exact ⟨h1, r, h2, h3, fun x hx => h4 x (List.mem_of_mem_filter hx)⟩
@[simp] theorem greenFor_setNode (s : State) (i : NodeIdx) (n : Node) (h : GreenFor ld s) : GreenFor ld (State.setNode s i n) := by simpa [greenFor_def] using h
@[simp] theorem greenFor_placeCommand (s : State) (i : NodeIdx) (c : Commanded) (h : GreenFor ld s) : GreenFor ld (State.placeCommand s i c) := by simpa [greenFor_def] using h
@[simp] theorem greenFor_writeCommanded (s : State) (i : Option NodeIdx) (c : Commanded) (h : GreenFor ld s) : GreenFor ld (State.writeCommanded s i c) := by simpa [greenFor_def] using h
@[simp] theorem greenFor_clearCommanded (s : State) (i : Option NodeIdx) (h : GreenFor ld s) : GreenFor ld (State.clearCommanded s i) := by simpa [greenFor_def] using h
@[simp] theorem greenFor_updBale (s : State) (n : Nat) (f : Bale → Bale) (h : GreenFor ld s) : GreenFor ld (State.updBale s n f) := by simpa [greenFor_def] using h
@[simp] theorem greenFor_judgePress (s : State) (h : GreenFor ld s) : GreenFor ld (State.judgePress s) := by simpa [greenFor_def] using h
@[simp] theorem greenFor_judgeStore (s : State) (h : GreenFor ld s) : GreenFor ld (State.judgeStore s) := by simpa [greenFor_def] using h
@[simp] theorem greenFor_becomeHead (s : State) (k : Kiln) (hs : (s.kiln k).Queued) (h : GreenFor ld s) : GreenFor ld (State.becomeHead s k) := by
  unfold State.becomeHead
  apply greenFor_updKilnChargeOf _ _ _ _ (by intro c; rfl)
  apply greenFor_updKilnOf _ _ _ h
  · intro e; rcases hs with q | q <;> rw [q] at e <;> simp at e
  · constructor
    · intro e; simp at e
    · intro e; rcases hs with q | q <;> rw [q] at e <;> simp at e
  · intro _; right; rfl
@[simp] theorem greenFor_joinPressQueue (s : State) (k : Kiln) (hs : (s.kiln k).state = .dried) (hk : k ∉ s.press.queue) (h : GreenFor ld s) : GreenFor ld (State.joinPressQueue s k) := by
  have h0 : GreenFor ld { s with press := { s.press with queue := s.press.queue ++ [k] } } := by
    simp only [greenFor_mk]; rw [greenFor_def] at h
    obtain ⟨a,b,c,d,e,q1,q2⟩ := h
    refine ⟨a,b,c,d,e,?_,?_⟩
    · intro j hj
      simp at hj
      rcases hj with hj | rfl
      · exact q1 _ hj
      · left; exact hs
    · simp [List.nodup_append, q2]; intro x hx e; subst e; exact hk hx
  unfold State.joinPressQueue
  dsimp only
  split
  · apply greenFor_judgePress; apply greenFor_becomeHead _ _ _ h0
    left; exact hs
  · exact h0
@[simp] theorem greenFor_writeBurner (s : State) (k : Kiln) (h : GreenFor ld s) : GreenFor ld (State.writeBurner s k) := by
  unfold State.writeBurner
  apply greenFor_writeCommanded
  exact greenFor_updKilnSame _ _ _ h (fun _ => rfl) (fun _ => rfl)
@[simp] theorem greenFor_kilnDried (s : State) (k : Kiln) (hf : free (s.kiln k).state = true) (h : GreenFor ld s) : GreenFor ld (State.kilnDried s k) := by
  have hk := free_not_queue s k h hf
  unfold State.kilnDried
  dsimp only
  apply greenFor_joinPressQueue
  · show ((State.writeBurner _ k).kiln k).state = _
    rw [writeBurner_kiln]
    simp [State.kiln]
  · simpa using hk
  · apply greenFor_raise; apply greenFor_writeBurner
    apply greenFor_updKilnChargeOf _ _ _ _ (by intro c; rfl)
    exact greenFor_updKilnFree _ _ _ h hf (by simp)
@[simp] theorem greenFor_enterStep (s : State) (k : Kiln) (hf : free (s.kiln k).state = true) (h : GreenFor ld s) : GreenFor ld (State.enterStep s k) := by
  have h1 : GreenFor ld (s.updKiln k KilnRun.beginStep) := greenFor_updKilnSame _ _ _ h (fun _ => rfl) (fun _ => rfl)
  have hf1 : free ((s.updKiln k KilnRun.beginStep).kiln k).state = true := by simpa [kiln_updKiln, KilnRun.beginStep] using hf
  unfold State.enterStep
  dsimp only
  split <;> first
    | exact greenFor_writeBurner _ _ (greenFor_updKilnFree _ _ _ h1 hf1 (by simp))
    | exact greenFor_kilnDried _ _ hf1 h1
@[simp] theorem greenFor_nextStep (s : State) (k : Kiln) (hf : free (s.kiln k).state = true) (h : GreenFor ld s) : GreenFor ld (State.nextStep s k) := by
  unfold State.nextStep
  apply greenFor_enterStep
  · simpa [kiln_updKiln] using hf
  · exact greenFor_updKilnSame _ _ _ h (fun _ => rfl) (fun _ => rfl)
@[simp] theorem greenFor_holdKiln (s : State) (k : Kiln) (reason : HoldReason) (h : GreenFor ld s) : GreenFor ld (State.holdKiln s k reason) := by
  unfold State.holdKiln
  dsimp only
  split <;> try exact h
  · rename_i e
    apply greenFor_raise; apply greenFor_writeBurner
    exact greenFor_updKilnFree _ _ _ h (by simp [e, free]) (by simp)
  · split
    · exact h
    · apply greenFor_raise
      exact greenFor_updKilnSame _ _ _ h (fun _ => rfl) (fun _ => rfl)
@[simp] theorem greenFor_kilnAir (s : State) (k : Kiln) (value : Int) (h : GreenFor ld s) : GreenFor ld (State.kilnAir s k value) := by
  have k0 : ∀ (t : State) (f : KilnRun → KilnRun), GreenFor ld t → (∀ r, (f r).state = r.state) → (∀ r, (f r).charge = r.charge) → GreenFor ld (t.updKiln k f) := fun t f a b c => greenFor_updKilnSame _ _ _ a b c
  unfold State.kilnAir
  dsimp only
  (repeat' split)
  · apply greenFor_holdKiln
    exact k0 _ _ (k0 _ _ h (fun _ => rfl) (fun _ => rfl)) (fun _ => rfl) (fun _ => rfl)
  · exact k0 _ _ (k0 _ _ h (fun _ => rfl) (fun _ => rfl)) (fun _ => rfl) (fun _ => rfl)
  · exact k0 _ _ (k0 _ _ h (fun _ => rfl) (fun _ => rfl)) (fun _ => rfl) (fun _ => rfl)
  · exact k0 _ _ h (fun _ => rfl) (fun _ => rfl)
@[simp] theorem greenFor_kilnExhaust (s : State) (k : Kiln) (value : Int) (h : GreenFor ld s) : GreenFor ld (State.kilnExhaust s k value) := by
  have k0 : ∀ (t : State) (f : KilnRun → KilnRun), GreenFor ld t → (∀ r, (f r).state = r.state) → (∀ r, (f r).charge = r.charge) → GreenFor ld (t.updKiln k f) := fun t f a b c => greenFor_updKilnSame _ _ _ a b c
  unfold State.kilnExhaust
  dsimp only
  split
  · rename_i hst
    simp at hst
    split
    · exact k0 _ _ h (fun _ => rfl) (fun _ => rfl)
    · split
      · split
        · apply greenFor_nextStep
          · simp [kiln_updKiln, hst.1, free]
          · exact k0 _ _ (k0 _ _ h (fun _ => rfl) (fun _ => rfl)) (fun _ => rfl) (fun _ => rfl)
        · exact k0 _ _ (k0 _ _ h (fun _ => rfl) (fun _ => rfl)) (fun _ => rfl) (fun _ => rfl)
      · exact k0 _ _ (k0 _ _ h (fun _ => rfl) (fun _ => rfl)) (fun _ => rfl) (fun _ => rfl)
  · exact k0 _ _ h (fun _ => rfl) (fun _ => rfl)
@[simp] theorem greenFor_startRun (s : State) (k : Kiln) (d : Fin 8) (hf : free (s.kiln k).state = true) (h : GreenFor ld s) : GreenFor ld (State.startRun s k d) := by
  unfold State.startRun
  apply greenFor_enterStep
  · simpa [kiln_updKiln] using hf
  · exact greenFor_updKilnSame _ _ _ h (fun _ => rfl) (fun _ => rfl)
@[simp] theorem greenFor_autoStart (s : State) (k : Kiln) (hf : free (s.kiln k).state = true) (h : GreenFor ld s) : GreenFor ld (State.autoStart s k) := by
  unfold State.autoStart
  (repeat' split) <;> first | exact h | exact greenFor_startRun _ _ _ hf h
@[simp] theorem greenFor_kilnEmptied (s : State) (k : Kiln) (hs : (s.kiln k).state ≠ .loading) (hk : k ∉ s.press.queue) (h : GreenFor ld s) : GreenFor ld (State.kilnEmptied s k) := by
  unfold State.kilnEmptied
  apply greenFor_writeBurner
  rw [greenFor_def] at *
  obtain ⟨a,b,c,d,e,q1,q2⟩ := h
  simp only [updKiln_run, updKiln_frame]
  refine ⟨a, b, c, ?_, ?_, ?_, q2⟩
  · intro j hj
    rw [run_set]
    split
    · rename_i e'; subst e'; exact absurd (d _ hj).1 hs
    · exact d j hj
  · intro j hj
    rw [run_set] at hj
    split at hj
    · simp at hj
    · exact e _ hj
  · intro j hj
    rw [run_set]
    split
    · rename_i e'; subst e'; exact absurd hj hk
    · exact q1 _ hj
@[simp] theorem greenFor_stepEnd (s : State) (k : Kiln) (h : GreenFor ld s) : GreenFor ld (State.stepEnd s k) := by
  unfold State.stepEnd
  split
  · rename_i e
    simp [State.dryingIn] at e
    apply greenFor_nextStep
    · simp [kiln_updKiln, e.1, free]
    · exact greenFor_updKilnSame _ _ _ h (fun _ => rfl) (fun _ => rfl)
  · split
    · rename_i e
      simp [State.dryingIn, State.inCoolStep] at e
      apply greenFor_nextStep _ _ _ h
      rcases e with e | e
      · simp [e.1, free]
      · simp [e.1, free]
    · exact h
@[simp] theorem greenFor_rampMinute (s : State) (k : Kiln) (h : GreenFor ld s) : GreenFor ld (State.rampMinute s k) := by
  unfold State.rampMinute
  dsimp only
  split
  · split
    · exact greenFor_stepEnd _ _ h
    · split
      · exact greenFor_updKilnSame _ _ _ h (fun _ => rfl) (fun _ => rfl)
      · apply greenFor_writeBurner; exact greenFor_updKilnSame _ _ _ h (fun _ => rfl) (fun _ => rfl)
  · exact h
@[simp] theorem greenFor_dryToOvertime (s : State) (k : Kiln) (h : GreenFor ld s) : GreenFor ld (State.dryToOvertime s k) := by
  unfold State.dryToOvertime
  split
  · apply greenFor_holdKiln; apply greenFor_raise; exact greenFor_updKilnSame _ _ _ h (fun _ => rfl) (fun _ => rfl)
  · exact h
@[simp] theorem greenFor_abortCoolingEnd (s : State) (k : Kiln) (h : GreenFor ld s) : GreenFor ld (State.abortCoolingEnd s k) := by
  unfold State.abortCoolingEnd
  split
  · rename_i e
    simp at e
    apply greenFor_kilnDried
    · simp [kiln_updKiln, e.1, free]
    · exact greenFor_updKilnSame _ _ _ h (fun _ => rfl) (fun _ => rfl)
  · exact h
@[simp] theorem greenFor_refreshExpiry (s : State) (k : Kiln) (h : GreenFor ld s) : GreenFor ld (State.refreshExpiry s k) := by
  generalize e : (State.refreshExpiry s k) = t
  unfold State.refreshExpiry at e
  (try dsimp only at e)
  (repeat' split at e) <;> subst e <;> (try simp only [refuse_state, accept_state]) <;> (simp (config := {maxDischargeDepth := 60}) [greenFor_mk, h, (greenFor_def ld s).symm.trans (eq_true h)])
@[simp] theorem greenFor_performKilnStart (kiln : Byte) (s : State) (h : GreenFor ld s) : GreenFor ld (performKilnStart kiln s).state := by
  unfold performKilnStart
  (repeat' split) <;> try exact h
  rename_i e _ _ _ _ _
  simp at e
  simp only [accept_state]
  exact greenFor_startRun _ _ _ (by simp [e, free]) h
@[simp] theorem greenFor_performKilnHold (kiln : Byte) (s : State) (h : GreenFor ld s) : GreenFor ld (performKilnHold kiln s).state := by
  generalize e : (performKilnHold kiln s) = t
  unfold performKilnHold at e
  (try dsimp only at e)
  (repeat' split at e) <;> subst e <;> (try simp only [refuse_state, accept_state]) <;> (simp (config := {maxDischargeDepth := 60}) [greenFor_mk, h, (greenFor_def ld s).symm.trans (eq_true h)])
@[simp] theorem greenFor_resume (s : State) (k : Kiln) (m : ResumeMode) (hf : free (s.kiln k).state = true) (h : GreenFor ld s) : GreenFor ld (State.resume s k m) := by
  unfold State.resume
  dsimp only
  have h2 : GreenFor ld ((s.updKilnCharge k (fun c => { c with held := true, overtime := c.overtime || (s.kiln k).hold.overtime })).updKiln k (fun r => { r with hold := {}, overLimit := 0, dryQualify := 0 })) :=
    greenFor_updKilnSame _ _ _ (greenFor_updKilnChargeOf _ _ _ h (by intro c; rfl)) (fun _ => rfl) (fun _ => rfl)
  have hf2 : free (((s.updKilnCharge k (fun c => { c with held := true, overtime := c.overtime || (s.kiln k).hold.overtime })).updKiln k (fun r => { r with hold := {}, overLimit := 0, dryQualify := 0 })).kiln k).state = true := by
    rw [kiln_updKiln]
    simpa [State.kiln] using hf
  split
  · apply greenFor_writeBurner; exact greenFor_updKilnFree _ _ _ h2 hf2 (by simp)
  · apply greenFor_writeBurner; exact greenFor_updKilnFree _ _ _ h2 hf2 (by simp)
  · exact greenFor_nextStep _ _ hf2 h2
@[simp] theorem greenFor_performKilnResume (kiln mode : Byte) (s : State) (h : GreenFor ld s) : GreenFor ld (performKilnResume kiln mode s).state := by
  unfold performKilnResume
  (repeat' split) <;> try exact h
  rename_i e
  simp at e
  simp only [accept_state]
  exact greenFor_resume _ _ _ (by simp [e.1, free]) h
@[simp] theorem greenFor_abort (s : State) (k : Kiln) (hf : free (s.kiln k).state = true) (h : GreenFor ld s) : GreenFor ld (State.abort s k) := by
  unfold State.abort
  have h1 : GreenFor ld (if (s.kiln k).state = .loaded then
      s.updKiln k (fun r => { r with
        schedule := (s.kilnVariety k).map (fun w => w.schedule), totalElapsed := 0, totalFraction := 0 })
    else s) := by
    split
    · exact greenFor_updKilnSame _ _ _ h (fun _ => rfl) (fun _ => rfl)
    · exact h
  have hf1 : free ((if (s.kiln k).state = .loaded then
      s.updKiln k (fun r => { r with
        schedule := (s.kilnVariety k).map (fun w => w.schedule), totalElapsed := 0, totalFraction := 0 })
    else s).kiln k).state = true := by
    split
    · simpa [kiln_updKiln] using hf
    · exact hf
  dsimp only
  generalize (if (s.kiln k).state = .loaded then
      s.updKiln k (fun r => { r with
        schedule := (s.kilnVariety k).map (fun w => w.schedule), totalElapsed := 0, totalFraction := 0 })
    else s) = t at h1 hf1
  have h3 : GreenFor ld ((t.updKilnCharge k (fun c => { c with aborted := true })).updKiln k (fun r => { r with
    aborted := true, hold := {}, overLimit := 0, dryQualify := 0, stepElapsed := 0, stepFraction := 0 })) :=
    greenFor_updKilnSame _ _ _ (greenFor_updKilnChargeOf _ _ _ h1 (by intro c; rfl)) (fun _ => rfl) (fun _ => rfl)
  have hf3 : free (((t.updKilnCharge k (fun c => { c with aborted := true })).updKiln k (fun r => { r with
    aborted := true, hold := {}, overLimit := 0, dryQualify := 0, stepElapsed := 0, stepFraction := 0 })).kiln k).state = true := by
    rw [kiln_updKiln]; simpa [State.kiln] using hf1
  split
  · exact greenFor_kilnDried _ _ hf3 h3
  · apply greenFor_writeBurner; exact greenFor_updKilnFree _ _ _ h3 hf3 (by simp)
@[simp] theorem greenFor_performKilnAbort (kiln : Byte) (s : State) (h : GreenFor ld s) : GreenFor ld (performKilnAbort kiln s).state := by
  unfold performKilnAbort
  split
  · exact h
  · dsimp only
    split
    · rename_i e
      simp only [accept_state]
      apply greenFor_abort _ _ _ h
      simp at e
      rcases e with (e | e) | e <;> simp [e, free]
    · exact h
@[simp] theorem greenFor_performKilnRead (kiln : Byte) (s : State) (h : GreenFor ld s) : GreenFor ld (performKilnRead kiln s).state := by simpa [greenFor_def] using h
@[simp] theorem greenFor_setPrint (s : State) (n : Nat) (p : PrintState) (h : GreenFor ld s) : GreenFor ld (State.setPrint s n p) := by simpa [greenFor_def] using h
@[simp] theorem greenFor_setProcess (s : State) (p : PrintProcess) (h : GreenFor ld s) : GreenFor ld (State.setProcess s p) := by simpa [greenFor_def] using h
@[simp] theorem greenFor_printScan (s : State) (h : GreenFor ld s) : GreenFor ld (State.printScan s) := by simpa [greenFor_def] using h
@[simp] theorem greenFor_promptPrint (s : State) (h : GreenFor ld s) : GreenFor ld (State.promptPrint s) := by simpa [greenFor_def] using h
@[simp] theorem greenFor_testComposition (s : State) (r : ChargeRef) (h : GreenFor ld s) : GreenFor ld (State.testComposition s r) := by simpa [greenFor_def] using h
@[simp] theorem greenFor_issueTicket (s : State) (r : ChargeRef) (t : Ticket) (h : GreenFor ld s) : GreenFor ld (State.issueTicket s r t) := by
  unfold State.issueTicket
  dsimp only
  apply greenFor_promptPrint; apply greenFor_raise
  apply greenFor_updChargeOf
  · apply greenFor_updLotOf _ _ _ _ (by intro l; rfl) (by intro l hl; first | exact hl | rfl) (by intro l; simp) (by intro l hl; first | exact hl | (simp only [Lot.GreenBalanced] at *; simp; omega))
    simp only [greenFor_mk]; rw [greenFor_def] at h; exact h
  · intro c; split <;> rfl
@[simp] theorem greenFor_compose (s : State) (r : ChargeRef) (h : GreenFor ld s) : GreenFor ld (State.compose s r) := by
  generalize e : (State.compose s r) = t
  unfold State.compose at e
  (try dsimp only at e)
  (repeat' split at e) <;> subst e <;> (try simp only [refuse_state, accept_state]) <;> (simp (config := {maxDischargeDepth := 60}) [greenFor_mk, h, (greenFor_def ld s).symm.trans (eq_true h)])
@[simp] theorem greenFor_serveFuel (n : Nat) (s : State) (h : GreenFor ld s) : GreenFor ld (State.serveFuel n s) := by
  induction n generalizing s with
  | zero => simpa [State.serveFuel]
  | succ n ih =>
    unfold State.serveFuel
    split
    · exact h
    · split
      · apply ih; apply greenFor_compose
        simpa [greenFor_def] using h
      · exact h
@[simp] theorem greenFor_serve (s : State) (h : GreenFor ld s) : GreenFor ld (State.serve s) := by
  generalize e : (State.serve s) = t
  unfold State.serve at e
  (try dsimp only at e)
  (repeat' split at e) <;> subst e <;> (try simp only [refuse_state, accept_state]) <;> (simp (config := {maxDischargeDepth := 60}) [greenFor_mk, h, (greenFor_def ld s).symm.trans (eq_true h)])
@[simp] theorem greenFor_offerCharge (s : State) (r : ChargeRef) (h : GreenFor ld s) : GreenFor ld (State.offerCharge s r) := by
  generalize e : (State.offerCharge s r) = t
  unfold State.offerCharge at e
  (try dsimp only at e)
  (repeat' split at e) <;> subst e <;> (try simp only [refuse_state, accept_state]) <;> (simp (config := {maxDischargeDepth := 60}) [greenFor_mk, h, (greenFor_def ld s).symm.trans (eq_true h)])
@[simp] theorem greenFor_performTicketBase (nextTicket nextBale : Word32) (s : State) (h : GreenFor ld s) : GreenFor ld (performTicketBase nextTicket nextBale s).state := by simpa [greenFor_def] using h
@[simp] theorem greenFor_performTicketRead (ticket : Word32) (s : State) (h : GreenFor ld s) : GreenFor ld (performTicketRead ticket s).state := by simpa [greenFor_def] using h
@[simp] theorem greenFor_takeTicket (s : State) (t : Ticket) (h : GreenFor ld s) : GreenFor ld (State.takeTicket s t) := by
  have h0 : GreenFor ld { s with tickets := { s.tickets with queue := s.tickets.queue.tail }, press := { s.press with
    bales := s.press.bales.filter (fun (b : Bale) => !t.lists b.number) } } := by
    simp only [greenFor_mk]; rw [greenFor_def] at h; exact h
  unfold State.takeTicket
  dsimp only
  apply greenFor_serve; apply greenFor_judgeStore
  split
  · apply greenFor_updChargeOf _ _ _ _ (by intro c; rfl)
    exact greenFor_updLotOf _ _ _ h0 (by intro l; rfl) (by intro l hl; first | exact hl | rfl) (by intro l; simp) (by intro l hl; first | exact hl | (simp only [Lot.GreenBalanced] at *; simp; omega))
  · exact greenFor_updLotOf _ _ _ h0 (by intro l; rfl) (by intro l hl; first | exact hl | rfl) (by intro l; simp) (by intro l hl; first | exact hl | (simp only [Lot.GreenBalanced] at *; simp; omega))
@[simp] theorem greenFor_performTicketTake (ticket : Word32) (s : State) (h : GreenFor ld s) : GreenFor ld (performTicketTake ticket s).state := by
  generalize e : (performTicketTake ticket s) = t
  unfold performTicketTake at e
  (try dsimp only at e)
  (repeat' split at e) <;> subst e <;> (try simp only [refuse_state, accept_state]) <;> (simp (config := {maxDischargeDepth := 60}) [greenFor_mk, h, (greenFor_def ld s).symm.trans (eq_true h)])
@[simp] theorem greenFor_performTicketReprint (ticket : Word32) (s : State) (h : GreenFor ld s) : GreenFor ld (performTicketReprint ticket s).state := by simpa [greenFor_def] using h
@[simp] theorem greenFor_raiseFeedHeld (s : State) (reason : Nat) (h : GreenFor ld s) : GreenFor ld (State.raiseFeedHeld s reason) := by simpa [greenFor_def] using h
@[simp] theorem greenFor_judgeHeld (s : State) (before : FeedHold) (h : GreenFor ld s) : GreenFor ld (State.judgeHeld s before) := by simpa [greenFor_def] using h
@[simp] theorem greenFor_judgePicker (s : State) (h : GreenFor ld s) : GreenFor ld (State.judgePicker s) := by simpa [greenFor_def] using h
@[simp] theorem greenFor_feedEvent (f : State → State) (s : State) (h : GreenFor ld (f s)) : GreenFor ld (feedEvent f s) := by
  simp [feedEvent, h]
@[simp] theorem greenFor_closeCharge (s : State) (k : Kiln) (h : GreenFor ld s) : GreenFor ld (State.closeCharge s k) := by
  unfold State.closeCharge
  dsimp only
  split
  · exact h
  · split
    · apply greenFor_raise; exact greenFor_updKilnChargeOf _ _ _ h (by intro c; rfl)
    · exact greenFor_updKilnChargeOf _ _ _ h (by intro c; rfl)
@[simp] theorem greenFor_fillBale (s : State) (b : Bale) (gross : Int) (h : GreenFor ld s) : GreenFor ld (State.fillBale s b gross) := by
  unfold State.fillBale
  dsimp only
  split
  · apply greenFor_raise
    apply greenFor_updChargeOf _ _ _ _ (by intro c; rfl)
    apply greenFor_updLotOf _ _ _ _ (by intro l; rfl) (by intro l hl; first | exact hl | rfl) (by intro l; simp) (by intro l hl; first | exact hl | (simp only [Lot.GreenBalanced] at *; simp; omega))
    exact greenFor_updBale _ _ _ h
  · apply greenFor_updChargeOf _ _ _ _ (by intro c; rfl)
    apply greenFor_updLotOf _ _ _ _ (by intro l; rfl) (by intro l hl; first | exact hl | rfl) (by intro l; simp) (by intro l hl; first | exact hl | (simp only [Lot.GreenBalanced] at *; simp; omega))
    exact greenFor_updBale _ _ _ h
@[simp] theorem greenFor_captured (s : State) (weight : Int) (h : GreenFor ld s) : GreenFor ld (State.captured s weight) := by
  generalize e : (State.captured s weight) = t
  unfold State.captured at e
  (try dsimp only at e)
  (repeat' split at e) <;> subst e <;> (try simp only [refuse_state, accept_state]) <;> (simp (config := {maxDischargeDepth := 60}) [greenFor_mk, h, (greenFor_def ld s).symm.trans (eq_true h)])
@[simp] theorem greenFor_notCaptured (s : State) (h : GreenFor ld s) : GreenFor ld (State.notCaptured s) := by
  generalize e : (State.notCaptured s) = t
  unfold State.notCaptured at e
  (try dsimp only at e)
  (repeat' split at e) <;> subst e <;> (try simp only [refuse_state, accept_state]) <;> (simp (config := {maxDischargeDepth := 60}) [greenFor_mk, h, (greenFor_def ld s).symm.trans (eq_true h)])
@[simp] theorem greenFor_updScale (s : State) (f : Scale → Scale) (h : GreenFor ld s) : GreenFor ld (State.updScale s f) := by simpa [greenFor_def] using h
@[simp] theorem greenFor_judgeBlock (s : State) (h : GreenFor ld s) : GreenFor ld (State.judgeBlock s) := by
  generalize e : (State.judgeBlock s) = t
  unfold State.judgeBlock at e
  (try dsimp only at e)
  (repeat' split at e) <;> subst e <;> (try simp only [refuse_state, accept_state]) <;> (simp (config := {maxDischargeDepth := 60}) [greenFor_mk, h, (greenFor_def ld s).symm.trans (eq_true h)])
@[simp] theorem greenFor_enterFault (s : State) (cause : FaultCause) (h : GreenFor ld s) : GreenFor ld (State.enterFault s cause) := by
  generalize e : (State.enterFault s cause) = t
  unfold State.enterFault at e
  (try dsimp only at e)
  (repeat' split at e) <;> subst e <;> (try simp only [refuse_state, accept_state]) <;> (simp (config := {maxDischargeDepth := 60}) [greenFor_mk, h, (greenFor_def ld s).symm.trans (eq_true h)])
@[simp] theorem greenFor_faultCause (s : State) (cause : FaultCause) (h : GreenFor ld s) : GreenFor ld (State.faultCause s cause) := by
  generalize e : (State.faultCause s cause) = t
  unfold State.faultCause at e
  (try dsimp only at e)
  (repeat' split at e) <;> subst e <;> (try simp only [refuse_state, accept_state]) <;> (simp (config := {maxDischargeDepth := 60}) [greenFor_mk, h, (greenFor_def ld s).symm.trans (eq_true h)])
@[simp] theorem greenFor_takeReading (s : State) (r : Int) (h : GreenFor ld s) : GreenFor ld (State.takeReading s r) := by
  generalize e : (State.takeReading s r) = t
  unfold State.takeReading at e
  (try dsimp only at e)
  (repeat' split at e) <;> subst e <;> (try simp only [refuse_state, accept_state]) <;> (simp (config := {maxDischargeDepth := 60}) [greenFor_mk, h, (greenFor_def ld s).symm.trans (eq_true h)])
@[simp] theorem greenFor_takeSample (s : State) (st : Byte) (sample : Int) (h : GreenFor ld s) : GreenFor ld (State.takeSample s st sample) := by
  generalize e : (State.takeSample s st sample) = t
  unfold State.takeSample at e
  (try dsimp only at e)
  (repeat' split at e) <;> subst e <;> (try simp only [refuse_state, accept_state]) <;> (simp (config := {maxDischargeDepth := 60}) [greenFor_mk, h, (greenFor_def ld s).symm.trans (eq_true h)])
@[simp] theorem greenFor_frameStart (s : State) (h : GreenFor ld s) : GreenFor ld (State.frameStart s) := by simpa [greenFor_def] using h
@[simp] theorem greenFor_frameComplete (s : State) (st : Byte) (sample : BitVec 24) (h : GreenFor ld s) : GreenFor ld (State.frameComplete s st sample) := by
  generalize e : (State.frameComplete s st sample) = t
  unfold State.frameComplete at e
  (try dsimp only at e)
  (repeat' split at e) <;> subst e <;> (try simp only [refuse_state, accept_state]) <;> (simp (config := {maxDischargeDepth := 60}) [greenFor_mk, h, (greenFor_def ld s).symm.trans (eq_true h)])
@[simp] theorem greenFor_frameTorn (s : State) (h : GreenFor ld s) : GreenFor ld (State.frameTorn s) := by simpa [greenFor_def] using h
@[simp] theorem greenFor_watchExpiry (s : State) (h : GreenFor ld s) : GreenFor ld (State.watchExpiry s) := by
  generalize e : (State.watchExpiry s) = t
  unfold State.watchExpiry at e
  (try dsimp only at e)
  (repeat' split at e) <;> subst e <;> (try simp only [refuse_state, accept_state]) <;> (simp (config := {maxDischargeDepth := 60}) [greenFor_mk, h, (greenFor_def ld s).symm.trans (eq_true h)])
@[simp] theorem greenFor_settleTimeout (s : State) (h : GreenFor ld s) : GreenFor ld (State.settleTimeout s) := by
  generalize e : (State.settleTimeout s) = t
  unfold State.settleTimeout at e
  (try dsimp only at e)
  (repeat' split at e) <;> subst e <;> (try simp only [refuse_state, accept_state]) <;> (simp (config := {maxDischargeDepth := 60}) [greenFor_mk, h, (greenFor_def ld s).symm.trans (eq_true h)])
@[simp] theorem greenFor_scaleOnScale (s : State) (h : GreenFor ld s) : GreenFor ld (State.scaleOnScale s) := by
  generalize e : (State.scaleOnScale s) = t
  unfold State.scaleOnScale at e
  (try dsimp only at e)
  (repeat' split at e) <;> subst e <;> (try simp only [refuse_state, accept_state]) <;> (simp (config := {maxDischargeDepth := 60}) [greenFor_mk, h, (greenFor_def ld s).symm.trans (eq_true h)])
@[simp] theorem greenFor_createBale (s : State) (k : Kiln) (r : ChargeRef) (value : Word32) (weighing : Bool) (h : GreenFor ld s) : GreenFor ld (State.createBale s k r value weighing) := by
  unfold State.createBale
  dsimp only
  have k0 : ∀ (b : List Bale) (cy : CycleBale) (tk : Tickets), GreenFor ld { s with press := { s.press with bales := b, cycle := cy }, tickets := tk } := by
    intro b cy tk; simp only [greenFor_mk]; rw [greenFor_def] at h; exact h
  split
  · apply greenFor_judgeStore; apply greenFor_updChargeOf _ _ _ _ (by intro c; rfl)
    exact greenFor_updLotOf _ _ _ (k0 _ _ _) (by intro l; rfl) (by intro l hl; first | exact hl | rfl) (by intro l; simp) (by intro l hl; first | exact hl | (simp only [Lot.GreenBalanced] at *; simp; omega))
  · apply greenFor_offerCharge; apply greenFor_judgeStore; apply greenFor_updChargeOf _ _ _ _ (by intro c; rfl)
    exact greenFor_updLotOf _ _ _ (k0 _ _ _) (by intro l; rfl) (by intro l hl; first | exact hl | rfl) (by intro l; simp) (by intro l hl; first | exact hl | (simp only [Lot.GreenBalanced] at *; simp; omega))
@[simp] theorem greenFor_newCycle (s : State) (value : Word32) (weighing : Bool) (h : GreenFor ld s) : GreenFor ld (State.newCycle s value weighing) := by
  generalize e : (State.newCycle s value weighing) = t
  unfold State.newCycle at e
  (try dsimp only at e)
  (repeat' split at e) <;> subst e <;> (try simp only [refuse_state, accept_state]) <;> (simp (config := {maxDischargeDepth := 60}) [greenFor_mk, h, (greenFor_def ld s).symm.trans (eq_true h)])
@[simp] theorem greenFor_onScale (s : State) (value : Word32) (h : GreenFor ld s) : GreenFor ld (State.onScale s value) := by
  generalize e : (State.onScale s value) = t
  unfold State.onScale at e
  (try dsimp only at e)
  (repeat' split at e) <;> subst e <;> (try simp only [refuse_state, accept_state]) <;> (simp (config := {maxDischargeDepth := 60}) [greenFor_mk, h, (greenFor_def ld s).symm.trans (eq_true h)])
@[simp] theorem greenFor_offScale (s : State) (h : GreenFor ld s) : GreenFor ld (State.offScale s) := by
  unfold State.offScale
  dsimp only
  rw [greenFor_mk, ← greenFor_def]
  split <;> simp (config := {maxDischargeDepth := 60}) only [greenFor_raise, greenFor_updScale, greenFor_notCaptured, h]
@[simp] theorem greenFor_moisture (s : State) (value : Word32) (h : GreenFor ld s) : GreenFor ld (State.moisture s value) := by simpa [greenFor_def] using h
@[simp] theorem greenFor_advanceHead (s : State) (h : GreenFor ld s) : GreenFor ld (State.advanceHead s) := by
  unfold State.advanceHead
  split
  · exact h
  · rename_i k rest hq
    apply greenFor_becomeHead _ _ _ h
    have h' := h
    rw [greenFor_def] at h'
    exact h'.queueStates k (by rw [hq]; simp)
@[simp] theorem greenFor_performPressHold (flag : Byte) (s : State) (h : GreenFor ld s) : GreenFor ld (performPressHold flag s).state := by simpa [greenFor_def] using h
@[simp] theorem greenFor_performBaleWeight (bale gross : Word32) (s : State) (h : GreenFor ld s) : GreenFor ld (performBaleWeight bale gross s).state := by
  generalize e : (performBaleWeight bale gross s) = t
  unfold performBaleWeight at e
  (try dsimp only at e)
  (repeat' split at e) <;> subst e <;> (try simp only [refuse_state, accept_state]) <;> (simp (config := {maxDischargeDepth := 60}) [greenFor_mk, h, (greenFor_def ld s).symm.trans (eq_true h)])
@[simp] theorem greenFor_performBaleRead (bale : Word32) (s : State) (h : GreenFor ld s) : GreenFor ld (performBaleRead bale s).state := by simpa [greenFor_def] using h
@[simp] theorem greenFor_performScaleRead (s : State) (h : GreenFor ld s) : GreenFor ld (performScaleRead s).state := by simpa [greenFor_def] using h
@[simp] theorem greenFor_performScaleZero (s : State) (h : GreenFor ld s) : GreenFor ld (performScaleZero s).state := by simpa [greenFor_def] using h
@[simp] theorem greenFor_performScaleCommand (word : Byte) (s : State) (h : GreenFor ld s) : GreenFor ld (performScaleCommand word s).state := by simpa [greenFor_def] using h
@[simp] theorem greenFor_nodeAnswered (s : State) (i : NodeIdx) (h : GreenFor ld s) : GreenFor ld (State.nodeAnswered s i) := by simpa [greenFor_def] using h
@[simp] theorem greenFor_holdBound (s : State) (n : Node) (reason : HoldReason) (h : GreenFor ld s) : GreenFor ld (State.holdBound s n reason) := by
  generalize e : (State.holdBound s n reason) = t
  unfold State.holdBound at e
  (try dsimp only at e)
  (repeat' split at e) <;> subst e <;> (try simp only [refuse_state, accept_state]) <;> (simp (config := {maxDischargeDepth := 60}) [greenFor_mk, h, (greenFor_def ld s).symm.trans (eq_true h)])
@[simp] theorem greenFor_reportLost (s : State) (n : Node) (h : GreenFor ld s) : GreenFor ld (State.reportLost s n) := by
  generalize e : (State.reportLost s n) = t
  unfold State.reportLost at e
  (try dsimp only at e)
  (repeat' split at e) <;> subst e <;> (try simp only [refuse_state, accept_state]) <;> (simp (config := {maxDischargeDepth := 60}) [greenFor_mk, h, (greenFor_def ld s).symm.trans (eq_true h)])
@[simp] theorem greenFor_nodeMissed (s : State) (i : NodeIdx) (h : GreenFor ld s) : GreenFor ld (State.nodeMissed s i) := by
  generalize e : (State.nodeMissed s i) = t
  unfold State.nodeMissed at e
  (try dsimp only at e)
  (repeat' split at e) <;> subst e <;> (try simp only [refuse_state, accept_state]) <;> (simp (config := {maxDischargeDepth := 60}) [greenFor_mk, h, (greenFor_def ld s).symm.trans (eq_true h)])
@[simp] theorem greenFor_missOn (s : State) (t : Transaction) (h : GreenFor ld s) : GreenFor ld (State.missOn s t) := by
  generalize e : (State.missOn s t) = t
  unfold State.missOn at e
  (try dsimp only at e)
  (repeat' split at e) <;> subst e <;> (try simp only [refuse_state, accept_state]) <;> (simp (config := {maxDischargeDepth := 60}) [greenFor_mk, h, (greenFor_def ld s).symm.trans (eq_true h)])
@[simp] theorem greenFor_forward (s : State) (f : Frame) (h : GreenFor ld s) : GreenFor ld (State.forward s f) := by simpa [greenFor_def] using h
@[simp] theorem greenFor_copyIf (s : State) (c : Bool) (f : Frame) (h : GreenFor ld s) : GreenFor ld (State.copyIf s c f) := by simpa [greenFor_def] using h
@[simp] theorem greenFor_endTransaction (s : State) (h : GreenFor ld s) : GreenFor ld (State.endTransaction s) := by simpa [greenFor_def] using h
@[simp] theorem greenFor_countUnsolicited (s : State) (h : GreenFor ld s) : GreenFor ld (State.countUnsolicited s) := by simpa [greenFor_def] using h
@[simp] theorem greenFor_blockAnswered (s : State) (i : NodeIdx) (ticket : Nat) (f : Frame) (h : GreenFor ld s) : GreenFor ld (State.blockAnswered s i ticket f) := by simpa [greenFor_def] using h
@[simp] theorem greenFor_expired (s : State) (t : Transaction) (h : GreenFor ld s) : GreenFor ld (State.expired s t) := by
  generalize e : (State.expired s t) = t
  unfold State.expired at e
  (try dsimp only at e)
  (repeat' split at e) <;> subst e <;> (try simp only [refuse_state, accept_state]) <;> (simp (config := {maxDischargeDepth := 60}) [greenFor_mk, h, (greenFor_def ld s).symm.trans (eq_true h)])
@[simp] theorem greenFor_afterOther (s : State) (h : GreenFor ld s) : GreenFor ld (State.afterOther s) := by
  generalize e : (State.afterOther s) = t
  unfold State.afterOther at e
  (try dsimp only at e)
  (repeat' split at e) <;> subst e <;> (try simp only [refuse_state, accept_state]) <;> (simp (config := {maxDischargeDepth := 60}) [greenFor_mk, h, (greenFor_def ld s).symm.trans (eq_true h)])
@[simp] theorem greenFor_receptionStart (s : State) (h : GreenFor ld s) : GreenFor ld (State.receptionStart s) := by simpa [greenFor_def] using h
@[simp] theorem greenFor_windowExpiry (s : State) (h : GreenFor ld s) : GreenFor ld (State.windowExpiry s) := by
  generalize e : (State.windowExpiry s) = t
  unfold State.windowExpiry at e
  (try dsimp only at e)
  (repeat' split at e) <;> subst e <;> (try simp only [refuse_state, accept_state]) <;> (simp (config := {maxDischargeDepth := 60}) [greenFor_mk, h, (greenFor_def ld s).symm.trans (eq_true h)])
@[simp] theorem greenFor_guardEnd (s : State) (h : GreenFor ld s) : GreenFor ld (State.guardEnd s) := by simpa [greenFor_def] using h
@[simp] theorem greenFor_transmitDone (s : State) (h : GreenFor ld s) : GreenFor ld (State.transmitDone s) := by simpa [greenFor_def] using h
@[simp] theorem greenFor_openTransaction (s : State) (kind : TransactionKind) (address : Byte) (node : Option NodeIdx) (frames : List Frame) (window : Nat) (h : GreenFor ld s) : GreenFor ld (State.openTransaction s kind address node frames window) := by simpa [greenFor_def] using h
@[simp] theorem greenFor_startCommand (s : State) (c : Command) (rest : List Command) (h : GreenFor ld s) : GreenFor ld (State.startCommand s c rest) := by simpa [greenFor_def] using h
@[simp] theorem greenFor_startBlock (s : State) (ticket : Nat) (h : GreenFor ld s) : GreenFor ld (State.startBlock s ticket) := by simpa [greenFor_def] using h
@[simp] theorem greenFor_startPass (s : State) (f : Frame) (rest : List Frame) (h : GreenFor ld s) : GreenFor ld (State.startPass s f rest) := by simpa [greenFor_def] using h
@[simp] theorem greenFor_startPoll (s : State) (i : NodeIdx) (rest : List NodeIdx) (h : GreenFor ld s) : GreenFor ld (State.startPoll s i rest) := by simpa [greenFor_def] using h
@[simp] theorem greenFor_startSource (s : State) (c : FieldSource) (h : GreenFor ld s) : GreenFor ld (State.startSource s c) := by simpa [greenFor_def] using h
@[simp] theorem greenFor_startTransaction (s : State) (h : GreenFor ld s) : GreenFor ld (State.startTransaction s) := by simpa [greenFor_def] using h
@[simp] theorem greenFor_choosing (s : State) (c : Option FieldSource) (h : GreenFor ld s) : GreenFor ld (s.choosing c) := by simpa [greenFor_def] using h
@[simp] theorem greenFor_scheduleNode (c : CadenceId) (s : State) (i : NodeIdx) (h : GreenFor ld s) : GreenFor ld (State.scheduleNode c s i) := by simpa [greenFor_def] using h
@[simp] theorem greenFor_updCadence (s : State) (c : CadenceId) (f : Cadence → Cadence) (h : GreenFor ld s) : GreenFor ld (State.updCadence s c f) := by simpa [greenFor_def] using h
@[simp] theorem greenFor_cadenceExpiry (s : State) (c : CadenceId) (h : GreenFor ld s) : GreenFor ld (State.cadenceExpiry s c) := by simpa [greenFor_def] using h
@[simp] theorem greenFor_restartField (s : State) (h : GreenFor ld s) : GreenFor ld (State.restartField s) := by simpa [greenFor_def] using h
@[simp] theorem greenFor_printerWritten (s : State) (before after : Option Role) (h : GreenFor ld s) : GreenFor ld (State.printerWritten s before after) := by simpa [greenFor_def] using h
@[simp] theorem greenFor_writeNode (s : State) (i : NodeIdx) (g : NodeImage) (h : GreenFor ld s) : GreenFor ld (State.writeNode s i g) := by simpa [greenFor_def] using h
@[simp] theorem greenFor_performNodeWrite (index : Byte) (image : List Byte) (s : State) (h : GreenFor ld s) : GreenFor ld (performNodeWrite index image s).state := by simpa [greenFor_def] using h
@[simp] theorem greenFor_performRouteWrite (index : Byte) (image : List Byte) (s : State) (h : GreenFor ld s) : GreenFor ld (performRouteWrite index image s).state := by simpa [greenFor_def] using h
@[simp] theorem greenFor_performCadenceWrite (index : Byte) (image : List Byte) (s : State) (h : GreenFor ld s) : GreenFor ld (performCadenceWrite index image s).state := by simpa [greenFor_def] using h
@[simp] theorem greenFor_setKilnEntry (s : State) (k : Kiln) (e : KilnEntry) (h : GreenFor ld s) : GreenFor ld (State.setKilnEntry s k e) := by simpa [greenFor_def] using h
@[simp] theorem greenFor_performScheduleWrite (index : Byte) (image : List Byte) (s : State) (h : GreenFor ld s) : GreenFor ld (performScheduleWrite index image s).state := by simpa [greenFor_def] using h
@[simp] theorem greenFor_performStepWrite (index : Byte) (image : List Byte) (s : State) (h : GreenFor ld s) : GreenFor ld (performStepWrite index image s).state := by simpa [greenFor_def] using h
@[simp] theorem greenFor_performVarietyWrite (index : Byte) (image : List Byte) (s : State) (h : GreenFor ld s) : GreenFor ld (performVarietyWrite index image s).state := by simpa [greenFor_def] using h
@[simp] theorem greenFor_performTareWrite (index : Byte) (image : List Byte) (s : State) (h : GreenFor ld s) : GreenFor ld (performTareWrite index image s).state := by simpa [greenFor_def] using h
@[simp] theorem greenFor_performScaleSetupWrite (index : Byte) (image : List Byte) (s : State) (h : GreenFor ld s) : GreenFor ld (performScaleSetupWrite index image s).state := by simpa [greenFor_def] using h
@[simp] theorem greenFor_performStationWrite (index : Byte) (image : List Byte) (s : State) (h : GreenFor ld s) : GreenFor ld (performStationWrite index image s).state := by simpa [greenFor_def] using h
@[simp] theorem greenFor_performTableRead (table index part : Byte) (s : State) (h : GreenFor ld s) : GreenFor ld (performTableRead table index part s).state := by simpa [greenFor_def] using h
@[simp] theorem greenFor_addLot (s : State) (l : Lot) (hl : s.lot? l.number = none) (hb : l.GreenBalanced) (h : GreenFor ld s) : GreenFor ld (State.addLot s l) := by
  rw [greenFor_def] at *
  obtain ⟨a,b,c,d,e,q1,q2⟩ := h
  simp only [addLot_lots, addLot_frame]
  have hno : ∀ x ∈ s.table.lots, x.number ≠ l.number := by
    intro x hx; have := List.find?_eq_none.mp hl x hx; simpa using this
  have mem : ∀ ls x, x ∈ insertLot l ls ↔ x = l ∨ x ∈ ls := by
    intro ls; induction ls with
    | nil => intro x; simp [insertLot]
    | cons y ys ih =>
      intro x; unfold insertLot; split
      · simp
      · simp only [List.mem_cons, ih]; tauto
  have asc : ∀ ls : List Lot, (ls.map (fun l => l.number)).Pairwise (· < ·) → (∀ x ∈ ls, x.number ≠ l.number) → ((insertLot l ls).map (fun l => l.number)).Pairwise (· < ·) := by
    intro ls; induction ls with
    | nil => intro _ _; simp [insertLot]
    | cons y ys ih =>
      intro h1 h2
      unfold insertLot
      simp only [List.map_cons, List.pairwise_cons] at h1
      split
      · rename_i hlt
        simp only [List.map_cons, List.pairwise_cons, List.mem_cons]
        refine ⟨?_, h1⟩
        rintro z (rfl | hz)
        · exact hlt
        · have := h1.1 z hz; omega
      · rename_i hlt
        simp only [List.map_cons, List.pairwise_cons]
        refine ⟨?_, ih h1.2 (fun x hx => h2 x (List.mem_cons_of_mem _ hx))⟩
        intro z hz
        obtain ⟨w, hw, rfl⟩ := List.mem_map.mp hz
        rcases (mem ys w).mp hw with rfl | hw
        · have := h2 y (by simp); omega
        · exact h1.1 _ (List.mem_map_of_mem hw)
  refine ⟨asc _ a hno, ?_, ?_, ?_, e, q1, q2⟩
  · intro x hx; rcases (mem _ _).mp hx with rfl | hx
    · exact hb
    · exact b _ hx
  · intro m hm
    obtain ⟨x, hx, h1⟩ := c m hm
    exact ⟨x, (mem _ _).mpr (Or.inr hx), h1⟩
  · intro k hk
    obtain ⟨h1, r, h2, h3, h4⟩ := d k hk
    refine ⟨h1, r, h2, h3, ?_⟩
    intro x hx he
    rcases (mem _ _).mp hx with rfl | hx
    · obtain ⟨y, hy, hy1, _⟩ := c r.lot (Or.inr (Or.inl h3))
      exact absurd (hy1.trans he.symm) (hno y hy)
    · exact h4 x hx he
@[simp] theorem greenFor_performLotOpen (lot grower : Word16) (variety : Byte) (s : State) (h : GreenFor ld s) : GreenFor ld (performLotOpen lot grower variety s).state := by
  unfold performLotOpen
  (repeat' split) <;> try exact h
  rename_i hn _
  simp only [accept_state]
  apply greenFor_addLot _ _ _ _ h
  · simpa [newLot] using hn
  · simp [Lot.GreenBalanced, newLot]
@[simp] theorem greenFor_performLotRead (lot : Word16) (item : Byte) (s : State) (h : GreenFor ld s) : GreenFor ld (performLotRead lot item s).state := by simpa [greenFor_def] using h
@[simp] theorem greenFor_performLotVoid (lot : Word16) (s : State) (h : GreenFor ld s) : GreenFor ld (performLotVoid lot s).state := by
  unfold performLotVoid
  (repeat' split) <;> try exact h
  rename_i l hl hs
  simp only [accept_state]
  exact greenFor_removeLot _ _ _ hl (by rw [hs]; simp) h
@[simp] theorem greenFor_performLotClose (lot : Word16) (s : State) (h : GreenFor ld s) : GreenFor ld (performLotClose lot s).state := by
  unfold performLotClose
  (repeat' split) <;> try exact h
  rename_i l hl hs
  simp at hs
  simp only [accept_state]
  exact greenFor_removeLot _ _ _ hl (by rw [hs.1]; simp) h
@[simp] theorem greenFor_clearCounts (s : State) (h : GreenFor ld s) : GreenFor ld (State.clearCounts s) := by simpa [greenFor_def] using h
@[simp] theorem greenFor_performStatus (clear page : Byte) (s : State) (h : GreenFor ld s) : GreenFor ld (performStatus clear page s).state := by simpa [greenFor_def] using h
@[simp] theorem greenFor_performTimeSet (time : Word32) (s : State) (h : GreenFor ld s) : GreenFor ld (performTimeSet time s).state := by simpa [greenFor_def] using h
@[simp] theorem greenFor_secondPassed (s : State) (h : GreenFor ld s) : GreenFor ld (State.secondPassed s) := by simpa [greenFor_def] using h
@[simp] theorem greenFor_setReply (s : State) (payload : List Byte) (h : GreenFor ld s) : GreenFor ld (State.setReply s payload) := by simpa [greenFor_def] using h
@[simp] theorem greenFor_updLink (s : State) (f : Link → Link) (h : GreenFor ld s) : GreenFor ld (State.updLink s f) := by simpa [greenFor_def] using h
@[simp] theorem greenFor_validArrival (s : State) (h : GreenFor ld s) : GreenFor ld (State.validArrival s) := by simpa [greenFor_def] using h
@[simp] theorem greenFor_linkSilent (s : State) (h : GreenFor ld s) : GreenFor ld (State.linkSilent s) := by simpa [greenFor_def] using h
@[simp] theorem greenFor_offerPass (s : State) (f : Frame) (h : GreenFor ld s) : GreenFor ld (State.offerPass s f) := by simpa [greenFor_def] using h
@[simp] theorem greenFor_idleGap (s : State) (port : Port) (h : GreenFor ld s) : GreenFor ld (State.idleGap s port) := by simpa [greenFor_def] using h
@[simp] theorem greenFor_startUpstream (s : State) (t : UpTransmit) (h : GreenFor ld s) : GreenFor ld (State.startUpstream s t) := by simpa [greenFor_def] using h
@[simp] theorem greenFor_upstreamTransmit (s : State) (h : GreenFor ld s) : GreenFor ld (State.upstreamTransmit s) := by simpa [greenFor_def] using h
theorem greenFor_updFeedSame (s : State) (f : Feed → Feed) (h : GreenFor ld s) (h1 : (f s.feed).beltLot = s.feed.beltLot) (h2 : (f s.feed).feedLot = s.feed.feedLot)
    (h3 : (f s.feed).changeover.pending = s.feed.changeover.pending) : GreenFor ld (s.updFeed f) := by
  rw [greenFor_def] at *
  simp only [updFeed_feed, updFeed_frame, h1, h2, h3]; exact h
theorem greenFor_updHold (s : State) (f : FeedHold → FeedHold) (h : GreenFor ld s) : GreenFor ld (s.updHold f) := greenFor_updFeedSame _ _ h rfl rfl rfl
theorem greenFor_startDivertWatch (s : State) (h : GreenFor ld s) : GreenFor ld s.startDivertWatch := by
  unfold State.startDivertWatch
  split
  · apply greenFor_raiseFeedHeld; exact greenFor_updFeedSame _ _ h rfl rfl rfl
  · exact greenFor_updFeedSame _ _ h rfl rfl rfl
theorem greenFor_hitChargeLimit (s : State) (b k) (h : GreenFor ld s) : GreenFor ld (s.hitChargeLimit b k) := by
  unfold State.hitChargeLimit
  dsimp only
  apply greenFor_updHold
  split
  · exact h
  · exact greenFor_raise _ _ _ _ h
theorem greenFor_divertWatchExpiry (s : State) (h : GreenFor ld s) : GreenFor ld s.divertWatchExpiry := by
  unfold State.divertWatchExpiry
  split
  · apply greenFor_raiseFeedHeld; exact greenFor_updFeedSame _ _ h rfl rfl rfl
  · exact h
theorem greenFor_divertReport (s : State) (t) (h : GreenFor ld s) : GreenFor ld (s.divertReport t) := by
  unfold State.divertReport
  split
  · exact greenFor_updFeedSame _ _ h rfl rfl rfl
  · exact h
theorem lot?_unique {ls : List Lot} (h : (ls.map (fun l => l.number)).Pairwise (· < ·)) {l : Lot} (hl : l ∈ ls) :
    ls.find? (fun x => x.number = l.number) = some l := by
  cases hf : ls.find? (fun x => x.number = l.number) with
  | none => have := List.find?_eq_none.mp hf l hl; simp at this
  | some m =>
    have hm := List.mem_of_find?_eq_some hf
    have hn : m.number = l.number := by simpa using List.find?_some hf
    rw [lots_unique h hm hl hn]
theorem greenFor_takeKiln (s : State) (b : Nat) (k : Kiln) (h : GreenFor none s) (hb : s.feed.beltLot = some b) (hk : (s.kiln k).state = .empty) : GreenFor (some k) (s.takeKiln b k) := by
  unfold State.takeKiln
  dsimp only
  apply greenFor_startDivertWatch; apply greenFor_updHold; apply greenFor_writeCommanded
  refine greenFor_updFeedSame _ _ ?_ rfl rfl rfl
  rw [greenFor_def] at *
  obtain ⟨a,b1,c,d,e,q1,q2⟩ := h
  simp only [updKiln_run, updKiln_frame, updLot_lots, updLot_frame]
  have hnum : ∀ l : Lot, (if l.number = b then { l with charges := l.charges ++ [newCharge k s.now] } else l).number = l.number := by
    intro l; split <;> rfl
  refine ⟨?_, ?_, ?_, ?_, ?_, ?_, q2⟩
  · rw [List.map_map]
    have : ((fun l : Lot => l.number) ∘ fun l => if l.number = b then { l with charges := l.charges ++ [newCharge k s.now] } else l) = (fun l => l.number) := by
      funext l; exact hnum l
    rw [this]; exact a
  · intro l hl
    obtain ⟨l0, h0, rfl⟩ := List.mem_map.mp hl
    have := b1 _ h0
    split
    · simp only [Lot.GreenBalanced] at *; simp [newCharge]; exact this
    · exact this
  · intro m hm
    obtain ⟨l, hl, h1, h2⟩ := c m hm
    refine ⟨_, List.mem_map_of_mem hl, by rw [hnum]; exact h1, ?_⟩
    split <;> exact h2
  · intro j hj
    simp at hj; subst hj
    rw [run_set]
    simp only [if_true]
    refine ⟨trivial, _, rfl, hb, ?_⟩
    intro l hl he
    obtain ⟨l0, h0, rfl⟩ := List.mem_map.mp hl
    rw [hnum] at he
    simp only [] at he
    have hf : s.lot? b = some l0 := by
      have := lot?_unique a h0
      rw [he] at this; exact this
    simp [hf, he]
  · intro j hj
    rw [run_set] at hj
    split at hj
    · simpa using by assumption
    · exact absurd (e j hj) (by simp)
  · intro j hj
    rw [run_set]
    split
    · rename_i e'; subst e'
      have := q1 _ hj
      rw [kiln_run] at this
      simp [KilnRun.Queued, hk] at this
    · exact q1 _ hj
@[simp] theorem takeKiln_loading (s : State) (b k) : (s.takeKiln b k).feed.loading = some k := by
  simp [State.takeKiln, State.startDivertWatch]
  split <;> simp
@[simp] theorem hitChargeLimit_loading (s : State) (b k) : (s.hitChargeLimit b k).feed.loading = s.feed.loading := by simp
/-- The law of a state, to be unfolded. -/
def GreenIn (s : State) : Prop := GreenFor s.feed.loading s
theorem greenIn_selectKiln (s : State) (b : Nat) (h : GreenFor none s) (hl : s.feed.loading = none) (hb : s.feed.beltLot = some b) : GreenIn (s.selectKiln b) := by
  unfold State.selectKiln
  split
  · simp only [GreenIn, updHold_feed, hl]; exact greenFor_updHold _ _ h
  · rename_i k hk
    split
    · simp only [GreenIn, takeKiln_loading]
      apply greenFor_takeKiln
      · exact greenFor_updHold _ _ h
      · exact hb
      · have := List.find?_some hk
        simp at this; exact this.1
    · simp only [GreenIn, hitChargeLimit_loading, hl]; exact greenFor_hitChargeLimit _ _ _ h
theorem greenIn_attemptSelection (s : State) (h : GreenIn s) : GreenIn s.attemptSelection := by
  unfold State.attemptSelection
  split
  · rename_i hb hl
    split
    · exact h
    · unfold GreenIn at h; rw [hl] at h; exact greenIn_selectKiln _ _ h hl hb
  · exact h
/-- the fill closes -/
theorem greenFor_closeFill (s : State) (k : Kiln) (h : GreenFor (some k) s) : GreenFor none (s.closeFill k) := by
  unfold State.closeFill
  dsimp only
  refine greenFor_updFeedSame _ _ ?_ rfl rfl rfl
  apply greenFor_writeCommanded
  refine greenFor_updFeedSame _ _ ?_ rfl rfl rfl
  unfold State.kilnLoaded
  have hc := greenFor_closeCharge s k h
  generalize s.closeCharge k = t at hc
  apply greenFor_autoStart
  · rw [writeBurner_kiln]; simp [kiln_updKiln, free]
  · apply greenFor_writeBurner
    rw [greenFor_def] at *
    obtain ⟨a,b1,c,d,e,q1,q2⟩ := hc
    simp only [updKiln_run, updKiln_frame]
    have hkl := (d k rfl).1
    refine ⟨a, b1, c, by simp, ?_, ?_, q2⟩
    · intro j hj
      rw [run_set] at hj
      split at hj
      · simp at hj
      · have := e j hj; simp at this; rename_i hne; exact absurd this hne
    · intro j hj
      rw [run_set]
      split
      · rename_i e'; subst e'
        have := q1 _ hj
        rw [KilnRun.Queued, hkl] at this; simp at this
      · exact q1 _ hj
@[simp] theorem closeFill_loading (s : State) (k) : (s.closeFill k).feed.loading = none := by simp [State.closeFill]
theorem greenIn_closeAndSelect (s : State) (k : Kiln) (h : GreenFor (some k) s) : GreenIn (s.closeAndSelect k) := by
  unfold State.closeAndSelect
  apply greenIn_attemptSelection
  unfold GreenIn; rw [closeFill_loading]; exact greenFor_closeFill _ _ h
/-- The changeover is steady with no fill open: the old belt lot is left, the pending lot takes the belt. -/
theorem greenIn_changedOver (t : State) (h2 : GreenFor none t) (h3 : t.feed.loading = none) : GreenIn (t.finishOldLot.updFeed (fun u => { u with
    beltLot := u.changeover.pending, changeover := .steady
    hold := { u.hold with changeover := false, noKiln := false, chargeLimit := false } })) := by
  unfold GreenIn
  have e1 : t.finishOldLot.feed = t.feed := by simp
  simp only [updFeed_feed, e1, h3]
  rw [greenFor_def] at *
  simp only [updFeed_feed, updFeed_frame, e1, finishOldLot_frame]
  obtain ⟨a,b1,c,d,e,q1,q2⟩ := h2
  unfold State.finishOldLot
  split
  · exact ⟨a, b1, by
      intro n hn
      apply c
      rcases hn with hn | hn | hn
      · exact Or.inl hn
      · exact Or.inr (Or.inr hn)
      · simp [Changeover.pending] at hn, by simp, e, q1, q2⟩
  · rename_i b hb
    split
    · exact ⟨a, b1, by
        intro n hn
        apply c
        rcases hn with hn | hn | hn
        · exact Or.inl hn
        · exact Or.inr (Or.inr hn)
        · simp [Changeover.pending] at hn, by simp, e, q1, q2⟩
    · rename_i hne
      simp at hne
      simp only [updLot_lots]
      refine ⟨?_, ?_, ?_, by simp, e, q1, q2⟩
      · rw [List.map_map]
        have : ((fun l : Lot => l.number) ∘ fun l => if l.number = b then { l with state := .finished } else l) = (fun l => l.number) := by
          funext l; simp only [Function.comp]; split <;> rfl
        rw [this]; exact a
      · intro l hl
        obtain ⟨l0, h0, rfl⟩ := List.mem_map.mp hl
        have := b1 _ h0
        split <;> exact this
      · intro n hn
        have hn' : t.feed.feedLot = some n ∨ t.feed.changeover.pending = some n := by
          rcases hn with hn | hn | hn
          · exact Or.inl hn
          · exact Or.inr hn
          · simp [Changeover.pending] at hn
        have hnb : n ≠ b := by
          rintro rfl; rcases hn' with e | e
          · exact hne.1 e
          · exact hne.2 e
        obtain ⟨l, hl, l1, l2⟩ := c n (by tauto)
        refine ⟨_, List.mem_map_of_mem hl, ?_, ?_⟩
        · split <;> simp [l1]
        · rw [if_neg (by rw [l1]; exact hnb)]; exact l2
theorem greenIn_completeChangeover (s : State) (h : GreenIn s) : GreenIn s.completeChangeover := by
  unfold State.completeChangeover
  dsimp only
  apply greenIn_attemptSelection
  unfold GreenIn at h
  split
  · rename_i e; rw [e] at h; exact greenIn_changedOver _ h e
  · rename_i e; rw [e] at h; exact greenIn_changedOver _ (greenFor_closeFill _ _ h) (closeFill_loading _ _)
theorem greenIn_changeoverExpiry (s : State) (h : GreenIn s) : GreenIn s.changeoverExpiry := by
  unfold State.changeoverExpiry
  dsimp only
  split
  · rename_i p hp
    split
    · apply greenIn_completeChangeover
      exact greenFor_updFeedSame _ _ h rfl rfl rfl
    · refine greenFor_updFeedSame _ _ (greenFor_updFeedSame _ _ h rfl rfl rfl) rfl rfl ?_
      simp [hp, Changeover.pending]
  · exact h
  · exact h
theorem greenIn_beltAnswered (s : State) (h : GreenIn s) : GreenIn s.beltAnswered := by
  unfold State.beltAnswered
  split
  · exact greenIn_completeChangeover _ h
  · exact h
theorem credit_lots (s : State) (b inc : Nat) (k : Kiln) (h : GreenFor (some k) s) (hb : s.feed.beltLot = some b) :
    GreenFor (some k) ((s.updLot b (fun l => { l with greenTotal := l.greenTotal + inc })).updKilnCharge k (fun c => { c with green := c.green + inc })) := by
  have h' := h
  rw [greenFor_def] at h'
  obtain ⟨a,b1,c,d,e,q1,q2⟩ := h'
  obtain ⟨hs, r, hr, hbelt, hi⟩ := d k rfl
  have hrb : r.lot = b := by rw [hb] at hbelt; simpa using hbelt.symm
  have hch : ((s.updLot b (fun l => { l with greenTotal := l.greenTotal + inc })).kiln k).charge = some r := hr
  unfold State.updKilnCharge
  rw [hch]
  simp only [State.updCharge, hrb]
  rw [greenFor_def]
  simp only [updLot_lots, updLot_frame, List.map_map]
  have hg : ∀ l : Lot, ((fun l : Lot => if l.number = b then Lot.updCharge r.index (fun c => { c with green := c.green + inc }) l else l) ∘ fun l : Lot => if l.number = b then { l with greenTotal := l.greenTotal + inc } else l) l =
      if l.number = b then Lot.updCharge r.index (fun c => { c with green := c.green + inc }) { l with greenTotal := l.greenTotal + inc } else l := by
    intro l; simp only [Function.comp]; by_cases hl : l.number = b <;> simp [hl]
  rw [List.map_congr_left (fun l _ => hg l)]
  refine ⟨?_, ?_, ?_, ?_, e, q1, q2⟩
  · rw [List.map_map]
    have : ((fun l : Lot => l.number) ∘ fun l => if l.number = b then Lot.updCharge r.index (fun c => { c with green := c.green + inc }) { l with greenTotal := l.greenTotal + inc } else l) = (fun l => l.number) := by
      funext l; simp only [Function.comp]; split <;> rfl
    rw [this]; exact a
  · intro l hl
    obtain ⟨l0, h0, rfl⟩ := List.mem_map.mp hl
    have hbal := b1 _ h0
    split
    · rename_i hl0
      simp only [Lot.GreenBalanced, Lot.updCharge] at *
      rw [sum_green_modify _ _ _ inc (by intro c; rfl) (hi l0 h0 (by rw [hrb]; exact hl0))]
      omega
    · exact hbal
  · intro m hm
    obtain ⟨l, hl, h1, h2⟩ := c m hm
    refine ⟨_, List.mem_map_of_mem hl, ?_, ?_⟩
    · split <;> exact h1
    · split <;> exact h2
  · intro j hj
    obtain ⟨h1, r', h2, h3, h4⟩ := d j hj
    refine ⟨h1, r', h2, h3, ?_⟩
    intro l hl he
    obtain ⟨l0, h0, rfl⟩ := List.mem_map.mp hl
    split at he
    · have := h4 l0 h0 he
      split <;> simp_all [Lot.updCharge]
    · have := h4 l0 h0 he
      split <;> simp_all [Lot.updCharge]
theorem greenIn_credit (s : State) (inc : Nat) (h : GreenIn s) : GreenIn (s.credit inc) := by
  unfold State.credit
  split
  · exact greenFor_updFeedSame _ _ h rfl rfl rfl
  · rename_i b hb
    split
    · rename_i k hk hd
      dsimp only
      unfold GreenIn at h
      rw [hk] at h
      have h1 := credit_lots s b inc k h hb
      have hl : ((s.updLot b (fun l => { l with greenTotal := l.greenTotal + inc })).updKilnCharge k (fun c => { c with green := c.green + inc })).feed.loading = some k := by simpa using hk
      generalize (s.updLot b (fun l => { l with greenTotal := l.greenTotal + inc })).updKilnCharge k (fun c => { c with green := c.green + inc }) = t at h1 hl
      split
      · unfold GreenIn; rw [hl]; exact h1
      · split
        · exact greenIn_closeAndSelect _ _ h1
        · unfold GreenIn; rw [hl]; exact h1
    · dsimp only
      unfold GreenIn
      simp only [raise_frame, updLot_frame]
      apply greenFor_raise
      exact greenFor_updLotOf _ _ _ h (by intro l; rfl) (by intro l hl; exact hl) (by intro l; exact Nat.le_refl _) (by intro l hl; simp only [Lot.GreenBalanced] at *; omega)
theorem greenIn_green (s : State) (i : NodeIdx) (v : Word32) (h : GreenIn s) : GreenIn (s.green i v) := by
  unfold State.green
  dsimp only
  have h1 : ∀ n, GreenIn (s.setNode i n) := by
    intro n; unfold GreenIn; simp only [setNode_frame]; exact greenFor_setNode _ _ _ h
  split
  · split
    · exact h1 _
    · split
      · unfold GreenIn; simp only [raiseOpt_frame]; exact greenFor_raiseOpt _ _ _ _ (h1 _)
      · exact greenIn_credit _ _ (h1 _)
  · exact h1 _
/-- A LOT-FEED in force: the changeover is draining and the new feed lot is FEEDING. -/
theorem greenIn_fed (s : State) (new : Option Nat) (h : GreenIn s) (hn : ∀ n, new = some n → (s.lot? n).isSome) : GreenIn (match (generalizing := false) new with
    | none => s.updFeed (fun u => { u with
    feedLot := new, changeover := .draining new, timer := 10 * s.mgmt.station.transit
    hold := { u.hold with changeover := true, stopped := new.isNone } })
    | some n => (s.updFeed (fun u => { u with
    feedLot := new, changeover := .draining new, timer := 10 * s.mgmt.station.transit
    hold := { u.hold with changeover := true, stopped := new.isNone } })).updLot n (fun l => { l with state := .feeding })) := by
  unfold GreenIn at h
  cases new with
  | none =>
    unfold GreenIn
    rw [greenFor_def] at *
    simp only [updFeed_feed, updFeed_frame]
    obtain ⟨a,b1,c,d,e,q1,q2⟩ := h
    refine ⟨a, b1, ?_, d, e, q1, q2⟩
    intro n hn
    simp [Changeover.pending] at hn
    exact c n (Or.inr (Or.inl hn))
  | some n =>
    unfold GreenIn
    rw [greenFor_def] at *
    simp only [updLot_lots, updLot_frame, updFeed_feed, updFeed_frame]
    obtain ⟨a,b1,c,d,e,q1,q2⟩ := h
    have hnum : ∀ l : Lot, (if l.number = n then { l with state := .feeding } else l).number = l.number := by
      intro l; split <;> rfl
    refine ⟨?_, ?_, ?_, ?_, e, q1, q2⟩
    · rw [List.map_map]
      have : ((fun l : Lot => l.number) ∘ fun l => if l.number = n then { l with state := .feeding } else l) = (fun l => l.number) := by
        funext l; exact hnum l
      rw [this]; exact a
    · intro l hl
      obtain ⟨l0, h0, rfl⟩ := List.mem_map.mp hl
      have := b1 _ h0
      split <;> exact this
    · intro m hm
      by_cases hmn : m = n
      · subst hmn
        obtain ⟨l, hl⟩ := Option.isSome_iff_exists.mp (hn m rfl)
        have hmem := List.mem_of_find?_eq_some hl
        have hnn : l.number = m := by simpa using List.find?_some hl
        refine ⟨_, List.mem_map_of_mem hmem, by rw [hnum]; exact hnn, ?_⟩
        rw [if_pos hnn]
      · have : s.feed.beltLot = some m := by
          simp [Changeover.pending] at hm
          rcases hm with hm | hm | hm
          · exact absurd hm.symm hmn
          · exact hm
          · exact absurd hm.symm hmn
        obtain ⟨l, hl, h1, h2⟩ := c m (Or.inr (Or.inl this))
        refine ⟨_, List.mem_map_of_mem hl, by rw [hnum]; exact h1, ?_⟩
        split <;> first | exact h2 | rfl
    · intro j hj
      obtain ⟨h1, r, h2, h3, h4⟩ := d j hj
      refine ⟨h1, r, h2, h3, ?_⟩
      intro l hl he
      obtain ⟨l0, h0, rfl⟩ := List.mem_map.mp hl
      rw [hnum] at he
      have := h4 l0 h0 he
      split <;> exact this
theorem greenIn_feedLot (s : State) (new : Option Nat) (h : GreenIn s) (hn : ∀ n, new = some n → (s.lot? n).isSome) : GreenIn (s.feedLot new) := by
  have k := greenIn_fed s new h hn
  unfold State.feedLot
  dsimp only
  cases new with
  | none =>
    split
    · exact greenIn_changeoverExpiry _ k
    · exact k
  | some n =>
    split
    · exact greenIn_changeoverExpiry _ k
    · exact k
theorem greenIn_of (s t : State) (e : t.feed.loading = s.feed.loading) (h : GreenFor s.feed.loading t) : GreenIn t := by unfold GreenIn; rw [e]; exact h
theorem greenIn_feedEvent (f : State → State) (s : State) (h : GreenIn (f s)) : GreenIn (feedEvent f s) := by
  apply greenIn_of (f s) _ (by simp); exact greenFor_feedEvent _ _ h
theorem greenIn_performLotFeed (lot : Word16) (s : State) (h : GreenIn s) : GreenIn (performLotFeed lot s).state := by
  unfold performLotFeed
  dsimp only
  by_cases h0 : lot.toNat = 0
  · simp only [h0, if_true]
    (repeat' split) <;> try exact h
    simp only [accept_state]
    apply greenIn_feedEvent; exact greenIn_feedLot _ _ h (by simp)
  · simp only [h0, if_false]
    (repeat' split) <;> try exact h
    rename_i h1 h2 _ _
    simp only [accept_state]
    apply greenIn_feedEvent; apply greenIn_feedLot _ _ h
    intro n hn
    simp at hn; subst hn
    exact Option.isSome_iff_ne_none.mpr (by simpa using h2)
theorem greenIn_performFeedHold (flag : Byte) (s : State) (h : GreenIn s) : GreenIn (performFeedHold flag s).state := by
  unfold performFeedHold
  split
  · exact h
  · simp only [accept_state]
    apply greenIn_feedEvent
    exact greenFor_updHold _ _ h
theorem greenIn_performFillOrder (count kilns) (s : State) (h : GreenIn s) : GreenIn (performFillOrder count kilns s).state := by
  unfold performFillOrder
  (repeat' split) <;> try exact h
  simp only [accept_state]
  apply greenIn_feedEvent
  apply greenIn_attemptSelection
  exact greenFor_updFeedSame _ _ h rfl rfl rfl
theorem greenIn_performLoadClose (s : State) (h : GreenIn s) : GreenIn (performLoadClose s).state := by
  unfold performLoadClose
  split
  · exact h
  · rename_i k hk
    simp only [accept_state]
    apply greenIn_feedEvent
    apply greenIn_closeAndSelect
    unfold GreenIn at h; rw [hk] at h; exact h
theorem greenIn_serve (s : State) (h : GreenIn s) : GreenIn s.serve := greenIn_of s _ (by simp) (greenFor_serve _ h)
/-- The head has left the queue and the next kiln is the head. -/
theorem greenIn_unloadedHead (s : State) (k : Kiln) (rest : List Kiln) (hq : s.press.queue = k :: rest) (h : GreenIn s) : GreenIn (State.judgePress (match (s.kiln k).charge with
    | none => (((({ s with press := { s.press with queue := s.press.queue.tail } } : State).updKilnCharge k (fun c => { c with state := .pressed })).kilnEmptied k).advanceHead)
    | some r => State.testComposition (((({ s with press := { s.press with queue := s.press.queue.tail } } : State).updKilnCharge k (fun c => { c with state := .pressed })).kilnEmptied k).advanceHead) r)) := by
  have hQ : (s.kiln k).Queued ∧ k ∉ rest := by
    unfold GreenIn at h; rw [greenFor_def] at h
    obtain ⟨a,b1,c,d,e,q1,q2⟩ := h
    rw [hq] at q1 q2
    exact ⟨q1 k (by simp), by simp at q2; exact q2.1⟩
  have hs : (s.kiln k).state ≠ .loading := by
    intro e; rcases hQ.1 with q | q <;> rw [q] at e <;> simp at e
  apply greenIn_of s
  · cases (s.kiln k).charge <;> simp
  have h0 : GreenFor s.feed.loading { s with press := { s.press with queue := s.press.queue.tail } } := by
    simp only [greenFor_mk]; unfold GreenIn at h; rw [greenFor_def] at h
    obtain ⟨a,b1,c,d,e,q1,q2⟩ := h
    refine ⟨a,b1,c,d,e,?_,?_⟩
    · intro j hj; exact q1 j (List.mem_of_mem_tail hj)
    · exact q2.sublist (List.tail_sublist _)
  have h3 : GreenFor s.feed.loading (((({ s with press := { s.press with queue := s.press.queue.tail } } : State).updKilnCharge k (fun c => { c with state := .pressed })).kilnEmptied k).advanceHead) := by
    apply greenFor_advanceHead
    apply greenFor_kilnEmptied
    · show (({ s with press := { s.press with queue := s.press.queue.tail } } : State).updKilnCharge k _).kilns.run[k].state ≠ _
      simp only [updKilnCharge_frame]; exact hs
    · simp only [updKilnCharge_frame, hq]; exact hQ.2
    · exact greenFor_updKilnChargeOf _ _ _ h0 (by intro c; rfl)
  apply greenFor_judgePress
  split
  · exact h3
  · exact greenFor_testComposition _ _ h3
theorem greenIn_unloadHead (s : State) (k : Kiln) (rest : List Kiln) (hq : s.press.queue = k :: rest) (h : GreenIn s) : GreenIn (s.unloadHead k) := by
  unfold State.unloadHead
  dsimp only
  apply greenIn_serve
  apply greenIn_attemptSelection
  exact greenIn_unloadedHead s k rest hq h
theorem greenIn_unloadDone (s : State) (h : GreenIn s) : GreenIn s.unloadDone := by
  unfold State.unloadDone
  split
  · exact h
  · rename_i k rest hq; exact greenIn_unloadHead _ _ rest hq h
theorem greenIn_performUnloadDone (kiln : Byte) (s : State) (h : GreenIn s) : GreenIn (performUnloadDone kiln s).state := by
  unfold performUnloadDone
  dsimp only
  (repeat' split) <;> try exact h
  simp only [accept_state]
  exact greenIn_feedEvent _ _ (greenIn_unloadDone _ h)
theorem greenIn_performKilnWrite (index image) (s : State) (h : GreenIn s) : GreenIn (performKilnWrite index image s).state := by
  unfold performKilnWrite
  (repeat' split) <;> try exact h
  simp only [accept_state]
  apply greenIn_feedEvent
  apply greenIn_attemptSelection
  exact greenIn_of s _ (by simp) (greenFor_setKilnEntry _ _ _ h)
/-- The law of a state. -/
@[irreducible] def GreenOk (s : State) : Prop := GreenIn s
theorem greenOk_def (s : State) : GreenOk s = GreenIs s.table.lots s.kilns.run s.feed.loading s.feed.beltLot s.feed.feedLot s.feed.changeover.pending s.press.queue := by unfold GreenOk GreenIn; rw [greenFor_def]
theorem greenOk_mk (a b c d e f g h i j k l) : GreenOk (State.mk a b c d e f g h i j k l) = GreenIs f.lots h.run g.loading g.beltLot g.feedLot g.changeover.pending j.queue := by unfold GreenOk GreenIn; rw [greenFor_def]
@[simp] theorem greenOk_attemptSelection (s : State) (h : GreenOk s) : GreenOk s.attemptSelection := by
  unfold GreenOk at *
  exact greenIn_attemptSelection s h
@[simp] theorem greenOk_beltAnswered (s : State) (h : GreenOk s) : GreenOk s.beltAnswered := by
  unfold GreenOk at *
  exact greenIn_beltAnswered s h
@[simp] theorem greenOk_changeoverExpiry (s : State) (h : GreenOk s) : GreenOk s.changeoverExpiry := by
  unfold GreenOk at *
  exact greenIn_changeoverExpiry s h
@[simp] theorem greenOk_closeAndSelect (s : State) (k : Kiln) (h : GreenFor (some k) s) : GreenOk (s.closeAndSelect k) := by
  unfold GreenOk at *
  exact greenIn_closeAndSelect s k h
@[simp] theorem greenOk_completeChangeover (s : State) (h : GreenOk s) : GreenOk s.completeChangeover := by
  unfold GreenOk at *
  exact greenIn_completeChangeover s h
@[simp] theorem greenOk_credit (s : State) (inc : Nat) (h : GreenOk s) : GreenOk (s.credit inc) := by
  unfold GreenOk at *
  exact greenIn_credit s inc h
@[simp] theorem greenOk_feedEvent (f : State → State) (s : State) (h : GreenOk (f s)) : GreenOk (feedEvent f s) := by
  unfold GreenOk at *
  exact greenIn_feedEvent f s h
@[simp] theorem greenOk_green (s : State) (i : NodeIdx) (v : Word32) (h : GreenOk s) : GreenOk (s.green i v) := by
  unfold GreenOk at *
  exact greenIn_green s i v h
@[simp] theorem greenOk_performFeedHold (flag : Byte) (s : State) (h : GreenOk s) : GreenOk (performFeedHold flag s).state := by
  unfold GreenOk at *
  exact greenIn_performFeedHold flag s h
@[simp] theorem greenOk_performFillOrder (count kilns) (s : State) (h : GreenOk s) : GreenOk (performFillOrder count kilns s).state := by
  unfold GreenOk at *
  exact greenIn_performFillOrder count kilns s h
@[simp] theorem greenOk_performKilnWrite (index image) (s : State) (h : GreenOk s) : GreenOk (performKilnWrite index image s).state := by
  unfold GreenOk at *
  exact greenIn_performKilnWrite index image s h
@[simp] theorem greenOk_performLoadClose (s : State) (h : GreenOk s) : GreenOk (performLoadClose s).state := by
  unfold GreenOk at *
  exact greenIn_performLoadClose s h
@[simp] theorem greenOk_performLotFeed (lot : Word16) (s : State) (h : GreenOk s) : GreenOk (performLotFeed lot s).state := by
  unfold GreenOk at *
  exact greenIn_performLotFeed lot s h
@[simp] theorem greenOk_performUnloadDone (kiln : Byte) (s : State) (h : GreenOk s) : GreenOk (performUnloadDone kiln s).state := by
  unfold GreenOk at *
  exact greenIn_performUnloadDone kiln s h
@[simp] theorem greenOk_serve (s : State) (h : GreenOk s) : GreenOk s.serve := by
  unfold GreenOk at *
  exact greenIn_serve s h
@[simp] theorem greenOk_unloadDone (s : State) (h : GreenOk s) : GreenOk s.unloadDone := by
  unfold GreenOk at *
  exact greenIn_unloadDone s h
theorem greenOk_of (s t : State) (e : t.feed.loading = s.feed.loading) (h : GreenFor s.feed.loading t) : GreenOk t := by
  unfold GreenOk at *
  exact greenIn_of s t e h
@[simp] theorem greenOk_raiseOpt (s : State) (k : NoticeKind) (o : Nat) (v : Option Word32) (h : GreenOk s) : GreenOk (State.raiseOpt s k o v) := by
  have h' : GreenFor s.feed.loading s := by unfold GreenOk at h; exact h
  exact greenOk_of s _ (by simp) (greenFor_raiseOpt _ _ _ _ h')
@[simp] theorem greenOk_raise (s : State) (k : NoticeKind) (o : Nat) (v : Int) (h : GreenOk s) : GreenOk (State.raise s k o v) := by
  have h' : GreenFor s.feed.loading s := by unfold GreenOk at h; exact h
  exact greenOk_of s _ (by simp) (greenFor_raise _ _ _ _ h')
@[simp] theorem greenOk_setNode (s : State) (i : NodeIdx) (n : Node) (h : GreenOk s) : GreenOk (State.setNode s i n) := by
  have h' : GreenFor s.feed.loading s := by unfold GreenOk at h; exact h
  exact greenOk_of s _ (by simp) (greenFor_setNode _ _ _ h')
@[simp] theorem greenOk_placeCommand (s : State) (i : NodeIdx) (c : Commanded) (h : GreenOk s) : GreenOk (State.placeCommand s i c) := by
  have h' : GreenFor s.feed.loading s := by unfold GreenOk at h; exact h
  exact greenOk_of s _ (by simp) (greenFor_placeCommand _ _ _ h')
@[simp] theorem greenOk_writeCommanded (s : State) (i : Option NodeIdx) (c : Commanded) (h : GreenOk s) : GreenOk (State.writeCommanded s i c) := by
  have h' : GreenFor s.feed.loading s := by unfold GreenOk at h; exact h
  exact greenOk_of s _ (by simp) (greenFor_writeCommanded _ _ _ h')
@[simp] theorem greenOk_clearCommanded (s : State) (i : Option NodeIdx) (h : GreenOk s) : GreenOk (State.clearCommanded s i) := by
  have h' : GreenFor s.feed.loading s := by unfold GreenOk at h; exact h
  exact greenOk_of s _ (by simp) (greenFor_clearCommanded _ _ h')
@[simp] theorem greenOk_updBale (s : State) (n : Nat) (f : Bale → Bale) (h : GreenOk s) : GreenOk (State.updBale s n f) := by
  have h' : GreenFor s.feed.loading s := by unfold GreenOk at h; exact h
  exact greenOk_of s _ (by simp) (greenFor_updBale _ _ _ h')
@[simp] theorem greenOk_judgePress (s : State) (h : GreenOk s) : GreenOk (State.judgePress s) := by
  have h' : GreenFor s.feed.loading s := by unfold GreenOk at h; exact h
  exact greenOk_of s _ (by simp) (greenFor_judgePress _ h')
@[simp] theorem greenOk_judgeStore (s : State) (h : GreenOk s) : GreenOk (State.judgeStore s) := by
  have h' : GreenFor s.feed.loading s := by unfold GreenOk at h; exact h
  exact greenOk_of s _ (by simp) (greenFor_judgeStore _ h')
@[simp] theorem greenOk_writeBurner (s : State) (k : Kiln) (h : GreenOk s) : GreenOk (State.writeBurner s k) := by
  have h' : GreenFor s.feed.loading s := by unfold GreenOk at h; exact h
  exact greenOk_of s _ (by simp) (greenFor_writeBurner _ _ h')
@[simp] theorem greenOk_holdKiln (s : State) (k : Kiln) (reason : HoldReason) (h : GreenOk s) : GreenOk (State.holdKiln s k reason) := by
  have h' : GreenFor s.feed.loading s := by unfold GreenOk at h; exact h
  exact greenOk_of s _ (by simp) (greenFor_holdKiln _ _ _ h')
@[simp] theorem greenOk_kilnAir (s : State) (k : Kiln) (value : Int) (h : GreenOk s) : GreenOk (State.kilnAir s k value) := by
  have h' : GreenFor s.feed.loading s := by unfold GreenOk at h; exact h
  exact greenOk_of s _ (by simp) (greenFor_kilnAir _ _ _ h')
@[simp] theorem greenOk_kilnExhaust (s : State) (k : Kiln) (value : Int) (h : GreenOk s) : GreenOk (State.kilnExhaust s k value) := by
  have h' : GreenFor s.feed.loading s := by unfold GreenOk at h; exact h
  exact greenOk_of s _ (by simp) (greenFor_kilnExhaust _ _ _ h')
@[simp] theorem greenOk_stepEnd (s : State) (k : Kiln) (h : GreenOk s) : GreenOk (State.stepEnd s k) := by
  have h' : GreenFor s.feed.loading s := by unfold GreenOk at h; exact h
  exact greenOk_of s _ (by simp) (greenFor_stepEnd _ _ h')
@[simp] theorem greenOk_rampMinute (s : State) (k : Kiln) (h : GreenOk s) : GreenOk (State.rampMinute s k) := by
  have h' : GreenFor s.feed.loading s := by unfold GreenOk at h; exact h
  exact greenOk_of s _ (by simp) (greenFor_rampMinute _ _ h')
@[simp] theorem greenOk_dryToOvertime (s : State) (k : Kiln) (h : GreenOk s) : GreenOk (State.dryToOvertime s k) := by
  have h' : GreenFor s.feed.loading s := by unfold GreenOk at h; exact h
  exact greenOk_of s _ (by simp) (greenFor_dryToOvertime _ _ h')
@[simp] theorem greenOk_abortCoolingEnd (s : State) (k : Kiln) (h : GreenOk s) : GreenOk (State.abortCoolingEnd s k) := by
  have h' : GreenFor s.feed.loading s := by unfold GreenOk at h; exact h
  exact greenOk_of s _ (by simp) (greenFor_abortCoolingEnd _ _ h')
@[simp] theorem greenOk_refreshExpiry (s : State) (k : Kiln) (h : GreenOk s) : GreenOk (State.refreshExpiry s k) := by
  have h' : GreenFor s.feed.loading s := by unfold GreenOk at h; exact h
  exact greenOk_of s _ (by simp) (greenFor_refreshExpiry _ _ h')
@[simp] theorem greenOk_performKilnStart (kiln : Byte) (s : State) (h : GreenOk s) : GreenOk (performKilnStart kiln s).state := by
  have h' : GreenFor s.feed.loading s := by unfold GreenOk at h; exact h
  exact greenOk_of s _ (by simp) (greenFor_performKilnStart _ _ h')
@[simp] theorem greenOk_performKilnHold (kiln : Byte) (s : State) (h : GreenOk s) : GreenOk (performKilnHold kiln s).state := by
  have h' : GreenFor s.feed.loading s := by unfold GreenOk at h; exact h
  exact greenOk_of s _ (by simp) (greenFor_performKilnHold _ _ h')
@[simp] theorem greenOk_performKilnResume (kiln mode : Byte) (s : State) (h : GreenOk s) : GreenOk (performKilnResume kiln mode s).state := by
  have h' : GreenFor s.feed.loading s := by unfold GreenOk at h; exact h
  exact greenOk_of s _ (by simp) (greenFor_performKilnResume _ _ _ h')
@[simp] theorem greenOk_performKilnAbort (kiln : Byte) (s : State) (h : GreenOk s) : GreenOk (performKilnAbort kiln s).state := by
  have h' : GreenFor s.feed.loading s := by unfold GreenOk at h; exact h
  exact greenOk_of s _ (by simp) (greenFor_performKilnAbort _ _ h')
@[simp] theorem greenOk_performKilnRead (kiln : Byte) (s : State) (h : GreenOk s) : GreenOk (performKilnRead kiln s).state := by
  have h' : GreenFor s.feed.loading s := by unfold GreenOk at h; exact h
  exact greenOk_of s _ (by simp) (greenFor_performKilnRead _ _ h')
@[simp] theorem greenOk_setPrint (s : State) (n : Nat) (p : PrintState) (h : GreenOk s) : GreenOk (State.setPrint s n p) := by
  have h' : GreenFor s.feed.loading s := by unfold GreenOk at h; exact h
  exact greenOk_of s _ (by simp) (greenFor_setPrint _ _ _ h')
@[simp] theorem greenOk_setProcess (s : State) (p : PrintProcess) (h : GreenOk s) : GreenOk (State.setProcess s p) := by
  have h' : GreenFor s.feed.loading s := by unfold GreenOk at h; exact h
  exact greenOk_of s _ (by simp) (greenFor_setProcess _ _ h')
@[simp] theorem greenOk_printScan (s : State) (h : GreenOk s) : GreenOk (State.printScan s) := by
  have h' : GreenFor s.feed.loading s := by unfold GreenOk at h; exact h
  exact greenOk_of s _ (by simp) (greenFor_printScan _ h')
@[simp] theorem greenOk_promptPrint (s : State) (h : GreenOk s) : GreenOk (State.promptPrint s) := by
  have h' : GreenFor s.feed.loading s := by unfold GreenOk at h; exact h
  exact greenOk_of s _ (by simp) (greenFor_promptPrint _ h')
@[simp] theorem greenOk_testComposition (s : State) (r : ChargeRef) (h : GreenOk s) : GreenOk (State.testComposition s r) := by
  have h' : GreenFor s.feed.loading s := by unfold GreenOk at h; exact h
  exact greenOk_of s _ (by simp) (greenFor_testComposition _ _ h')
@[simp] theorem greenOk_issueTicket (s : State) (r : ChargeRef) (t : Ticket) (h : GreenOk s) : GreenOk (State.issueTicket s r t) := by
  have h' : GreenFor s.feed.loading s := by unfold GreenOk at h; exact h
  exact greenOk_of s _ (by simp) (greenFor_issueTicket _ _ _ h')
@[simp] theorem greenOk_compose (s : State) (r : ChargeRef) (h : GreenOk s) : GreenOk (State.compose s r) := by
  have h' : GreenFor s.feed.loading s := by unfold GreenOk at h; exact h
  exact greenOk_of s _ (by simp) (greenFor_compose _ _ h')
@[simp] theorem greenOk_serveFuel (n : Nat) (s : State) (h : GreenOk s) : GreenOk (State.serveFuel n s) := by
  have h' : GreenFor s.feed.loading s := by unfold GreenOk at h; exact h
  exact greenOk_of s _ (by simp) (greenFor_serveFuel _ _ h')
@[simp] theorem greenOk_offerCharge (s : State) (r : ChargeRef) (h : GreenOk s) : GreenOk (State.offerCharge s r) := by
  have h' : GreenFor s.feed.loading s := by unfold GreenOk at h; exact h
  exact greenOk_of s _ (by simp) (greenFor_offerCharge _ _ h')
@[simp] theorem greenOk_performTicketBase (nextTicket nextBale : Word32) (s : State) (h : GreenOk s) : GreenOk (performTicketBase nextTicket nextBale s).state := by
  have h' : GreenFor s.feed.loading s := by unfold GreenOk at h; exact h
  exact greenOk_of s _ (by simp) (greenFor_performTicketBase _ _ _ h')
@[simp] theorem greenOk_performTicketRead (ticket : Word32) (s : State) (h : GreenOk s) : GreenOk (performTicketRead ticket s).state := by
  have h' : GreenFor s.feed.loading s := by unfold GreenOk at h; exact h
  exact greenOk_of s _ (by simp) (greenFor_performTicketRead _ _ h')
@[simp] theorem greenOk_takeTicket (s : State) (t : Ticket) (h : GreenOk s) : GreenOk (State.takeTicket s t) := by
  have h' : GreenFor s.feed.loading s := by unfold GreenOk at h; exact h
  exact greenOk_of s _ (by simp) (greenFor_takeTicket _ _ h')
@[simp] theorem greenOk_performTicketTake (ticket : Word32) (s : State) (h : GreenOk s) : GreenOk (performTicketTake ticket s).state := by
  have h' : GreenFor s.feed.loading s := by unfold GreenOk at h; exact h
  exact greenOk_of s _ (by simp) (greenFor_performTicketTake _ _ h')
@[simp] theorem greenOk_performTicketReprint (ticket : Word32) (s : State) (h : GreenOk s) : GreenOk (performTicketReprint ticket s).state := by
  have h' : GreenFor s.feed.loading s := by unfold GreenOk at h; exact h
  exact greenOk_of s _ (by simp) (greenFor_performTicketReprint _ _ h')
@[simp] theorem greenOk_raiseFeedHeld (s : State) (reason : Nat) (h : GreenOk s) : GreenOk (State.raiseFeedHeld s reason) := by
  have h' : GreenFor s.feed.loading s := by unfold GreenOk at h; exact h
  exact greenOk_of s _ (by simp) (greenFor_raiseFeedHeld _ _ h')
@[simp] theorem greenOk_judgeHeld (s : State) (before : FeedHold) (h : GreenOk s) : GreenOk (State.judgeHeld s before) := by
  have h' : GreenFor s.feed.loading s := by unfold GreenOk at h; exact h
  exact greenOk_of s _ (by simp) (greenFor_judgeHeld _ _ h')
@[simp] theorem greenOk_judgePicker (s : State) (h : GreenOk s) : GreenOk (State.judgePicker s) := by
  have h' : GreenFor s.feed.loading s := by unfold GreenOk at h; exact h
  exact greenOk_of s _ (by simp) (greenFor_judgePicker _ h')
@[simp] theorem greenOk_closeCharge (s : State) (k : Kiln) (h : GreenOk s) : GreenOk (State.closeCharge s k) := by
  have h' : GreenFor s.feed.loading s := by unfold GreenOk at h; exact h
  exact greenOk_of s _ (by simp) (greenFor_closeCharge _ _ h')
@[simp] theorem greenOk_divertWatchExpiry (s : State) (h : GreenOk s) : GreenOk (State.divertWatchExpiry s) := by
  have h' : GreenFor s.feed.loading s := by unfold GreenOk at h; exact h
  exact greenOk_of s _ (by simp) (greenFor_divertWatchExpiry _ h')
@[simp] theorem greenOk_divertReport (s : State) (target : Option Kiln) (h : GreenOk s) : GreenOk (State.divertReport s target) := by
  have h' : GreenFor s.feed.loading s := by unfold GreenOk at h; exact h
  exact greenOk_of s _ (by simp) (greenFor_divertReport _ _ h')
@[simp] theorem greenOk_fillBale (s : State) (b : Bale) (gross : Int) (h : GreenOk s) : GreenOk (State.fillBale s b gross) := by
  have h' : GreenFor s.feed.loading s := by unfold GreenOk at h; exact h
  exact greenOk_of s _ (by simp) (greenFor_fillBale _ _ _ h')
@[simp] theorem greenOk_captured (s : State) (weight : Int) (h : GreenOk s) : GreenOk (State.captured s weight) := by
  have h' : GreenFor s.feed.loading s := by unfold GreenOk at h; exact h
  exact greenOk_of s _ (by simp) (greenFor_captured _ _ h')
@[simp] theorem greenOk_notCaptured (s : State) (h : GreenOk s) : GreenOk (State.notCaptured s) := by
  have h' : GreenFor s.feed.loading s := by unfold GreenOk at h; exact h
  exact greenOk_of s _ (by simp) (greenFor_notCaptured _ h')
@[simp] theorem greenOk_updScale (s : State) (f : Scale → Scale) (h : GreenOk s) : GreenOk (State.updScale s f) := by
  have h' : GreenFor s.feed.loading s := by unfold GreenOk at h; exact h
  exact greenOk_of s _ (by simp) (greenFor_updScale _ _ h')
@[simp] theorem greenOk_judgeBlock (s : State) (h : GreenOk s) : GreenOk (State.judgeBlock s) := by
  have h' : GreenFor s.feed.loading s := by unfold GreenOk at h; exact h
  exact greenOk_of s _ (by simp) (greenFor_judgeBlock _ h')
@[simp] theorem greenOk_enterFault (s : State) (cause : FaultCause) (h : GreenOk s) : GreenOk (State.enterFault s cause) := by
  have h' : GreenFor s.feed.loading s := by unfold GreenOk at h; exact h
  exact greenOk_of s _ (by simp) (greenFor_enterFault _ _ h')
@[simp] theorem greenOk_faultCause (s : State) (cause : FaultCause) (h : GreenOk s) : GreenOk (State.faultCause s cause) := by
  have h' : GreenFor s.feed.loading s := by unfold GreenOk at h; exact h
  exact greenOk_of s _ (by simp) (greenFor_faultCause _ _ h')
@[simp] theorem greenOk_takeReading (s : State) (r : Int) (h : GreenOk s) : GreenOk (State.takeReading s r) := by
  have h' : GreenFor s.feed.loading s := by unfold GreenOk at h; exact h
  exact greenOk_of s _ (by simp) (greenFor_takeReading _ _ h')
@[simp] theorem greenOk_takeSample (s : State) (st : Byte) (sample : Int) (h : GreenOk s) : GreenOk (State.takeSample s st sample) := by
  have h' : GreenFor s.feed.loading s := by unfold GreenOk at h; exact h
  exact greenOk_of s _ (by simp) (greenFor_takeSample _ _ _ h')
@[simp] theorem greenOk_frameStart (s : State) (h : GreenOk s) : GreenOk (State.frameStart s) := by
  have h' : GreenFor s.feed.loading s := by unfold GreenOk at h; exact h
  exact greenOk_of s _ (by simp) (greenFor_frameStart _ h')
@[simp] theorem greenOk_frameComplete (s : State) (st : Byte) (sample : BitVec 24) (h : GreenOk s) : GreenOk (State.frameComplete s st sample) := by
  have h' : GreenFor s.feed.loading s := by unfold GreenOk at h; exact h
  exact greenOk_of s _ (by simp) (greenFor_frameComplete _ _ _ h')
@[simp] theorem greenOk_frameTorn (s : State) (h : GreenOk s) : GreenOk (State.frameTorn s) := by
  have h' : GreenFor s.feed.loading s := by unfold GreenOk at h; exact h
  exact greenOk_of s _ (by simp) (greenFor_frameTorn _ h')
@[simp] theorem greenOk_watchExpiry (s : State) (h : GreenOk s) : GreenOk (State.watchExpiry s) := by
  have h' : GreenFor s.feed.loading s := by unfold GreenOk at h; exact h
  exact greenOk_of s _ (by simp) (greenFor_watchExpiry _ h')
@[simp] theorem greenOk_settleTimeout (s : State) (h : GreenOk s) : GreenOk (State.settleTimeout s) := by
  have h' : GreenFor s.feed.loading s := by unfold GreenOk at h; exact h
  exact greenOk_of s _ (by simp) (greenFor_settleTimeout _ h')
@[simp] theorem greenOk_scaleOnScale (s : State) (h : GreenOk s) : GreenOk (State.scaleOnScale s) := by
  have h' : GreenFor s.feed.loading s := by unfold GreenOk at h; exact h
  exact greenOk_of s _ (by simp) (greenFor_scaleOnScale _ h')
@[simp] theorem greenOk_createBale (s : State) (k : Kiln) (r : ChargeRef) (value : Word32) (weighing : Bool) (h : GreenOk s) : GreenOk (State.createBale s k r value weighing) := by
  have h' : GreenFor s.feed.loading s := by unfold GreenOk at h; exact h
  exact greenOk_of s _ (by simp) (greenFor_createBale _ _ _ _ _ h')
@[simp] theorem greenOk_newCycle (s : State) (value : Word32) (weighing : Bool) (h : GreenOk s) : GreenOk (State.newCycle s value weighing) := by
  have h' : GreenFor s.feed.loading s := by unfold GreenOk at h; exact h
  exact greenOk_of s _ (by simp) (greenFor_newCycle _ _ _ h')
@[simp] theorem greenOk_onScale (s : State) (value : Word32) (h : GreenOk s) : GreenOk (State.onScale s value) := by
  have h' : GreenFor s.feed.loading s := by unfold GreenOk at h; exact h
  exact greenOk_of s _ (by simp) (greenFor_onScale _ _ h')
@[simp] theorem greenOk_offScale (s : State) (h : GreenOk s) : GreenOk (State.offScale s) := by
  have h' : GreenFor s.feed.loading s := by unfold GreenOk at h; exact h
  exact greenOk_of s _ (by simp) (greenFor_offScale _ h')
@[simp] theorem greenOk_moisture (s : State) (value : Word32) (h : GreenOk s) : GreenOk (State.moisture s value) := by
  have h' : GreenFor s.feed.loading s := by unfold GreenOk at h; exact h
  exact greenOk_of s _ (by simp) (greenFor_moisture _ _ h')
@[simp] theorem greenOk_advanceHead (s : State) (h : GreenOk s) : GreenOk (State.advanceHead s) := by
  have h' : GreenFor s.feed.loading s := by unfold GreenOk at h; exact h
  exact greenOk_of s _ (by simp) (greenFor_advanceHead _ h')
@[simp] theorem greenOk_performPressHold (flag : Byte) (s : State) (h : GreenOk s) : GreenOk (performPressHold flag s).state := by
  have h' : GreenFor s.feed.loading s := by unfold GreenOk at h; exact h
  exact greenOk_of s _ (by simp) (greenFor_performPressHold _ _ h')
@[simp] theorem greenOk_performBaleWeight (bale gross : Word32) (s : State) (h : GreenOk s) : GreenOk (performBaleWeight bale gross s).state := by
  have h' : GreenFor s.feed.loading s := by unfold GreenOk at h; exact h
  exact greenOk_of s _ (by simp) (greenFor_performBaleWeight _ _ _ h')
@[simp] theorem greenOk_performBaleRead (bale : Word32) (s : State) (h : GreenOk s) : GreenOk (performBaleRead bale s).state := by
  have h' : GreenFor s.feed.loading s := by unfold GreenOk at h; exact h
  exact greenOk_of s _ (by simp) (greenFor_performBaleRead _ _ h')
@[simp] theorem greenOk_performScaleRead (s : State) (h : GreenOk s) : GreenOk (performScaleRead s).state := by
  have h' : GreenFor s.feed.loading s := by unfold GreenOk at h; exact h
  exact greenOk_of s _ (by simp) (greenFor_performScaleRead _ h')
@[simp] theorem greenOk_performScaleZero (s : State) (h : GreenOk s) : GreenOk (performScaleZero s).state := by
  have h' : GreenFor s.feed.loading s := by unfold GreenOk at h; exact h
  exact greenOk_of s _ (by simp) (greenFor_performScaleZero _ h')
@[simp] theorem greenOk_performScaleCommand (word : Byte) (s : State) (h : GreenOk s) : GreenOk (performScaleCommand word s).state := by
  have h' : GreenFor s.feed.loading s := by unfold GreenOk at h; exact h
  exact greenOk_of s _ (by simp) (greenFor_performScaleCommand _ _ h')
@[simp] theorem greenOk_nodeAnswered (s : State) (i : NodeIdx) (h : GreenOk s) : GreenOk (State.nodeAnswered s i) := by
  have h' : GreenFor s.feed.loading s := by unfold GreenOk at h; exact h
  exact greenOk_of s _ (by simp) (greenFor_nodeAnswered _ _ h')
@[simp] theorem greenOk_reportAnswer (s : State) (i : NodeIdx) (h : GreenOk s) : GreenOk (State.reportAnswer s i) := by
  generalize e : (State.reportAnswer s i) = t
  unfold State.reportAnswer at e
  (try dsimp only at e)
  (repeat' split at e) <;> subst e <;> (try simp only [refuse_state, accept_state]) <;> (simp (config := {maxDischargeDepth := 60}) [greenOk_mk, h, (greenOk_def s).symm.trans (eq_true h)])
@[simp] theorem greenOk_holdBound (s : State) (n : Node) (reason : HoldReason) (h : GreenOk s) : GreenOk (State.holdBound s n reason) := by
  have h' : GreenFor s.feed.loading s := by unfold GreenOk at h; exact h
  exact greenOk_of s _ (by simp) (greenFor_holdBound _ _ _ h')
@[simp] theorem greenOk_reportLost (s : State) (n : Node) (h : GreenOk s) : GreenOk (State.reportLost s n) := by
  have h' : GreenFor s.feed.loading s := by unfold GreenOk at h; exact h
  exact greenOk_of s _ (by simp) (greenFor_reportLost _ _ h')
@[simp] theorem greenOk_nodeMissed (s : State) (i : NodeIdx) (h : GreenOk s) : GreenOk (State.nodeMissed s i) := by
  have h' : GreenFor s.feed.loading s := by unfold GreenOk at h; exact h
  exact greenOk_of s _ (by simp) (greenFor_nodeMissed _ _ h')
@[simp] theorem greenOk_missOn (s : State) (t : Transaction) (h : GreenOk s) : GreenOk (State.missOn s t) := by
  have h' : GreenFor s.feed.loading s := by unfold GreenOk at h; exact h
  exact greenOk_of s _ (by simp) (greenFor_missOn _ _ h')
@[simp] theorem greenOk_forward (s : State) (f : Frame) (h : GreenOk s) : GreenOk (State.forward s f) := by
  have h' : GreenFor s.feed.loading s := by unfold GreenOk at h; exact h
  exact greenOk_of s _ (by simp) (greenFor_forward _ _ h')
@[simp] theorem greenOk_applyRoute (s : State) (r : Route) (i : NodeIdx) (f : Frame) (h : GreenOk s) : GreenOk (State.applyRoute s r i f) := by
  generalize e : (State.applyRoute s r i f) = t
  unfold State.applyRoute at e
  (try dsimp only at e)
  (repeat' split at e) <;> subst e <;> (try simp only [refuse_state, accept_state]) <;> (simp (config := {maxDischargeDepth := 60}) [greenOk_mk, h, (greenOk_def s).symm.trans (eq_true h)])
@[simp] theorem greenOk_jobAction (s : State) (r : Route) (x : RouteIdx) (i : NodeIdx) (f : Frame) (h : GreenOk s) : GreenOk (State.jobAction s r x i f) := by
  generalize e : (State.jobAction s r x i f) = t
  unfold State.jobAction at e
  (try dsimp only at e)
  (repeat' split at e) <;> subst e <;> (try simp only [refuse_state, accept_state]) <;> (simp (config := {maxDischargeDepth := 60}) [greenOk_mk, h, (greenOk_def s).symm.trans (eq_true h)])
@[simp] theorem greenOk_copyIf (s : State) (c : Bool) (f : Frame) (h : GreenOk s) : GreenOk (State.copyIf s c f) := by
  have h' : GreenFor s.feed.loading s := by unfold GreenOk at h; exact h
  exact greenOk_of s _ (by simp) (greenFor_copyIf _ _ _ h')
@[simp] theorem greenOk_classify (s : State) (i : NodeIdx) (f : Frame) (h : GreenOk s) : GreenOk (State.classify s i f) := by
  generalize e : (State.classify s i f) = t
  unfold State.classify at e
  (try dsimp only at e)
  (repeat' split at e) <;> subst e <;> (try simp only [refuse_state, accept_state]) <;> (simp (config := {maxDischargeDepth := 60}) [greenOk_mk, h, (greenOk_def s).symm.trans (eq_true h)])
@[simp] theorem greenOk_endTransaction (s : State) (h : GreenOk s) : GreenOk (State.endTransaction s) := by
  have h' : GreenFor s.feed.loading s := by unfold GreenOk at h; exact h
  exact greenOk_of s _ (by simp) (greenFor_endTransaction _ h')
@[simp] theorem greenOk_countUnsolicited (s : State) (h : GreenOk s) : GreenOk (State.countUnsolicited s) := by
  have h' : GreenFor s.feed.loading s := by unfold GreenOk at h; exact h
  exact greenOk_of s _ (by simp) (greenFor_countUnsolicited _ h')
@[simp] theorem greenOk_pollAnswered (s : State) (i : NodeIdx) (f : Frame) (h : GreenOk s) : GreenOk (State.pollAnswered s i f) := by
  generalize e : (State.pollAnswered s i f) = t
  unfold State.pollAnswered at e
  (try dsimp only at e)
  (repeat' split at e) <;> subst e <;> (try simp only [refuse_state, accept_state]) <;> (simp (config := {maxDischargeDepth := 60}) [greenOk_mk, h, (greenOk_def s).symm.trans (eq_true h)])
@[simp] theorem greenOk_reportConfirmed (s : State) (c : Commanded) (h : GreenOk s) : GreenOk (State.reportConfirmed s c) := by simpa [greenOk_def] using h
@[simp] theorem greenOk_commandAnswered (s : State) (i : NodeIdx) (code : Byte) (f : Frame) (h : GreenOk s) : GreenOk (State.commandAnswered s i code f) := by simpa [greenOk_def] using h
@[simp] theorem greenOk_blockAnswered (s : State) (i : NodeIdx) (ticket : Nat) (f : Frame) (h : GreenOk s) : GreenOk (State.blockAnswered s i ticket f) := by
  have h' : GreenFor s.feed.loading s := by unfold GreenOk at h; exact h
  exact greenOk_of s _ (by simp) (greenFor_blockAnswered _ _ _ _ h')
@[simp] theorem greenOk_answerBody (s : State) (t : Transaction) (i : NodeIdx) (f : Frame) (h : GreenOk s) : GreenOk (State.answerBody s t i f) := by
  generalize e : (State.answerBody s t i f) = t
  unfold State.answerBody at e
  (try dsimp only at e)
  (repeat' split at e) <;> subst e <;> (try simp only [refuse_state, accept_state]) <;> (simp (config := {maxDischargeDepth := 60}) [greenOk_mk, h, (greenOk_def s).symm.trans (eq_true h)])
@[simp] theorem greenOk_answered (s : State) (t : Transaction) (f : Frame) (h : GreenOk s) : GreenOk (State.answered s t f) := by
  generalize e : (State.answered s t f) = t
  unfold State.answered at e
  (try dsimp only at e)
  (repeat' split at e) <;> subst e <;> (try simp only [refuse_state, accept_state]) <;> (simp (config := {maxDischargeDepth := 60}) [greenOk_mk, h, (greenOk_def s).symm.trans (eq_true h)])
@[simp] theorem greenOk_expired (s : State) (t : Transaction) (h : GreenOk s) : GreenOk (State.expired s t) := by
  have h' : GreenFor s.feed.loading s := by unfold GreenOk at h; exact h
  exact greenOk_of s _ (by simp) (greenFor_expired _ _ h')
@[simp] theorem greenOk_afterOther (s : State) (h : GreenOk s) : GreenOk (State.afterOther s) := by
  have h' : GreenFor s.feed.loading s := by unfold GreenOk at h; exact h
  exact greenOk_of s _ (by simp) (greenFor_afterOther _ h')
@[simp] theorem greenOk_offerFrame (s : State) (f : Frame) (h : GreenOk s) : GreenOk (State.offerFrame s f) := by
  generalize e : (State.offerFrame s f) = t
  unfold State.offerFrame at e
  (try dsimp only at e)
  (repeat' split at e) <;> subst e <;> (try simp only [refuse_state, accept_state]) <;> (simp (config := {maxDischargeDepth := 60}) [greenOk_mk, h, (greenOk_def s).symm.trans (eq_true h)])
@[simp] theorem greenOk_fieldArrival (s : State) (chars : List Byte) (h : GreenOk s) : GreenOk (State.fieldArrival s chars) := by
  unfold State.fieldArrival
  dsimp only
  have h' := (greenOk_def s) ▸ h
  split
  · split <;> simp (config := {maxDischargeDepth := 60}) [greenOk_mk, h']
  · exact h
@[simp] theorem greenOk_receptionStart (s : State) (h : GreenOk s) : GreenOk (State.receptionStart s) := by
  have h' : GreenFor s.feed.loading s := by unfold GreenOk at h; exact h
  exact greenOk_of s _ (by simp) (greenFor_receptionStart _ h')
@[simp] theorem greenOk_windowExpiry (s : State) (h : GreenOk s) : GreenOk (State.windowExpiry s) := by
  have h' : GreenFor s.feed.loading s := by unfold GreenOk at h; exact h
  exact greenOk_of s _ (by simp) (greenFor_windowExpiry _ h')
@[simp] theorem greenOk_guardEnd (s : State) (h : GreenOk s) : GreenOk (State.guardEnd s) := by
  have h' : GreenFor s.feed.loading s := by unfold GreenOk at h; exact h
  exact greenOk_of s _ (by simp) (greenFor_guardEnd _ h')
@[simp] theorem greenOk_transmitDone (s : State) (h : GreenOk s) : GreenOk (State.transmitDone s) := by
  have h' : GreenFor s.feed.loading s := by unfold GreenOk at h; exact h
  exact greenOk_of s _ (by simp) (greenFor_transmitDone _ h')
@[simp] theorem greenOk_openTransaction (s : State) (kind : TransactionKind) (address : Byte) (node : Option NodeIdx) (frames : List Frame) (window : Nat) (h : GreenOk s) : GreenOk (State.openTransaction s kind address node frames window) := by
  have h' : GreenFor s.feed.loading s := by unfold GreenOk at h; exact h
  exact greenOk_of s _ (by simp) (greenFor_openTransaction _ _ _ _ _ _ h')
@[simp] theorem greenOk_startCommand (s : State) (c : Command) (rest : List Command) (h : GreenOk s) : GreenOk (State.startCommand s c rest) := by
  have h' : GreenFor s.feed.loading s := by unfold GreenOk at h; exact h
  exact greenOk_of s _ (by simp) (greenFor_startCommand _ _ _ h')
@[simp] theorem greenOk_startBlock (s : State) (ticket : Nat) (h : GreenOk s) : GreenOk (State.startBlock s ticket) := by
  have h' : GreenFor s.feed.loading s := by unfold GreenOk at h; exact h
  exact greenOk_of s _ (by simp) (greenFor_startBlock _ _ h')
@[simp] theorem greenOk_startPass (s : State) (f : Frame) (rest : List Frame) (h : GreenOk s) : GreenOk (State.startPass s f rest) := by
  have h' : GreenFor s.feed.loading s := by unfold GreenOk at h; exact h
  exact greenOk_of s _ (by simp) (greenFor_startPass _ _ _ h')
@[simp] theorem greenOk_startPoll (s : State) (i : NodeIdx) (rest : List NodeIdx) (h : GreenOk s) : GreenOk (State.startPoll s i rest) := by
  have h' : GreenFor s.feed.loading s := by unfold GreenOk at h; exact h
  exact greenOk_of s _ (by simp) (greenFor_startPoll _ _ _ h')
@[simp] theorem greenOk_startSource (s : State) (c : FieldSource) (h : GreenOk s) : GreenOk (State.startSource s c) := by
  have h' : GreenFor s.feed.loading s := by unfold GreenOk at h; exact h
  exact greenOk_of s _ (by simp) (greenFor_startSource _ _ h')
@[simp] theorem greenOk_startTransaction (s : State) (h : GreenOk s) : GreenOk (State.startTransaction s) := by
  have h' : GreenFor s.feed.loading s := by unfold GreenOk at h; exact h
  exact greenOk_of s _ (by simp) (greenFor_startTransaction _ h')
@[simp] theorem greenOk_choosing (s : State) (c : Option FieldSource) (h : GreenOk s) : GreenOk (s.choosing c) := by
  simpa [greenOk_def] using h
@[simp] theorem greenOk_scheduleNode (c : CadenceId) (s : State) (i : NodeIdx) (h : GreenOk s) : GreenOk (State.scheduleNode c s i) := by
  have h' : GreenFor s.feed.loading s := by unfold GreenOk at h; exact h
  exact greenOk_of s _ (by simp) (greenFor_scheduleNode _ _ _ h')
@[simp] theorem greenOk_updCadence (s : State) (c : CadenceId) (f : Cadence → Cadence) (h : GreenOk s) : GreenOk (State.updCadence s c f) := by
  have h' : GreenFor s.feed.loading s := by unfold GreenOk at h; exact h
  exact greenOk_of s _ (by simp) (greenFor_updCadence _ _ _ h')
@[simp] theorem greenOk_cadenceExpiry (s : State) (c : CadenceId) (h : GreenOk s) : GreenOk (State.cadenceExpiry s c) := by
  have h' : GreenFor s.feed.loading s := by unfold GreenOk at h; exact h
  exact greenOk_of s _ (by simp) (greenFor_cadenceExpiry _ _ h')
@[simp] theorem greenOk_restartField (s : State) (h : GreenOk s) : GreenOk (State.restartField s) := by
  have h' : GreenFor s.feed.loading s := by unfold GreenOk at h; exact h
  exact greenOk_of s _ (by simp) (greenFor_restartField _ h')
@[simp] theorem greenOk_printerWritten (s : State) (before after : Option Role) (h : GreenOk s) : GreenOk (State.printerWritten s before after) := by
  have h' : GreenFor s.feed.loading s := by unfold GreenOk at h; exact h
  exact greenOk_of s _ (by simp) (greenFor_printerWritten _ _ _ h')
@[simp] theorem greenOk_writeNode (s : State) (i : NodeIdx) (g : NodeImage) (h : GreenOk s) : GreenOk (State.writeNode s i g) := by
  have h' : GreenFor s.feed.loading s := by unfold GreenOk at h; exact h
  exact greenOk_of s _ (by simp) (greenFor_writeNode _ _ _ h')
@[simp] theorem greenOk_performNodeWrite (index : Byte) (image : List Byte) (s : State) (h : GreenOk s) : GreenOk (performNodeWrite index image s).state := by
  have h' : GreenFor s.feed.loading s := by unfold GreenOk at h; exact h
  exact greenOk_of s _ (by simp) (greenFor_performNodeWrite _ _ _ h')
@[simp] theorem greenOk_performRouteWrite (index : Byte) (image : List Byte) (s : State) (h : GreenOk s) : GreenOk (performRouteWrite index image s).state := by
  have h' : GreenFor s.feed.loading s := by unfold GreenOk at h; exact h
  exact greenOk_of s _ (by simp) (greenFor_performRouteWrite _ _ _ h')
@[simp] theorem greenOk_performCadenceWrite (index : Byte) (image : List Byte) (s : State) (h : GreenOk s) : GreenOk (performCadenceWrite index image s).state := by
  have h' : GreenFor s.feed.loading s := by unfold GreenOk at h; exact h
  exact greenOk_of s _ (by simp) (greenFor_performCadenceWrite _ _ _ h')
@[simp] theorem greenOk_setKilnEntry (s : State) (k : Kiln) (e : KilnEntry) (h : GreenOk s) : GreenOk (State.setKilnEntry s k e) := by
  have h' : GreenFor s.feed.loading s := by unfold GreenOk at h; exact h
  exact greenOk_of s _ (by simp) (greenFor_setKilnEntry _ _ _ h')
@[simp] theorem greenOk_performScheduleWrite (index : Byte) (image : List Byte) (s : State) (h : GreenOk s) : GreenOk (performScheduleWrite index image s).state := by
  have h' : GreenFor s.feed.loading s := by unfold GreenOk at h; exact h
  exact greenOk_of s _ (by simp) (greenFor_performScheduleWrite _ _ _ h')
@[simp] theorem greenOk_performStepWrite (index : Byte) (image : List Byte) (s : State) (h : GreenOk s) : GreenOk (performStepWrite index image s).state := by
  have h' : GreenFor s.feed.loading s := by unfold GreenOk at h; exact h
  exact greenOk_of s _ (by simp) (greenFor_performStepWrite _ _ _ h')
@[simp] theorem greenOk_performVarietyWrite (index : Byte) (image : List Byte) (s : State) (h : GreenOk s) : GreenOk (performVarietyWrite index image s).state := by
  have h' : GreenFor s.feed.loading s := by unfold GreenOk at h; exact h
  exact greenOk_of s _ (by simp) (greenFor_performVarietyWrite _ _ _ h')
@[simp] theorem greenOk_performTareWrite (index : Byte) (image : List Byte) (s : State) (h : GreenOk s) : GreenOk (performTareWrite index image s).state := by
  have h' : GreenFor s.feed.loading s := by unfold GreenOk at h; exact h
  exact greenOk_of s _ (by simp) (greenFor_performTareWrite _ _ _ h')
@[simp] theorem greenOk_performScaleSetupWrite (index : Byte) (image : List Byte) (s : State) (h : GreenOk s) : GreenOk (performScaleSetupWrite index image s).state := by
  have h' : GreenFor s.feed.loading s := by unfold GreenOk at h; exact h
  exact greenOk_of s _ (by simp) (greenFor_performScaleSetupWrite _ _ _ h')
@[simp] theorem greenOk_performStationWrite (index : Byte) (image : List Byte) (s : State) (h : GreenOk s) : GreenOk (performStationWrite index image s).state := by
  have h' : GreenFor s.feed.loading s := by unfold GreenOk at h; exact h
  exact greenOk_of s _ (by simp) (greenFor_performStationWrite _ _ _ h')
@[simp] theorem greenOk_performTableRead (table index part : Byte) (s : State) (h : GreenOk s) : GreenOk (performTableRead table index part s).state := by
  have h' : GreenFor s.feed.loading s := by unfold GreenOk at h; exact h
  exact greenOk_of s _ (by simp) (greenFor_performTableRead _ _ _ _ h')
@[simp] theorem greenOk_performTableWrite (table index : Byte) (image : List Byte) (s : State) (h : GreenOk s) : GreenOk (performTableWrite table index image s).state := by
  generalize e : (performTableWrite table index image s) = t
  unfold performTableWrite at e
  (try dsimp only at e)
  (repeat' split at e) <;> subst e <;> (try simp only [refuse_state, accept_state]) <;> (simp (config := {maxDischargeDepth := 60}) [greenOk_mk, h, (greenOk_def s).symm.trans (eq_true h)])
@[simp] theorem greenOk_performLotOpen (lot grower : Word16) (variety : Byte) (s : State) (h : GreenOk s) : GreenOk (performLotOpen lot grower variety s).state := by
  have h' : GreenFor s.feed.loading s := by unfold GreenOk at h; exact h
  exact greenOk_of s _ (by simp) (greenFor_performLotOpen _ _ _ _ h')
@[simp] theorem greenOk_performLotRead (lot : Word16) (item : Byte) (s : State) (h : GreenOk s) : GreenOk (performLotRead lot item s).state := by
  have h' : GreenFor s.feed.loading s := by unfold GreenOk at h; exact h
  exact greenOk_of s _ (by simp) (greenFor_performLotRead _ _ _ h')
@[simp] theorem greenOk_performLotVoid (lot : Word16) (s : State) (h : GreenOk s) : GreenOk (performLotVoid lot s).state := by
  have h' : GreenFor s.feed.loading s := by unfold GreenOk at h; exact h
  exact greenOk_of s _ (by simp) (greenFor_performLotVoid _ _ h')
@[simp] theorem greenOk_performLotClose (lot : Word16) (s : State) (h : GreenOk s) : GreenOk (performLotClose lot s).state := by
  have h' : GreenFor s.feed.loading s := by unfold GreenOk at h; exact h
  exact greenOk_of s _ (by simp) (greenFor_performLotClose _ _ h')
@[simp] theorem greenOk_clearCounts (s : State) (h : GreenOk s) : GreenOk (State.clearCounts s) := by
  have h' : GreenFor s.feed.loading s := by unfold GreenOk at h; exact h
  exact greenOk_of s _ (by simp) (greenFor_clearCounts _ h')
@[simp] theorem greenOk_performStatus (clear page : Byte) (s : State) (h : GreenOk s) : GreenOk (performStatus clear page s).state := by
  have h' : GreenFor s.feed.loading s := by unfold GreenOk at h; exact h
  exact greenOk_of s _ (by simp) (greenFor_performStatus _ _ _ h')
@[simp] theorem greenOk_performTimeSet (time : Word32) (s : State) (h : GreenOk s) : GreenOk (performTimeSet time s).state := by
  have h' : GreenFor s.feed.loading s := by unfold GreenOk at h; exact h
  exact greenOk_of s _ (by simp) (greenFor_performTimeSet _ _ h')
@[simp] theorem greenOk_secondPassed (s : State) (h : GreenOk s) : GreenOk (State.secondPassed s) := by
  have h' : GreenFor s.feed.loading s := by unfold GreenOk at h; exact h
  exact greenOk_of s _ (by simp) (greenFor_secondPassed _ h')
@[simp] theorem greenOk_restartStation (s : State) (h : GreenOk s) : GreenOk (State.restartStation s) := by
  unfold State.restartStation
  rw [greenOk_mk]
  refine ⟨by simp, by simp, by simp [Changeover.pending], by simp, ?_, by simp, by simp⟩
  intro k hk; simp at hk
@[simp] theorem greenOk_performRestart (scope : Byte) (s : State) (h : GreenOk s) : GreenOk (performRestart scope s).state := by
  generalize e : (performRestart scope s) = t
  unfold performRestart at e
  (try dsimp only at e)
  (repeat' split at e) <;> subst e <;> (try simp only [refuse_state, accept_state]) <;> (simp (config := {maxDischargeDepth := 60}) [greenOk_mk, h, (greenOk_def s).symm.trans (eq_true h)])
@[simp] theorem greenOk_performRequest (r : Request) (s : State) (h : GreenOk s) : GreenOk (performRequest r s).state := by
  generalize e : (performRequest r s) = t
  unfold performRequest at e
  (try dsimp only at e)
  (repeat' split at e) <;> subst e <;> (try simp only [refuse_state, accept_state]) <;> (simp (config := {maxDischargeDepth := 60}) [greenOk_mk, h, (greenOk_def s).symm.trans (eq_true h)])
@[simp] theorem greenOk_setReply (s : State) (payload : List Byte) (h : GreenOk s) : GreenOk (State.setReply s payload) := by
  have h' : GreenFor s.feed.loading s := by unfold GreenOk at h; exact h
  exact greenOk_of s _ (by simp) (greenFor_setReply _ _ h')
@[simp] theorem greenOk_performPayload (payload : List Byte) (s : State) (h : GreenOk s) : GreenOk (performPayload payload s).2.2.state := by
  unfold performPayload
  repeat' split
  all_goals simp [h]
@[simp] theorem greenOk_executeFrame (s : State) (f : Frame) (h : GreenOk s) : GreenOk (State.executeFrame s f) := by
  generalize e : (State.executeFrame s f) = t
  unfold State.executeFrame at e
  (try dsimp only at e)
  (repeat' split at e) <;> subst e <;> (try simp only [refuse_state, accept_state]) <;> (simp (config := {maxDischargeDepth := 60}) [greenOk_mk, h, (greenOk_def s).symm.trans (eq_true h)])
@[simp] theorem greenOk_executeHead (s : State) (h : GreenOk s) : GreenOk (State.executeHead s) := by
  generalize e : (State.executeHead s) = t
  unfold State.executeHead at e
  (try dsimp only at e)
  (repeat' split at e) <;> subst e <;> (try simp only [refuse_state, accept_state]) <;> (simp (config := {maxDischargeDepth := 60}) [greenOk_mk, h, (greenOk_def s).symm.trans (eq_true h)])
@[simp] theorem greenOk_admitRequest (s : State) (f : Frame) (h : GreenOk s) : GreenOk (State.admitRequest s f) := by
  generalize e : (State.admitRequest s f) = t
  unfold State.admitRequest at e
  (try dsimp only at e)
  (repeat' split at e) <;> subst e <;> (try simp only [refuse_state, accept_state]) <;> (simp (config := {maxDischargeDepth := 60}) [greenOk_mk, h, (greenOk_def s).symm.trans (eq_true h)])
@[simp] theorem greenOk_completeRequest (s : State) (h : GreenOk s) : GreenOk (State.completeRequest s) := by
  generalize e : (State.completeRequest s) = t
  unfold State.completeRequest at e
  (try dsimp only at e)
  (repeat' split at e) <;> subst e <;> (try simp only [refuse_state, accept_state]) <;> (simp (config := {maxDischargeDepth := 60}) [greenOk_mk, h, (greenOk_def s).symm.trans (eq_true h)])
@[simp] theorem greenOk_submit (tag : Byte) (r : Request) (s : State) (h : GreenOk s) : GreenOk (State.submit tag r s) := by
  generalize e : (State.submit tag r s) = t
  unfold State.submit at e
  (try dsimp only at e)
  (repeat' split at e) <;> subst e <;> (try simp only [refuse_state, accept_state]) <;> (simp (config := {maxDischargeDepth := 60}) [greenOk_mk, h, (greenOk_def s).symm.trans (eq_true h)])
@[simp] theorem greenOk_updLink (s : State) (f : Link → Link) (h : GreenOk s) : GreenOk (State.updLink s f) := by
  have h' : GreenFor s.feed.loading s := by unfold GreenOk at h; exact h
  exact greenOk_of s _ (by simp) (greenFor_updLink _ _ h')
@[simp] theorem greenOk_validArrival (s : State) (h : GreenOk s) : GreenOk (State.validArrival s) := by
  have h' : GreenFor s.feed.loading s := by unfold GreenOk at h; exact h
  exact greenOk_of s _ (by simp) (greenFor_validArrival _ h')
@[simp] theorem greenOk_linkSilent (s : State) (h : GreenOk s) : GreenOk (State.linkSilent s) := by
  have h' : GreenFor s.feed.loading s := by unfold GreenOk at h; exact h
  exact greenOk_of s _ (by simp) (greenFor_linkSilent _ h')
@[simp] theorem greenOk_offerPass (s : State) (f : Frame) (h : GreenOk s) : GreenOk (State.offerPass s f) := by
  have h' : GreenFor s.feed.loading s := by unfold GreenOk at h; exact h
  exact greenOk_of s _ (by simp) (greenFor_offerPass _ _ h')
@[simp] theorem greenOk_classifyUpstream (s : State) (f : Frame) (h : GreenOk s) : GreenOk (State.classifyUpstream s f) := by
  generalize e : (State.classifyUpstream s f) = t
  unfold State.classifyUpstream at e
  (try dsimp only at e)
  (repeat' split at e) <;> subst e <;> (try simp only [refuse_state, accept_state]) <;> (simp (config := {maxDischargeDepth := 60}) [greenOk_mk, h, (greenOk_def s).symm.trans (eq_true h)])
@[simp] theorem greenOk_upstreamArrival (s : State) (chars : List Byte) (h : GreenOk s) : GreenOk (State.upstreamArrival s chars) := by
  generalize e : (State.upstreamArrival s chars) = t
  unfold State.upstreamArrival at e
  (try dsimp only at e)
  (repeat' split at e) <;> subst e <;> (try simp only [refuse_state, accept_state]) <;> (simp (config := {maxDischargeDepth := 60}) [greenOk_mk, h, (greenOk_def s).symm.trans (eq_true h)])
@[simp] theorem greenOk_idleGap (s : State) (port : Port) (h : GreenOk s) : GreenOk (State.idleGap s port) := by
  have h' : GreenFor s.feed.loading s := by unfold GreenOk at h; exact h
  exact greenOk_of s _ (by simp) (greenFor_idleGap _ _ h')
@[simp] theorem greenOk_startUpstream (s : State) (t : UpTransmit) (h : GreenOk s) : GreenOk (State.startUpstream s t) := by
  have h' : GreenFor s.feed.loading s := by unfold GreenOk at h; exact h
  exact greenOk_of s _ (by simp) (greenFor_startUpstream _ _ h')
@[simp] theorem greenOk_upstreamTransmit (s : State) (h : GreenOk s) : GreenOk (State.upstreamTransmit s) := by
  have h' : GreenFor s.feed.loading s := by unfold GreenOk at h; exact h
  exact greenOk_of s _ (by simp) (greenFor_upstreamTransmit _ h')
@[simp] theorem greenOk_replySent (s : State) (h : GreenOk s) : GreenOk (State.replySent s) := by
  generalize e : (State.replySent s) = t
  unfold State.replySent at e
  (try dsimp only at e)
  (repeat' split at e) <;> subst e <;> (try simp only [refuse_state, accept_state]) <;> (simp (config := {maxDischargeDepth := 60}) [greenOk_mk, h, (greenOk_def s).symm.trans (eq_true h)])
@[simp] theorem greenOk_segmentSent (s : State) (h : GreenOk s) : GreenOk (State.segmentSent s) := by
  generalize e : (State.segmentSent s) = t
  unfold State.segmentSent at e
  (try dsimp only at e)
  (repeat' split at e) <;> subst e <;> (try simp only [refuse_state, accept_state]) <;> (simp (config := {maxDischargeDepth := 60}) [greenOk_mk, h, (greenOk_def s).symm.trans (eq_true h)])
@[simp] theorem greenOk_upstreamFrameSent (s : State) (h : GreenOk s) : GreenOk (State.upstreamFrameSent s) := by
  generalize e : (State.upstreamFrameSent s) = t
  unfold State.upstreamFrameSent at e
  (try dsimp only at e)
  (repeat' split at e) <;> subst e <;> (try simp only [refuse_state, accept_state]) <;> (simp (config := {maxDischargeDepth := 60}) [greenOk_mk, h, (greenOk_def s).symm.trans (eq_true h)])
theorem greenOk_pend (s : State) (p) (h : GreenOk s) : GreenOk { s with pending := p } := by rw [greenOk_mk]; rw [greenOk_def] at h; exact h
theorem greenOk_started (s : State) (a b c) : GreenOk (s.started a b c) := by
  unfold State.started; rw [greenOk_mk]; refine ⟨by simp [State.reset], by simp [State.reset], by simp [State.reset, Changeover.pending], by simp [State.reset], ?_, by simp [State.reset], by simp [State.reset]⟩
  intro k hk; simp [State.reset] at hk
theorem greenOk_inactive (s : State) (p) : GreenOk (s.inactive p) := by
  unfold State.inactive; rw [greenOk_mk]; refine ⟨by simp [State.reset], by simp [State.reset], by simp [State.reset, Changeover.pending], by simp [State.reset], ?_, by simp [State.reset], by simp [State.reset]⟩
  intro k hk; simp [State.reset] at hk
theorem greenOk_powerOn (s : State) (a b c) (h : GreenOk s) : GreenOk (s.powerOn a b c) := by
  unfold State.powerOn; split
  · exact greenOk_inactive _ _
  · exact greenOk_started _ _ _ _
theorem greenOk_resetRelease (s : State) (a b c) (h : GreenOk s) : GreenOk (s.resetRelease a b c) := by
  unfold State.resetRelease; split
  · exact greenOk_started _ _ _ _
  · rw [greenOk_mk]; rw [greenOk_def] at h; exact h
theorem greenOk_powerFail (s : State) (h : GreenOk s) : GreenOk s.powerFail := greenOk_inactive _ _
theorem greenOk_resetAssert (s : State) (h : GreenOk s) : GreenOk s.resetAssert := by
  unfold State.resetAssert; rw [greenOk_mk]; rw [greenOk_def] at h; exact h
theorem greenOk_ticked (s : State) (h : GreenOk s) : GreenOk s.ticked := by
  unfold State.ticked; rw [greenOk_mk]; rw [greenOk_def] at h; obtain ⟨a,b1,c,d,e,q1,q2⟩ := h
  have hr : ∀ k : Kiln, (s.kilns.run.map KilnRun.tick)[k].state = s.kilns.run[k].state ∧ (s.kilns.run.map KilnRun.tick)[k].charge = s.kilns.run[k].charge := by
    intro k
    have : (s.kilns.run.map KilnRun.tick)[k] = (s.kilns.run[k]).tick := by simp
    rw [this]
    unfold KilnRun.tick KilnRun.tickTotal KilnRun.tickStep
    dsimp only
    repeat' split
    all_goals exact ⟨rfl, rfl⟩
  refine ⟨a, b1, c, ?_, ?_, ?_, q2⟩
  · intro k hk
    obtain ⟨h1, r, h2, h3⟩ := d k hk
    exact ⟨(hr k).1.trans h1, r, (hr k).2.trans h2, h3⟩
  · intro k hk; exact e k ((hr k).1.symm.trans hk)
  · intro k hk
    have := q1 k hk
    simp only [KilnRun.Queued] at *
    rw [(hr k).1]; exact this


end Sys2Proof.Laws.Green
end

