-- ==== Sys2Proof/Laws/KeptNumbering.lean ====
section
/-! SUPPORT. Every operation keeps the numbering of bales and tickets (R127, R141, R149). -/

namespace Sys2Proof.Laws.Numbering

set_option linter.all false
set_option maxHeartbeats 1000000

open Sys2Proof Sys2Proof.Machine

/-- The numbering law on the numbers alone. -/
structure NumbersOk (bs : List Nat) (ts : List Nat) (nt : Nat) (lt : Option Nat) (nb : Nat) (lb : Option Nat) : Prop where
  balesAscend : bs.Pairwise (· < ·)
  balesUsed : ∀ b ∈ bs, ∃ m, lb = some m ∧ b ≤ m
  baleNext : ∀ m, lb = some m → m < nb
  ticketsConsecutive : ∀ i (h : i < ts.length), ts[i] + (ts.length - i) = nt
  ticketNext : ∀ m, lt = some m → m < nt
def baleNumbers (bs : List Bale) : List Nat := bs.map (fun b => b.number)
def ticketNumbers (ts : List Ticket) : List Nat := ts.map (fun b => b.number)
/-- The numbering law of the state. -/
@[irreducible] def NumberingOk (s : State) : Prop := NumbersOk (baleNumbers s.press.bales) (ticketNumbers s.tickets.queue) s.tickets.nextTicket s.tickets.lastTicket s.tickets.nextBale s.tickets.lastBale
theorem numberingOk_def (s : State) : NumberingOk s = NumbersOk (baleNumbers s.press.bales) (ticketNumbers s.tickets.queue) s.tickets.nextTicket s.tickets.lastTicket s.tickets.nextBale s.tickets.lastBale := by unfold NumberingOk; rfl
theorem numberingOk_mk (a b c d e f g h i j k l) : NumberingOk (State.mk a b c d e f g h i j k l) = NumbersOk (baleNumbers j.bales) (ticketNumbers k.queue) k.nextTicket k.lastTicket k.nextBale k.lastBale := by unfold NumberingOk; rfl
theorem baleNumbers_map (bs : List Bale) (g : Bale → Bale) (hg : ∀ b ∈ bs, (g b).number = b.number) : baleNumbers (bs.map g) = baleNumbers bs := by
  simp only [baleNumbers, List.map_map]; exact List.map_congr_left (fun b hb => hg b hb)
theorem ticketNumbers_map (bs : List Ticket) (g : Ticket → Ticket) (hg : ∀ b ∈ bs, (g b).number = b.number) : ticketNumbers (bs.map g) = ticketNumbers bs := by
  simp only [ticketNumbers, List.map_map]; exact List.map_congr_left (fun b hb => hg b hb)
theorem numberingOk_updBaleOf (s : State) (n : Nat) (f : Bale → Bale) (h : NumberingOk s) (hf : ∀ b, (f b).number = b.number) : NumberingOk (s.updBale n f) := by
  simp only [numberingOk_def] at *
  simp only [updBale_bales, updBale_frame]
  rw [baleNumbers_map]; exact h
  intro b _; split <;> simp [hf]
@[simp] theorem numberingOk_raiseOpt (s : State) (k : NoticeKind) (o : Nat) (v : Option Word32) (h : NumberingOk s) : NumberingOk (State.raiseOpt s k o v) := by simpa [numberingOk_def] using h
@[simp] theorem numberingOk_raise (s : State) (k : NoticeKind) (o : Nat) (v : Int) (h : NumberingOk s) : NumberingOk (State.raise s k o v) := by simpa [numberingOk_def] using h
@[simp] theorem numberingOk_updLot (s : State) (n : Nat) (f : Lot → Lot) (h : NumberingOk s) : NumberingOk (State.updLot s n f) := by simpa [numberingOk_def] using h
@[simp] theorem numberingOk_updCharge (s : State) (r : ChargeRef) (f : Charge → Charge) (h : NumberingOk s) : NumberingOk (State.updCharge s r f) := by simpa [numberingOk_def] using h
@[simp] theorem numberingOk_removeLot (s : State) (n : Nat) (h : NumberingOk s) : NumberingOk (State.removeLot s n) := by simpa [numberingOk_def] using h
@[simp] theorem numberingOk_setNode (s : State) (i : NodeIdx) (n : Node) (h : NumberingOk s) : NumberingOk (State.setNode s i n) := by simpa [numberingOk_def] using h
@[simp] theorem numberingOk_placeCommand (s : State) (i : NodeIdx) (c : Commanded) (h : NumberingOk s) : NumberingOk (State.placeCommand s i c) := by simpa [numberingOk_def] using h
@[simp] theorem numberingOk_writeCommanded (s : State) (i : Option NodeIdx) (c : Commanded) (h : NumberingOk s) : NumberingOk (State.writeCommanded s i c) := by simpa [numberingOk_def] using h
@[simp] theorem numberingOk_clearCommanded (s : State) (i : Option NodeIdx) (h : NumberingOk s) : NumberingOk (State.clearCommanded s i) := by simpa [numberingOk_def] using h
@[simp] theorem numberingOk_updKiln (s : State) (k : Kiln) (f : KilnRun → KilnRun) (h : NumberingOk s) : NumberingOk (State.updKiln s k f) := by simpa [numberingOk_def] using h
@[simp] theorem numberingOk_updKilnCharge (s : State) (k : Kiln) (f : Charge → Charge) (h : NumberingOk s) : NumberingOk (State.updKilnCharge s k f) := by simpa [numberingOk_def] using h
@[simp] theorem numberingOk_judgePress (s : State) (h : NumberingOk s) : NumberingOk (State.judgePress s) := by simpa [numberingOk_def] using h
@[simp] theorem numberingOk_judgeStore (s : State) (h : NumberingOk s) : NumberingOk (State.judgeStore s) := by simpa [numberingOk_def] using h
@[simp] theorem numberingOk_becomeHead (s : State) (k : Kiln) (h : NumberingOk s) : NumberingOk (State.becomeHead s k) := by simpa [numberingOk_def] using h
@[simp] theorem numberingOk_joinPressQueue (s : State) (k : Kiln) (h : NumberingOk s) : NumberingOk (State.joinPressQueue s k) := by simpa [numberingOk_def] using h
@[simp] theorem numberingOk_writeBurner (s : State) (k : Kiln) (h : NumberingOk s) : NumberingOk (State.writeBurner s k) := by simpa [numberingOk_def] using h
@[simp] theorem numberingOk_kilnDried (s : State) (k : Kiln) (h : NumberingOk s) : NumberingOk (State.kilnDried s k) := by simpa [numberingOk_def] using h
@[simp] theorem numberingOk_enterStep (s : State) (k : Kiln) (h : NumberingOk s) : NumberingOk (State.enterStep s k) := by simpa [numberingOk_def] using h
@[simp] theorem numberingOk_nextStep (s : State) (k : Kiln) (h : NumberingOk s) : NumberingOk (State.nextStep s k) := by simpa [numberingOk_def] using h
@[simp] theorem numberingOk_holdKiln (s : State) (k : Kiln) (reason : HoldReason) (h : NumberingOk s) : NumberingOk (State.holdKiln s k reason) := by simpa [numberingOk_def] using h
@[simp] theorem numberingOk_kilnAir (s : State) (k : Kiln) (value : Int) (h : NumberingOk s) : NumberingOk (State.kilnAir s k value) := by simpa [numberingOk_def] using h
@[simp] theorem numberingOk_kilnExhaust (s : State) (k : Kiln) (value : Int) (h : NumberingOk s) : NumberingOk (State.kilnExhaust s k value) := by simpa [numberingOk_def] using h
@[simp] theorem numberingOk_startRun (s : State) (k : Kiln) (d : Fin 8) (h : NumberingOk s) : NumberingOk (State.startRun s k d) := by simpa [numberingOk_def] using h
@[simp] theorem numberingOk_autoStart (s : State) (k : Kiln) (h : NumberingOk s) : NumberingOk (State.autoStart s k) := by simpa [numberingOk_def] using h
@[simp] theorem numberingOk_kilnLoaded (s : State) (k : Kiln) (h : NumberingOk s) : NumberingOk (State.kilnLoaded s k) := by simpa [numberingOk_def] using h
@[simp] theorem numberingOk_kilnEmptied (s : State) (k : Kiln) (h : NumberingOk s) : NumberingOk (State.kilnEmptied s k) := by simpa [numberingOk_def] using h
@[simp] theorem numberingOk_stepEnd (s : State) (k : Kiln) (h : NumberingOk s) : NumberingOk (State.stepEnd s k) := by simpa [numberingOk_def] using h
@[simp] theorem numberingOk_rampMinute (s : State) (k : Kiln) (h : NumberingOk s) : NumberingOk (State.rampMinute s k) := by simpa [numberingOk_def] using h
@[simp] theorem numberingOk_dryToOvertime (s : State) (k : Kiln) (h : NumberingOk s) : NumberingOk (State.dryToOvertime s k) := by simpa [numberingOk_def] using h
@[simp] theorem numberingOk_abortCoolingEnd (s : State) (k : Kiln) (h : NumberingOk s) : NumberingOk (State.abortCoolingEnd s k) := by simpa [numberingOk_def] using h
@[simp] theorem numberingOk_refreshExpiry (s : State) (k : Kiln) (h : NumberingOk s) : NumberingOk (State.refreshExpiry s k) := by simpa [numberingOk_def] using h
@[simp] theorem numberingOk_performKilnStart (kiln : Byte) (s : State) (h : NumberingOk s) : NumberingOk (performKilnStart kiln s).state := by simpa [numberingOk_def] using h
@[simp] theorem numberingOk_performKilnHold (kiln : Byte) (s : State) (h : NumberingOk s) : NumberingOk (performKilnHold kiln s).state := by simpa [numberingOk_def] using h
@[simp] theorem numberingOk_resume (s : State) (k : Kiln) (m : ResumeMode) (h : NumberingOk s) : NumberingOk (State.resume s k m) := by simpa [numberingOk_def] using h
@[simp] theorem numberingOk_performKilnResume (kiln mode : Byte) (s : State) (h : NumberingOk s) : NumberingOk (performKilnResume kiln mode s).state := by simpa [numberingOk_def] using h
@[simp] theorem numberingOk_abort (s : State) (k : Kiln) (h : NumberingOk s) : NumberingOk (State.abort s k) := by simpa [numberingOk_def] using h
@[simp] theorem numberingOk_performKilnAbort (kiln : Byte) (s : State) (h : NumberingOk s) : NumberingOk (performKilnAbort kiln s).state := by simpa [numberingOk_def] using h
@[simp] theorem numberingOk_performKilnRead (kiln : Byte) (s : State) (h : NumberingOk s) : NumberingOk (performKilnRead kiln s).state := by simpa [numberingOk_def] using h
@[simp] theorem numberingOk_setPrint (s : State) (n : Nat) (p : PrintState) (h : NumberingOk s) : NumberingOk (State.setPrint s n p) := by
  simp only [numberingOk_def] at *
  simp only [setPrint_queue, setPrint_frame]
  rw [ticketNumbers_map]; exact h
  intro b _; split <;> simp
@[simp] theorem numberingOk_setProcess (s : State) (p : PrintProcess) (h : NumberingOk s) : NumberingOk (State.setProcess s p) := by simpa [numberingOk_def] using h
@[simp] theorem numberingOk_printScan (s : State) (h : NumberingOk s) : NumberingOk (State.printScan s) := by
  have k : ∀ n, NumberingOk ((s.setPrint n .printing).setProcess .sending) := fun n => numberingOk_setProcess _ _ (numberingOk_setPrint _ _ _ h)
  unfold State.printScan
  dsimp only
  (repeat' split)
  · exact numberingOk_setProcess _ _ h
  · exact numberingOk_setProcess _ _ h
  · exact numberingOk_setProcess _ _ h
  · have := k; simp only [numberingOk_mk]; simp only [numberingOk_def] at this; exact this _
@[simp] theorem numberingOk_promptPrint (s : State) (h : NumberingOk s) : NumberingOk (State.promptPrint s) := by
  generalize e : (State.promptPrint s) = t
  unfold State.promptPrint at e
  (try dsimp only at e)
  (repeat' split at e) <;> subst e <;> (try simp only [refuse_state, accept_state]) <;> (simp (config := {maxDischargeDepth := 60}) [numberingOk_mk, h, (numberingOk_def s).symm.trans (eq_true h)])
@[simp] theorem numberingOk_testComposition (s : State) (r : ChargeRef) (h : NumberingOk s) : NumberingOk (State.testComposition s r) := by simpa [numberingOk_def] using h
@[simp] theorem numberingOk_issueTicket (s : State) (r : ChargeRef) (t : Ticket) (ht : t.number = s.tickets.nextTicket) (h : NumberingOk s) : NumberingOk (State.issueTicket s r t) := by
  unfold State.issueTicket
  dsimp only
  apply numberingOk_promptPrint; apply numberingOk_raise; apply numberingOk_updCharge; apply numberingOk_updLot
  simp only [numberingOk_mk]
  simp only [numberingOk_def] at h
  obtain ⟨a,b,c,d,e⟩ := h
  rw [baleNumbers_map _ _ (by intro b _; split <;> rfl)]
  refine ⟨a, b, c, ?_, ?_⟩
  · intro i hi
    simp only [ticketNumbers, List.map_append, List.map_cons, List.map_nil, List.length_append, List.length_map, List.length_cons, List.length_nil] at *
    by_cases hl : i < s.tickets.queue.length
    · have := d i hl
      simp only [List.getElem_append, List.length_map, hl, dite_true]
      omega
    · have hll : (ticketNumbers (s.tickets.queue ++ [t])).length = s.tickets.queue.length + 1 := by simp [ticketNumbers]
      have : i = s.tickets.queue.length := by omega
      subst this
      simp [ht]
  · intro m hm; simp at hm; omega
@[simp] theorem numberingOk_compose (s : State) (r : ChargeRef) (h : NumberingOk s) : NumberingOk (State.compose s r) := by
  unfold State.compose
  (repeat' split) <;> (try exact h)
  dsimp only
  split
  · exact h
  · exact numberingOk_testComposition _ _ (numberingOk_issueTicket _ _ _ rfl h)
@[simp] theorem numberingOk_serveFuel (n : Nat) (s : State) (h : NumberingOk s) : NumberingOk (State.serveFuel n s) := by
  induction n generalizing s with
  | zero => simpa [State.serveFuel]
  | succ n ih =>
    unfold State.serveFuel
    split
    · exact h
    · split
      · apply ih; apply numberingOk_compose
        simpa [numberingOk_def] using h
      · exact h
@[simp] theorem numberingOk_serve (s : State) (h : NumberingOk s) : NumberingOk (State.serve s) := by
  generalize e : (State.serve s) = t
  unfold State.serve at e
  (try dsimp only at e)
  (repeat' split at e) <;> subst e <;> (try simp only [refuse_state, accept_state]) <;> (simp (config := {maxDischargeDepth := 60}) [numberingOk_mk, h, (numberingOk_def s).symm.trans (eq_true h)])
@[simp] theorem numberingOk_offerCharge (s : State) (r : ChargeRef) (h : NumberingOk s) : NumberingOk (State.offerCharge s r) := by
  generalize e : (State.offerCharge s r) = t
  unfold State.offerCharge at e
  (try dsimp only at e)
  (repeat' split at e) <;> subst e <;> (try simp only [refuse_state, accept_state]) <;> (simp (config := {maxDischargeDepth := 60}) [numberingOk_mk, h, (numberingOk_def s).symm.trans (eq_true h)])
@[simp] theorem numberingOk_performTicketBase (nextTicket nextBale : Word32) (s : State) (h : NumberingOk s) : NumberingOk (performTicketBase nextTicket nextBale s).state := by
  unfold performTicketBase
  dsimp only
  (repeat' split) <;> (try exact h)
  rename_i h1 h2 h3 h4
  simp only [accept_state, numberingOk_mk]
  simp only [numberingOk_def] at h
  obtain ⟨a,b,c,d,e⟩ := h
  simp at h2
  refine ⟨a, b, ?_, ?_, ?_⟩
  · intro m hm
    simp [hm] at h4; exact h4
  · intro i hi; simp [ticketNumbers, h2.1] at hi
  · intro m hm
    simp [hm] at h3; exact h3
@[simp] theorem numberingOk_performTicketRead (ticket : Word32) (s : State) (h : NumberingOk s) : NumberingOk (performTicketRead ticket s).state := by simpa [numberingOk_def] using h

/-- The oldest ticket and its bales leave. -/
theorem numberingOk_removed (s : State) (t : Ticket) (h : NumberingOk s) : NumberingOk { s with tickets := { s.tickets with queue := s.tickets.queue.tail }, press := { s.press with
    bales := s.press.bales.filter (fun (b : Bale) => !t.lists b.number) } } := by
  simp only [numberingOk_mk]
  simp only [numberingOk_def] at h
  obtain ⟨a,b,c,d,e⟩ := h
  refine ⟨?_, ?_, c, ?_, e⟩
  · exact a.sublist ((List.filter_sublist).map _)
  · intro x hx
    apply b
    simp only [baleNumbers, List.mem_map, List.mem_filter] at *
    obtain ⟨y, hy, rfl⟩ := hx
    exact ⟨y, hy.1, rfl⟩
  · intro i hi
    have hi' : i + 1 < (ticketNumbers s.tickets.queue).length := by
      simp [ticketNumbers] at *; omega
    have := d (i+1) hi'
    simp [ticketNumbers] at *
    omega
@[simp] theorem numberingOk_takeTicket (s : State) (t : Ticket) (h : NumberingOk s) : NumberingOk (State.takeTicket s t) := by
  have h0 := numberingOk_removed s t h
  unfold State.takeTicket
  dsimp only
  apply numberingOk_serve; apply numberingOk_judgeStore
  split
  · apply numberingOk_updCharge; apply numberingOk_updLot; simpa [numberingOk_def] using h0
  · apply numberingOk_updLot; simpa [numberingOk_def] using h0
@[simp] theorem numberingOk_performTicketTake (ticket : Word32) (s : State) (h : NumberingOk s) : NumberingOk (performTicketTake ticket s).state := by
  generalize e : (performTicketTake ticket s) = t
  unfold performTicketTake at e
  (try dsimp only at e)
  (repeat' split at e) <;> subst e <;> (try simp only [refuse_state, accept_state]) <;> (simp (config := {maxDischargeDepth := 60}) [numberingOk_mk, h, (numberingOk_def s).symm.trans (eq_true h)])
@[simp] theorem numberingOk_performTicketReprint (ticket : Word32) (s : State) (h : NumberingOk s) : NumberingOk (performTicketReprint ticket s).state := by
  generalize e : (performTicketReprint ticket s) = t
  unfold performTicketReprint at e
  (try dsimp only at e)
  (repeat' split at e) <;> subst e <;> (try simp only [refuse_state, accept_state]) <;> (simp (config := {maxDischargeDepth := 60}) [numberingOk_mk, h, (numberingOk_def s).symm.trans (eq_true h)])
@[simp] theorem numberingOk_updFeed (s : State) (f : Feed → Feed) (h : NumberingOk s) : NumberingOk (State.updFeed s f) := by simpa [numberingOk_def] using h
@[simp] theorem numberingOk_updHold (s : State) (f : FeedHold → FeedHold) (h : NumberingOk s) : NumberingOk (State.updHold s f) := by simpa [numberingOk_def] using h
@[simp] theorem numberingOk_raiseFeedHeld (s : State) (reason : Nat) (h : NumberingOk s) : NumberingOk (State.raiseFeedHeld s reason) := by simpa [numberingOk_def] using h
@[simp] theorem numberingOk_judgeHeld (s : State) (before : FeedHold) (h : NumberingOk s) : NumberingOk (State.judgeHeld s before) := by simpa [numberingOk_def] using h
@[simp] theorem numberingOk_judgePicker (s : State) (h : NumberingOk s) : NumberingOk (State.judgePicker s) := by simpa [numberingOk_def] using h
@[simp] theorem numberingOk_feedEvent (f : State → State) (s : State) (h : NumberingOk (f s)) : NumberingOk (feedEvent f s) := by
  simp [feedEvent, h]
@[simp] theorem numberingOk_startDivertWatch (s : State) (h : NumberingOk s) : NumberingOk (State.startDivertWatch s) := by simpa [numberingOk_def] using h
@[simp] theorem numberingOk_takeKiln (s : State) (b : Nat) (k : Kiln) (h : NumberingOk s) : NumberingOk (State.takeKiln s b k) := by
  simp only [State.takeKiln]
  apply numberingOk_startDivertWatch; apply numberingOk_updHold; apply numberingOk_writeCommanded; apply numberingOk_updFeed; apply numberingOk_updKiln; apply numberingOk_updLot; exact h
@[simp] theorem numberingOk_hitChargeLimit (s : State) (b : Nat) (k : Kiln) (h : NumberingOk s) : NumberingOk (State.hitChargeLimit s b k) := by simpa [numberingOk_def] using h
@[simp] theorem numberingOk_selectKiln (s : State) (b : Nat) (h : NumberingOk s) : NumberingOk (State.selectKiln s b) := by simpa [numberingOk_def] using h
@[simp] theorem numberingOk_attemptSelection (s : State) (h : NumberingOk s) : NumberingOk (State.attemptSelection s) := by simpa [numberingOk_def] using h
@[simp] theorem numberingOk_closeCharge (s : State) (k : Kiln) (h : NumberingOk s) : NumberingOk (State.closeCharge s k) := by simpa [numberingOk_def] using h
@[simp] theorem numberingOk_closeFill (s : State) (k : Kiln) (h : NumberingOk s) : NumberingOk (State.closeFill s k) := by simpa [numberingOk_def] using h
@[simp] theorem numberingOk_closeAndSelect (s : State) (k : Kiln) (h : NumberingOk s) : NumberingOk (State.closeAndSelect s k) := by simpa [numberingOk_def] using h
@[simp] theorem numberingOk_finishOldLot (s : State) (h : NumberingOk s) : NumberingOk (State.finishOldLot s) := by simpa [numberingOk_def] using h
@[simp] theorem numberingOk_completeChangeover (s : State) (h : NumberingOk s) : NumberingOk (State.completeChangeover s) := by simpa [numberingOk_def] using h
@[simp] theorem numberingOk_changeoverExpiry (s : State) (h : NumberingOk s) : NumberingOk (State.changeoverExpiry s) := by simpa [numberingOk_def] using h
@[simp] theorem numberingOk_beltAnswered (s : State) (h : NumberingOk s) : NumberingOk (State.beltAnswered s) := by simpa [numberingOk_def] using h
@[simp] theorem numberingOk_divertWatchExpiry (s : State) (h : NumberingOk s) : NumberingOk (State.divertWatchExpiry s) := by simpa [numberingOk_def] using h
@[simp] theorem numberingOk_divertReport (s : State) (target : Option Kiln) (h : NumberingOk s) : NumberingOk (State.divertReport s target) := by simpa [numberingOk_def] using h
@[simp] theorem numberingOk_credit (s : State) (inc : Nat) (h : NumberingOk s) : NumberingOk (State.credit s inc) := by simpa [numberingOk_def] using h
@[simp] theorem numberingOk_green (s : State) (i : NodeIdx) (value : Word32) (h : NumberingOk s) : NumberingOk (State.green s i value) := by simpa [numberingOk_def] using h
@[simp] theorem numberingOk_feedLot (s : State) (new : Option Nat) (h : NumberingOk s) : NumberingOk (State.feedLot s new) := by simpa [numberingOk_def] using h
@[simp] theorem numberingOk_performLotFeed (lot : Word16) (s : State) (h : NumberingOk s) : NumberingOk (performLotFeed lot s).state := by simpa [numberingOk_def] using h
@[simp] theorem numberingOk_performFeedHold (flag : Byte) (s : State) (h : NumberingOk s) : NumberingOk (performFeedHold flag s).state := by simpa [numberingOk_def] using h
@[simp] theorem numberingOk_performFillOrder (count : Byte) (kilns : List Byte) (s : State) (h : NumberingOk s) : NumberingOk (performFillOrder count kilns s).state := by simpa [numberingOk_def] using h
@[simp] theorem numberingOk_performLoadClose (s : State) (h : NumberingOk s) : NumberingOk (performLoadClose s).state := by simpa [numberingOk_def] using h
@[simp] theorem numberingOk_fillBale (s : State) (b : Bale) (gross : Int) (h : NumberingOk s) : NumberingOk (State.fillBale s b gross) := by
  unfold State.fillBale
  dsimp only
  have k : NumberingOk (s.updBale b.number (fun x => { (x.judged (s.baleVariety b) (gross - b.tare)) with gross := some gross, net := some (gross - b.tare), status := .weighed })) :=
    numberingOk_updBaleOf _ _ _ h (by intro b; simp [Bale.judged])
  split
  · apply numberingOk_raise; apply numberingOk_updCharge; apply numberingOk_updLot; exact k
  · apply numberingOk_updCharge; apply numberingOk_updLot; exact k
@[simp] theorem numberingOk_captured (s : State) (weight : Int) (h : NumberingOk s) : NumberingOk (State.captured s weight) := by
  generalize e : (State.captured s weight) = t
  unfold State.captured at e
  (try dsimp only at e)
  (repeat' split at e) <;> subst e <;> (try simp only [refuse_state, accept_state]) <;> (simp (config := {maxDischargeDepth := 60}) [numberingOk_mk, h, (numberingOk_def s).symm.trans (eq_true h)])
@[simp] theorem numberingOk_notCaptured (s : State) (h : NumberingOk s) : NumberingOk (State.notCaptured s) := by
  unfold State.notCaptured
  (repeat' split) <;> try exact h
  · exact numberingOk_raiseOpt _ _ _ _ h
  · apply numberingOk_offerCharge
    exact numberingOk_updBaleOf _ _ _ h (by intro b; simp)
@[simp] theorem numberingOk_updScale (s : State) (f : Scale → Scale) (h : NumberingOk s) : NumberingOk (State.updScale s f) := by simpa [numberingOk_def] using h
@[simp] theorem numberingOk_judgeBlock (s : State) (h : NumberingOk s) : NumberingOk (State.judgeBlock s) := by
  generalize e : (State.judgeBlock s) = t
  unfold State.judgeBlock at e
  (try dsimp only at e)
  (repeat' split at e) <;> subst e <;> (try simp only [refuse_state, accept_state]) <;> (simp (config := {maxDischargeDepth := 60}) [numberingOk_mk, h, (numberingOk_def s).symm.trans (eq_true h)])
@[simp] theorem numberingOk_enterFault (s : State) (cause : FaultCause) (h : NumberingOk s) : NumberingOk (State.enterFault s cause) := by
  generalize e : (State.enterFault s cause) = t
  unfold State.enterFault at e
  (try dsimp only at e)
  (repeat' split at e) <;> subst e <;> (try simp only [refuse_state, accept_state]) <;> (simp (config := {maxDischargeDepth := 60}) [numberingOk_mk, h, (numberingOk_def s).symm.trans (eq_true h)])
@[simp] theorem numberingOk_faultCause (s : State) (cause : FaultCause) (h : NumberingOk s) : NumberingOk (State.faultCause s cause) := by
  generalize e : (State.faultCause s cause) = t
  unfold State.faultCause at e
  (try dsimp only at e)
  (repeat' split at e) <;> subst e <;> (try simp only [refuse_state, accept_state]) <;> (simp (config := {maxDischargeDepth := 60}) [numberingOk_mk, h, (numberingOk_def s).symm.trans (eq_true h)])
@[simp] theorem numberingOk_takeReading (s : State) (r : Int) (h : NumberingOk s) : NumberingOk (State.takeReading s r) := by
  generalize e : (State.takeReading s r) = t
  unfold State.takeReading at e
  (try dsimp only at e)
  (repeat' split at e) <;> subst e <;> (try simp only [refuse_state, accept_state]) <;> (simp (config := {maxDischargeDepth := 60}) [numberingOk_mk, h, (numberingOk_def s).symm.trans (eq_true h)])
@[simp] theorem numberingOk_takeSample (s : State) (st : Byte) (sample : Int) (h : NumberingOk s) : NumberingOk (State.takeSample s st sample) := by
  generalize e : (State.takeSample s st sample) = t
  unfold State.takeSample at e
  (try dsimp only at e)
  (repeat' split at e) <;> subst e <;> (try simp only [refuse_state, accept_state]) <;> (simp (config := {maxDischargeDepth := 60}) [numberingOk_mk, h, (numberingOk_def s).symm.trans (eq_true h)])
@[simp] theorem numberingOk_frameStart (s : State) (h : NumberingOk s) : NumberingOk (State.frameStart s) := by simpa [numberingOk_def] using h
@[simp] theorem numberingOk_frameComplete (s : State) (st : Byte) (sample : BitVec 24) (h : NumberingOk s) : NumberingOk (State.frameComplete s st sample) := by
  generalize e : (State.frameComplete s st sample) = t
  unfold State.frameComplete at e
  (try dsimp only at e)
  (repeat' split at e) <;> subst e <;> (try simp only [refuse_state, accept_state]) <;> (simp (config := {maxDischargeDepth := 60}) [numberingOk_mk, h, (numberingOk_def s).symm.trans (eq_true h)])
@[simp] theorem numberingOk_frameTorn (s : State) (h : NumberingOk s) : NumberingOk (State.frameTorn s) := by simpa [numberingOk_def] using h
@[simp] theorem numberingOk_watchExpiry (s : State) (h : NumberingOk s) : NumberingOk (State.watchExpiry s) := by
  generalize e : (State.watchExpiry s) = t
  unfold State.watchExpiry at e
  (try dsimp only at e)
  (repeat' split at e) <;> subst e <;> (try simp only [refuse_state, accept_state]) <;> (simp (config := {maxDischargeDepth := 60}) [numberingOk_mk, h, (numberingOk_def s).symm.trans (eq_true h)])
@[simp] theorem numberingOk_settleTimeout (s : State) (h : NumberingOk s) : NumberingOk (State.settleTimeout s) := by
  generalize e : (State.settleTimeout s) = t
  unfold State.settleTimeout at e
  (try dsimp only at e)
  (repeat' split at e) <;> subst e <;> (try simp only [refuse_state, accept_state]) <;> (simp (config := {maxDischargeDepth := 60}) [numberingOk_mk, h, (numberingOk_def s).symm.trans (eq_true h)])
@[simp] theorem numberingOk_scaleOnScale (s : State) (h : NumberingOk s) : NumberingOk (State.scaleOnScale s) := by
  generalize e : (State.scaleOnScale s) = t
  unfold State.scaleOnScale at e
  (try dsimp only at e)
  (repeat' split at e) <;> subst e <;> (try simp only [refuse_state, accept_state]) <;> (simp (config := {maxDischargeDepth := 60}) [numberingOk_mk, h, (numberingOk_def s).symm.trans (eq_true h)])

/-- A bale of the next number joins. -/
theorem numberingOk_made (s : State) (b : Bale) (hb : b.number = s.tickets.nextBale) (h : NumberingOk s) : NumberingOk { s with
    press := { s.press with bales := s.press.bales ++ [b], cycle := .bale s.tickets.nextBale }
    tickets := { s.tickets with nextBale := s.tickets.nextBale + 1, lastBale := some s.tickets.nextBale } } := by
  simp only [numberingOk_mk]
  simp only [numberingOk_def] at h
  obtain ⟨a,b,c,d,e⟩ := h
  have lt : ∀ x ∈ baleNumbers s.press.bales, x < s.tickets.nextBale := by
    intro x hx; obtain ⟨m, hm, hl⟩ := b x hx; have := c m hm; omega
  refine ⟨?_, ?_, ?_, d, e⟩
  · simp only [baleNumbers, List.map_append, List.pairwise_append, List.map_cons, List.map_nil]
    refine ⟨a, by simp, ?_⟩
    intro x hx y hy; simp at hy; subst hy; rw [hb]; exact lt x hx
  · intro x hx
    refine ⟨_, rfl, ?_⟩
    simp only [baleNumbers, List.map_append, List.mem_append, List.map_cons, List.map_nil, List.mem_singleton] at hx
    rcases hx with hx | hx
    · exact Nat.le_of_lt (lt x hx)
    · omega
  · intro m hm; simp at hm; omega
@[simp] theorem numberingOk_createBale (s : State) (k : Kiln) (r : ChargeRef) (value : Word32) (weighing : Bool) (h : NumberingOk s) : NumberingOk (State.createBale s k r value weighing) := by
  have h0 := fun (b : Bale) hb => numberingOk_made s b hb h
  unfold State.createBale
  dsimp only
  split
  · apply numberingOk_judgeStore; apply numberingOk_updCharge; apply numberingOk_updLot; exact h0 _ rfl
  · apply numberingOk_offerCharge; apply numberingOk_judgeStore; apply numberingOk_updCharge; apply numberingOk_updLot; exact h0 _ rfl
@[simp] theorem numberingOk_newCycle (s : State) (value : Word32) (weighing : Bool) (h : NumberingOk s) : NumberingOk (State.newCycle s value weighing) := by
  generalize e : (State.newCycle s value weighing) = t
  unfold State.newCycle at e
  (try dsimp only at e)
  (repeat' split at e) <;> subst e <;> (try simp only [refuse_state, accept_state]) <;> (simp (config := {maxDischargeDepth := 60}) [numberingOk_mk, h, (numberingOk_def s).symm.trans (eq_true h)])
@[simp] theorem numberingOk_onScale (s : State) (value : Word32) (h : NumberingOk s) : NumberingOk (State.onScale s value) := by
  generalize e : (State.onScale s value) = t
  unfold State.onScale at e
  (try dsimp only at e)
  (repeat' split at e) <;> subst e <;> (try simp only [refuse_state, accept_state]) <;> (simp (config := {maxDischargeDepth := 60}) [numberingOk_mk, h, (numberingOk_def s).symm.trans (eq_true h)])
@[simp] theorem numberingOk_offScale (s : State) (h : NumberingOk s) : NumberingOk (State.offScale s) := by
  unfold State.offScale
  dsimp only
  rw [numberingOk_mk, ← numberingOk_def]
  split <;> simp (config := {maxDischargeDepth := 60}) only [numberingOk_raise, numberingOk_updScale, numberingOk_notCaptured, h]
@[simp] theorem numberingOk_moisture (s : State) (value : Word32) (h : NumberingOk s) : NumberingOk (State.moisture s value) := by
  unfold State.moisture
  (repeat' split) <;> try exact h
  exact numberingOk_updBaleOf _ _ _ h (by intro b; simp)
@[simp] theorem numberingOk_advanceHead (s : State) (h : NumberingOk s) : NumberingOk (State.advanceHead s) := by simpa [numberingOk_def] using h
@[simp] theorem numberingOk_unloadHead (s : State) (k : Kiln) (h : NumberingOk s) : NumberingOk (State.unloadHead s k) := by
  generalize e : (State.unloadHead s k) = t
  unfold State.unloadHead at e
  (try dsimp only at e)
  (repeat' split at e) <;> subst e <;> (try simp only [refuse_state, accept_state]) <;> (simp (config := {maxDischargeDepth := 60}) [numberingOk_mk, h, (numberingOk_def s).symm.trans (eq_true h)])
@[simp] theorem numberingOk_unloadDone (s : State) (h : NumberingOk s) : NumberingOk (State.unloadDone s) := by
  generalize e : (State.unloadDone s) = t
  unfold State.unloadDone at e
  (try dsimp only at e)
  (repeat' split at e) <;> subst e <;> (try simp only [refuse_state, accept_state]) <;> (simp (config := {maxDischargeDepth := 60}) [numberingOk_mk, h, (numberingOk_def s).symm.trans (eq_true h)])
@[simp] theorem numberingOk_performUnloadDone (kiln : Byte) (s : State) (h : NumberingOk s) : NumberingOk (performUnloadDone kiln s).state := by
  generalize e : (performUnloadDone kiln s) = t
  unfold performUnloadDone at e
  (try dsimp only at e)
  (repeat' split at e) <;> subst e <;> (try simp only [refuse_state, accept_state]) <;> (simp (config := {maxDischargeDepth := 60}) [numberingOk_mk, h, (numberingOk_def s).symm.trans (eq_true h)])
@[simp] theorem numberingOk_performPressHold (flag : Byte) (s : State) (h : NumberingOk s) : NumberingOk (performPressHold flag s).state := by simpa [numberingOk_def] using h
@[simp] theorem numberingOk_performBaleWeight (bale gross : Word32) (s : State) (h : NumberingOk s) : NumberingOk (performBaleWeight bale gross s).state := by
  generalize e : (performBaleWeight bale gross s) = t
  unfold performBaleWeight at e
  (try dsimp only at e)
  (repeat' split at e) <;> subst e <;> (try simp only [refuse_state, accept_state]) <;> (simp (config := {maxDischargeDepth := 60}) [numberingOk_mk, h, (numberingOk_def s).symm.trans (eq_true h)])
@[simp] theorem numberingOk_performBaleRead (bale : Word32) (s : State) (h : NumberingOk s) : NumberingOk (performBaleRead bale s).state := by simpa [numberingOk_def] using h
@[simp] theorem numberingOk_performScaleRead (s : State) (h : NumberingOk s) : NumberingOk (performScaleRead s).state := by simpa [numberingOk_def] using h
@[simp] theorem numberingOk_performScaleZero (s : State) (h : NumberingOk s) : NumberingOk (performScaleZero s).state := by simpa [numberingOk_def] using h
@[simp] theorem numberingOk_performScaleCommand (word : Byte) (s : State) (h : NumberingOk s) : NumberingOk (performScaleCommand word s).state := by simpa [numberingOk_def] using h
@[simp] theorem numberingOk_nodeAnswered (s : State) (i : NodeIdx) (h : NumberingOk s) : NumberingOk (State.nodeAnswered s i) := by simpa [numberingOk_def] using h
@[simp] theorem numberingOk_reportAnswer (s : State) (i : NodeIdx) (h : NumberingOk s) : NumberingOk (State.reportAnswer s i) := by
  generalize e : (State.reportAnswer s i) = t
  unfold State.reportAnswer at e
  (try dsimp only at e)
  (repeat' split at e) <;> subst e <;> (try simp only [refuse_state, accept_state]) <;> (simp (config := {maxDischargeDepth := 60}) [numberingOk_mk, h, (numberingOk_def s).symm.trans (eq_true h)])
@[simp] theorem numberingOk_holdBound (s : State) (n : Node) (reason : HoldReason) (h : NumberingOk s) : NumberingOk (State.holdBound s n reason) := by simpa [numberingOk_def] using h
@[simp] theorem numberingOk_reportLost (s : State) (n : Node) (h : NumberingOk s) : NumberingOk (State.reportLost s n) := by simpa [numberingOk_def] using h
@[simp] theorem numberingOk_nodeMissed (s : State) (i : NodeIdx) (h : NumberingOk s) : NumberingOk (State.nodeMissed s i) := by simpa [numberingOk_def] using h
@[simp] theorem numberingOk_missOn (s : State) (t : Transaction) (h : NumberingOk s) : NumberingOk (State.missOn s t) := by simpa [numberingOk_def] using h
@[simp] theorem numberingOk_forward (s : State) (f : Frame) (h : NumberingOk s) : NumberingOk (State.forward s f) := by simpa [numberingOk_def] using h
@[simp] theorem numberingOk_applyRoute (s : State) (r : Route) (i : NodeIdx) (f : Frame) (h : NumberingOk s) : NumberingOk (State.applyRoute s r i f) := by
  generalize e : (State.applyRoute s r i f) = t
  unfold State.applyRoute at e
  (try dsimp only at e)
  (repeat' split at e) <;> subst e <;> (try simp only [refuse_state, accept_state]) <;> (simp (config := {maxDischargeDepth := 60}) [numberingOk_mk, h, (numberingOk_def s).symm.trans (eq_true h)])
@[simp] theorem numberingOk_jobAction (s : State) (r : Route) (x : RouteIdx) (i : NodeIdx) (f : Frame) (h : NumberingOk s) : NumberingOk (State.jobAction s r x i f) := by
  generalize e : (State.jobAction s r x i f) = t
  unfold State.jobAction at e
  (try dsimp only at e)
  (repeat' split at e) <;> subst e <;> (try simp only [refuse_state, accept_state]) <;> (simp (config := {maxDischargeDepth := 60}) [numberingOk_mk, h, (numberingOk_def s).symm.trans (eq_true h)])
@[simp] theorem numberingOk_copyIf (s : State) (c : Bool) (f : Frame) (h : NumberingOk s) : NumberingOk (State.copyIf s c f) := by simpa [numberingOk_def] using h
@[simp] theorem numberingOk_classify (s : State) (i : NodeIdx) (f : Frame) (h : NumberingOk s) : NumberingOk (State.classify s i f) := by
  generalize e : (State.classify s i f) = t
  unfold State.classify at e
  (try dsimp only at e)
  (repeat' split at e) <;> subst e <;> (try simp only [refuse_state, accept_state]) <;> (simp (config := {maxDischargeDepth := 60}) [numberingOk_mk, h, (numberingOk_def s).symm.trans (eq_true h)])
@[simp] theorem numberingOk_endTransaction (s : State) (h : NumberingOk s) : NumberingOk (State.endTransaction s) := by simpa [numberingOk_def] using h
@[simp] theorem numberingOk_countUnsolicited (s : State) (h : NumberingOk s) : NumberingOk (State.countUnsolicited s) := by simpa [numberingOk_def] using h
@[simp] theorem numberingOk_pollAnswered (s : State) (i : NodeIdx) (f : Frame) (h : NumberingOk s) : NumberingOk (State.pollAnswered s i f) := by
  generalize e : (State.pollAnswered s i f) = t
  unfold State.pollAnswered at e
  (try dsimp only at e)
  (repeat' split at e) <;> subst e <;> (try simp only [refuse_state, accept_state]) <;> (simp (config := {maxDischargeDepth := 60}) [numberingOk_mk, h, (numberingOk_def s).symm.trans (eq_true h)])
@[simp] theorem numberingOk_reportConfirmed (s : State) (c : Commanded) (h : NumberingOk s) : NumberingOk (State.reportConfirmed s c) := by simpa [numberingOk_def] using h
@[simp] theorem numberingOk_commandAnswered (s : State) (i : NodeIdx) (code : Byte) (f : Frame) (h : NumberingOk s) : NumberingOk (State.commandAnswered s i code f) := by simpa [numberingOk_def] using h
@[simp] theorem numberingOk_blockAnswered (s : State) (i : NodeIdx) (ticket : Nat) (f : Frame) (h : NumberingOk s) : NumberingOk (State.blockAnswered s i ticket f) := by
  generalize e : (State.blockAnswered s i ticket f) = t
  unfold State.blockAnswered at e
  (try dsimp only at e)
  (repeat' split at e) <;> subst e <;> (try simp only [refuse_state, accept_state]) <;> (simp (config := {maxDischargeDepth := 60}) [numberingOk_mk, h, (numberingOk_def s).symm.trans (eq_true h)])
@[simp] theorem numberingOk_answerBody (s : State) (t : Transaction) (i : NodeIdx) (f : Frame) (h : NumberingOk s) : NumberingOk (State.answerBody s t i f) := by
  generalize e : (State.answerBody s t i f) = t
  unfold State.answerBody at e
  (try dsimp only at e)
  (repeat' split at e) <;> subst e <;> (try simp only [refuse_state, accept_state]) <;> (simp (config := {maxDischargeDepth := 60}) [numberingOk_mk, h, (numberingOk_def s).symm.trans (eq_true h)])
@[simp] theorem numberingOk_answered (s : State) (t : Transaction) (f : Frame) (h : NumberingOk s) : NumberingOk (State.answered s t f) := by
  generalize e : (State.answered s t f) = t
  unfold State.answered at e
  (try dsimp only at e)
  (repeat' split at e) <;> subst e <;> (try simp only [refuse_state, accept_state]) <;> (simp (config := {maxDischargeDepth := 60}) [numberingOk_mk, h, (numberingOk_def s).symm.trans (eq_true h)])
@[simp] theorem numberingOk_expired (s : State) (t : Transaction) (h : NumberingOk s) : NumberingOk (State.expired s t) := by
  generalize e : (State.expired s t) = t
  unfold State.expired at e
  (try dsimp only at e)
  (repeat' split at e) <;> subst e <;> (try simp only [refuse_state, accept_state]) <;> (simp (config := {maxDischargeDepth := 60}) [numberingOk_mk, h, (numberingOk_def s).symm.trans (eq_true h)])
@[simp] theorem numberingOk_afterOther (s : State) (h : NumberingOk s) : NumberingOk (State.afterOther s) := by
  generalize e : (State.afterOther s) = t
  unfold State.afterOther at e
  (try dsimp only at e)
  (repeat' split at e) <;> subst e <;> (try simp only [refuse_state, accept_state]) <;> (simp (config := {maxDischargeDepth := 60}) [numberingOk_mk, h, (numberingOk_def s).symm.trans (eq_true h)])
@[simp] theorem numberingOk_offerFrame (s : State) (f : Frame) (h : NumberingOk s) : NumberingOk (State.offerFrame s f) := by
  generalize e : (State.offerFrame s f) = t
  unfold State.offerFrame at e
  (try dsimp only at e)
  (repeat' split at e) <;> subst e <;> (try simp only [refuse_state, accept_state]) <;> (simp (config := {maxDischargeDepth := 60}) [numberingOk_mk, h, (numberingOk_def s).symm.trans (eq_true h)])
@[simp] theorem numberingOk_fieldArrival (s : State) (chars : List Byte) (h : NumberingOk s) : NumberingOk (State.fieldArrival s chars) := by
  unfold State.fieldArrival
  dsimp only
  have h' := (numberingOk_def s) ▸ h
  split
  · split <;> simp (config := {maxDischargeDepth := 60}) [numberingOk_mk, h']
  · exact h
@[simp] theorem numberingOk_receptionStart (s : State) (h : NumberingOk s) : NumberingOk (State.receptionStart s) := by simpa [numberingOk_def] using h
@[simp] theorem numberingOk_windowExpiry (s : State) (h : NumberingOk s) : NumberingOk (State.windowExpiry s) := by
  generalize e : (State.windowExpiry s) = t
  unfold State.windowExpiry at e
  (try dsimp only at e)
  (repeat' split at e) <;> subst e <;> (try simp only [refuse_state, accept_state]) <;> (simp (config := {maxDischargeDepth := 60}) [numberingOk_mk, h, (numberingOk_def s).symm.trans (eq_true h)])
@[simp] theorem numberingOk_guardEnd (s : State) (h : NumberingOk s) : NumberingOk (State.guardEnd s) := by simpa [numberingOk_def] using h
@[simp] theorem numberingOk_transmitDone (s : State) (h : NumberingOk s) : NumberingOk (State.transmitDone s) := by simpa [numberingOk_def] using h
@[simp] theorem numberingOk_openTransaction (s : State) (kind : TransactionKind) (address : Byte) (node : Option NodeIdx) (frames : List Frame) (window : Nat) (h : NumberingOk s) : NumberingOk (State.openTransaction s kind address node frames window) := by simpa [numberingOk_def] using h
@[simp] theorem numberingOk_startCommand (s : State) (c : Command) (rest : List Command) (h : NumberingOk s) : NumberingOk (State.startCommand s c rest) := by simpa [numberingOk_def] using h
@[simp] theorem numberingOk_startBlock (s : State) (ticket : Nat) (h : NumberingOk s) : NumberingOk (State.startBlock s ticket) := by simpa [numberingOk_def] using h
@[simp] theorem numberingOk_startPass (s : State) (f : Frame) (rest : List Frame) (h : NumberingOk s) : NumberingOk (State.startPass s f rest) := by simpa [numberingOk_def] using h
@[simp] theorem numberingOk_startPoll (s : State) (i : NodeIdx) (rest : List NodeIdx) (h : NumberingOk s) : NumberingOk (State.startPoll s i rest) := by simpa [numberingOk_def] using h
@[simp] theorem numberingOk_startSource (s : State) (c : FieldSource) (h : NumberingOk s) : NumberingOk (State.startSource s c) := by simpa [numberingOk_def] using h
@[simp] theorem numberingOk_startTransaction (s : State) (h : NumberingOk s) : NumberingOk (State.startTransaction s) := by simpa [numberingOk_def] using h
@[simp] theorem numberingOk_choosing (s : State) (c : Option FieldSource) (h : NumberingOk s) : NumberingOk (s.choosing c) := by simpa [numberingOk_def] using h
@[simp] theorem numberingOk_scheduleNode (c : CadenceId) (s : State) (i : NodeIdx) (h : NumberingOk s) : NumberingOk (State.scheduleNode c s i) := by simpa [numberingOk_def] using h
@[simp] theorem numberingOk_updCadence (s : State) (c : CadenceId) (f : Cadence → Cadence) (h : NumberingOk s) : NumberingOk (State.updCadence s c f) := by simpa [numberingOk_def] using h
@[simp] theorem numberingOk_cadenceExpiry (s : State) (c : CadenceId) (h : NumberingOk s) : NumberingOk (State.cadenceExpiry s c) := by simpa [numberingOk_def] using h
@[simp] theorem numberingOk_restartField (s : State) (h : NumberingOk s) : NumberingOk (State.restartField s) := by
  unfold State.restartField
  dsimp only
  split
  · apply numberingOk_printScan
    simp only [numberingOk_mk]; simp only [numberingOk_def] at h
    rw [ticketNumbers_map]; exact h
    intro t _; unfold Ticket.abandoned; split <;> rfl
  · simp only [numberingOk_mk]; simp only [numberingOk_def] at h; exact h
@[simp] theorem numberingOk_printerWritten (s : State) (before after : Option Role) (h : NumberingOk s) : NumberingOk (State.printerWritten s before after) := by
  generalize e : (State.printerWritten s before after) = t
  unfold State.printerWritten at e
  (try dsimp only at e)
  (repeat' split at e) <;> subst e <;> (try simp only [refuse_state, accept_state]) <;> (simp (config := {maxDischargeDepth := 60}) [numberingOk_mk, h, (numberingOk_def s).symm.trans (eq_true h)])
@[simp] theorem numberingOk_writeNode (s : State) (i : NodeIdx) (g : NodeImage) (h : NumberingOk s) : NumberingOk (State.writeNode s i g) := by
  generalize e : (State.writeNode s i g) = t
  unfold State.writeNode at e
  (try dsimp only at e)
  (repeat' split at e) <;> subst e <;> (try simp only [refuse_state, accept_state]) <;> (simp (config := {maxDischargeDepth := 60}) [numberingOk_mk, h, (numberingOk_def s).symm.trans (eq_true h)])
@[simp] theorem numberingOk_performNodeWrite (index : Byte) (image : List Byte) (s : State) (h : NumberingOk s) : NumberingOk (performNodeWrite index image s).state := by
  generalize e : (performNodeWrite index image s) = t
  unfold performNodeWrite at e
  (try dsimp only at e)
  (repeat' split at e) <;> subst e <;> (try simp only [refuse_state, accept_state]) <;> (simp (config := {maxDischargeDepth := 60}) [numberingOk_mk, h, (numberingOk_def s).symm.trans (eq_true h)])
@[simp] theorem numberingOk_performRouteWrite (index : Byte) (image : List Byte) (s : State) (h : NumberingOk s) : NumberingOk (performRouteWrite index image s).state := by simpa [numberingOk_def] using h
@[simp] theorem numberingOk_performCadenceWrite (index : Byte) (image : List Byte) (s : State) (h : NumberingOk s) : NumberingOk (performCadenceWrite index image s).state := by simpa [numberingOk_def] using h
@[simp] theorem numberingOk_setKilnEntry (s : State) (k : Kiln) (e : KilnEntry) (h : NumberingOk s) : NumberingOk (State.setKilnEntry s k e) := by simpa [numberingOk_def] using h
@[simp] theorem numberingOk_performKilnWrite (index : Byte) (image : List Byte) (s : State) (h : NumberingOk s) : NumberingOk (performKilnWrite index image s).state := by simpa [numberingOk_def] using h
@[simp] theorem numberingOk_performScheduleWrite (index : Byte) (image : List Byte) (s : State) (h : NumberingOk s) : NumberingOk (performScheduleWrite index image s).state := by simpa [numberingOk_def] using h
@[simp] theorem numberingOk_performStepWrite (index : Byte) (image : List Byte) (s : State) (h : NumberingOk s) : NumberingOk (performStepWrite index image s).state := by simpa [numberingOk_def] using h
@[simp] theorem numberingOk_performVarietyWrite (index : Byte) (image : List Byte) (s : State) (h : NumberingOk s) : NumberingOk (performVarietyWrite index image s).state := by simpa [numberingOk_def] using h
@[simp] theorem numberingOk_performTareWrite (index : Byte) (image : List Byte) (s : State) (h : NumberingOk s) : NumberingOk (performTareWrite index image s).state := by simpa [numberingOk_def] using h
@[simp] theorem numberingOk_performScaleSetupWrite (index : Byte) (image : List Byte) (s : State) (h : NumberingOk s) : NumberingOk (performScaleSetupWrite index image s).state := by simpa [numberingOk_def] using h
@[simp] theorem numberingOk_performStationWrite (index : Byte) (image : List Byte) (s : State) (h : NumberingOk s) : NumberingOk (performStationWrite index image s).state := by simpa [numberingOk_def] using h
@[simp] theorem numberingOk_performTableRead (table index part : Byte) (s : State) (h : NumberingOk s) : NumberingOk (performTableRead table index part s).state := by simpa [numberingOk_def] using h
@[simp] theorem numberingOk_performTableWrite (table index : Byte) (image : List Byte) (s : State) (h : NumberingOk s) : NumberingOk (performTableWrite table index image s).state := by
  generalize e : (performTableWrite table index image s) = t
  unfold performTableWrite at e
  (try dsimp only at e)
  (repeat' split at e) <;> subst e <;> (try simp only [refuse_state, accept_state]) <;> (simp (config := {maxDischargeDepth := 60}) [numberingOk_mk, h, (numberingOk_def s).symm.trans (eq_true h)])
@[simp] theorem numberingOk_addLot (s : State) (l : Lot) (h : NumberingOk s) : NumberingOk (State.addLot s l) := by simpa [numberingOk_def] using h
@[simp] theorem numberingOk_performLotOpen (lot grower : Word16) (variety : Byte) (s : State) (h : NumberingOk s) : NumberingOk (performLotOpen lot grower variety s).state := by simpa [numberingOk_def] using h
@[simp] theorem numberingOk_performLotRead (lot : Word16) (item : Byte) (s : State) (h : NumberingOk s) : NumberingOk (performLotRead lot item s).state := by simpa [numberingOk_def] using h
@[simp] theorem numberingOk_performLotVoid (lot : Word16) (s : State) (h : NumberingOk s) : NumberingOk (performLotVoid lot s).state := by simpa [numberingOk_def] using h
@[simp] theorem numberingOk_performLotClose (lot : Word16) (s : State) (h : NumberingOk s) : NumberingOk (performLotClose lot s).state := by simpa [numberingOk_def] using h
@[simp] theorem numberingOk_clearCounts (s : State) (h : NumberingOk s) : NumberingOk (State.clearCounts s) := by simpa [numberingOk_def] using h
@[simp] theorem numberingOk_performStatus (clear page : Byte) (s : State) (h : NumberingOk s) : NumberingOk (performStatus clear page s).state := by simpa [numberingOk_def] using h
@[simp] theorem numberingOk_performTimeSet (time : Word32) (s : State) (h : NumberingOk s) : NumberingOk (performTimeSet time s).state := by simpa [numberingOk_def] using h
@[simp] theorem numberingOk_secondPassed (s : State) (h : NumberingOk s) : NumberingOk (State.secondPassed s) := by simpa [numberingOk_def] using h
@[simp] theorem numberingOk_restartStation (s : State) (h : NumberingOk s) : NumberingOk (State.restartStation s) := by
  unfold State.restartStation
  simp only [numberingOk_mk, Tickets.stationRestarted]
  simp only [numberingOk_def] at h
  obtain ⟨a,b,c,d,e⟩ := h
  exact ⟨by simp [baleNumbers], by simp [baleNumbers], c, by simp [ticketNumbers], e⟩
@[simp] theorem numberingOk_performRestart (scope : Byte) (s : State) (h : NumberingOk s) : NumberingOk (performRestart scope s).state := by
  generalize e : (performRestart scope s) = t
  unfold performRestart at e
  (try dsimp only at e)
  (repeat' split at e) <;> subst e <;> (try simp only [refuse_state, accept_state]) <;> (simp (config := {maxDischargeDepth := 60}) [numberingOk_mk, h, (numberingOk_def s).symm.trans (eq_true h)])
@[simp] theorem numberingOk_performRequest (r : Request) (s : State) (h : NumberingOk s) : NumberingOk (performRequest r s).state := by
  generalize e : (performRequest r s) = t
  unfold performRequest at e
  (try dsimp only at e)
  (repeat' split at e) <;> subst e <;> (try simp only [refuse_state, accept_state]) <;> (simp (config := {maxDischargeDepth := 60}) [numberingOk_mk, h, (numberingOk_def s).symm.trans (eq_true h)])
@[simp] theorem numberingOk_setReply (s : State) (payload : List Byte) (h : NumberingOk s) : NumberingOk (State.setReply s payload) := by simpa [numberingOk_def] using h
@[simp] theorem numberingOk_performPayload (payload : List Byte) (s : State) (h : NumberingOk s) : NumberingOk (performPayload payload s).2.2.state := by
  unfold performPayload
  repeat' split
  all_goals simp [h]
@[simp] theorem numberingOk_executeFrame (s : State) (f : Frame) (h : NumberingOk s) : NumberingOk (State.executeFrame s f) := by
  generalize e : (State.executeFrame s f) = t
  unfold State.executeFrame at e
  (try dsimp only at e)
  (repeat' split at e) <;> subst e <;> (try simp only [refuse_state, accept_state]) <;> (simp (config := {maxDischargeDepth := 60}) [numberingOk_mk, h, (numberingOk_def s).symm.trans (eq_true h)])
@[simp] theorem numberingOk_executeHead (s : State) (h : NumberingOk s) : NumberingOk (State.executeHead s) := by
  generalize e : (State.executeHead s) = t
  unfold State.executeHead at e
  (try dsimp only at e)
  (repeat' split at e) <;> subst e <;> (try simp only [refuse_state, accept_state]) <;> (simp (config := {maxDischargeDepth := 60}) [numberingOk_mk, h, (numberingOk_def s).symm.trans (eq_true h)])
@[simp] theorem numberingOk_admitRequest (s : State) (f : Frame) (h : NumberingOk s) : NumberingOk (State.admitRequest s f) := by
  generalize e : (State.admitRequest s f) = t
  unfold State.admitRequest at e
  (try dsimp only at e)
  (repeat' split at e) <;> subst e <;> (try simp only [refuse_state, accept_state]) <;> (simp (config := {maxDischargeDepth := 60}) [numberingOk_mk, h, (numberingOk_def s).symm.trans (eq_true h)])
@[simp] theorem numberingOk_completeRequest (s : State) (h : NumberingOk s) : NumberingOk (State.completeRequest s) := by
  generalize e : (State.completeRequest s) = t
  unfold State.completeRequest at e
  (try dsimp only at e)
  (repeat' split at e) <;> subst e <;> (try simp only [refuse_state, accept_state]) <;> (simp (config := {maxDischargeDepth := 60}) [numberingOk_mk, h, (numberingOk_def s).symm.trans (eq_true h)])
@[simp] theorem numberingOk_submit (tag : Byte) (r : Request) (s : State) (h : NumberingOk s) : NumberingOk (State.submit tag r s) := by
  generalize e : (State.submit tag r s) = t
  unfold State.submit at e
  (try dsimp only at e)
  (repeat' split at e) <;> subst e <;> (try simp only [refuse_state, accept_state]) <;> (simp (config := {maxDischargeDepth := 60}) [numberingOk_mk, h, (numberingOk_def s).symm.trans (eq_true h)])
@[simp] theorem numberingOk_updLink (s : State) (f : Link → Link) (h : NumberingOk s) : NumberingOk (State.updLink s f) := by simpa [numberingOk_def] using h
@[simp] theorem numberingOk_validArrival (s : State) (h : NumberingOk s) : NumberingOk (State.validArrival s) := by simpa [numberingOk_def] using h
@[simp] theorem numberingOk_linkSilent (s : State) (h : NumberingOk s) : NumberingOk (State.linkSilent s) := by simpa [numberingOk_def] using h
@[simp] theorem numberingOk_offerPass (s : State) (f : Frame) (h : NumberingOk s) : NumberingOk (State.offerPass s f) := by simpa [numberingOk_def] using h
@[simp] theorem numberingOk_classifyUpstream (s : State) (f : Frame) (h : NumberingOk s) : NumberingOk (State.classifyUpstream s f) := by
  generalize e : (State.classifyUpstream s f) = t
  unfold State.classifyUpstream at e
  (try dsimp only at e)
  (repeat' split at e) <;> subst e <;> (try simp only [refuse_state, accept_state]) <;> (simp (config := {maxDischargeDepth := 60}) [numberingOk_mk, h, (numberingOk_def s).symm.trans (eq_true h)])
@[simp] theorem numberingOk_upstreamArrival (s : State) (chars : List Byte) (h : NumberingOk s) : NumberingOk (State.upstreamArrival s chars) := by
  generalize e : (State.upstreamArrival s chars) = t
  unfold State.upstreamArrival at e
  (try dsimp only at e)
  (repeat' split at e) <;> subst e <;> (try simp only [refuse_state, accept_state]) <;> (simp (config := {maxDischargeDepth := 60}) [numberingOk_mk, h, (numberingOk_def s).symm.trans (eq_true h)])
@[simp] theorem numberingOk_idleGap (s : State) (port : Port) (h : NumberingOk s) : NumberingOk (State.idleGap s port) := by simpa [numberingOk_def] using h
@[simp] theorem numberingOk_startUpstream (s : State) (t : UpTransmit) (h : NumberingOk s) : NumberingOk (State.startUpstream s t) := by simpa [numberingOk_def] using h
@[simp] theorem numberingOk_upstreamTransmit (s : State) (h : NumberingOk s) : NumberingOk (State.upstreamTransmit s) := by simpa [numberingOk_def] using h
@[simp] theorem numberingOk_replySent (s : State) (h : NumberingOk s) : NumberingOk (State.replySent s) := by
  generalize e : (State.replySent s) = t
  unfold State.replySent at e
  (try dsimp only at e)
  (repeat' split at e) <;> subst e <;> (try simp only [refuse_state, accept_state]) <;> (simp (config := {maxDischargeDepth := 60}) [numberingOk_mk, h, (numberingOk_def s).symm.trans (eq_true h)])
@[simp] theorem numberingOk_segmentSent (s : State) (h : NumberingOk s) : NumberingOk (State.segmentSent s) := by
  generalize e : (State.segmentSent s) = t
  unfold State.segmentSent at e
  (try dsimp only at e)
  (repeat' split at e) <;> subst e <;> (try simp only [refuse_state, accept_state]) <;> (simp (config := {maxDischargeDepth := 60}) [numberingOk_mk, h, (numberingOk_def s).symm.trans (eq_true h)])
@[simp] theorem numberingOk_upstreamFrameSent (s : State) (h : NumberingOk s) : NumberingOk (State.upstreamFrameSent s) := by
  generalize e : (State.upstreamFrameSent s) = t
  unfold State.upstreamFrameSent at e
  (try dsimp only at e)
  (repeat' split at e) <;> subst e <;> (try simp only [refuse_state, accept_state]) <;> (simp (config := {maxDischargeDepth := 60}) [numberingOk_mk, h, (numberingOk_def s).symm.trans (eq_true h)])
theorem numberingOk_pend (s : State) (p) (h : NumberingOk s) : NumberingOk { s with pending := p } := by rw [numberingOk_mk]; rw [numberingOk_def] at h; exact h
theorem numberingOk_started (s : State) (a b c) : NumberingOk (s.started a b c) := by
  unfold State.started; rw [numberingOk_mk]; constructor <;> simp [State.reset, baleNumbers, ticketNumbers]
theorem numberingOk_inactive (s : State) (p) : NumberingOk (s.inactive p) := by
  unfold State.inactive; rw [numberingOk_mk]; constructor <;> simp [State.reset, baleNumbers, ticketNumbers]
theorem numberingOk_powerOn (s : State) (a b c) (h : NumberingOk s) : NumberingOk (s.powerOn a b c) := by
  unfold State.powerOn; split
  · exact numberingOk_inactive _ _
  · exact numberingOk_started _ _ _ _
theorem numberingOk_resetRelease (s : State) (a b c) (h : NumberingOk s) : NumberingOk (s.resetRelease a b c) := by
  unfold State.resetRelease; split
  · exact numberingOk_started _ _ _ _
  · rw [numberingOk_mk]; rw [numberingOk_def] at h; exact h
theorem numberingOk_powerFail (s : State) (h : NumberingOk s) : NumberingOk s.powerFail := numberingOk_inactive _ _
theorem numberingOk_resetAssert (s : State) (h : NumberingOk s) : NumberingOk s.resetAssert := by
  unfold State.resetAssert; rw [numberingOk_mk]; rw [numberingOk_def] at h; exact h
theorem numberingOk_ticked (s : State) (h : NumberingOk s) : NumberingOk s.ticked := by
  unfold State.ticked; rw [numberingOk_mk]; rw [numberingOk_def] at h; exact h


/-- What the statements ask of the numbering. -/
theorem numberingLaw_iff (s : State) : s.NumberingLaw ↔ NumberingOk s := by
  rw [numberingOk_def]
  have key : ∀ q : List Ticket, (∀ i (h : i < q.length), (q[i]).number + (q.length - i) = s.tickets.nextTicket) ↔
      (∀ i (h : i < (ticketNumbers q).length),
        (ticketNumbers q)[i] + ((ticketNumbers q).length - i) = s.tickets.nextTicket) := by
    intro q; simp [ticketNumbers]
  constructor
  · intro ⟨a, b, c, d, e⟩
    exact ⟨a, by simpa [baleNumbers] using b, c, (key _).1 d, e⟩
  · intro ⟨a, b, c, d, e⟩
    exact ⟨a, by simpa [baleNumbers] using b, c, (key _).2 d, e⟩

end Sys2Proof.Laws.Numbering
end

