-- ==== Sys2Proof/Laws/Requests.lean ====
section
/-! SUPPORT. What a request row does: its arguments decode, and on a ready part it is executed and answered at once. What the
end of an event of the Feed and Loading Unit does when the reason set has not changed. -/

namespace Sys2Proof.Machine

/-! ## Events -/

theorem whileActive_active {f : State → State} {s : State} (h : s.active = true) :
    whileActive f s = .next ((f s).arbitrated s.field.chosen) := by simp [whileActive, h]

theorem whileActive_inactive {f : State → State} {s : State} (h : s.active = false) :
    whileActive f s = .next s := by simp [whileActive, h]

/-- The end of an event that left the reason set as it was raises nothing and writes nothing. -/
theorem feedEvent_quiet {f : State → State} {s : State} (hold : (f s).feed.hold = s.feed.hold)
    (picker : (f s).feed.picker = s.feed.picker) (follows : s.feed.picker = s.pickerWanted) : feedEvent f s = f s := by
  have e : (f s).feed.picker = (f s).pickerWanted := by
    rw [picker, follows]; unfold State.pickerWanted; rw [hold]
  have h1 : (f s).judgeHeld s.feed.hold = f s := by
    unfold State.judgeHeld
    rw [hold]
    cases s.feed.hold.noKiln <;> cases s.feed.hold.chargeLimit <;> rfl
  unfold feedEvent
  rw [h1, State.judgePicker, if_pos e]

/-! ## Requests on the wire -/

theorem word16_bytes16 (w : Word16) : ∃ a b, bytes16 w = [a, b] ∧ word16 a b = w :=
  ⟨_, _, rfl, word16_split w⟩

theorem word32_bytes32 (w : Word32) : ∃ a b c d, bytes32 w = [a, b, c, d] ∧ word32 a b c d = w :=
  ⟨_, _, _, _, rfl, word32_split w⟩

theorem bytes16_length (w : Word16) : (bytes16 w).length = 2 := rfl
theorem bytes32_length (w : Word32) : (bytes32 w).length = 4 := rfl

/-- The arguments as laid out read back as the request (11.3). -/
theorem decodeRequest_args (r : Request) : decodeRequest r.kind r.args = some r := by
  cases r <;>
    simp [decodeRequest, Request.kind, Request.args, arg0, arg1, arg11, arg2, arg4, arg44, bytes16, bytes32,
      word16_split, word32_split]

/-- Executing the frame of a request performs the request and makes its reply pending (R171). -/
theorem executeFrame_request (s t : State) (tag : Byte) (r : Request) :
    s.executeFrame (t.requestFrame tag r) =
      (performRequest r s).state.answering tag r (performRequest r s).result (performRequest r s).data := by
  simp [State.executeFrame, State.requestFrame, mkFrame, Request.payload, performPayload, decodeRequest_args,
    State.setReply, State.answering, Request.replyBytes, replyPayload]

/-- A request that finds a ready part is executed at its admission (R43, R171). -/
theorem submit_ready {s : State} (h : s.classifier.requests = []) (tag : Byte) (r : Request) :
    State.submit tag r s =
      (performRequest r (s.admitted tag r)).state.answering tag r (performRequest r (s.admitted tag r)).result
        (performRequest r (s.admitted tag r)).data := by
  have e : State.submit tag r s = (s.admitted tag r).executeFrame (s.requestFrame tag r) := by
    simp [State.submit, State.admitRequest, h, Config.requestCapacity, State.executeHead, State.admitted]
  rw [e, executeFrame_request]

/-- The outcome of a request row on a ready part, from what the request answers. -/
theorem request_row {s : State} (h : s.Ready) (tag : Byte) (r : Request) {t : State} {res : Result} {data : List Byte}
    (p : performRequest r (s.admitted tag r) = { state := t, result := res, data := data }) :
    whileActive (State.submit tag r) s = .next ((t.answering tag r res data).arbitrated s.field.chosen) := by
  rw [whileActive_active h.1, submit_ready h.2, p]

/-- A refused request changes nothing but the Request Buffer and the pending REPLY. -/
theorem request_refused {s : State} (h : s.Ready) (tag : Byte) (r : Request) {res : Result}
    (p : performRequest r (s.admitted tag r) = refuse (s.admitted tag r) res) :
    whileActive (State.submit tag r) s = .next ((s.replied tag r res []).arbitrated s.field.chosen) := request_row h tag r p

/-- An accepted request row, from what the request answers. -/
theorem request_performed {s : State} (h : s.Ready) (tag : Byte) (r : Request) {f : State → State}
    {data : State → List Byte}
    (p : performRequest r (s.admitted tag r)
      = { state := f (s.admitted tag r), result := .ok, data := data (f (s.admitted tag r)) }) :
    whileActive (State.submit tag r) s = .next ((s.performed tag r f data).arbitrated s.field.chosen) := request_row h tag r p

/-- A request row brings its request to the Request Buffer. -/
theorem exec_request {c : Instr} {tag : Byte} {r : Request} (h : requestOf c = some (tag, r)) (s : State) :
    exec c s = whileActive (State.submit tag r) s := by
  cases c <;> simp only [requestOf, Option.some.injEq, Prod.mk.injEq, reduceCtorEq] at h <;>
    (obtain ⟨rfl, rfl⟩ := h; rfl)

end Sys2Proof.Machine
end

