-- ==== Sys2Proof/Laws/Lots.lean ====
section
/-! SUPPORT. What the lot and charge lookups read after a change of one record. -/

namespace Sys2Proof.Machine

theorem find?_map_of_same {α} (p : α → Bool) (f : α → α) (hp : ∀ a, p (f a) = p a) (l : List α) : (l.map f).find? p = (l.find? p).map f := by
  induction l with
  | nil => rfl
  | cons a l ih => simp only [List.map_cons, List.find?_cons, hp]; cases p a <;> simp [ih]

theorem lot_updLot (s : State) (n m : Nat) (f : Lot → Lot) (hf : ∀ l, (f l).number = l.number) :
    (s.updLot n f).lot? m = (s.lot? m).map (fun l => if m = n then f l else l) := by
  unfold State.lot?
  show (s.table.lots.map _).find? _ = _
  rw [find?_map_of_same]
  · cases h : s.table.lots.find? (fun l => decide (l.number = m)) with
    | none => rfl
    | some l =>
      have := List.find?_some h
      simp only [decide_eq_true_eq] at this
      simp [this]
  · intro a; split <;> simp [hf]

theorem charge_updCharge (s : State) (r : ChargeRef) (f : Charge → Charge) :
    (s.updCharge r f).charge? r = (s.charge? r).map f := by
  unfold State.charge? State.updCharge
  rw [lot_updLot (hf := by intro l; rfl)]
  cases s.lot? r.lot with
  | none => rfl
  | some l => simp [Lot.updCharge]


end Sys2Proof.Machine
end

