-- ==== Sys2Proof/Laws/KeptAccounts.lean ====
section
/-! SUPPORT. Every operation keeps the accounts of bales, nets and tickets, with the numbering and the law of the green weight that they
rest on (R5, R7, R8, R9, R123, R144). -/

namespace Sys2Proof.Laws.Accounts

set_option linter.all false
set_option maxHeartbeats 1000000

open Sys2Proof Sys2Proof.Machine Sys2Proof.Laws


/-- What ties the kilns, the Press Queue and the charges in the kilns. -/
structure KilnsAre (kst : Kiln → KilnState) (kch : Kiln → Option ChargeRef) (hd : Option Kiln) (dr : List Kiln) (ch : ChargeRef → Option Charge) : Prop where
  charge : ∀ k r, kch k = some r → ∃ c, ch r = some c ∧ c.kiln = k ∧ (kst k).chargeState = some c.state
  free : ∀ k, kch k = none → kst k = .empty
  head : ∀ k, kst k = .unloading ↔ hd = some k
  tail : ∀ k, kst k = .dried ↔ k ∈ dr

/-- What ties bales, tickets and waiting charges to the charges. -/
structure PapersAre (ch : ChargeRef → Option Charge) (bs : List Bale) (ts : List Ticket) (w : List ChargeRef) : Prop where
  finals : ∀ r c, ch r = some c → c.finalTicket ≠ none → c.state = .pressed ∨ c.state = .ticketed
  bales : ∀ b ∈ bs, ∃ c, ch b.charge = some c ∧ c.state.AtPress ∧ (b.ticket = none → c.finalTicket = none)
  waits : ∀ r ∈ w, ∃ c, ch r = some c ∧ c.state.AtPress ∧ c.finalTicket = none
  waitsOnce : w.Nodup
  tickets : ∀ t ∈ ts, ∃ c, ch t.charge = some c ∧ c.state.AtPress ∧ (t.final = true → c.finalTicket = some t.number)
  finalLast : ts.Pairwise (fun t u => t.final = true → u.charge ≠ t.charge)
  listed : ∀ b ∈ bs, ∀ n, b.ticket = some n → ∃ t ∈ ts, t.number = n ∧ t.charge = b.charge
  weighed : ∀ b ∈ bs, b.net = none ↔ b.status ≠ .weighed
  lines : ∀ t ∈ ts, t.lines.map (fun x => (x.bale, some x.net))
    = (bs.filter (fun b => b.ticket = some t.number)).map (fun b => (b.number, b.net))
  totalNet : ∀ t ∈ ts, t.totalNet = wrap32 (t.lines.map (fun x => x.net)).sum

/-- R7 and R8 for the lot of a number. -/
structure SumsAre (n : Nat) (l : Lot) (bs : List Bale) (ts : List Ticket) : Prop where
  bales : l.baleCount = (bs.filter (fun b => b.lot = n)).length + l.releasedBales
  net : l.netTotal = wrap32 (netSum (bs.filter (fun b => b.lot = n)) + l.releasedNet)
  released : wrap32 l.releasedNet = l.releasedNet
  chargeBales : l.baleCount = (l.charges.map (fun c => c.bales)).sum
  chargeNet : l.netTotal = wrap32 (l.charges.map (fun c => c.net)).sum
  tickets : l.ticketsIssued = l.ticketsTaken + (ts.filter (fun t => t.lot = n)).length

/-- An open lot has no charge, and every lot accounts. -/
structure LotsAre (L : Nat → Option Lot) (bs : List Bale) (ts : List Ticket) : Prop where
  opened : ∀ n l, L n = some l → l.state = .opened → l.charges = []
  sums : ∀ n l, L n = some l → SumsAre n l bs ts

/-! ## the views -/
def kindIn (run : Vector KilnRun 6) (k : Kiln) : KilnState := run[k].state
def heldIn (run : Vector KilnRun 6) (k : Kiln) : Option ChargeRef := run[k].charge
def lotIn (ls : List Lot) (n : Nat) : Option Lot := ls.find? (fun l => l.number = n)
def chargeIn (ls : List Lot) (r : ChargeRef) : Option Charge := (lotIn ls r.lot).bind (fun l => l.charges[r.index]?)

/-! ## charges -/
/-- the charges in kilns keep kiln and state -/
theorem KilnsAre.charges {kst kch hd dr ch ch'} (h : KilnsAre kst kch hd dr ch)
    (e : ∀ k r c, kch k = some r → ch r = some c → ∃ c', ch' r = some c' ∧ c'.kiln = c.kiln ∧ c'.state = c.state) : KilnsAre kst kch hd dr ch' := by
  refine ⟨?_, h.free, h.head, h.tail⟩
  intro k r hk
  obtain ⟨c, h1, h2, h3⟩ := h.charge k r hk
  obtain ⟨c', g1, g2, g3⟩ := e k r c hk h1
  exact ⟨c', g1, by rw [g2, h2], by rw [g3, h3]⟩
theorem PapersAre.charges {ch ch' bs ts w} (h : PapersAre ch bs ts w)
    (hf : ∀ r c, ch' r = some c → c.finalTicket ≠ none → c.state = .pressed ∨ c.state = .ticketed)
    (e : ∀ r c, ch r = some c → c.state.AtPress → ∃ c', ch' r = some c' ∧ c'.state.AtPress ∧ c'.finalTicket = c.finalTicket) : PapersAre ch' bs ts w := by
  refine ⟨hf, ?_, ?_, h.waitsOnce, ?_, h.finalLast, h.listed, h.weighed, h.lines, h.totalNet⟩
  · intro b hb; obtain ⟨c, h1, h2, h3⟩ := h.bales b hb
    obtain ⟨c', g1, g2, g3⟩ := e _ c h1 h2
    exact ⟨c', g1, g2, by rw [g3]; exact h3⟩
  · intro b hb; obtain ⟨c, h1, h2, h3⟩ := h.waits b hb
    obtain ⟨c', g1, g2, g3⟩ := e _ c h1 h2
    exact ⟨c', g1, g2, by rw [g3]; exact h3⟩
  · intro b hb; obtain ⟨c, h1, h2, h3⟩ := h.tickets b hb
    obtain ⟨c', g1, g2, g3⟩ := e _ c h1 h2
    exact ⟨c', g1, g2, by rw [g3]; exact h3⟩

/-- a lot changes, not its charges -/
theorem lotIn_map (ls : List Lot) (n m : Nat) (f : Lot → Lot) (hf : ∀ l, (f l).number = l.number) :
    lotIn (ls.map (fun l => if l.number = n then f l else l)) m = (lotIn ls m).map (fun l => if m = n then f l else l) := by
  unfold lotIn
  rw [find?_map_of_same]
  · cases h : ls.find? (fun l => decide (l.number = m)) with
    | none => rfl
    | some l => have := List.find?_some h; simp only [decide_eq_true_eq] at this; simp [this]
  · intro a; split <;> simp [hf]
theorem lotIn_number {ls n l} (h : lotIn ls n = some l) : l.number = n := by
  have := List.find?_some h; simpa using this
theorem lotIn_mem {ls n l} (h : lotIn ls n = some l) : l ∈ ls := List.mem_of_find?_eq_some h

/-- the charges after one of them changed -/
theorem chargeIn_upd (ls : List Lot) (r r' : ChargeRef) (f : Charge → Charge) :
    chargeIn (ls.map (fun l => if l.number = r.lot then Lot.updCharge r.index f l else l)) r' = (chargeIn ls r').map (fun c => if r' = r then f c else c) := by
  unfold chargeIn
  rw [lotIn_map (hf := by intro l; rfl)]
  cases lotIn ls r'.lot with
  | none => rfl
  | some l =>
    obtain ⟨n, i⟩ := r; obtain ⟨n', i'⟩ := r'
    by_cases e : n' = n
    · subst e
      by_cases e2 : i' = i
      · subst e2; simp [Lot.updCharge]
      · have : i ≠ i' := fun h => e2 h.symm
        simp [Lot.updCharge, e2, List.getElem?_modify, this]
    · simp [e]
/-- the charges after a lot changed elsewhere -/
theorem chargeIn_lot (ls : List Lot) (n : Nat) (r : ChargeRef) (f : Lot → Lot) (hf : ∀ l, (f l).number = l.number) (hc : ∀ l, (f l).charges = l.charges) :
    chargeIn (ls.map (fun l => if l.number = n then f l else l)) r = chargeIn ls r := by
  unfold chargeIn
  rw [lotIn_map _ _ _ _ hf]
  cases lotIn ls r.lot with
  | none => rfl
  | some l => by_cases e : r.lot = n <;> simp [e, hc]
theorem LotsAre.upd {ls n bs ts bs' ts'} {f : Lot → Lot} (h : LotsAre (lotIn ls) bs ts) (hf : ∀ l, (f l).number = l.number)
    (ho : ∀ l, lotIn ls n = some l → (f l).state = .opened → (f l).charges = [])
    (hs : ∀ l, lotIn ls n = some l → SumsAre n l bs ts → SumsAre n (f l) bs' ts')
    (hs' : ∀ m l, m ≠ n → lotIn ls m = some l → SumsAre m l bs ts → SumsAre m l bs' ts') :
    LotsAre (lotIn (ls.map (fun l => if l.number = n then f l else l))) bs' ts' := by
  constructor
  · intro m l hm hst
    rw [lotIn_map _ _ _ _ hf] at hm
    cases hl : lotIn ls m with
    | none => rw [hl] at hm; simp at hm
    | some l0 =>
      rw [hl] at hm; simp at hm; subst hm
      by_cases e : m = n
      · subst e; simp only [if_true] at hst ⊢; exact ho _ hl hst
      · rw [if_neg e] at hst ⊢; exact h.opened _ _ hl hst
  · intro m l hm
    rw [lotIn_map _ _ _ _ hf] at hm
    cases hl : lotIn ls m with
    | none => rw [hl] at hm; simp at hm
    | some l0 =>
      rw [hl] at hm; simp at hm; subst hm
      by_cases e : m = n
      · subst e; simp only [if_true]; exact hs _ hl (h.sums _ _ hl)
      · rw [if_neg e]; exact hs' _ _ e hl (h.sums _ _ hl)

/-- the numbers of a charge list after one entry changed -/
theorem map_modify_same {β} (cs : List Charge) (i : Nat) (f : Charge → Charge) (g : Charge → β) (hf : ∀ c, g (f c) = g c) :
    (cs.modify i f).map g = cs.map g := by
  induction cs generalizing i with
  | nil => simp
  | cons c cs ih => cases i <;> simp [hf, ih]
theorem sum_modify_bales (cs : List Charge) (i : Nat) (c : Charge) (hi : cs[i]? = some c) :
    ((cs.modify i (fun c => { c with bales := c.bales + 1 })).map (fun c => c.bales)).sum = (cs.map (fun c => c.bales)).sum + 1 := by
  induction cs generalizing i with
  | nil => simp at hi
  | cons c cs ih =>
    cases i with
    | zero => simp; omega
    | succ i => simp at hi; simp [ih i hi]; omega
theorem wrap32_wrap_add (a b : Int) : wrap32 (wrap32 a + b) = wrap32 (a + b) := by simp [wrap32]
theorem wrap32_add_wrap (a b : Int) : wrap32 (a + wrap32 b) = wrap32 (a + b) := by simp [wrap32]
theorem wrap32_wrap (a : Int) : wrap32 (wrap32 a) = wrap32 a := by simp [wrap32]
theorem sum_modify_net (cs : List Charge) (i : Nat) (c : Charge) (d : Int) (hi : cs[i]? = some c) :
    wrap32 ((cs.modify i (fun c => { c with net := wrap32 (c.net + d) })).map (fun c => c.net)).sum = wrap32 ((cs.map (fun c => c.net)).sum + d) := by
  induction cs generalizing i with
  | nil => simp at hi
  | cons c cs ih =>
    cases i with
    | zero => simp; rw [wrap32_wrap_add]; congr 1; omega
    | succ i =>
      simp at hi; simp
      have := ih i hi
      rw [← wrap32_add_wrap, this, wrap32_add_wrap]; congr 1; omega

/-- a bookkeeping change of charges that the accounts do not read -/
theorem SumsAre.modify {n l bs ts} (h : SumsAre n l bs ts) (i : Nat) (f : Charge → Charge) (h1 : ∀ c, (f c).bales = c.bales) (h2 : ∀ c, (f c).net = c.net) :
    SumsAre n (Lot.updCharge i f l) bs ts := by
  refine ⟨h.bales, h.net, h.released, ?_, ?_, h.tickets⟩
  · simp only [Lot.updCharge]; rw [map_modify_same _ _ _ _ h1]; exact h.chargeBales
  · simp only [Lot.updCharge]; rw [map_modify_same _ _ _ _ h2]; exact h.chargeNet
theorem charge_unique {kst kch hd dr ch} (h : KilnsAre kst kch hd dr ch) {j k r} (hj : kch j = some r) (hk : kch k = some r) : j = k := by
  obtain ⟨c, h1, h2, _⟩ := h.charge j r hj
  obtain ⟨c', g1, g2, _⟩ := h.charge k r hk
  rw [h1] at g1; cases g1; rw [← h2, ← g2]

/-- one kiln and its charge go on to a next state -/
theorem KilnsAre.move {kst kch hd dr ch hd' dr' k r c} (h : KilnsAre kst kch hd dr ch) (hk : kch k = some r) (hc : ch r = some c) {st : KilnState} {c' : Charge}
    (h1 : c'.kiln = c.kiln) (h2 : st.chargeState = some c'.state)
    (hh : ∀ j, (if k = j then st else kst j) = .unloading ↔ hd' = some j) (ht : ∀ j, (if k = j then st else kst j) = .dried ↔ j ∈ dr') :
    KilnsAre (fun j => if k = j then st else kst j) kch hd' dr' (fun r' => if r' = r then some c' else ch r') := by
  refine ⟨?_, ?_, hh, ht⟩
  · intro j r' hj
    by_cases e : k = j
    · subst e
      rw [hk] at hj; cases hj
      obtain ⟨c0, g1, g2, _⟩ := h.charge k r hk
      rw [hc] at g1; cases g1
      exact ⟨c', by simp, by rw [h1, g2], by simpa using h2⟩
    · have : r' ≠ r := by rintro rfl; exact e (charge_unique h hk hj)
      simp only [this, if_false, e]
      exact h.charge j r' hj
  · intro j hj
    have : k ≠ j := by rintro rfl; rw [hk] at hj; cases hj
    simp only [this, if_false]; exact h.free j hj
theorem LotsAre.modify {ls bs ts} (h : LotsAre (lotIn ls) bs ts) (r : ChargeRef) (f : Charge → Charge) (h1 : ∀ c, (f c).bales = c.bales) (h2 : ∀ c, (f c).net = c.net) :
    LotsAre (lotIn (ls.map (fun l => if l.number = r.lot then Lot.updCharge r.index f l else l))) bs ts :=
  h.upd (by intro l; rfl) (by intro l hl ho; have := h.opened _ _ hl ho; simp [Lot.updCharge, this]) (fun l _ hs => hs.modify _ _ h1 h2) (fun _ _ _ _ hs => hs)

/-- The accounts with the press's head and the DRIED kilns named apart: they hold within an event also while the queue is behind. -/
@[irreducible] def AccountsAt (hd : Option Kiln) (dr : List Kiln) (s : State) : Prop :=
  KilnsAre (kindIn s.kilns.run) (heldIn s.kilns.run) hd dr (chargeIn s.table.lots) ∧
  PapersAre (chargeIn s.table.lots) s.press.bales s.tickets.queue s.tickets.wait ∧
  LotsAre (lotIn s.table.lots) s.press.bales s.tickets.queue
variable {hd : Option Kiln} {dr : List Kiln}
theorem accountsAt_def (hd dr) (s : State) : AccountsAt hd dr s = (KilnsAre (kindIn s.kilns.run) (heldIn s.kilns.run) hd dr (chargeIn s.table.lots) ∧
  PapersAre (chargeIn s.table.lots) s.press.bales s.tickets.queue s.tickets.wait ∧
  LotsAre (lotIn s.table.lots) s.press.bales s.tickets.queue) := by unfold AccountsAt; rfl
/-- Nothing that the accounts read has changed. -/
theorem accountsAt_congr (s t : State) (h : AccountsAt hd dr s) (e1 : t.table.lots = s.table.lots) (e2 : kindIn t.kilns.run = kindIn s.kilns.run) (e3 : heldIn t.kilns.run = heldIn s.kilns.run)
    (e4 : t.press.bales = s.press.bales) (e5 : t.tickets.queue = s.tickets.queue) (e6 : t.tickets.wait = s.tickets.wait) : AccountsAt hd dr t := by
  rw [accountsAt_def] at *; rw [e1,e2,e3,e4,e5,e6]; exact h
theorem kindIn_set (v : Vector KilnRun 6) (k : Kiln) (r : KilnRun) : kindIn (v.set k r) = fun j => if k = j then r.state else kindIn v j := by
  funext j; unfold kindIn; rw [Green.run_set]; split <;> rfl
theorem heldIn_set (v : Vector KilnRun 6) (k : Kiln) (r : KilnRun) : heldIn (v.set k r) = fun j => if k = j then r.charge else heldIn v j := by
  funext j; unfold heldIn; rw [Green.run_set]; split <;> rfl
theorem kindIn_kiln (s : State) (k : Kiln) : kindIn s.kilns.run k = (s.kiln k).state := rfl
theorem heldIn_kiln (s : State) (k : Kiln) : heldIn s.kilns.run k = (s.kiln k).charge := rfl
theorem ite_self_fun {α} (f : Kiln → α) (k : Kiln) (a : α) (h : a = f k) : (fun j => if k = j then a else f j) = f := by
  funext j; split
  · rename_i e; subst e; exact h
  · rfl
/-- The kiln keeps its state and its charge. -/
theorem accountsAt_updKilnSame (s : State) (k : Kiln) (f : KilnRun → KilnRun) (h : AccountsAt hd dr s) (hs : ∀ r, (f r).state = r.state) (hc : ∀ r, (f r).charge = r.charge) : AccountsAt hd dr (s.updKiln k f) := by
  refine accountsAt_congr s (s.updKiln k f) h rfl ?_ ?_ rfl rfl rfl
  · rw [updKiln_run, kindIn_set, ite_self_fun]; rw [hs]; rfl
  · rw [updKiln_run, heldIn_set, ite_self_fun]; rw [hc]; rfl
theorem accountsAt_writeBurner (s : State) (k) (h : AccountsAt hd dr s) : AccountsAt hd dr (s.writeBurner k) := by
  apply accountsAt_congr _ _ h (by simp) ?_ ?_ (by simp) (by simp) (by simp)
  · funext j; simp only [kindIn_kiln, Green.writeBurner_kiln]; split
    · rename_i e; subst e; rfl
    · rfl
  · funext j; simp only [heldIn_kiln, Green.writeBurner_kiln]; split
    · rename_i e; subst e; rfl
    · rfl
/-- A lot changes in what its accounts and charges do not read. -/
theorem accountsAt_updLotOf (s : State) (n : Nat) (f : Lot → Lot) (h : AccountsAt hd dr s) (hn : ∀ l, (f l).number = l.number) (hc : ∀ l, (f l).charges = l.charges)
    (ho : ∀ l, (f l).state = .opened → l.state = .opened) (ha : ∀ l bs ts, SumsAre n l bs ts → SumsAre n (f l) bs ts) : AccountsAt hd dr (s.updLot n f) := by
  rw [accountsAt_def] at *
  obtain ⟨a, b, c⟩ := h
  simp only [updLot_lots, updLot_frame]
  have e : chargeIn (s.table.lots.map (fun l => if l.number = n then f l else l)) = chargeIn s.table.lots := by
    funext r; exact chargeIn_lot _ _ _ _ hn hc
  rw [e]
  exact ⟨a, b, c.upd hn (fun l hl hs => by rw [hc]; exact c.opened _ _ hl (ho _ hs)) (fun l _ hs => ha _ _ _ hs) (fun _ _ _ _ hs => hs)⟩
/-- A charge changes in what the accounts do not read. -/
theorem accountsAt_updChargeOf (s : State) (r : ChargeRef) (f : Charge → Charge) (h : AccountsAt hd dr s)
    (h1 : ∀ c, (f c).kiln = c.kiln) (h2 : ∀ c, (f c).state = c.state) (h3 : ∀ c, (f c).finalTicket = c.finalTicket) (h4 : ∀ c, (f c).bales = c.bales) (h5 : ∀ c, (f c).net = c.net) : AccountsAt hd dr (s.updCharge r f) := by
  rw [accountsAt_def] at *
  obtain ⟨a, b, c⟩ := h
  simp only [updCharge_lots, updCharge_frame]
  have e := chargeIn_upd s.table.lots r
  refine ⟨a.charges ?_, b.charges ?_ ?_, c.modify _ _ h4 h5⟩
  · intro k r' x _ hx
    rw [e, hx]; refine ⟨_, rfl, ?_, ?_⟩ <;> split <;> simp [h1, h2]
  · intro r' x hx
    rw [e] at hx
    cases hx' : chargeIn s.table.lots r' with
    | none => rw [hx'] at hx; simp at hx
    | some x0 =>
      rw [hx'] at hx; simp at hx; subst hx
      have := b.finals r' x0 hx'
      split <;> simpa [h2, h3] using this
  · intro r' x hx hp
    rw [e, hx]; refine ⟨_, rfl, ?_, ?_⟩
    · split <;> simpa [h2] using hp
    · split <;> simp [h3]
theorem accountsAt_updKilnChargeOf (s : State) (k : Kiln) (f : Charge → Charge) (h : AccountsAt hd dr s)
    (h1 : ∀ c, (f c).kiln = c.kiln) (h2 : ∀ c, (f c).state = c.state) (h3 : ∀ c, (f c).finalTicket = c.finalTicket) (h4 : ∀ c, (f c).bales = c.bales) (h5 : ∀ c, (f c).net = c.net) : AccountsAt hd dr (s.updKilnCharge k f) := by
  unfold State.updKilnCharge
  split
  · exact h
  · exact accountsAt_updChargeOf _ _ _ h h1 h2 h3 h4 h5

/-- A kiln and its charge go on to a next state, and no paper of the charge is lost. -/
theorem accountsAt_moves (s t : State) (k : Kiln) (r : ChargeRef) (st : KilnState) (g : Charge → Charge) (h : AccountsAt hd dr s) {hd' dr'} (hk : (s.kiln k).charge = some r)
    (e1 : t.table.lots = s.table.lots.map (fun l => if l.number = r.lot then Lot.updCharge r.index g l else l)) (e2 : kindIn t.kilns.run = fun j => if k = j then st else kindIn s.kilns.run j)
    (e3 : heldIn t.kilns.run = heldIn s.kilns.run) (e4 : t.press.bales = s.press.bales) (e5 : t.tickets.queue = s.tickets.queue) (e6 : t.tickets.wait = s.tickets.wait)
    (g1 : ∀ c, (g c).kiln = c.kiln) (g3 : ∀ c, (g c).finalTicket = c.finalTicket) (g4 : ∀ c, (g c).bales = c.bales) (g5 : ∀ c, (g c).net = c.net)
    (hst : ∀ c, (s.kiln k).state.chargeState = some c.state → st.chargeState = some (g c).state)
    (hfin : ∀ c : Charge, (s.kiln k).state.chargeState = some c.state → (c.state = .pressed ∨ c.state = .ticketed) → ((g c).state = .pressed ∨ (g c).state = .ticketed))
    (hat : ∀ c : Charge, (s.kiln k).state.chargeState = some c.state → c.state.AtPress → (g c).state.AtPress)
    (hh : ∀ j, (if k = j then st else (s.kiln j).state) = .unloading ↔ hd' = some j) (ht : ∀ j, (if k = j then st else (s.kiln j).state) = .dried ↔ j ∈ dr') :
    AccountsAt hd' dr' t := by
  rw [accountsAt_def] at *
  obtain ⟨a, b, c⟩ := h
  obtain ⟨x, x1, x2, x3⟩ := a.charge k r hk
  rw [e1, e2, e3, e4, e5, e6]
  have e : chargeIn (s.table.lots.map (fun l => if l.number = r.lot then Lot.updCharge r.index g l else l)) = fun r' => if r' = r then some (g x) else chargeIn s.table.lots r' := by
    funext r'; rw [chargeIn_upd]; split
    · rename_i e; subst e; rw [x1]; simp
    · simp
  rw [e]
  refine ⟨a.move hk x1 (g1 _) (hst _ x3) hh ht, b.charges ?_ ?_, c.modify _ _ g4 g5⟩
  · intro r' y hy hfy
    split at hy
    · rename_i er; cases hy; subst er
      rw [g3] at hfy
      exact hfin _ x3 (b.finals _ _ x1 hfy)
    · exact b.finals _ _ hy hfy
  · intro r' y hy hp
    by_cases er : r' = r
    · subst er; rw [x1] at hy; cases hy
      exact ⟨_, by simp, hat _ x3 hp, g3 _⟩
    · exact ⟨y, by simp [er, hy], hp, rfl⟩
theorem accountsAt_held (s : State) (k : Kiln) (h : AccountsAt hd dr s) (hne : (s.kiln k).state ≠ .empty) : ∃ r c, (s.kiln k).charge = some r ∧ chargeIn s.table.lots r = some c := by
  rw [accountsAt_def] at h
  cases hk : (s.kiln k).charge with
  | none => exact absurd (h.1.free k hk) hne
  | some r => obtain ⟨c, hc, _⟩ := h.1.charge k r hk; exact ⟨r, c, rfl, hc⟩
theorem accountsAt_moved (s : State) (k : Kiln) (f : KilnRun → KilnRun) (g : Charge → Charge) (h : AccountsAt hd dr s) {hd' dr'} (hch : ∀ r, (f r).charge = r.charge)
    (hne : (s.kiln k).state ≠ .empty)
    (g1 : ∀ c, (g c).kiln = c.kiln) (g3 : ∀ c, (g c).finalTicket = c.finalTicket) (g4 : ∀ c, (g c).bales = c.bales) (g5 : ∀ c, (g c).net = c.net)
    (hst : ∀ c, (s.kiln k).state.chargeState = some c.state → (f (s.kiln k)).state.chargeState = some (g c).state)
    (hfin : ∀ c : Charge, (s.kiln k).state.chargeState = some c.state → (c.state = .pressed ∨ c.state = .ticketed) → ((g c).state = .pressed ∨ (g c).state = .ticketed))
    (hat : ∀ c : Charge, (s.kiln k).state.chargeState = some c.state → c.state.AtPress → (g c).state.AtPress)
    (hh : ∀ j, (if k = j then (f (s.kiln k)).state else (s.kiln j).state) = .unloading ↔ hd' = some j) (ht : ∀ j, (if k = j then (f (s.kiln k)).state else (s.kiln j).state) = .dried ↔ j ∈ dr') :
    AccountsAt hd' dr' ((s.updKiln k f).updKilnCharge k g) := by
  obtain ⟨r, x, hk, hx⟩ := accountsAt_held s k h hne
  have hk' : ((s.updKiln k f).kiln k).charge = some r := by rw [kiln_updKiln]; simp [hch, hk]
  apply accountsAt_moves s _ k r (f (s.kiln k)).state g h hk _ _ _ _ _ _ g1 g3 g4 g5 hst hfin hat hh ht
  all_goals unfold State.updKilnCharge; rw [hk']
  all_goals simp only [updCharge_lots, updCharge_frame, updKiln_run, updKiln_frame]
  · rw [kindIn_set]; rfl
  · rw [heldIn_set, ite_self_fun]; rw [hch]; rfl

/-- The kiln goes from one of the four states after the fill to another of them. -/
theorem accountsAt_updKilnFree (s : State) (k : Kiln) (f : KilnRun → KilnRun) (h : AccountsAt hd dr s) (hf : Green.free (s.kiln k).state = true)
    (hl : Green.free (f (s.kiln k)).state = true) (hc : ∀ r, (f r).charge = r.charge) : AccountsAt hd dr (s.updKiln k f) := by
  rw [accountsAt_def] at *
  obtain ⟨a, b, c⟩ := h
  simp only [updKiln_run, updKiln_frame]
  have e2 : heldIn (s.kilns.run.set k (f s.kilns.run[k])) = heldIn s.kilns.run := by
    rw [heldIn_set, ite_self_fun]; rw [hc]; rfl
  have e0 : ∀ st : KilnState, Green.free st = true → st.chargeState = some .kilning ∧ st ≠ .unloading ∧ st ≠ .dried ∧ st ≠ .empty := by
    intro st; cases st <;> simp [Green.free, KilnState.chargeState]
  have h1 := e0 _ hf
  have h2 := e0 _ hl
  have hk : kindIn s.kilns.run k = (s.kiln k).state := rfl
  rw [e2, kindIn_set]
  refine ⟨⟨?_, ?_, ?_, ?_⟩, b, c⟩
  · intro j r hj
    obtain ⟨x, x1, x2, x3⟩ := a.charge j r hj
    refine ⟨x, x1, x2, ?_⟩
    split
    · rename_i e; subst e; rw [hk, h1.1] at x3
      exact h2.1.trans x3
    · exact x3
  · intro j hj
    have := a.free j hj
    split
    · rename_i e; subst e; rw [hk] at this; exact absurd this h1.2.2.2
    · exact this
  · intro j; rw [← a.head]; split
    · rename_i e; subst e
      rw [hk]; exact ⟨fun x => absurd x h2.2.1, fun x => absurd x h1.2.1⟩
    · exact Iff.rfl
  · intro j; rw [← a.tail]; split
    · rename_i e; subst e
      rw [hk]; exact ⟨fun x => absurd x h2.2.2.1, fun x => absurd x h1.2.2.1⟩
    · exact Iff.rfl

/-- A queued kiln becomes the head. -/
theorem accountsAt_becomeHead (s : State) (k : Kiln) (rest : List Kiln) (h : AccountsAt none (k :: rest) s) (hk : k ∉ rest) : AccountsAt (some k) rest (s.becomeHead k) := by
  have hs : (s.kiln k).state = .dried := by rw [accountsAt_def] at h; exact (h.1.tail k).mpr (by simp)
  unfold State.becomeHead
  apply accountsAt_moved s k _ _ h (by intro r; rfl) (by rw [hs]; simp) (by intro c; rfl) (by intro c; rfl) (by intro c; rfl) (by intro c; rfl)
  · intro c _; rfl
  · intro c hc; rw [hs] at hc; simp [KilnState.chargeState] at hc; simp [← hc]
  · intro c hc _; exact Or.inl rfl
  · intro j
    rw [accountsAt_def] at h
    have := h.1.head j
    rw [kindIn_kiln] at this
    split
    · rename_i e; subst e; simp
    · rename_i e; rw [this]; simp [e]
  · intro j
    rw [accountsAt_def] at h
    have := h.1.tail j
    rw [kindIn_kiln] at this
    split
    · rename_i e; subst e; simp [hk]
    · rename_i e; rw [this]; simp; intro e'; exact absurd e'.symm e
/-- A kiln and its charge go dried. -/
theorem accountsAt_dried (s : State) (k : Kiln) (f : KilnRun → KilnRun) (g : Charge → Charge) (h : AccountsAt hd dr s) (hf : Green.free (s.kiln k).state = true)
    (f1 : ∀ r, (f r).charge = r.charge) (f2 : ∀ r, (f r).state = .dried)
    (g1 : ∀ c, (g c).kiln = c.kiln) (g2 : ∀ c, (g c).state = .awaitPress) (g3 : ∀ c, (g c).finalTicket = c.finalTicket) (g4 : ∀ c, (g c).bales = c.bales) (g5 : ∀ c, (g c).net = c.net) :
    AccountsAt hd (dr ++ [k]) ((s.updKiln k f).updKilnCharge k g) := by
  have e0 : ∀ st : KilnState, Green.free st = true → st.chargeState = some .kilning ∧ st ≠ .unloading ∧ st ≠ .dried ∧ st ≠ .empty := by
    intro st; cases st <;> simp [Green.free, KilnState.chargeState]
  have h1 := e0 _ hf
  have hq := h
  rw [accountsAt_def] at hq
  have hH := fun j => hq.1.head j
  have hT := fun j => hq.1.tail j
  simp only [kindIn_kiln] at hH hT
  apply accountsAt_moved s k _ _ h f1 h1.2.2.2 g1 g3 g4 g5
  · intro c _; rw [f2, g2]; rfl
  · intro c hc; rw [h1.1] at hc; simp at hc; simp [← hc]
  · intro c hc; rw [h1.1] at hc; simp at hc; simp [← hc, ChargeState.AtPress]
  · intro j; rw [← hH]; split
    · rename_i e; subst e; rw [f2]; simp; exact h1.2.1
    · exact Iff.rfl
  · intro j; simp only [List.mem_append, List.mem_singleton]; rw [← hT]; split
    · rename_i e; subst e; rw [f2]; simp
    · rename_i e; constructor
      · exact Or.inl
      · rintro (x | x)
        · exact x
        · exact absurd x.symm e

/-- The accounts of a state. -/
def AccountsIn (s : State) : Prop := AccountsAt s.press.queue.head? s.press.queue.tail s
theorem accountsIn_congr (s t : State) (h : AccountsIn s) (e0 : t.press.queue = s.press.queue) (e1 : t.table.lots = s.table.lots) (e2 : kindIn t.kilns.run = kindIn s.kilns.run) (e3 : heldIn t.kilns.run = heldIn s.kilns.run)
    (e4 : t.press.bales = s.press.bales) (e5 : t.tickets.queue = s.tickets.queue) (e6 : t.tickets.wait = s.tickets.wait) : AccountsIn t := by
  unfold AccountsIn at *; rw [e0]; exact accountsAt_congr s t h e1 e2 e3 e4 e5 e6
theorem accountsIn_judgePress (s : State) (h : AccountsIn s) : AccountsIn s.judgePress := accountsIn_congr s _ h (by simp) (by simp) (by simp) (by simp) (by simp) (by simp) (by simp)
theorem accountsIn_judgeStore (s : State) (h : AccountsIn s) : AccountsIn s.judgeStore := accountsIn_congr s _ h (by simp) (by simp) (by simp) (by simp) (by simp) (by simp) (by simp)
theorem accountsIn_raise (s : State) (k o v) (h : AccountsIn s) : AccountsIn (s.raise k o v) := accountsIn_congr s _ h (by simp) (by simp) (by simp) (by simp) (by simp) (by simp) (by simp)
theorem accountsIn_joinPressQueue (s : State) (k : Kiln) (h : AccountsAt s.press.queue.head? (s.press.queue.tail ++ [k]) s) : AccountsIn (s.joinPressQueue k) := by
  unfold State.joinPressQueue
  dsimp only
  split
  · rename_i e
    apply accountsIn_judgePress
    rw [e] at h
    have h0 := accountsAt_becomeHead { s with press := { s.press with queue := s.press.queue ++ [k] } } k [] (accountsAt_congr s _ h rfl rfl rfl rfl rfl rfl) (by simp)
    unfold AccountsIn
    simp only [becomeHead_frame, e]
    simpa [e] using h0
  · rename_i e
    unfold AccountsIn
    have e1 : (s.press.queue ++ [k]).head? = s.press.queue.head? := by cases hq : s.press.queue with | nil => exact absurd hq e | cons => rfl
    have e2 : (s.press.queue ++ [k]).tail = s.press.queue.tail ++ [k] := by cases hq : s.press.queue with | nil => exact absurd hq e | cons => rfl
    simp only [e1, e2]
    exact accountsAt_congr s _ h rfl rfl rfl rfl rfl rfl
theorem accountsIn_kilnDried (s : State) (k : Kiln) (h : AccountsIn s) (hf : Green.free (s.kiln k).state = true) : AccountsIn (s.kilnDried k) := by
  unfold State.kilnDried
  dsimp only
  apply accountsIn_joinPressQueue
  have h1 := accountsAt_dried s k (fun r => { r with state := .dried, overLimit := 0, dryQualify := 0, hold := {} }) (fun c => { c with state := .awaitPress, dried := some s.now }) h hf
    (by intro r; rfl) (by intro r; rfl) (by intro r; rfl) (by intro r; rfl) (by intro r; rfl) (by intro r; rfl) (by intro r; rfl)
  have h2 := accountsAt_writeBurner _ k h1
  simp only [raise_frame, writeBurner_frame, updKilnCharge_frame, updKiln_frame]
  exact accountsAt_congr _ _ h2 (by simp) (by simp) (by simp) (by simp) (by simp) (by simp)
/-- The head kiln is empty and its charge pressed. -/
theorem accountsAt_emptied (s : State) (k : Kiln) (h : AccountsAt (some k) dr s) : AccountsAt none dr ((s.updKilnCharge k (fun c => { c with state := .pressed })).kilnEmptied k) := by
  have hq := h
  rw [accountsAt_def] at hq
  have hs : (s.kiln k).state = .unloading := (hq.1.head k).mpr rfl
  obtain ⟨r, x, hk, hx⟩ := accountsAt_held s k h (by rw [hs]; simp)
  unfold State.kilnEmptied
  apply accountsAt_writeBurner
  unfold State.updKilnCharge
  rw [hk]
  dsimp only
  obtain ⟨a, b, c⟩ := hq
  rw [accountsAt_def]
  simp only [updKiln_run, updKiln_frame, updCharge_lots, updCharge_frame]
  obtain ⟨x', x1, x2, x3⟩ := a.charge k r hk
  rw [hx] at x1; cases x1
  rw [kindIn_kiln, hs] at x3; simp [KilnState.chargeState] at x3
  have e : chargeIn (s.table.lots.map (fun l => if l.number = r.lot then Lot.updCharge r.index (fun c => { c with state := .pressed }) l else l)) = fun r' => if r' = r then some { x with state := .pressed } else chargeIn s.table.lots r' := by
    funext r'; rw [chargeIn_upd]; split
    · rename_i e; subst e; rw [hx]; simp
    · simp
  rw [e, kindIn_set, heldIn_set]
  refine ⟨⟨?_, ?_, ?_, ?_⟩, b.charges ?_ ?_, c.modify _ _ (by intro c; rfl) (by intro c; rfl)⟩
  · intro j r' hj
    split at hj
    · cases hj
    · rename_i ej
      have : r' ≠ r := by rintro rfl; exact ej (charge_unique a hk hj)
      simp only [this, if_false, ej]
      exact a.charge j r' hj
  · intro j hj
    split
    · rfl
    · rename_i ej; rw [if_neg ej] at hj; exact a.free j hj
  · intro j; split
    · simp
    · rename_i ej; rw [a.head]; simp [ej]
  · intro j; rw [← a.tail]; split
    · rename_i ej; subst ej; rw [kindIn_kiln, hs]; simp
    · exact Iff.rfl
  · intro r' y hy hfy
    split at hy
    · cases hy; exact Or.inl rfl
    · exact b.finals _ _ hy hfy
  · intro r' y hy hp
    by_cases er : r' = r
    · subst er; rw [hx] at hy; cases hy
      exact ⟨_, if_pos rfl, Or.inr rfl, rfl⟩
    · exact ⟨y, by simp [er, hy], hp, rfl⟩
theorem accountsIn_advanceHead (s : State) (h : AccountsAt none s.press.queue s) (hn : s.press.queue.Nodup) : AccountsIn s.advanceHead := by
  unfold State.advanceHead
  split
  · rename_i e; rw [e] at h; unfold AccountsIn; rw [e]; exact h
  · rename_i k rest e
    rw [e] at h hn
    have := accountsAt_becomeHead s k rest h (by simp at hn; exact hn.1)
    unfold AccountsIn; simp only [becomeHead_frame, e]; exact this
/-- The filled kiln is loaded and its charge kilning. -/
theorem accountsIn_closeFill (s : State) (k : Kiln) (h : AccountsIn s) (hs : (s.kiln k).state = .loading) (hN : Numbering.NumberingOk s)
    (hauto : ∀ t : State, Numbering.NumberingOk t → AccountsIn t → Green.free (t.kiln k).state = true → AccountsIn (t.autoStart k)) : AccountsIn (s.closeFill k) := by
  unfold State.closeFill
  dsimp only
  have key : AccountsIn ((s.closeCharge k).kilnLoaded k) := by
    unfold State.kilnLoaded
    apply hauto
    · apply Numbering.numberingOk_writeBurner; apply Numbering.numberingOk_updKiln; exact Numbering.numberingOk_closeCharge _ _ hN
    · unfold AccountsIn
      simp only [writeBurner_frame, updKiln_frame, closeCharge_frame]
      apply accountsAt_writeBurner
      obtain ⟨r, x, hk, hx⟩ := accountsAt_held s k h (by rw [hs]; simp)
      have hx' : s.charge? r = some x := hx
      have hq := h; unfold AccountsIn at hq; rw [accountsAt_def] at hq
      refine accountsAt_moves s _ k r .loaded (fun c => { c with state := .kilning, fillEnd := some s.now, short := c.short || isShort x.green (s.kilnEntry k) }) h hk ?_ ?_ ?_ ?_ ?_ ?_ (by intro c; rfl) (by intro c; rfl) (by intro c; rfl) (by intro c; rfl) ?_ ?_ ?_ ?_ ?_
      · unfold State.closeCharge; simp only [hk, Option.bind_some, hx', State.updKilnCharge]
        split <;> simp only [updKiln_frame, raise_frame, updCharge_lots]
      · rw [updKiln_run, kindIn_set]; simp only [closeCharge_frame]
      · rw [updKiln_run, heldIn_set, ite_self_fun]
        · simp only [closeCharge_frame]
        · rfl
      · simp
      · simp
      · simp
      · intro c _; rfl
      · intro c hc; rw [hs] at hc; simp [KilnState.chargeState] at hc; simp [← hc]
      · intro c hc; rw [hs] at hc; simp [KilnState.chargeState] at hc; simp [← hc, ChargeState.AtPress]
      · intro j; have := hq.1.head j; rw [kindIn_kiln] at this; rw [← this]; split
        · rename_i e; subst e; simp [hs]
        · exact Iff.rfl
      · intro j; have := hq.1.tail j; rw [kindIn_kiln] at this; rw [← this]; split
        · rename_i e; subst e; simp [hs]
        · exact Iff.rfl
    · rw [Green.writeBurner_kiln]; simp [kiln_updKiln, Green.free]
  exact accountsIn_congr _ _ key (by simp) (by simp) (by simp) (by simp) (by simp) (by simp) (by simp)

/-! ## A kiln taken -/
theorem chargeIn_map_append (ls : List Lot) (b : Nat) (c : Charge) (r : ChargeRef) :
    chargeIn (ls.map (fun l => if l.number = b then { l with charges := l.charges ++ [c] } else l)) r =
      (lotIn ls r.lot).bind (fun l => if r.lot = b then (l.charges ++ [c])[r.index]? else l.charges[r.index]?) := by
  unfold chargeIn
  rw [lotIn_map ls b r.lot (fun l => { l with charges := l.charges ++ [c] }) (by intro l; rfl)]
  cases lotIn ls r.lot with
  | none => rfl
  | some l => by_cases e : r.lot = b <;> simp [e]
theorem accountsIn_takeKiln (s : State) (b : Nat) (k : Kiln) (l : Lot) (h : AccountsIn s) (hl : s.lot? b = some l) (ho : l.state ≠ .opened) (hs : (s.kiln k).state = .empty) : AccountsIn (s.takeKiln b k) := by
  have hl' : lotIn s.table.lots b = some l := hl
  have key : AccountsIn ((s.updLot b (fun l => { l with charges := l.charges ++ [newCharge k s.now] })).updKiln k (fun r => { r with state := .loading, charge := some { lot := b, index := l.charges.length } })) := by
    unfold AccountsIn at *
    simp only [updKiln_frame, updLot_frame]
    rw [accountsAt_def] at *
    simp only [updKiln_run, updKiln_frame, updLot_lots, updLot_frame]
    obtain ⟨a, p, c⟩ := h
    rw [kindIn_set, heldIn_set]
    have old : ∀ r x, chargeIn s.table.lots r = some x → chargeIn (s.table.lots.map (fun l => if l.number = b then { l with charges := l.charges ++ [newCharge k s.now] } else l)) r = some x := by
      intro r x hx
      rw [chargeIn_map_append]
      unfold chargeIn at hx
      cases hr : lotIn s.table.lots r.lot with
      | none => rw [hr] at hx; simp at hx
      | some l0 =>
        rw [hr] at hx; simp at hx ⊢
        split
        · rw [List.getElem?_append_left]; exact hx
          exact (List.getElem?_eq_some_iff.mp hx).1
        · exact hx
    refine ⟨⟨?_, ?_, ?_, ?_⟩, p.charges ?_ ?_, c.upd (by intro l; rfl) ?_ ?_ (fun _ _ _ _ h => h)⟩
    · intro j r hj
      by_cases e : k = j
      · subst e; simp at hj; subst hj
        refine ⟨newCharge k s.now, ?_, rfl, by simp [KilnState.chargeState, newCharge]⟩
        rw [chargeIn_map_append, hl']; simp
      · simp only [e, if_false] at hj ⊢
        obtain ⟨x, x1, x2⟩ := a.charge j r hj
        exact ⟨x, old _ _ x1, x2⟩
    · intro j hj
      by_cases e : k = j
      · subst e; simp at hj
      · simp only [e, if_false] at hj ⊢; exact a.free j hj
    · intro j; rw [← a.head]; split
      · rename_i e; subst e; rw [kindIn_kiln, hs]; simp
      · exact Iff.rfl
    · intro j; rw [← a.tail]; split
      · rename_i e; subst e; rw [kindIn_kiln, hs]; simp
      · exact Iff.rfl
    · intro r x hx hf
      rw [chargeIn_map_append] at hx
      cases hr : lotIn s.table.lots r.lot with
      | none => rw [hr] at hx; simp at hx
      | some l0 =>
        rw [hr] at hx; simp at hx
        have o : ∀ y, l0.charges[r.index]? = some y → y.finalTicket ≠ none → y.state = .pressed ∨ y.state = .ticketed := by
          intro y hy; apply p.finals r; unfold chargeIn; rw [hr]; exact hy
        split at hx
        · rw [List.getElem?_append] at hx
          split at hx
          · exact o _ hx hf
          · have := List.mem_of_getElem? hx
            simp at this; subst this; simp [newCharge] at hf
        · exact o _ hx hf
    · intro r x hx hp; exact ⟨x, old _ _ hx, hp, rfl⟩
    · intro x hx he; rw [hl'] at hx; cases hx; exact absurd he ho
    · intro x hx hS
      exact ⟨hS.bales, hS.net, hS.released, by simpa [newCharge] using hS.chargeBales, by simpa [newCharge] using hS.chargeNet, hS.tickets⟩
  have e : ((s.lot? b).map (fun l => l.charges.length)).getD 0 = l.charges.length := by rw [hl]; rfl
  unfold State.takeKiln
  rw [e]
  exact accountsIn_congr _ _ key (by simp) (by simp) (by simp) (by simp) (by simp) (by simp) (by simp)

/-! ## Lots come and go -/
theorem lotIn_insert (new : Lot) (ls : List Lot) (n : Nat) (h : lotIn ls new.number = none) : lotIn (insertLot new ls) n = if n = new.number then some new else lotIn ls n := by
  unfold lotIn at *
  induction ls with
  | nil => by_cases e : n = new.number <;> simp [insertLot, e]; exact fun x => absurd x.symm e
  | cons a ls ih =>
    simp only [List.find?_cons] at h
    split at h
    · cases h
    · rename_i ha
      simp at ha
      unfold insertLot
      split
      · by_cases e : n = new.number
        · simp [e]
        · have : ¬ new.number = n := fun x => e x.symm
          simp only [List.find?_cons, this, decide_false, e, if_false]
      · by_cases e : n = new.number
        · have : ¬ a.number = n := by rw [e]; exact ha
          have ih' := ih h
          simp only [List.find?_cons, this, decide_false, ih']
        · by_cases e2 : a.number = n
          · simp [List.find?_cons, e2, e]
          · have ih' := ih h
            simp only [List.find?_cons, e2, decide_false, ih', e, if_false]
theorem lotIn_filter (ls : List Lot) (n m : Nat) : lotIn (ls.filter (fun l => l.number ≠ n)) m = if m = n then none else lotIn ls m := by
  unfold lotIn
  induction ls with
  | nil => simp
  | cons a ls ih =>
    by_cases e : a.number = n
    · simp only [List.filter_cons, e, ne_eq, not_true, decide_false]
      simp only [ne_eq] at ih
      rw [show (if false = true then a :: ls.filter (fun l => decide ¬l.number = n) else ls.filter (fun l => decide ¬l.number = n)) = ls.filter (fun l => decide ¬l.number = n) from rfl, ih]
      by_cases e2 : m = n
      · simp [e2]
      · have : ¬ n = m := fun x => e2 x.symm
        simp [e2, List.find?_cons, e, this]
    · simp only [List.filter_cons, ne_eq, e, not_false_iff, decide_true, if_true, List.find?_cons]
      simp only [ne_eq] at ih
      by_cases e2 : a.number = m
      · have : m ≠ n := by rw [← e2]; exact e
        simp [e2, this]
      · simp only [e2, decide_false, ih]
theorem accountsIn_addLot (s : State) (l : Lot) (h : AccountsIn s) (hl : s.lot? l.number = none) (hc : l.charges = []) (hs : SumsAre l.number l [] []) : AccountsIn (s.addLot l) := by
  have hl' : lotIn s.table.lots l.number = none := hl
  unfold AccountsIn at *
  simp only [addLot_frame]
  rw [accountsAt_def] at *
  simp only [addLot_lots, addLot_frame]
  obtain ⟨a, p, c⟩ := h
  have e : chargeIn (insertLot l s.table.lots) = chargeIn s.table.lots := by
    funext r; unfold chargeIn; rw [lotIn_insert _ _ _ hl']; split
    · rename_i e; rw [e, hl', Option.bind_some, hc]; rfl
    · rfl
  have no : ∀ r x, chargeIn s.table.lots r = some x → r.lot ≠ l.number := by
    intro r x hx er; unfold chargeIn at hx; rw [er, hl'] at hx; cases hx
  rw [e]
  refine ⟨a, p, ?_, ?_⟩
  · intro n m hn hm
    rw [lotIn_insert _ _ _ hl'] at hn
    split at hn
    · cases hn; exact hc
    · exact c.opened _ _ hn hm
  · intro n m hn
    rw [lotIn_insert _ _ _ hl'] at hn
    split at hn
    · rename_i en; cases hn
      have e1 : s.press.bales.filter (fun x => x.lot = n) = [] := by
        rw [List.filter_eq_nil_iff]; intro x hx
        obtain ⟨y, hy, _⟩ := p.bales x hx
        have := no _ _ hy; rw [en]; simpa [Bale.charge] using this
      have e2 : s.tickets.queue.filter (fun x => x.lot = n) = [] := by
        rw [List.filter_eq_nil_iff]; intro x hx
        obtain ⟨y, hy, _⟩ := p.tickets x hx
        have := no _ _ hy; rw [en]; simpa [Ticket.charge] using this
      refine ⟨?_, ?_, hs.released, hs.chargeBales, hs.chargeNet, ?_⟩
      · rw [e1]; exact hs.bales
      · rw [e1]; exact hs.net
      · rw [e2]; exact hs.tickets
    · exact c.sums _ _ hn
/-- A lot leaves the table when no charge of it is in a kiln or at the press. -/
theorem accountsIn_removeLot (s : State) (n : Nat) (l : Lot) (h : AccountsIn s) (hl : s.lot? n = some l) (hc : ∀ c ∈ l.charges, c.state = .ticketed) : AccountsIn (s.removeLot n) := by
  have hl' : lotIn s.table.lots n = some l := hl
  unfold AccountsIn at *
  simp only [removeLot_frame]
  rw [accountsAt_def] at *
  simp only [removeLot_lots, removeLot_frame]
  obtain ⟨a, p, c⟩ := h
  have tick : ∀ r x, chargeIn s.table.lots r = some x → r.lot = n → x.state = .ticketed := by
    intro r x hx hr; unfold chargeIn at hx; rw [hr, hl'] at hx; exact hc _ (List.mem_of_getElem? hx)
  have e : ∀ r, chargeIn (s.table.lots.filter (fun l => l.number ≠ n)) r = if r.lot = n then none else chargeIn s.table.lots r := by
    intro r; unfold chargeIn; rw [lotIn_filter]; split <;> rfl
  refine ⟨a.charges ?_, p.charges ?_ ?_, ?_, ?_⟩
  · intro k r x hk hx
    obtain ⟨y, y1, y2, y3⟩ := a.charge k r hk
    rw [hx] at y1; cases y1
    have : r.lot ≠ n := by
      intro hr; have := tick r x hx hr; rw [this] at y3
      cases hkk : kindIn s.kilns.run k <;> rw [hkk] at y3 <;> simp [KilnState.chargeState] at y3
    exact ⟨x, by rw [e, if_neg this]; exact hx, rfl, rfl⟩
  · intro r x hx hf
    rw [e] at hx; split at hx
    · cases hx
    · exact p.finals _ _ hx hf
  · intro r x hx hp
    have : r.lot ≠ n := by
      intro hr; have := tick r x hx hr; rw [this] at hp; simp [ChargeState.AtPress] at hp
    exact ⟨x, by rw [e, if_neg this]; exact hx, hp, rfl⟩
  · intro m x hx
    rw [lotIn_filter] at hx; split at hx
    · cases hx
    · exact c.opened _ _ hx
  · intro m x hx
    rw [lotIn_filter] at hx; split at hx
    · cases hx
    · exact c.sums _ _ hx

/-! ## Bales and tickets that change in what the accounts do not read -/
theorem filter_map_same {α} (l : List α) (g : α → α) (p : α → Bool) (h : ∀ a ∈ l, p (g a) = p a) : (l.map g).filter p = (l.filter p).map g := by
  induction l with
  | nil => rfl
  | cons a l ih =>
    have := h a (by simp)
    have ih := ih (fun x hx => h x (List.mem_cons_of_mem _ hx))
    simp only [List.map_cons, List.filter_cons, this, ih]; split <;> rfl
theorem map_map_same {α β} (l : List α) (g : α → α) (f : α → β) (h : ∀ a ∈ l, f (g a) = f a) : (l.map g).map f = l.map f := by
  rw [List.map_map]; exact List.map_congr_left (fun a ha => h a ha)
/-- The bales keep what the papers read. -/
theorem PapersAre.mapBales {ch bs ts w} (h : PapersAre ch bs ts w) (g : Bale → Bale) (g1 : ∀ b ∈ bs, (g b).number = b.number) (g2 : ∀ b ∈ bs, (g b).charge = b.charge)
    (g3 : ∀ b ∈ bs, (g b).ticket = b.ticket) (g4 : ∀ b ∈ bs, (g b).ticket ≠ none → (g b).net = b.net) (g5 : ∀ b ∈ bs, (g b).net = none ↔ (g b).status ≠ .weighed) : PapersAre ch (bs.map g) ts w := by
  refine ⟨h.finals, ?_, h.waits, h.waitsOnce, h.tickets, h.finalLast, ?_, ?_, ?_, h.totalNet⟩
  · intro b hb; obtain ⟨b0, h0, rfl⟩ := List.mem_map.mp hb
    rw [g2 _ h0, g3 _ h0]; exact h.bales _ h0
  · intro b hb; obtain ⟨b0, h0, rfl⟩ := List.mem_map.mp hb
    rw [g2 _ h0, g3 _ h0]; exact h.listed _ h0
  · intro b hb; obtain ⟨b0, h0, rfl⟩ := List.mem_map.mp hb
    exact g5 _ h0
  · intro t ht
    rw [h.lines t ht, filter_map_same _ _ _ (fun b hb => by rw [g3 _ hb])]
    symm; apply map_map_same
    intro b hb
    have hm := (List.mem_filter.mp hb)
    have : (g b).ticket ≠ none := by rw [g3 _ hm.1]; intro e; have := hm.2; rw [e] at this; simp at this
    rw [g1 _ hm.1, g4 _ hm.1 this]
theorem SumsAre.mapBales {n l bs ts} (h : SumsAre n l bs ts) (g : Bale → Bale) (g1 : ∀ b ∈ bs, (g b).lot = b.lot) (g2 : ∀ b ∈ bs, b.lot = n → (g b).net.getD 0 = b.net.getD 0) : SumsAre n l (bs.map g) ts := by
  have e : (bs.map g).filter (fun b => b.lot = n) = (bs.filter (fun b => b.lot = n)).map g := filter_map_same _ _ _ (fun b hb => by rw [g1 _ hb])
  refine ⟨?_, ?_, h.released, h.chargeBales, h.chargeNet, h.tickets⟩
  · rw [e, List.length_map]; exact h.bales
  · rw [e]; unfold netSum; rw [map_map_same _ _ _ (fun b hb => by have := List.mem_filter.mp hb; exact g2 _ this.1 (by simpa using this.2))]; exact h.net
theorem accountsIn_updBaleOf (s : State) (n : Nat) (f : Bale → Bale) (h : AccountsIn s) (g1 : ∀ b, (f b).number = b.number) (g2 : ∀ b, (f b).charge = b.charge)
    (g3 : ∀ b, (f b).ticket = b.ticket) (g4 : ∀ b, (f b).net = b.net) (g5 : ∀ b ∈ s.press.bales, b.number = n → ((f b).status = .weighed ↔ b.status = .weighed)) : AccountsIn (s.updBale n f) := by
  unfold AccountsIn at *
  simp only [updBale_frame]
  rw [accountsAt_def] at *
  simp only [updBale_bales, updBale_frame]
  obtain ⟨a, p, c⟩ := h
  have gl : ∀ b, (f b).lot = b.lot := fun b => congrArg ChargeRef.lot (g2 b)
  refine ⟨a, p.mapBales _ ?_ ?_ ?_ ?_ ?_, c.opened, fun m l hl => (c.sums m l hl).mapBales _ ?_ ?_⟩
  · intro b hb; split <;> simp [g1]
  · intro b hb; split <;> simp [g2]
  · intro b hb; split <;> simp [g3]
  · intro b hb _; split <;> simp [g4]
  · intro b hb; have := p.weighed b hb
    split
    · rename_i e; rw [g4, this]; exact not_congr (g5 b hb e).symm
    · exact this
  · intro b hb; split <;> simp [gl]
  · intro b hb _; split <;> simp [g4]
theorem PapersAre.mapTickets {ch bs ts w} (h : PapersAre ch bs ts w) (g : Ticket → Ticket) (g1 : ∀ t, (g t).number = t.number) (g2 : ∀ t, (g t).charge = t.charge)
    (g3 : ∀ t, (g t).final = t.final) (g4 : ∀ t, (g t).lines = t.lines) (g5 : ∀ t, (g t).totalNet = t.totalNet) : PapersAre ch bs (ts.map g) w := by
  refine ⟨h.finals, h.bales, h.waits, h.waitsOnce, ?_, ?_, ?_, h.weighed, ?_, ?_⟩
  · intro t ht; obtain ⟨t0, h0, rfl⟩ := List.mem_map.mp ht
    rw [g2, g3, g1]; exact h.tickets _ h0
  · rw [List.pairwise_map]; refine h.finalLast.imp ?_
    intro x y hxy; rw [g2, g2, g3]; exact hxy
  · intro b hb n hn
    obtain ⟨t, ht, h1, h2⟩ := h.listed b hb n hn
    exact ⟨g t, List.mem_map_of_mem ht, by rw [g1, h1], by rw [g2, h2]⟩
  · intro t ht; obtain ⟨t0, h0, rfl⟩ := List.mem_map.mp ht
    rw [g4, g1]; exact h.lines _ h0
  · intro t ht; obtain ⟨t0, h0, rfl⟩ := List.mem_map.mp ht
    rw [g4, g5]; exact h.totalNet _ h0
theorem accountsIn_mapTickets (s : State) (g : Ticket → Ticket) (h : AccountsIn s) (g1 : ∀ t, (g t).number = t.number) (g2 : ∀ t, (g t).charge = t.charge)
    (g3 : ∀ t, (g t).final = t.final) (g4 : ∀ t, (g t).lines = t.lines) (g5 : ∀ t, (g t).totalNet = t.totalNet) : AccountsIn { s with tickets := { s.tickets with queue := s.tickets.queue.map g } } := by
  unfold AccountsIn at *
  rw [accountsAt_def] at *
  obtain ⟨a, p, c⟩ := h
  refine ⟨a, p.mapTickets _ g1 g2 g3 g4 g5, c.opened, fun m l hl => ?_⟩
  have hS := c.sums m l hl
  refine ⟨hS.bales, hS.net, hS.released, hS.chargeBales, hS.chargeNet, ?_⟩
  rw [filter_map_same, List.length_map]; exact hS.tickets
  intro t _
  have : (g t).lot = t.lot := congrArg ChargeRef.lot (g2 t)
  rw [this]
theorem accountsIn_setPrint (s : State) (n : Nat) (x : PrintState) (h : AccountsIn s) : AccountsIn (s.setPrint n x) := by
  apply accountsIn_mapTickets s _ h <;> (intro t; split <;> rfl)
theorem accountsIn_printScan (s : State) (h : AccountsIn s) : AccountsIn s.printScan := by
  unfold State.printScan
  split
  · exact accountsIn_congr s _ h rfl rfl rfl rfl rfl rfl rfl
  · split
    · exact accountsIn_congr s _ h rfl rfl rfl rfl rfl rfl rfl
    · split
      · exact accountsIn_congr s _ h rfl rfl rfl rfl rfl rfl rfl
      · rename_i t _
        exact accountsIn_congr (s.setPrint t.number .printing) _ (accountsIn_setPrint _ _ _ h) rfl rfl rfl rfl rfl rfl rfl
theorem accountsIn_promptPrint (s : State) (h : AccountsIn s) : AccountsIn s.promptPrint := by
  unfold State.promptPrint
  split
  · exact accountsIn_printScan _ h
  · exact accountsIn_printScan _ h
  · exact h
  · exact h

/-! ## A bale made -/
theorem updLot_updCharge_lots (ls : List Lot) (r : ChargeRef) (f : Lot → Lot) (g : Charge → Charge) (hf : ∀ l, (f l).number = l.number) :
    (ls.map (fun l => if l.number = r.lot then f l else l)).map (fun l => if l.number = r.lot then Lot.updCharge r.index g l else l) =
      ls.map (fun l => if l.number = r.lot then Lot.updCharge r.index g (f l) else l) := by
  rw [List.map_map]; apply List.map_congr_left
  intro l _; simp only [Function.comp]; by_cases e : l.number = r.lot <;> simp [e, hf]
theorem chargeIn_both (ls : List Lot) (r r' : ChargeRef) (f : Lot → Lot) (g : Charge → Charge) (hf : ∀ l, (f l).number = l.number) (hc : ∀ l, (f l).charges = l.charges) :
    chargeIn (ls.map (fun l => if l.number = r.lot then Lot.updCharge r.index g (f l) else l)) r' = (chargeIn ls r').map (fun c => if r' = r then g c else c) := by
  rw [← updLot_updCharge_lots _ _ _ _ hf, chargeIn_upd, chargeIn_lot _ _ _ _ hf hc]
/-- A lot and one of its charges are written, the charge's state and final ticket apart. -/
theorem KilnsAre.keep {kst kch hd dr ls} {r : ChargeRef} {f : Lot → Lot} {g : Charge → Charge} (h : KilnsAre kst kch hd dr (chargeIn ls)) (hf : ∀ l : Lot, (f l).number = l.number) (hc : ∀ l, (f l).charges = l.charges)
    (h1 : ∀ c, (g c).kiln = c.kiln) (h2 : ∀ c, (g c).state = c.state) :
    KilnsAre kst kch hd dr (chargeIn (ls.map (fun l => if l.number = r.lot then Lot.updCharge r.index g (f l) else l))) := by
  refine h.charges ?_
  intro k r' x _ hx
  rw [chargeIn_both _ _ _ _ _ hf hc, hx]; refine ⟨_, rfl, ?_, ?_⟩ <;> split <;> simp [h1, h2]
theorem PapersAre.keep {ls bs ts w} {r : ChargeRef} {f : Lot → Lot} {g : Charge → Charge} (h : PapersAre (chargeIn ls) bs ts w) (hf : ∀ l : Lot, (f l).number = l.number) (hc : ∀ l, (f l).charges = l.charges)
    (h2 : ∀ c, (g c).state = c.state) (h3 : ∀ c, (g c).finalTicket = c.finalTicket) :
    PapersAre (chargeIn (ls.map (fun l => if l.number = r.lot then Lot.updCharge r.index g (f l) else l))) bs ts w := by
  have e := fun r' => chargeIn_both ls r r' f g hf hc
  refine h.charges ?_ ?_
  · intro r' x hx
    rw [e] at hx
    cases hx' : chargeIn ls r' with
    | none => rw [hx'] at hx; simp at hx
    | some x0 =>
      rw [hx'] at hx; simp at hx; subst hx
      have := h.finals r' x0 hx'
      split <;> simpa [h2, h3] using this
  · intro r' x hx hp
    rw [e, hx]; refine ⟨_, rfl, ?_, ?_⟩
    · split <;> simpa [h2] using hp
    · split <;> simp [h3]
theorem PapersAre.addBale {ch bs ts w c} (h : PapersAre ch bs ts w) (b : Bale) (hc : ch b.charge = some c) (hp : c.state.AtPress) (hf : c.finalTicket = none) (ht : b.ticket = none)
    (hn : b.net = none ↔ b.status ≠ .weighed) : PapersAre ch (bs ++ [b]) ts w := by
  refine ⟨h.finals, ?_, h.waits, h.waitsOnce, h.tickets, h.finalLast, ?_, ?_, ?_, h.totalNet⟩
  · intro x hx; simp at hx
    rcases hx with hx | rfl
    · exact h.bales _ hx
    · exact ⟨c, hc, hp, fun _ => hf⟩
  · intro x hx; simp at hx
    rcases hx with hx | rfl
    · exact h.listed _ hx
    · intro n hn; rw [ht] at hn; cases hn
  · intro x hx; simp at hx
    rcases hx with hx | rfl
    · exact h.weighed _ hx
    · exact hn
  · intro t h0; rw [h.lines t h0]; simp [ht]
theorem accountsIn_createBale (s : State) (k : Kiln) (r : ChargeRef) (v : Word32) (wg : Bool) (h : AccountsIn s) (hq : s.press.queue.head? = some k) (hr : (s.kiln k).charge = some r)
    (hN : Numbering.NumberingOk s) (hoff : ∀ t : State, Numbering.NumberingOk t → AccountsIn t → AccountsIn (t.offerCharge r)) : AccountsIn (s.createBale k r v wg) := by
  have hA := h; unfold AccountsIn at hA; rw [accountsAt_def] at hA
  obtain ⟨a, p, c⟩ := hA
  have hs : (s.kiln k).state = .unloading := (a.head k).mpr hq
  obtain ⟨x, x1, x2, x3⟩ := a.charge k r hr
  rw [kindIn_kiln, hs] at x3; simp [KilnState.chargeState] at x3
  have hx : x.finalTicket = none := by
    cases e : x.finalTicket with
    | none => rfl
    | some m => have := p.finals _ _ x1 (by rw [e]; simp); rw [← x3] at this; simp at this
  have key : ∀ (b : Bale) (cy : CycleBale) (tk : Tickets), b.charge = r → b.ticket = none → b.net = none → b.status ≠ .weighed → tk.queue = s.tickets.queue → tk.wait = s.tickets.wait →
      AccountsIn ((({ s with press := { s.press with bales := s.press.bales ++ [b], cycle := cy }, tickets := tk } : State).updLot r.lot (fun l => { l with baleCount := l.baleCount + 1 })).updCharge r (fun c => { c with bales := c.bales + 1 })) := by
    intro b cy tk b1 b2 b3 b4 e5 e6
    unfold AccountsIn
    simp only [updCharge_frame, updLot_frame]
    rw [accountsAt_def]
    simp only [updCharge_lots, updCharge_frame, updLot_lots, updLot_frame, e5, e6]
    rw [updLot_updCharge_lots _ _ _ _ (by intro l; rfl)]
    refine ⟨a.keep (by intro l; rfl) (by intro l; rfl) (by intro l; rfl) (by intro l; rfl), ?_, ?_⟩
    · exact (p.addBale (c := x) b (by rw [b1]; exact x1) (by rw [← x3]; exact Or.inl rfl) hx b2 ⟨fun _ => b4, fun _ => b3⟩).keep (by intro l; rfl) (by intro l; rfl) (by intro l; rfl) (by intro l; rfl)
    · refine c.upd (by intro l; rfl) ?_ ?_ ?_
      · intro l hl ho; have := c.opened _ _ hl ho; simp [Lot.updCharge, this]
      · intro l hl hS
        have hi : l.charges[r.index]? = some x := by have := x1; unfold chargeIn at this; rw [hl] at this; exact this
        have bl : b.lot = r.lot := by rw [← b1]; rfl
        refine ⟨?_, ?_, hS.released, ?_, ?_, hS.tickets⟩
        · simp [Lot.updCharge, List.filter_append, bl]; have := hS.bales; omega
        · simp only [Lot.updCharge, List.filter_append, netSum, List.map_append, List.sum_append]
          have := hS.net; simp only [netSum] at this
          rw [this]; simp [bl, b3]
        · simp only [Lot.updCharge]; rw [sum_modify_bales _ _ _ hi]; rw [hS.chargeBales]
        · simp only [Lot.updCharge]; rw [map_modify_same _ _ _ _ (by intro c; rfl)]; exact hS.chargeNet
      · intro m l hm hl hS
        have bl : b.lot ≠ m := by rw [show b.lot = r.lot by rw [← b1]; rfl]; exact fun e => hm e.symm
        refine ⟨?_, ?_, hS.released, hS.chargeBales, hS.chargeNet, hS.tickets⟩
        · simp [List.filter_append, bl]; have := hS.bales; simpa using this
        · simp only [List.filter_append, netSum, List.map_append, List.sum_append]
          have := hS.net; simp only [netSum] at this
          rw [this]; simp [bl]
  unfold State.createBale
  dsimp only
  split
  · apply accountsIn_judgeStore; apply key <;> first | rfl | simp
  · apply hoff
    · apply Numbering.numberingOk_judgeStore; apply Numbering.numberingOk_updCharge; apply Numbering.numberingOk_updLot
      exact Numbering.numberingOk_made s _ rfl hN
    · apply accountsIn_judgeStore; apply key <;> first | rfl | simp

/-! ## A bale weighed -/
theorem netSum_append (a b : List Bale) : netSum (a ++ b) = netSum a + netSum b := by simp [netSum]
/-- The net of one bale, absent before, joins the sum. -/
theorem netSum_fill (bs : List Bale) (n : Nat) (m : Nat) (f : Bale → Bale) (net : Int) (b : Bale) (hu : (bs.map (fun b => b.number)).Pairwise (· < ·)) (hb : b ∈ bs) (hn : b.number = n) (hl : b.lot = m)
    (h0 : b.net = none) (hf : (f b).net = some net) (hl' : ∀ b, (f b).lot = b.lot) :
    netSum ((bs.map (fun b => if b.number = n then f b else b)).filter (fun b => b.lot = m)) = netSum (bs.filter (fun b => b.lot = m)) + net := by
  induction bs with
  | nil => simp at hb
  | cons x xs ih =>
    simp only [List.map_cons, List.pairwise_cons] at hu
    simp only [List.mem_cons] at hb
    rcases hb with rfl | hb
    · have : xs.map (fun b => if b.number = n then f b else b) = xs := by
        conv => rhs; rw [← List.map_id xs]
        apply List.map_congr_left
        intro y hy
        have := hu.1 _ (List.mem_map_of_mem (f := fun b => b.number) hy)
        have : y.number ≠ n := by omega
        simp [this]
      rw [List.map_cons, this]
      simp only [List.filter_cons, hn, hl, if_true, hl', decide_true, netSum, List.map_cons, List.sum_cons, hf, h0]
      simp; omega
    · have hx : x.number ≠ n := by have := hu.1 _ (List.mem_map_of_mem (f := fun b => b.number) hb); omega
      have ih := ih hu.2 hb
      rw [List.map_cons, if_neg hx]
      simp only [List.filter_cons]
      split
      · simp only [netSum, List.map_cons, List.sum_cons] at ih ⊢; rw [ih]; omega
      · exact ih
theorem bales_unique {bs : List Bale} (h : (bs.map (fun b => b.number)).Pairwise (· < ·)) {a b : Bale} (ha : a ∈ bs) (hb : b ∈ bs) (e : a.number = b.number) : a = b :=
  List.inj_on_of_nodup_map (h.imp Nat.ne_of_lt) ha hb e
theorem accountsIn_fillBale (s : State) (b : Bale) (gross : Int) (h : AccountsIn s) (hn : (s.press.bales.map (fun b => b.number)).Pairwise (· < ·)) (hb : b ∈ s.press.bales) (hst : b.status ≠ .weighed) : AccountsIn (s.fillBale b gross) := by
  have hA := h; unfold AccountsIn at hA; rw [accountsAt_def] at hA
  obtain ⟨a, p, c⟩ := hA
  have h0 : b.net = none := (p.weighed b hb).mpr hst
  obtain ⟨x, x1, x2, x3⟩ := p.bales b hb
  have key : AccountsIn (((s.updBale b.number (fun x => { (x.judged (s.baleVariety b) (gross - b.tare)) with gross := some gross, net := some (gross - b.tare), status := .weighed })).updLot b.lot
      (fun l => { l with netTotal := wrap32 (l.netTotal + (gross - b.tare)) })).updCharge { lot := b.lot, index := b.index } (fun c => { c with net := wrap32 (c.net + (gross - b.tare)) })) := by
    generalize gross - (b.tare : Int) = net
    unfold AccountsIn
    simp only [updCharge_frame, updLot_frame, updBale_frame]
    rw [accountsAt_def]
    simp only [updCharge_lots, updCharge_frame, updLot_lots, updLot_frame, updBale_bales, updBale_frame]
    rw [updLot_updCharge_lots s.table.lots { lot := b.lot, index := b.index } _ _ (by intro l; rfl)]
    have uniq : ∀ y ∈ s.press.bales, y.number = b.number → y = b := fun y hy e => bales_unique hn hy hb e
    refine ⟨a.keep (by intro l; rfl) (by intro l; rfl) (by intro l; rfl) (by intro l; rfl), ?_, ?_⟩
    · refine (p.mapBales _ ?_ ?_ ?_ ?_ ?_).keep (by intro l; rfl) (by intro l; rfl) (by intro l; rfl) (by intro l; rfl)
      · intro y hy; split <;> rfl
      · intro y hy; split <;> rfl
      · intro y hy; split <;> rfl
      · intro y hy hyt; split
        · rename_i e
          have := uniq y hy e; subst this
          rw [if_pos rfl] at hyt
          have hyt' : y.ticket ≠ none := hyt
          obtain ⟨m, hm⟩ := Option.ne_none_iff_exists'.mp hyt'
          obtain ⟨t, ht, h1, _⟩ := p.listed y hy m hm
          have hl := p.lines t ht
          have : (y.number, y.net) ∈ (s.press.bales.filter (fun b => b.ticket = some t.number)).map (fun b => (b.number, b.net)) :=
            List.mem_map.mpr ⟨y, List.mem_filter.mpr ⟨hy, by simp [hm, h1]⟩, rfl⟩
          rw [← hl, h0] at this
          simp at this
        · rfl
      · intro y hy; split
        · simp
        · exact p.weighed y hy
    · refine c.upd (by intro l; rfl) ?_ ?_ ?_
      · intro l hl ho; have := c.opened _ _ hl ho; simp [Lot.updCharge, this]
      · intro l hl hS
        dsimp only at hS hl
        have hi : l.charges[b.index]? = some x := by have := x1; unfold chargeIn Bale.charge at this; rw [hl] at this; exact this
        refine ⟨?_, ?_, hS.released, ?_, ?_, hS.tickets⟩
        · rw [filter_map_same, List.length_map]; exact hS.bales
          intro y _; split <;> rfl
        · simp only [Lot.updCharge]
          rw [netSum_fill s.press.bales b.number b.lot _ net b hn hb rfl rfl h0 (by rfl) (by intro y; rfl), hS.net, wrap32_wrap_add]
          congr 1; omega
        · simp only [Lot.updCharge]; rw [map_modify_same _ _ _ _ (by intro c; rfl)]; exact hS.chargeBales
        · simp only [Lot.updCharge]; rw [sum_modify_net _ _ _ _ hi, hS.chargeNet, wrap32_wrap_add]
      · intro m l hm hl hS
        refine hS.mapBales _ ?_ ?_
        · intro y _; split <;> rfl
        · intro y hy hym; split
          · rename_i e; have := uniq y hy e; subst this; exact absurd hym.symm hm
          · rfl
  unfold State.fillBale
  dsimp only
  split
  · exact accountsIn_congr _ _ key (by simp) (by simp) (by simp) (by simp) (by simp) (by simp) (by simp)
  · exact key

/-! ## A ticket composed -/
/-- Of a list with each number once, the members of a sublist are found by their numbers. -/
theorem filter_sublist {T bs : List Bale} (h : T.Sublist bs) (hu : (bs.map (fun b => b.number)).Pairwise (· < ·)) : bs.filter (fun b => T.any (fun x => x.number = b.number)) = T := by
  induction h with
  | slnil => rfl
  | @cons T bs a h ih =>
    simp only [List.map_cons, List.pairwise_cons] at hu
    have : T.any (fun x => x.number = a.number) = false := by
      rw [List.any_eq_false]; intro x hx e
      have := hu.1 _ (List.mem_map_of_mem (f := fun b => b.number) (h.subset hx)); simp at e; omega
    rw [List.filter_cons, this]; exact ih hu.2
  | @cons_cons T bs a h ih =>
    simp only [List.map_cons, List.pairwise_cons] at hu
    rw [List.filter_cons]
    simp only [List.any_cons, decide_true, Bool.true_or, if_true]
    congr 1
    refine Eq.trans (List.filter_congr ?_) (ih hu.2)
    intro x hx
    have := hu.1 _ (List.mem_map_of_mem (f := fun b => b.number) hx)
    have e : ¬ a.number = x.number := by omega
    simp [e]
theorem foldl_net (ls : List TicketLine) (i : Int) : ls.foldl (fun n x => n + x.net) i = i + (ls.map (fun x => x.net)).sum := by
  induction ls generalizing i with
  | nil => simp
  | cons a ls ih => simp only [List.foldl_cons, List.map_cons, List.sum_cons]; rw [ih]; omega
theorem taken_sublist (s : State) (r : ChargeRef) : (s.taken r).Sublist s.press.bales :=
  (List.take_sublist _ _).trans ((List.takeWhile_sublist _).trans List.filter_sublist)
theorem taken_mem {s : State} {r : ChargeRef} {b : Bale} (h : b ∈ s.taken r) : b.charge = r ∧ b.ticket = none ∧ b.status = .weighed := by
  have h1 : b ∈ s.runOf r := List.mem_of_mem_take h
  have h2 : b.isWeighed = true := (List.mem_takeWhile_imp h1)
  have h3 : b ∈ s.unticketed r := (List.takeWhile_sublist _).subset h1
  have := (List.mem_filter.mp h3).2
  simp at this
  refine ⟨?_, this.2, by simpa [Bale.isWeighed] using h2⟩
  obtain ⟨⟨h1, h2⟩, _⟩ := this
  cases r; simp only [Bale.charge] at *; subst h1 h2; rfl
theorem taken_all {s : State} {r : ChargeRef} (h : (s.unticketed r).length = (s.taken r).length) {b : Bale} (hb : b ∈ s.press.bales) (hr : b.charge = r) (ht : b.ticket = none) : b ∈ s.taken r := by
  have h1 : (s.taken r).Sublist (s.unticketed r) := (List.take_sublist _ _).trans (List.takeWhile_sublist _)
  rw [h1.eq_of_length h.symm]
  refine List.mem_filter.mpr ⟨hb, ?_⟩
  subst hr; simp [Bale.charge, ht]
theorem accountsIn_issueTicket (s : State) (r : ChargeRef) (t : Ticket) (c : Charge) (h : AccountsIn s) (hn : (s.press.bales.map (fun b => b.number)).Pairwise (· < ·))
    (hfresh : ∀ u ∈ s.tickets.queue, u.number ≠ t.number) (hc : s.charge? r = some c) (hp : c.state.AtPress) (hf : c.finalTicket = none) (hw : r ∉ s.tickets.wait)
    (t1 : t.charge = r) (t2 : t.lines = (s.taken r).map lineOf) (t3 : t.totalNet = wrap32 (t.lines.map (fun x => x.net)).sum)
    (t4 : t.final = s.wouldBeFinal r c) : AccountsIn (s.issueTicket r t) := by
  have hA := h; unfold AccountsIn at hA; rw [accountsAt_def] at hA
  obtain ⟨a, p, q⟩ := hA
  have hc' : chargeIn s.table.lots r = some c := hc
  unfold State.issueTicket
  dsimp only
  apply accountsIn_promptPrint
  apply accountsIn_raise
  have hl : ∀ b ∈ s.press.bales, t.lists b.number = true ↔ b ∈ s.taken r := by
    intro b hb
    simp only [Ticket.lists, t2, List.any_map, List.any_eq_true, Function.comp, lineOf, decide_eq_true_eq]
    constructor
    · rintro ⟨x, hx, e⟩
      rw [← bales_unique hn ((taken_sublist s r).subset hx) hb (of_decide_eq_true e)]; exact hx
    · intro hx; exact ⟨b, hx, by simp⟩
  have hnone : ∀ b ∈ s.press.bales, t.lists b.number = true → b.ticket = none ∧ b.charge = r ∧ b.status = .weighed := by
    intro b hb e; have := taken_mem ((hl b hb).mp e); exact ⟨this.2.1, this.1, this.2.2⟩
  have hold : ∀ b ∈ s.press.bales, b.ticket ≠ some t.number := by
    intro b hb e; obtain ⟨u, hu, e1, _⟩ := p.listed b hb _ e; exact hfresh u hu e1
  unfold AccountsIn
  simp only [updCharge_frame, updLot_frame]
  rw [accountsAt_def]
  simp only [updCharge_lots, updCharge_frame, updLot_lots, updLot_frame]
  rw [updLot_updCharge_lots _ _ _ _ (by intro l; rfl)]
  refine ⟨a.keep (by intro l; rfl) (by intro l; rfl) (by intro l; split <;> rfl) (by intro l; split <;> rfl), ?_, ?_⟩
  · have e := fun r' => chargeIn_both s.table.lots r r' (fun l => { l with ticketsIssued := l.ticketsIssued + 1 })
      (fun c => if t.final then { c with finalTicket := some t.number } else { c with partTickets := min 255 (c.partTickets + 1) }) (by intro l; rfl) (by intro l; rfl)
    have er : chargeIn (s.table.lots.map (fun l => if l.number = r.lot then Lot.updCharge r.index (fun c => if t.final then { c with finalTicket := some t.number } else { c with partTickets := min 255 (c.partTickets + 1) }) { l with ticketsIssued := l.ticketsIssued + 1 } else l)) r =
        some (if t.final then { c with finalTicket := some t.number } else { c with partTickets := min 255 (c.partTickets + 1) }) := by
      rw [e, hc']; simp
    have en : ∀ r', r' ≠ r → chargeIn (s.table.lots.map (fun l => if l.number = r.lot then Lot.updCharge r.index (fun c => if t.final then { c with finalTicket := some t.number } else { c with partTickets := min 255 (c.partTickets + 1) }) { l with ticketsIssued := l.ticketsIssued + 1 } else l)) r' = chargeIn s.table.lots r' := by
      intro r' hr; rw [e]; simp [hr]
    generalize (s.table.lots.map (fun l => if l.number = r.lot then Lot.updCharge r.index (fun c => if t.final then { c with finalTicket := some t.number } else { c with partTickets := min 255 (c.partTickets + 1) }) { l with ticketsIssued := l.ticketsIssued + 1 } else l)) = ls' at er en
    have hfin : t.final = true → c.state = .pressed ∧ (s.unticketed r).length = (s.taken r).length := by
      intro e; rw [t4] at e; simpa [State.wouldBeFinal] using e
    have lineT : ∀ u ∈ s.tickets.queue, ∀ b ∈ s.press.bales, decide ((if t.lists b.number = true then { b with ticket := some t.number } else b : Bale).ticket = some u.number) = decide (b.ticket = some u.number) := by
      intro u hu b hb
      split
      · rename_i e
        have := (hnone b hb e).1
        have h1 := hfresh u hu
        simp [this]; exact fun e => h1 e.symm
      · rfl
    refine ⟨?_, ?_, ?_, p.waitsOnce, ?_, ?_, ?_, ?_, ?_, ?_⟩
    · intro r' x hx hfx
      by_cases e0 : r' = r
      · subst e0; rw [er] at hx; cases hx
        split at hfx
        · rename_i ef; rw [if_pos ef]; exact Or.inl (hfin ef).1
        · exact absurd hf hfx
      · rw [en _ e0] at hx; exact p.finals _ _ hx hfx
    · intro b hb; obtain ⟨b0, h0, rfl⟩ := List.mem_map.mp hb
      have hch : (if t.lists b0.number = true then { b0 with ticket := some t.number } else b0 : Bale).charge = b0.charge := by split <;> rfl
      rw [hch]
      obtain ⟨x, x1, x2, x3⟩ := p.bales b0 h0
      by_cases e0 : b0.charge = r
      · rw [e0, er]; refine ⟨_, rfl, by split <;> exact hp, ?_⟩
        intro hnt
        split
        · rename_i ef
          exfalso
          split at hnt
          · cases hnt
          · rename_i el
            exact el ((hl b0 h0).mpr (taken_all (hfin ef).2 h0 e0 hnt))
        · exact hf
      · rw [en _ e0]; refine ⟨x, x1, x2, fun hnt => x3 ?_⟩
        split at hnt
        · cases hnt
        · exact hnt
    · intro r' hr'
      have e0 : r' ≠ r := by rintro rfl; exact hw hr'
      rw [en _ e0]; exact p.waits r' hr'
    · intro u hu; simp only [List.mem_append, List.mem_singleton] at hu
      rcases hu with hu | rfl
      · obtain ⟨x, x1, x2, x3⟩ := p.tickets u hu
        by_cases e0 : u.charge = r
        · rw [e0, hc'] at x1; cases x1
          rw [e0, er]; refine ⟨_, rfl, by split <;> exact hp, ?_⟩
          intro ef; have := x3 ef; rw [hf] at this; cases this
        · rw [en _ e0]; exact ⟨x, x1, x2, x3⟩
      · rw [t1, er]; refine ⟨_, rfl, by split <;> exact hp, ?_⟩
        intro ef; rw [if_pos ef]
    · rw [List.pairwise_append]; refine ⟨p.finalLast, by simp, ?_⟩
      intro u hu v hv ef; simp at hv; subst hv
      obtain ⟨x, x1, x2, x3⟩ := p.tickets u hu
      intro e0; rw [← e0, t1, hc'] at x1; cases x1
      have := x3 ef; rw [hf] at this; cases this
    · intro b hb n hbn; obtain ⟨b0, h0, rfl⟩ := List.mem_map.mp hb
      split at hbn
      · rename_i el; cases hbn
        refine ⟨t, by simp, rfl, ?_⟩
        rw [if_pos el, t1]; exact (hnone b0 h0 el).2.1.symm
      · rename_i el; obtain ⟨u, hu, u1, u2⟩ := p.listed b0 h0 n hbn
        exact ⟨u, by simp [hu], u1, by rw [if_neg el, u2]⟩
    · intro b hb; obtain ⟨b0, h0, rfl⟩ := List.mem_map.mp hb
      have := p.weighed b0 h0
      split <;> exact this
    · intro u hu; simp only [List.mem_append, List.mem_singleton] at hu
      rcases hu with hu | rfl
      · rw [p.lines u hu, filter_map_same _ _ _ (lineT u hu)]
        symm; apply map_map_same; intro b _; split <;> rfl
      · rw [t2, List.filter_map]
        have : s.press.bales.filter ((fun b : Bale => decide (b.ticket = some u.number)) ∘ fun b : Bale => if u.lists b.number = true then { b with ticket := some u.number } else b) = s.taken r := by
          rw [← filter_sublist (taken_sublist s r) hn]
          apply List.filter_congr
          intro b hb
          simp only [Function.comp]
          split
          · rename_i el
            have := (hl b hb).mp el
            simp; exact ⟨b, this, rfl⟩
          · rename_i el
            have h1 := hold b hb
            have h2 : ∀ x ∈ s.taken r, ¬ x.number = b.number := by
              intro x hx e; rw [bales_unique hn ((taken_sublist s r).subset hx) hb e] at hx; exact el ((hl b hb).mpr hx)
            simp [h1]; exact h2
        rw [this, List.map_map, List.map_map]
        apply List.map_congr_left
        intro b hb
        have hb0 := (taken_sublist s r).subset hb
        have hwt := (taken_mem hb).2.2
        have hne : b.net ≠ none := fun e => ((p.weighed b hb0).mp e) hwt
        obtain ⟨v, hv⟩ := Option.ne_none_iff_exists'.mp hne
        simp only [Function.comp, lineOf]
        split <;> simp [hv]
    · intro u hu; simp only [List.mem_append, List.mem_singleton] at hu
      rcases hu with hu | rfl
      · exact p.totalNet u hu
      · exact t3
  · have tl : t.lot = r.lot := congrArg ChargeRef.lot t1
    refine q.upd (by intro l; rfl) ?_ ?_ ?_
    · intro l hl ho; have := q.opened _ _ hl ho; simp [Lot.updCharge, this]
    · intro l hl hS
      have hS := (hS.mapBales (fun (b : Bale) => if t.lists b.number then { b with ticket := some t.number } else b) (by intro b _; split <;> rfl) (by intro b _ _; split <;> rfl))
      refine ⟨hS.bales, hS.net, hS.released, ?_, ?_, ?_⟩
      · simp only [Lot.updCharge]; rw [map_modify_same _ _ _ _ (by intro c; split <;> rfl)]; exact hS.chargeBales
      · simp only [Lot.updCharge]; rw [map_modify_same _ _ _ _ (by intro c; split <;> rfl)]; exact hS.chargeNet
      · simp [Lot.updCharge, List.filter_append, tl]; have := hS.tickets; omega
    · intro m l hm hl hS
      have hS := (hS.mapBales (fun (b : Bale) => if t.lists b.number then { b with ticket := some t.number } else b) (by intro b _; split <;> rfl) (by intro b _ _; split <;> rfl))
      refine ⟨hS.bales, hS.net, hS.released, hS.chargeBales, hS.chargeNet, ?_⟩
      have : ¬ t.lot = m := by rw [tl]; exact fun e => hm e.symm
      simp [List.filter_append, this]; exact hS.tickets
theorem accountsIn_testComposition (s : State) (r : ChargeRef) (h : AccountsIn s) : AccountsIn (s.testComposition r) := by
  unfold State.testComposition
  split
  · rename_i e
    simp only [Bool.and_eq_true, Bool.not_eq_true', State.chargeReady] at e
    unfold AccountsIn at *
    rw [accountsAt_def] at *
    obtain ⟨a, p, q⟩ := h
    refine ⟨a, ⟨p.finals, p.bales, ?_, ?_, p.tickets, p.finalLast, p.listed, p.weighed, p.lines, p.totalNet⟩, q⟩
    · intro r' hr; simp only [List.mem_append, List.mem_singleton] at hr
      rcases hr with hr | rfl
      · exact p.waits _ hr
      · cases hc : s.charge? r' with
        | none => rw [hc] at e; simp at e
        | some c =>
          rw [hc] at e; simp at e
          obtain ⟨⟨e1, e2⟩, _⟩ := e
          refine ⟨c, hc, ?_, e1⟩
          rcases e2 with e2 | e2
          · exact Or.inl e2.1
          · exact Or.inr e2.1
    · rw [List.nodup_append]; refine ⟨p.waitsOnce, by simp, ?_⟩
      intro x hx y hy; simp at hy; subst hy
      rintro rfl
      have := e.2; simp [hx] at this
  · exact h
theorem accountsIn_compose (s : State) (r : ChargeRef) (h : AccountsIn s) (hn : (s.press.bales.map (fun b => b.number)).Pairwise (· < ·))
    (hfresh : ∀ u ∈ s.tickets.queue, u.number ≠ s.tickets.nextTicket) (hc : ∃ c, s.charge? r = some c ∧ c.state.AtPress ∧ c.finalTicket = none) (hw : r ∉ s.tickets.wait)
    : AccountsIn (s.compose r) := by
  obtain ⟨c, h1, h2, h3⟩ := hc
  unfold State.compose
  rw [h1]
  cases hl : s.lot? r.lot with
  | none => exact h
  | some l =>
    dsimp only
    split
    · exact h
    · apply accountsIn_testComposition
      have hn2 : l.number = r.lot := lotIn_number hl
      apply accountsIn_issueTicket s r _ c h hn hfresh h1 h2 h3 hw ?_ rfl ?_ rfl
      · simp [Ticket.charge, makeTicket, hn2]
      · simp only [makeTicket, foldl_net]; simp
/-- Both laws through the service of the wait list. -/
theorem numbering_fresh (s : State) (h : Numbering.NumberingOk s) : ∀ u ∈ s.tickets.queue, u.number ≠ s.tickets.nextTicket := by
  intro u hu
  rw [← Numbering.numberingLaw_iff] at h
  obtain ⟨i, hi, rfl⟩ := List.getElem_of_mem hu
  have := h.ticketsConsecutive i hi; omega
theorem numbering_bales (s : State) (h : Numbering.NumberingOk s) : (s.press.bales.map (fun b => b.number)).Pairwise (· < ·) := by
  rw [← Numbering.numberingLaw_iff] at h; exact h.balesAscend
theorem accountsIn_serveFuel (n : Nat) (s : State) (hN : Numbering.NumberingOk s) (h : AccountsIn s) : AccountsIn (State.serveFuel n s) := by
  induction n generalizing s with
  | zero => exact h
  | succ n ih =>
    unfold State.serveFuel
    split
    · exact h
    · rename_i r rest e
      split
      · have hA := h; unfold AccountsIn at hA; rw [accountsAt_def] at hA
        obtain ⟨a, p, q⟩ := hA
        have hN1 : Numbering.NumberingOk { s with tickets := { s.tickets with wait := rest } } := by
          rw [Numbering.numberingOk_mk]; rw [Numbering.numberingOk_def] at hN; exact hN
        have p1 : PapersAre (chargeIn s.table.lots) s.press.bales s.tickets.queue rest :=
          ⟨p.finals, p.bales, fun x hx => p.waits x (by rw [e]; exact List.mem_cons_of_mem _ hx), by have := p.waitsOnce; rw [e] at this; exact this.of_cons, p.tickets, p.finalLast, p.listed, p.weighed, p.lines, p.totalNet⟩
        apply ih _ (Numbering.numberingOk_compose _ _ hN1)
        refine accountsIn_compose _ _ ?_ ?_ ?_ ?_ ?_
        · unfold AccountsIn; rw [accountsAt_def]; exact ⟨a, p1, q⟩
        · exact numbering_bales s hN
        · exact numbering_fresh s hN
        · exact p.waits r (by rw [e]; simp)
        · have := p.waitsOnce; rw [e] at this; simp at this; exact this.1
      · exact h
theorem accountsIn_serve (s : State) (hN : Numbering.NumberingOk s) (h : AccountsIn s) : AccountsIn s.serve := accountsIn_serveFuel _ _ hN h
theorem accountsIn_offerCharge (s : State) (r : ChargeRef) (hN : Numbering.NumberingOk s) (h : AccountsIn s) : AccountsIn (s.offerCharge r) :=
  accountsIn_serve _ (Numbering.numberingOk_testComposition _ _ hN) (accountsIn_testComposition _ _ h)

/-! ## A ticket taken -/
/-- The bales of the list, those with `P` and those without. -/
theorem split_bales (bs : List Bale) (P : Bale → Bool) (m : Nat) (h : ∀ b ∈ bs, P b = true → b.lot = m) :
    ((bs.filter (fun b => !P b)).filter (fun b => b.lot = m)).length + (bs.filter P).length = (bs.filter (fun b => b.lot = m)).length ∧
    netSum ((bs.filter (fun b => !P b)).filter (fun b => b.lot = m)) + netSum (bs.filter P) = netSum (bs.filter (fun b => b.lot = m)) := by
  induction bs with
  | nil => simp [netSum]
  | cons b bs ih =>
    have ih := ih (fun x hx => h x (List.mem_cons_of_mem _ hx))
    have hb := h b (by simp)
    simp only [List.filter_cons]
    cases hP : P b
    · simp only [Bool.not_false, if_true, List.filter_cons]
      by_cases e : b.lot = m
      · simp only [e, decide_true, if_true, netSum, List.map_cons, List.sum_cons, List.length_cons] at ih ⊢
        constructor
        · have := ih.1; simp at this ⊢; omega
        · have := ih.2; simp at this ⊢; omega
      · simp only [e, decide_false]; exact ih
    · have e := hb hP
      simp only [Bool.not_true, e, decide_true, if_true, netSum, List.map_cons, List.sum_cons, List.length_cons] at ih ⊢
      constructor
      · have := ih.1; simp at this ⊢; omega
      · have := ih.2; simp at this ⊢; omega
theorem accountsIn_takeTicket (s : State) (t : Ticket) (rest : List Ticket) (hN : Numbering.NumberingOk s) (h : AccountsIn s) (hq : s.tickets.queue = t :: rest)
    : AccountsIn (s.takeTicket t) := by
  have hA := h; unfold AccountsIn at hA; rw [accountsAt_def] at hA
  obtain ⟨a, p, q⟩ := hA
  have hn := numbering_bales s hN
  have ht : t ∈ s.tickets.queue := by rw [hq]; simp
  have htn : ∀ u ∈ rest, u.number ≠ t.number := by
    have hN0 := hN; rw [← Numbering.numberingLaw_iff] at hN0
    intro u hu
    obtain ⟨i, hi, rfl⟩ := List.getElem_of_mem hu
    have h1 := hN0.ticketsConsecutive 0 (by rw [hq]; simp)
    have h2 := hN0.ticketsConsecutive (i+1) (by rw [hq]; simpa using hi)
    simp only [hq, List.getElem_cons_zero, List.getElem_cons_succ, List.length_cons] at h1 h2
    omega
  have lineBales : t.lines.map (fun x => x.bale) = (s.press.bales.filter (fun b => b.ticket = some t.number)).map (fun b => b.number) := by
    have := congrArg (List.map Prod.fst) (p.lines t ht)
    simpa [List.map_map, Function.comp_def] using this
  have lineNets : (t.lines.map (fun x => x.net)).sum = netSum (s.press.bales.filter (fun b => b.ticket = some t.number)) := by
    have := congrArg (List.map (fun x : Nat × Option Int => x.2.getD 0)) (p.lines t ht)
    simp only [List.map_map, Function.comp_def, Option.getD_some] at this
    unfold netSum; rw [← this]
  have lineLen : t.lines.length = (s.press.bales.filter (fun b => b.ticket = some t.number)).length := by
    have := congrArg List.length (p.lines t ht); simpa using this
  have hl : ∀ b ∈ s.press.bales, t.lists b.number = decide (b.ticket = some t.number) := by
    intro b hb
    have : t.lists b.number = (t.lines.map (fun x => x.bale)).any (fun n => n = b.number) := by simp [Ticket.lists, List.any_map, Function.comp_def]
    rw [this, lineBales]
    rw [Bool.eq_iff_iff]
    simp only [List.any_map, List.any_eq_true, Function.comp, decide_eq_true_eq]
    constructor
    · rintro ⟨x, hx, e⟩
      have hx := List.mem_filter.mp hx
      rw [bales_unique hn hx.1 hb (by simpa using e)] at hx; simpa using hx.2
    · intro e; exact ⟨b, List.mem_filter.mpr ⟨hb, by simpa using e⟩, by simp⟩
  have hfil : s.press.bales.filter (fun b => !t.lists b.number) = s.press.bales.filter (fun b => !decide (b.ticket = some t.number)) :=
    List.filter_congr (fun b hb => by rw [hl b hb])
  have hlot : ∀ b ∈ s.press.bales, b.ticket = some t.number → b.charge = t.charge := by
    intro b hb e
    obtain ⟨u, hu, u1, u2⟩ := p.listed b hb _ e
    rw [hq] at hu; simp only [List.mem_cons] at hu
    rcases hu with rfl | hu
    · exact u2.symm
    · exact absurd u1 (htn u hu)
  -- the papers that stay, on the charges as they were
  have p1 : PapersAre (chargeIn s.table.lots) (s.press.bales.filter (fun b => !decide (b.ticket = some t.number))) rest s.tickets.wait := by
    refine ⟨p.finals, fun b hb => p.bales b (List.mem_of_mem_filter hb), p.waits, p.waitsOnce, fun u hu => p.tickets u (by rw [hq]; exact List.mem_cons_of_mem _ hu), ?_, ?_,
      fun b hb => p.weighed b (List.mem_of_mem_filter hb), ?_, fun u hu => p.totalNet u (by rw [hq]; exact List.mem_cons_of_mem _ hu)⟩
    · have := p.finalLast; rw [hq] at this; exact this.of_cons
    · intro b hb n e
      have hb := List.mem_filter.mp hb
      obtain ⟨u, hu, u1, u2⟩ := p.listed b hb.1 n e
      rw [hq] at hu; simp only [List.mem_cons] at hu
      rcases hu with rfl | hu
      · have := hb.2; rw [e, u1] at this; simp at this
      · exact ⟨u, hu, u1, u2⟩
    · intro u hu
      rw [p.lines u (by rw [hq]; exact List.mem_cons_of_mem _ hu), List.filter_filter]
      congr 1
      apply List.filter_congr
      intro b _
      have := htn u hu
      by_cases e : b.ticket = some u.number
      · simp [e, this]
      · simp [e]
  -- the accounts after the lot's released totals
  have q1 : LotsAre (lotIn (s.table.lots.map (fun l => if l.number = t.lot then { l with
      releasedBales := l.releasedBales + t.lines.length
      releasedNet := wrap32 (l.releasedNet + t.totalNet)
      ticketsTaken := l.ticketsTaken + 1 } else l))) (s.press.bales.filter (fun b => !decide (b.ticket = some t.number))) rest := by
    refine q.upd (by intro l; rfl) (fun l hl ho => q.opened t.lot l hl ho) ?_ ?_
    · intro l hl hS
      have hsp := split_bales s.press.bales (fun b => decide (b.ticket = some t.number)) t.lot (fun b hb e => congrArg ChargeRef.lot (hlot b hb (by simpa using e)))
      refine ⟨?_, ?_, ?_, hS.chargeBales, hS.chargeNet, ?_⟩
      · dsimp only; rw [lineLen]; have := hS.bales; have := hsp.1; omega
      · dsimp only
        rw [hS.net, p.totalNet t ht, lineNets, wrap32_add_wrap, ← hsp.2, ← Int.add_assoc, wrap32_add_wrap]
        congr 1; omega
      · exact wrap32_wrap _
      · have := hS.tickets; rw [hq] at this; simp at this; dsimp only; omega
    · intro m l hm hl hS
      have e : (s.press.bales.filter (fun b => !decide (b.ticket = some t.number))).filter (fun b => b.lot = m) = s.press.bales.filter (fun b => b.lot = m) := by
        rw [List.filter_filter]; apply List.filter_congr
        intro b hb
        by_cases e : b.ticket = some t.number
        · have := congrArg ChargeRef.lot (hlot b hb e)
          have : b.lot ≠ m := fun x => hm (by rw [← x]; exact this)
          simp [e, this]
        · simp [e]
      refine ⟨?_, ?_, hS.released, hS.chargeBales, hS.chargeNet, ?_⟩
      · rw [e]; exact hS.bales
      · rw [e]; exact hS.net
      · have := hS.tickets; rw [hq, List.filter_cons] at this
        have hm' : ¬ t.lot = m := fun e => hm e.symm
        simpa [hm'] using this
  have hch : chargeIn (s.table.lots.map (fun l => if l.number = t.lot then { l with
      releasedBales := l.releasedBales + t.lines.length
      releasedNet := wrap32 (l.releasedNet + t.totalNet)
      ticketsTaken := l.ticketsTaken + 1 } else l)) = chargeIn s.table.lots := by
    funext r; exact chargeIn_lot _ _ _ _ (by intro l; rfl) (by intro l; rfl)
  unfold State.takeTicket
  dsimp only
  have hN0 := Numbering.numberingOk_removed s t hN
  apply accountsIn_serve _ ?_ ?_
  · apply Numbering.numberingOk_judgeStore
    split
    · apply Numbering.numberingOk_updCharge; apply Numbering.numberingOk_updLot; exact hN0
    · apply Numbering.numberingOk_updLot; exact hN0
  · apply accountsIn_judgeStore
    split
    · rename_i ef
      unfold AccountsIn
      simp only [updCharge_frame, updLot_frame]
      rw [accountsAt_def]
      simp only [updCharge_lots, updCharge_frame, updLot_lots, updLot_frame, hq, List.tail_cons, hfil]
      generalize (s.table.lots.map (fun l => if l.number = t.lot then { l with
        releasedBales := l.releasedBales + t.lines.length
        releasedNet := wrap32 (l.releasedNet + t.totalNet)
        ticketsTaken := l.ticketsTaken + 1 } else l)) = ls at q1 hch
      obtain ⟨c, c1, c2, c3⟩ := p.tickets t ht
      have c3 := c3 ef
      have e : ∀ r', chargeIn (ls.map (fun l => if l.number = t.lot then Lot.updCharge t.index (fun c => { c with state := .ticketed }) l else l)) r' =
          (chargeIn s.table.lots r').map (fun c => if r' = t.charge then { c with state := .ticketed } else c) := by
        intro r'; rw [← hch]; exact chargeIn_upd ls t.charge r' _
      refine ⟨a.charges ?_, ?_, q1.modify t.charge _ (by intro c; rfl) (by intro c; rfl)⟩
      · intro k r' x hk hx
        have : r' ≠ t.charge := by
          rintro rfl
          obtain ⟨y, y1, y2, y3⟩ := a.charge k _ hk
          rw [c1] at y1; cases y1
          have hps : c.state = .pressed ∨ c.state = .ticketed := p.finals _ _ c1 (by rw [c3]; simp)
          cases hkk : kindIn s.kilns.run k <;> rw [hkk] at y3 <;> simp [KilnState.chargeState] at y3 <;> rw [← y3] at hps <;> simp at hps
        exact ⟨x, by rw [e, hx]; simp [this], rfl, rfl⟩
      · have keep : ∀ r' x, chargeIn s.table.lots r' = some x → r' ≠ t.charge → chargeIn (ls.map (fun l => if l.number = t.lot then Lot.updCharge t.index (fun c => { c with state := .ticketed }) l else l)) r' = some x := by
          intro r' x hx hr; rw [e, hx]; simp [hr]
        refine ⟨?_, ?_, ?_, p1.waitsOnce, ?_, p1.finalLast, p1.listed, p1.weighed, p1.lines, p1.totalNet⟩
        · intro r' x hx hfx
          rw [e] at hx
          cases hx' : chargeIn s.table.lots r' with
          | none => rw [hx'] at hx; simp at hx
          | some x0 =>
            rw [hx'] at hx; simp at hx; subst hx
            split
            · exact Or.inr rfl
            · rename_i er; rw [if_neg er] at hfx; exact p.finals _ _ hx' hfx
        · intro b hb
          obtain ⟨x, x1, x2, x3⟩ := p1.bales b hb
          refine ⟨x, keep _ _ x1 ?_, x2, x3⟩
          intro er; rw [er, c1] at x1; cases x1
          cases hbt : b.ticket with
          | none => have := x3 hbt; rw [c3] at this; cases this
          | some m =>
            obtain ⟨u, hu, u1, u2⟩ := p1.listed b hb m hbt
            have hfl := p.finalLast; rw [hq, List.pairwise_cons] at hfl
            exact hfl.1 u hu ef (by rw [u2, er])
        · intro r' hr
          obtain ⟨x, x1, x2, x3⟩ := p1.waits r' hr
          refine ⟨x, keep _ _ x1 ?_, x2, x3⟩
          intro er; rw [er, c1] at x1; cases x1; rw [c3] at x3; cases x3
        · intro u hu
          obtain ⟨x, x1, x2, x3⟩ := p1.tickets u hu
          refine ⟨x, keep _ _ x1 ?_, x2, x3⟩
          have hfl := p.finalLast; rw [hq, List.pairwise_cons] at hfl
          exact hfl.1 u hu ef
    · unfold AccountsIn
      simp only [updLot_frame]
      rw [accountsAt_def]
      simp only [updLot_lots, updLot_frame, hq, List.tail_cons, hfil]
      rw [hch]
      exact ⟨a, p1, q1⟩

/-- The accounts of the records, with their numbering. -/
structure RecordsAre (ls : List Lot) (run : Vector KilnRun 6) (q : List Kiln) (bs : List Bale) (ts : List Ticket) (w : List ChargeRef) (nt : Nat) (lt : Option Nat) (nb : Nat) (lb : Option Nat) : Prop where
  numbers : Numbering.NumbersOk (Numbering.baleNumbers bs) (Numbering.ticketNumbers ts) nt lt nb lb
  kilns : KilnsAre (kindIn run) (heldIn run) q.head? q.tail (chargeIn ls)
  papers : PapersAre (chargeIn ls) bs ts w
  lots : LotsAre (lotIn ls) bs ts
/-- The same of a state. -/
@[irreducible] def RecordsOk (s : State) : Prop := RecordsAre s.table.lots s.kilns.run s.press.queue s.press.bales s.tickets.queue s.tickets.wait s.tickets.nextTicket s.tickets.lastTicket s.tickets.nextBale s.tickets.lastBale
theorem recordsOk_def (s : State) : RecordsOk s = RecordsAre s.table.lots s.kilns.run s.press.queue s.press.bales s.tickets.queue s.tickets.wait s.tickets.nextTicket s.tickets.lastTicket s.tickets.nextBale s.tickets.lastBale := by unfold RecordsOk; rfl
theorem recordsOk_mk (a b c d e f g h i j k l) : RecordsOk (State.mk a b c d e f g h i j k l) = RecordsAre f.lots h.run j.queue j.bales k.queue k.wait k.nextTicket k.lastTicket k.nextBale k.lastBale := by unfold RecordsOk; rfl
theorem recordsOk_iff (s : State) : RecordsOk s ↔ Numbering.NumberingOk s ∧ AccountsIn s := by
  rw [recordsOk_def, Numbering.numberingOk_def]; unfold AccountsIn; rw [accountsAt_def]
  exact ⟨fun h => ⟨h.numbers, h.kilns, h.papers, h.lots⟩, fun h => ⟨h.1, h.2.1, h.2.2.1, h.2.2.2⟩⟩
theorem recordsOk_num {s : State} (h : RecordsOk s) : Numbering.NumberingOk s := ((recordsOk_iff s).mp h).1
theorem recordsOk_acc {s : State} (h : RecordsOk s) : AccountsIn s := ((recordsOk_iff s).mp h).2
theorem recordsOk_of {s : State} (n : Numbering.NumberingOk s) (a : AccountsIn s) : RecordsOk s := (recordsOk_iff s).mpr ⟨n, a⟩
theorem recordsOk_updKilnSame (s : State) (k : Kiln) (f : KilnRun → KilnRun) (h : RecordsOk s) (hs : ∀ r, (f r).state = r.state) (hc : ∀ r, (f r).charge = r.charge) : RecordsOk (s.updKiln k f) :=
  recordsOk_of (Numbering.numberingOk_updKiln _ _ _ (recordsOk_num h)) (by have := accountsAt_updKilnSame s k f (recordsOk_acc h) hs hc; exact this)
theorem recordsOk_updKilnFree (s : State) (k : Kiln) (f : KilnRun → KilnRun) (h : RecordsOk s) (hf : Green.free (s.kiln k).state = true) (hl : Green.free (f (s.kiln k)).state = true) (hc : ∀ r, (f r).charge = r.charge) : RecordsOk (s.updKiln k f) :=
  recordsOk_of (Numbering.numberingOk_updKiln _ _ _ (recordsOk_num h)) (by have := accountsAt_updKilnFree s k f (recordsOk_acc h) hf hl hc; exact this)
theorem recordsOk_updChargeOf (s : State) (r : ChargeRef) (f : Charge → Charge) (h : RecordsOk s) (hf : ∀ c, f c = { f c with kiln := c.kiln, state := c.state, finalTicket := c.finalTicket, bales := c.bales, net := c.net }) : RecordsOk (s.updCharge r f) := by
  refine recordsOk_of (Numbering.numberingOk_updCharge _ _ _ (recordsOk_num h)) ?_
  apply accountsAt_updChargeOf s r f (recordsOk_acc h) <;> (intro c; rw [hf])
theorem recordsOk_updKilnChargeOf (s : State) (k : Kiln) (f : Charge → Charge) (h : RecordsOk s) (hf : ∀ c, f c = { f c with kiln := c.kiln, state := c.state, finalTicket := c.finalTicket, bales := c.bales, net := c.net }) : RecordsOk (s.updKilnCharge k f) := by
  unfold State.updKilnCharge
  split
  · exact h
  · exact recordsOk_updChargeOf _ _ _ h hf
@[simp] theorem recordsOk_raiseOpt (s : State) (k : NoticeKind) (o : Nat) (v : Option Word32) (h : RecordsOk s) : RecordsOk (State.raiseOpt s k o v) := by simpa [recordsOk_def] using h
@[simp] theorem recordsOk_raise (s : State) (k : NoticeKind) (o : Nat) (v : Int) (h : RecordsOk s) : RecordsOk (State.raise s k o v) := by simpa [recordsOk_def] using h
@[simp] theorem recordsOk_setNode (s : State) (i : NodeIdx) (n : Node) (h : RecordsOk s) : RecordsOk (State.setNode s i n) := by simpa [recordsOk_def] using h
@[simp] theorem recordsOk_placeCommand (s : State) (i : NodeIdx) (c : Commanded) (h : RecordsOk s) : RecordsOk (State.placeCommand s i c) := by simpa [recordsOk_def] using h
@[simp] theorem recordsOk_writeCommanded (s : State) (i : Option NodeIdx) (c : Commanded) (h : RecordsOk s) : RecordsOk (State.writeCommanded s i c) := by simpa [recordsOk_def] using h
@[simp] theorem recordsOk_clearCommanded (s : State) (i : Option NodeIdx) (h : RecordsOk s) : RecordsOk (State.clearCommanded s i) := by simpa [recordsOk_def] using h
@[simp] theorem recordsOk_judgePress (s : State) (h : RecordsOk s) : RecordsOk (State.judgePress s) := by simpa [recordsOk_def] using h
@[simp] theorem recordsOk_judgeStore (s : State) (h : RecordsOk s) : RecordsOk (State.judgeStore s) := by simpa [recordsOk_def] using h
@[simp] theorem recordsOk_writeBurner (s : State) (k : Kiln) (h : RecordsOk s) : RecordsOk (State.writeBurner s k) := recordsOk_of (Numbering.numberingOk_writeBurner _ _ (recordsOk_num h)) (by have := accountsAt_writeBurner s k (recordsOk_acc h); unfold AccountsIn; simpa using this)
@[simp] theorem recordsOk_kilnDried (s : State) (k : Kiln) (hf : Green.free (s.kiln k).state = true) (h : RecordsOk s) : RecordsOk (State.kilnDried s k) := recordsOk_of (Numbering.numberingOk_kilnDried _ _ (recordsOk_num h)) (accountsIn_kilnDried _ _ (recordsOk_acc h) hf)
@[simp] theorem recordsOk_enterStep (s : State) (k : Kiln) (hf : Green.free (s.kiln k).state = true) (h : RecordsOk s) : RecordsOk (State.enterStep s k) := by
  have h1 : RecordsOk (s.updKiln k KilnRun.beginStep) := recordsOk_updKilnSame _ _ _ h (by intro r; rfl) (by intro r; rfl)
  have hf1 : Green.free ((s.updKiln k KilnRun.beginStep).kiln k).state = true := by simpa [kiln_updKiln, KilnRun.beginStep] using hf
  unfold State.enterStep
  dsimp only
  split
  · apply recordsOk_writeBurner; exact recordsOk_updKilnFree _ _ _ h1 hf1 (by simp [Green.free]) (by intro r; rfl)
  · apply recordsOk_writeBurner; exact recordsOk_updKilnFree _ _ _ h1 hf1 (by simp [Green.free]) (by intro r; rfl)
  · apply recordsOk_writeBurner; exact recordsOk_updKilnFree _ _ _ h1 hf1 (by simp [Green.free]) (by intro r; rfl)
  · apply recordsOk_writeBurner; exact recordsOk_updKilnFree _ _ _ h1 hf1 (by simp [Green.free]) (by intro r; rfl)
  · exact recordsOk_kilnDried _ _ hf1 h1
@[simp] theorem recordsOk_nextStep (s : State) (k : Kiln) (hf : Green.free (s.kiln k).state = true) (h : RecordsOk s) : RecordsOk (State.nextStep s k) := by
  unfold State.nextStep
  apply recordsOk_enterStep
  · simpa [kiln_updKiln] using hf
  · exact recordsOk_updKilnSame _ _ _ h (by intro r; rfl) (by intro r; rfl)
@[simp] theorem recordsOk_holdKiln (s : State) (k : Kiln) (reason : HoldReason) (h : RecordsOk s) : RecordsOk (State.holdKiln s k reason) := by
  unfold State.holdKiln
  dsimp only
  split <;> try exact h
  · rename_i e
    apply recordsOk_raise; apply recordsOk_writeBurner
    exact recordsOk_updKilnFree _ _ _ h (by simp [e, Green.free]) (by simp [Green.free]) (by intro r; rfl)
  · split
    · exact h
    · apply recordsOk_raise
      exact recordsOk_updKilnSame _ _ _ h (by intro r; rfl) (by intro r; rfl)
@[simp] theorem recordsOk_kilnAir (s : State) (k : Kiln) (value : Int) (h : RecordsOk s) : RecordsOk (State.kilnAir s k value) := by
  have k0 : ∀ (t : State) (f : KilnRun → KilnRun), RecordsOk t → (∀ r, (f r).state = r.state) → (∀ r, (f r).charge = r.charge) → RecordsOk (t.updKiln k f) := fun t f a b c => recordsOk_updKilnSame _ _ _ a b c
  unfold State.kilnAir
  dsimp only
  (repeat' split)
  · apply recordsOk_holdKiln
    exact k0 _ _ (k0 _ _ h (by intro r; rfl) (by intro r; rfl)) (by intro r; rfl) (by intro r; rfl)
  · exact k0 _ _ (k0 _ _ h (by intro r; rfl) (by intro r; rfl)) (by intro r; rfl) (by intro r; rfl)
  · exact k0 _ _ (k0 _ _ h (by intro r; rfl) (by intro r; rfl)) (by intro r; rfl) (by intro r; rfl)
  · exact k0 _ _ h (by intro r; rfl) (by intro r; rfl)
@[simp] theorem recordsOk_kilnExhaust (s : State) (k : Kiln) (value : Int) (h : RecordsOk s) : RecordsOk (State.kilnExhaust s k value) := by
  have k0 : ∀ (t : State) (f : KilnRun → KilnRun), RecordsOk t → (∀ r, (f r).state = r.state) → (∀ r, (f r).charge = r.charge) → RecordsOk (t.updKiln k f) := fun t f a b c => recordsOk_updKilnSame _ _ _ a b c
  unfold State.kilnExhaust
  dsimp only
  split
  · rename_i hst
    simp at hst
    split
    · exact k0 _ _ h (by intro r; rfl) (by intro r; rfl)
    · split
      · split
        · apply recordsOk_nextStep
          · simp [kiln_updKiln, hst.1, Green.free]
          · exact k0 _ _ (k0 _ _ h (by intro r; rfl) (by intro r; rfl)) (by intro r; rfl) (by intro r; rfl)
        · exact k0 _ _ (k0 _ _ h (by intro r; rfl) (by intro r; rfl)) (by intro r; rfl) (by intro r; rfl)
      · exact k0 _ _ (k0 _ _ h (by intro r; rfl) (by intro r; rfl)) (by intro r; rfl) (by intro r; rfl)
  · exact k0 _ _ h (by intro r; rfl) (by intro r; rfl)
@[simp] theorem recordsOk_startRun (s : State) (k : Kiln) (d : Fin 8) (hf : Green.free (s.kiln k).state = true) (h : RecordsOk s) : RecordsOk (State.startRun s k d) := by
  unfold State.startRun
  apply recordsOk_enterStep
  · simpa [kiln_updKiln] using hf
  · exact recordsOk_updKilnSame _ _ _ h (by intro r; rfl) (by intro r; rfl)
@[simp] theorem recordsOk_autoStart (s : State) (k : Kiln) (hf : Green.free (s.kiln k).state = true) (h : RecordsOk s) : RecordsOk (State.autoStart s k) := by
  unfold State.autoStart
  (repeat' split) <;> first | exact h | exact recordsOk_startRun _ _ _ hf h
@[simp] theorem recordsOk_stepEnd (s : State) (k : Kiln) (h : RecordsOk s) : RecordsOk (State.stepEnd s k) := by
  unfold State.stepEnd
  split
  · rename_i e
    simp [State.dryingIn] at e
    apply recordsOk_nextStep
    · simp [kiln_updKiln, e.1, Green.free]
    · exact recordsOk_updKilnSame _ _ _ h (by intro r; rfl) (by intro r; rfl)
  · split
    · rename_i e
      simp [State.dryingIn, State.inCoolStep] at e
      apply recordsOk_nextStep _ _ _ h
      rcases e with e | e
      · simp [e.1, Green.free]
      · simp [e.1, Green.free]
    · exact h
@[simp] theorem recordsOk_rampMinute (s : State) (k : Kiln) (h : RecordsOk s) : RecordsOk (State.rampMinute s k) := by
  unfold State.rampMinute
  dsimp only
  split
  · split
    · exact recordsOk_stepEnd _ _ h
    · split
      · exact recordsOk_updKilnSame _ _ _ h (by intro r; rfl) (by intro r; rfl)
      · apply recordsOk_writeBurner; exact recordsOk_updKilnSame _ _ _ h (by intro r; rfl) (by intro r; rfl)
  · exact h
@[simp] theorem recordsOk_dryToOvertime (s : State) (k : Kiln) (h : RecordsOk s) : RecordsOk (State.dryToOvertime s k) := by
  unfold State.dryToOvertime
  split
  · apply recordsOk_holdKiln; apply recordsOk_raise; exact recordsOk_updKilnSame _ _ _ h (by intro r; rfl) (by intro r; rfl)
  · exact h
@[simp] theorem recordsOk_abortCoolingEnd (s : State) (k : Kiln) (h : RecordsOk s) : RecordsOk (State.abortCoolingEnd s k) := by
  unfold State.abortCoolingEnd
  split
  · rename_i e
    simp at e
    apply recordsOk_kilnDried
    · simp [kiln_updKiln, e.1, Green.free]
    · exact recordsOk_updKilnSame _ _ _ h (by intro r; rfl) (by intro r; rfl)
  · exact h
@[simp] theorem recordsOk_refreshExpiry (s : State) (k : Kiln) (h : RecordsOk s) : RecordsOk (State.refreshExpiry s k) := by
  generalize e : (State.refreshExpiry s k) = t
  unfold State.refreshExpiry at e
  (try dsimp only at e)
  (repeat' split at e) <;> subst e <;> (try simp only [refuse_state, accept_state]) <;> (simp (config := {maxDischargeDepth := 60}) [recordsOk_mk, h, (recordsOk_def s).symm.trans (eq_true h)])
@[simp] theorem recordsOk_performKilnStart (kiln : Byte) (s : State) (h : RecordsOk s) : RecordsOk (performKilnStart kiln s).state := by
  unfold performKilnStart
  (repeat' split) <;> try exact h
  rename_i e _ _ _ _ _
  simp at e
  simp only [accept_state]
  exact recordsOk_startRun _ _ _ (by simp [e, Green.free]) h
@[simp] theorem recordsOk_performKilnHold (kiln : Byte) (s : State) (h : RecordsOk s) : RecordsOk (performKilnHold kiln s).state := by
  generalize e : (performKilnHold kiln s) = t
  unfold performKilnHold at e
  (try dsimp only at e)
  (repeat' split at e) <;> subst e <;> (try simp only [refuse_state, accept_state]) <;> (simp (config := {maxDischargeDepth := 60}) [recordsOk_mk, h, (recordsOk_def s).symm.trans (eq_true h)])
@[simp] theorem recordsOk_resume (s : State) (k : Kiln) (m : ResumeMode) (hf : Green.free (s.kiln k).state = true) (h : RecordsOk s) : RecordsOk (State.resume s k m) := by
  unfold State.resume
  dsimp only
  have h2 : RecordsOk ((s.updKilnCharge k (fun c => { c with held := true, overtime := c.overtime || (s.kiln k).hold.overtime })).updKiln k (fun r => { r with hold := {}, overLimit := 0, dryQualify := 0 })) :=
    recordsOk_updKilnSame _ _ _ (recordsOk_updKilnChargeOf _ _ _ h (by intro c; rfl)) (by intro r; rfl) (by intro r; rfl)
  have hf2 : Green.free (((s.updKilnCharge k (fun c => { c with held := true, overtime := c.overtime || (s.kiln k).hold.overtime })).updKiln k (fun r => { r with hold := {}, overLimit := 0, dryQualify := 0 })).kiln k).state = true := by
    rw [kiln_updKiln]
    simpa [State.kiln] using hf
  split
  · apply recordsOk_writeBurner; exact recordsOk_updKilnFree _ _ _ h2 hf2 (by simp [Green.free]) (by intro r; rfl)
  · apply recordsOk_writeBurner; exact recordsOk_updKilnFree _ _ _ h2 hf2 (by simp [Green.free]) (by intro r; rfl)
  · exact recordsOk_nextStep _ _ hf2 h2
@[simp] theorem recordsOk_performKilnResume (kiln mode : Byte) (s : State) (h : RecordsOk s) : RecordsOk (performKilnResume kiln mode s).state := by
  unfold performKilnResume
  (repeat' split) <;> try exact h
  rename_i e
  simp at e
  simp only [accept_state]
  exact recordsOk_resume _ _ _ (by simp [e.1, Green.free]) h
@[simp] theorem recordsOk_abort (s : State) (k : Kiln) (hf : Green.free (s.kiln k).state = true) (h : RecordsOk s) : RecordsOk (State.abort s k) := by
  unfold State.abort
  have h1 : RecordsOk (if (s.kiln k).state = .loaded then
      s.updKiln k (fun r => { r with
        schedule := (s.kilnVariety k).map (fun w => w.schedule), totalElapsed := 0, totalFraction := 0 })
    else s) := by
    split
    · exact recordsOk_updKilnSame _ _ _ h (by intro r; rfl) (by intro r; rfl)
    · exact h
  have hf1 : Green.free ((if (s.kiln k).state = .loaded then
      s.updKiln k (fun r => { r with
        schedule := (s.kilnVariety k).map (fun w => w.schedule), totalElapsed := 0, totalFraction := 0 })
    else s).kiln k).state = true := by
    split
    · simpa [kiln_updKiln] using hf
    · exact hf
  dsimp only
  generalize (if (s.kiln k).state = .loaded then
      s.updKiln k (fun r => { r with
        schedule := (s.kilnVariety k).map (fun w => w.schedule), totalElapsed := 0, totalFraction := 0 })
    else s) = t at h1 hf1
  have h3 : RecordsOk ((t.updKilnCharge k (fun c => { c with aborted := true })).updKiln k (fun r => { r with
    aborted := true, hold := {}, overLimit := 0, dryQualify := 0, stepElapsed := 0, stepFraction := 0 })) :=
    recordsOk_updKilnSame _ _ _ (recordsOk_updKilnChargeOf _ _ _ h1 (by intro c; rfl)) (by intro r; rfl) (by intro r; rfl)
  have hf3 : Green.free (((t.updKilnCharge k (fun c => { c with aborted := true })).updKiln k (fun r => { r with
    aborted := true, hold := {}, overLimit := 0, dryQualify := 0, stepElapsed := 0, stepFraction := 0 })).kiln k).state = true := by
    rw [kiln_updKiln]; simpa [State.kiln] using hf1
  split
  · exact recordsOk_kilnDried _ _ hf3 h3
  · apply recordsOk_writeBurner; exact recordsOk_updKilnFree _ _ _ h3 hf3 (by simp [Green.free]) (by intro r; rfl)
@[simp] theorem recordsOk_performKilnAbort (kiln : Byte) (s : State) (h : RecordsOk s) : RecordsOk (performKilnAbort kiln s).state := by
  unfold performKilnAbort
  split
  · exact h
  · dsimp only
    split
    · rename_i e
      simp only [accept_state]
      apply recordsOk_abort _ _ _ h
      simp at e
      rcases e with (e | e) | e <;> simp [e, Green.free]
    · exact h
@[simp] theorem recordsOk_performKilnRead (kiln : Byte) (s : State) (h : RecordsOk s) : RecordsOk (performKilnRead kiln s).state := by simpa [recordsOk_def] using h
@[simp] theorem recordsOk_setPrint (s : State) (n : Nat) (p : PrintState) (h : RecordsOk s) : RecordsOk (State.setPrint s n p) := recordsOk_of (Numbering.numberingOk_setPrint _ _ _ (recordsOk_num h)) (accountsIn_setPrint _ _ _ (recordsOk_acc h))
@[simp] theorem recordsOk_setProcess (s : State) (p : PrintProcess) (h : RecordsOk s) : RecordsOk (State.setProcess s p) := by simpa [recordsOk_def] using h
@[simp] theorem recordsOk_printScan (s : State) (h : RecordsOk s) : RecordsOk (State.printScan s) := recordsOk_of (Numbering.numberingOk_printScan _ (recordsOk_num h)) (accountsIn_printScan _ (recordsOk_acc h))
@[simp] theorem recordsOk_promptPrint (s : State) (h : RecordsOk s) : RecordsOk (State.promptPrint s) := by
  generalize e : (State.promptPrint s) = t
  unfold State.promptPrint at e
  (try dsimp only at e)
  (repeat' split at e) <;> subst e <;> (try simp only [refuse_state, accept_state]) <;> (simp (config := {maxDischargeDepth := 60}) [recordsOk_mk, h, (recordsOk_def s).symm.trans (eq_true h)])
@[simp] theorem recordsOk_testComposition (s : State) (r : ChargeRef) (h : RecordsOk s) : RecordsOk (State.testComposition s r) := recordsOk_of (Numbering.numberingOk_testComposition _ _ (recordsOk_num h)) (accountsIn_testComposition _ _ (recordsOk_acc h))
@[simp] theorem recordsOk_serveFuel (n : Nat) (s : State) (h : RecordsOk s) : RecordsOk (State.serveFuel n s) := recordsOk_of (Numbering.numberingOk_serveFuel _ _ (recordsOk_num h)) (accountsIn_serveFuel _ _ (recordsOk_num h) (recordsOk_acc h))
@[simp] theorem recordsOk_serve (s : State) (h : RecordsOk s) : RecordsOk (State.serve s) := by
  generalize e : (State.serve s) = t
  unfold State.serve at e
  (try dsimp only at e)
  (repeat' split at e) <;> subst e <;> (try simp only [refuse_state, accept_state]) <;> (simp (config := {maxDischargeDepth := 60}) [recordsOk_mk, h, (recordsOk_def s).symm.trans (eq_true h)])
@[simp] theorem recordsOk_offerCharge (s : State) (r : ChargeRef) (h : RecordsOk s) : RecordsOk (State.offerCharge s r) := by
  generalize e : (State.offerCharge s r) = t
  unfold State.offerCharge at e
  (try dsimp only at e)
  (repeat' split at e) <;> subst e <;> (try simp only [refuse_state, accept_state]) <;> (simp (config := {maxDischargeDepth := 60}) [recordsOk_mk, h, (recordsOk_def s).symm.trans (eq_true h)])
@[simp] theorem recordsOk_performTicketBase (nextTicket nextBale : Word32) (s : State) (h : RecordsOk s) : RecordsOk (performTicketBase nextTicket nextBale s).state := by
  refine recordsOk_of (Numbering.numberingOk_performTicketBase _ _ _ (recordsOk_num h)) (accountsIn_congr s _ (recordsOk_acc h) (by simp) (by simp) (by simp) (by simp) (by simp) (by simp) (by simp))
@[simp] theorem recordsOk_performTicketRead (ticket : Word32) (s : State) (h : RecordsOk s) : RecordsOk (performTicketRead ticket s).state := by simpa [recordsOk_def] using h
@[simp] theorem recordsOk_takeTicket (s : State) (t : Ticket) (rest : List Ticket) (hq : s.tickets.queue = t :: rest) (h : RecordsOk s) : RecordsOk (State.takeTicket s t) := recordsOk_of (Numbering.numberingOk_takeTicket _ _ (recordsOk_num h)) (accountsIn_takeTicket _ _ rest (recordsOk_num h) (recordsOk_acc h) hq)
@[simp] theorem recordsOk_performTicketTake (ticket : Word32) (s : State) (h : RecordsOk s) : RecordsOk (performTicketTake ticket s).state := by
  unfold performTicketTake
  (repeat' split) <;> try exact h
  rename_i t ht hne _
  simp only [accept_state]
  cases hq : s.tickets.queue with
  | nil => rw [hq] at hne; simp at hne
  | cons u rest =>
    rw [hq] at hne; simp at hne
    have : u = t := by
      unfold State.ticket? at ht
      have hn := List.find?_some ht
      simp at hn
      rw [hq] at ht
      simp [hne, hn] at ht
      exact ht
    subst this
    exact recordsOk_takeTicket _ _ rest hq h
@[simp] theorem recordsOk_performTicketReprint (ticket : Word32) (s : State) (h : RecordsOk s) : RecordsOk (performTicketReprint ticket s).state := by
  generalize e : (performTicketReprint ticket s) = t
  unfold performTicketReprint at e
  (try dsimp only at e)
  (repeat' split at e) <;> subst e <;> (try simp only [refuse_state, accept_state]) <;> (simp (config := {maxDischargeDepth := 60}) [recordsOk_mk, h, (recordsOk_def s).symm.trans (eq_true h)])
@[simp] theorem recordsOk_updFeed (s : State) (f : Feed → Feed) (h : RecordsOk s) : RecordsOk (State.updFeed s f) := by simpa [recordsOk_def] using h
@[simp] theorem recordsOk_updHold (s : State) (f : FeedHold → FeedHold) (h : RecordsOk s) : RecordsOk (State.updHold s f) := by simpa [recordsOk_def] using h
@[simp] theorem recordsOk_raiseFeedHeld (s : State) (reason : Nat) (h : RecordsOk s) : RecordsOk (State.raiseFeedHeld s reason) := by simpa [recordsOk_def] using h
@[simp] theorem recordsOk_judgeHeld (s : State) (before : FeedHold) (h : RecordsOk s) : RecordsOk (State.judgeHeld s before) := by simpa [recordsOk_def] using h
@[simp] theorem recordsOk_judgePicker (s : State) (h : RecordsOk s) : RecordsOk (State.judgePicker s) := by simpa [recordsOk_def] using h
@[simp] theorem recordsOk_feedEvent (f : State → State) (s : State) (h : RecordsOk (f s)) : RecordsOk (feedEvent f s) := by
  simp [feedEvent, h]
@[simp] theorem recordsOk_startDivertWatch (s : State) (h : RecordsOk s) : RecordsOk (State.startDivertWatch s) := by simpa [recordsOk_def] using h
@[simp] theorem recordsOk_hitChargeLimit (s : State) (b : Nat) (k : Kiln) (h : RecordsOk s) : RecordsOk (State.hitChargeLimit s b k) := by simpa [recordsOk_def] using h
@[simp] theorem recordsOk_divertWatchExpiry (s : State) (h : RecordsOk s) : RecordsOk (State.divertWatchExpiry s) := by simpa [recordsOk_def] using h
@[simp] theorem recordsOk_divertReport (s : State) (target : Option Kiln) (h : RecordsOk s) : RecordsOk (State.divertReport s target) := by simpa [recordsOk_def] using h
@[simp] theorem recordsOk_performFeedHold (flag : Byte) (s : State) (h : RecordsOk s) : RecordsOk (performFeedHold flag s).state := by simpa [recordsOk_def] using h
@[simp] theorem recordsOk_fillBale (s : State) (b : Bale) (gross : Int) (hb : b ∈ s.press.bales) (hst : b.status ≠ .weighed) (h : RecordsOk s) : RecordsOk (State.fillBale s b gross) := recordsOk_of (Numbering.numberingOk_fillBale _ _ _ (recordsOk_num h)) (accountsIn_fillBale _ _ _ (recordsOk_acc h) (numbering_bales s (recordsOk_num h)) hb hst)
@[simp] theorem recordsOk_captured (s : State) (weight : Int) (h : RecordsOk s) : RecordsOk (State.captured s weight) := by
  unfold State.captured
  (repeat' split) <;> first | exact h | simpa [recordsOk_def] using h | skip
  rename_i b hb hst
  apply recordsOk_offerCharge
  exact recordsOk_fillBale _ _ _ (List.mem_of_find?_eq_some hb) (by rw [hst]; simp) h
@[simp] theorem recordsOk_notCaptured (s : State) (h : RecordsOk s) : RecordsOk (State.notCaptured s) := by
  unfold State.notCaptured
  (repeat' split) <;> first | exact h | simpa [recordsOk_def] using h | skip
  rename_i n _ _ b hb hst
  apply recordsOk_offerCharge
  refine recordsOk_of (Numbering.numberingOk_updBaleOf _ _ _ (recordsOk_num h) (by intro b; rfl)) ?_
  refine accountsIn_updBaleOf _ _ _ (recordsOk_acc h) (by intro b; rfl) (by intro b; rfl) (by intro b; rfl) (by intro b; rfl) ?_
  intro b' hb' e
  have hm := List.mem_of_find?_eq_some hb
  have hn : b.number = n := by simpa using List.find?_some hb
  have := bales_unique (numbering_bales s (recordsOk_num h)) hb' hm (by rw [e, hn])
  subst this; simp [hst]
@[simp] theorem recordsOk_updScale (s : State) (f : Scale → Scale) (h : RecordsOk s) : RecordsOk (State.updScale s f) := by simpa [recordsOk_def] using h
@[simp] theorem recordsOk_judgeBlock (s : State) (h : RecordsOk s) : RecordsOk (State.judgeBlock s) := by
  generalize e : (State.judgeBlock s) = t
  unfold State.judgeBlock at e
  (try dsimp only at e)
  (repeat' split at e) <;> subst e <;> (try simp only [refuse_state, accept_state]) <;> (simp (config := {maxDischargeDepth := 60}) [recordsOk_mk, h, (recordsOk_def s).symm.trans (eq_true h)])
@[simp] theorem recordsOk_enterFault (s : State) (cause : FaultCause) (h : RecordsOk s) : RecordsOk (State.enterFault s cause) := by
  generalize e : (State.enterFault s cause) = t
  unfold State.enterFault at e
  (try dsimp only at e)
  (repeat' split at e) <;> subst e <;> (try simp only [refuse_state, accept_state]) <;> (simp (config := {maxDischargeDepth := 60}) [recordsOk_mk, h, (recordsOk_def s).symm.trans (eq_true h)])
@[simp] theorem recordsOk_faultCause (s : State) (cause : FaultCause) (h : RecordsOk s) : RecordsOk (State.faultCause s cause) := by
  generalize e : (State.faultCause s cause) = t
  unfold State.faultCause at e
  (try dsimp only at e)
  (repeat' split at e) <;> subst e <;> (try simp only [refuse_state, accept_state]) <;> (simp (config := {maxDischargeDepth := 60}) [recordsOk_mk, h, (recordsOk_def s).symm.trans (eq_true h)])
@[simp] theorem recordsOk_takeReading (s : State) (r : Int) (h : RecordsOk s) : RecordsOk (State.takeReading s r) := by
  generalize e : (State.takeReading s r) = t
  unfold State.takeReading at e
  (try dsimp only at e)
  (repeat' split at e) <;> subst e <;> (try simp only [refuse_state, accept_state]) <;> (simp (config := {maxDischargeDepth := 60}) [recordsOk_mk, h, (recordsOk_def s).symm.trans (eq_true h)])
@[simp] theorem recordsOk_takeSample (s : State) (st : Byte) (sample : Int) (h : RecordsOk s) : RecordsOk (State.takeSample s st sample) := by
  generalize e : (State.takeSample s st sample) = t
  unfold State.takeSample at e
  (try dsimp only at e)
  (repeat' split at e) <;> subst e <;> (try simp only [refuse_state, accept_state]) <;> (simp (config := {maxDischargeDepth := 60}) [recordsOk_mk, h, (recordsOk_def s).symm.trans (eq_true h)])
@[simp] theorem recordsOk_frameStart (s : State) (h : RecordsOk s) : RecordsOk (State.frameStart s) := by simpa [recordsOk_def] using h
@[simp] theorem recordsOk_frameComplete (s : State) (st : Byte) (sample : BitVec 24) (h : RecordsOk s) : RecordsOk (State.frameComplete s st sample) := by
  generalize e : (State.frameComplete s st sample) = t
  unfold State.frameComplete at e
  (try dsimp only at e)
  (repeat' split at e) <;> subst e <;> (try simp only [refuse_state, accept_state]) <;> (simp (config := {maxDischargeDepth := 60}) [recordsOk_mk, h, (recordsOk_def s).symm.trans (eq_true h)])
@[simp] theorem recordsOk_frameTorn (s : State) (h : RecordsOk s) : RecordsOk (State.frameTorn s) := by simpa [recordsOk_def] using h
@[simp] theorem recordsOk_watchExpiry (s : State) (h : RecordsOk s) : RecordsOk (State.watchExpiry s) := by
  generalize e : (State.watchExpiry s) = t
  unfold State.watchExpiry at e
  (try dsimp only at e)
  (repeat' split at e) <;> subst e <;> (try simp only [refuse_state, accept_state]) <;> (simp (config := {maxDischargeDepth := 60}) [recordsOk_mk, h, (recordsOk_def s).symm.trans (eq_true h)])
@[simp] theorem recordsOk_settleTimeout (s : State) (h : RecordsOk s) : RecordsOk (State.settleTimeout s) := by
  generalize e : (State.settleTimeout s) = t
  unfold State.settleTimeout at e
  (try dsimp only at e)
  (repeat' split at e) <;> subst e <;> (try simp only [refuse_state, accept_state]) <;> (simp (config := {maxDischargeDepth := 60}) [recordsOk_mk, h, (recordsOk_def s).symm.trans (eq_true h)])
@[simp] theorem recordsOk_scaleOnScale (s : State) (h : RecordsOk s) : RecordsOk (State.scaleOnScale s) := by
  generalize e : (State.scaleOnScale s) = t
  unfold State.scaleOnScale at e
  (try dsimp only at e)
  (repeat' split at e) <;> subst e <;> (try simp only [refuse_state, accept_state]) <;> (simp (config := {maxDischargeDepth := 60}) [recordsOk_mk, h, (recordsOk_def s).symm.trans (eq_true h)])
@[simp] theorem recordsOk_createBale (s : State) (k : Kiln) (r : ChargeRef) (value : Word32) (weighing : Bool) (hq : s.press.queue.head? = some k) (hr : (s.kiln k).charge = some r) (h : RecordsOk s) : RecordsOk (State.createBale s k r value weighing) := recordsOk_of (Numbering.numberingOk_createBale _ _ _ _ _ (recordsOk_num h)) (accountsIn_createBale _ _ _ _ _ (recordsOk_acc h) hq hr (recordsOk_num h) (fun t hN hA => recordsOk_acc (recordsOk_offerCharge t r (recordsOk_of hN hA))))
@[simp] theorem recordsOk_newCycle (s : State) (value : Word32) (weighing : Bool) (h : RecordsOk s) : RecordsOk (State.newCycle s value weighing) := by
  unfold State.newCycle
  split
  · rename_i k r e
    unfold State.baleCharge at e
    split at e
    · cases e
    · rename_i k' rest hq
      split at e
      · cases e
      · rename_i r' hr
        split at e
        · cases e
          exact recordsOk_createBale _ _ _ _ _ (by rw [hq]; rfl) hr h
        · cases e
  · dsimp only
    split <;> simpa [recordsOk_def] using h
@[simp] theorem recordsOk_onScale (s : State) (value : Word32) (h : RecordsOk s) : RecordsOk (State.onScale s value) := by
  generalize e : (State.onScale s value) = t
  unfold State.onScale at e
  (try dsimp only at e)
  (repeat' split at e) <;> subst e <;> (try simp only [refuse_state, accept_state]) <;> (simp (config := {maxDischargeDepth := 60}) [recordsOk_mk, h, (recordsOk_def s).symm.trans (eq_true h)])
@[simp] theorem recordsOk_offScale (s : State) (h : RecordsOk s) : RecordsOk (State.offScale s) := by
  unfold State.offScale
  dsimp only
  rw [recordsOk_mk, ← recordsOk_def]
  split <;> simp (config := {maxDischargeDepth := 60}) only [recordsOk_raise, recordsOk_updScale, recordsOk_notCaptured, h]
@[simp] theorem recordsOk_moisture (s : State) (value : Word32) (h : RecordsOk s) : RecordsOk (State.moisture s value) := by
  unfold State.moisture
  (repeat' split) <;> try exact h
  dsimp only
  refine recordsOk_of (Numbering.numberingOk_updBaleOf _ _ _ (recordsOk_num h) (by intro b; rfl)) ?_
  exact accountsIn_updBaleOf _ _ _ (recordsOk_acc h) (by intro b; rfl) (by intro b; rfl) (by intro b; rfl) (by intro b; rfl) (by intro b _ _; exact Iff.rfl)
@[simp] theorem recordsOk_performPressHold (flag : Byte) (s : State) (h : RecordsOk s) : RecordsOk (performPressHold flag s).state := by simpa [recordsOk_def] using h
@[simp] theorem recordsOk_performBaleWeight (bale gross : Word32) (s : State) (h : RecordsOk s) : RecordsOk (performBaleWeight bale gross s).state := by
  unfold performBaleWeight
  (repeat' split) <;> try exact h
  rename_i b hb hst
  simp only [accept_state]
  apply recordsOk_offerCharge
  exact recordsOk_fillBale _ _ _ (List.mem_of_find?_eq_some hb) (by simp at hst; rw [hst]; simp) h
@[simp] theorem recordsOk_performBaleRead (bale : Word32) (s : State) (h : RecordsOk s) : RecordsOk (performBaleRead bale s).state := by simpa [recordsOk_def] using h
@[simp] theorem recordsOk_performScaleRead (s : State) (h : RecordsOk s) : RecordsOk (performScaleRead s).state := by simpa [recordsOk_def] using h
@[simp] theorem recordsOk_performScaleZero (s : State) (h : RecordsOk s) : RecordsOk (performScaleZero s).state := by simpa [recordsOk_def] using h
@[simp] theorem recordsOk_performScaleCommand (word : Byte) (s : State) (h : RecordsOk s) : RecordsOk (performScaleCommand word s).state := by simpa [recordsOk_def] using h
@[simp] theorem recordsOk_nodeAnswered (s : State) (i : NodeIdx) (h : RecordsOk s) : RecordsOk (State.nodeAnswered s i) := by simpa [recordsOk_def] using h
@[simp] theorem recordsOk_holdBound (s : State) (n : Node) (reason : HoldReason) (h : RecordsOk s) : RecordsOk (State.holdBound s n reason) := by
  generalize e : (State.holdBound s n reason) = t
  unfold State.holdBound at e
  (try dsimp only at e)
  (repeat' split at e) <;> subst e <;> (try simp only [refuse_state, accept_state]) <;> (simp (config := {maxDischargeDepth := 60}) [recordsOk_mk, h, (recordsOk_def s).symm.trans (eq_true h)])
@[simp] theorem recordsOk_reportLost (s : State) (n : Node) (h : RecordsOk s) : RecordsOk (State.reportLost s n) := by
  generalize e : (State.reportLost s n) = t
  unfold State.reportLost at e
  (try dsimp only at e)
  (repeat' split at e) <;> subst e <;> (try simp only [refuse_state, accept_state]) <;> (simp (config := {maxDischargeDepth := 60}) [recordsOk_mk, h, (recordsOk_def s).symm.trans (eq_true h)])
@[simp] theorem recordsOk_nodeMissed (s : State) (i : NodeIdx) (h : RecordsOk s) : RecordsOk (State.nodeMissed s i) := by
  generalize e : (State.nodeMissed s i) = t
  unfold State.nodeMissed at e
  (try dsimp only at e)
  (repeat' split at e) <;> subst e <;> (try simp only [refuse_state, accept_state]) <;> (simp (config := {maxDischargeDepth := 60}) [recordsOk_mk, h, (recordsOk_def s).symm.trans (eq_true h)])
@[simp] theorem recordsOk_missOn (s : State) (t : Transaction) (h : RecordsOk s) : RecordsOk (State.missOn s t) := by
  generalize e : (State.missOn s t) = t
  unfold State.missOn at e
  (try dsimp only at e)
  (repeat' split at e) <;> subst e <;> (try simp only [refuse_state, accept_state]) <;> (simp (config := {maxDischargeDepth := 60}) [recordsOk_mk, h, (recordsOk_def s).symm.trans (eq_true h)])
@[simp] theorem recordsOk_forward (s : State) (f : Frame) (h : RecordsOk s) : RecordsOk (State.forward s f) := by simpa [recordsOk_def] using h
@[simp] theorem recordsOk_copyIf (s : State) (c : Bool) (f : Frame) (h : RecordsOk s) : RecordsOk (State.copyIf s c f) := by simpa [recordsOk_def] using h
@[simp] theorem recordsOk_endTransaction (s : State) (h : RecordsOk s) : RecordsOk (State.endTransaction s) := by simpa [recordsOk_def] using h
@[simp] theorem recordsOk_countUnsolicited (s : State) (h : RecordsOk s) : RecordsOk (State.countUnsolicited s) := by simpa [recordsOk_def] using h
@[simp] theorem recordsOk_blockAnswered (s : State) (i : NodeIdx) (ticket : Nat) (f : Frame) (h : RecordsOk s) : RecordsOk (State.blockAnswered s i ticket f) := by
  generalize e : (State.blockAnswered s i ticket f) = t
  unfold State.blockAnswered at e
  (try dsimp only at e)
  (repeat' split at e) <;> subst e <;> (try simp only [refuse_state, accept_state]) <;> (simp (config := {maxDischargeDepth := 60}) [recordsOk_mk, h, (recordsOk_def s).symm.trans (eq_true h)])
@[simp] theorem recordsOk_expired (s : State) (t : Transaction) (h : RecordsOk s) : RecordsOk (State.expired s t) := by
  generalize e : (State.expired s t) = t
  unfold State.expired at e
  (try dsimp only at e)
  (repeat' split at e) <;> subst e <;> (try simp only [refuse_state, accept_state]) <;> (simp (config := {maxDischargeDepth := 60}) [recordsOk_mk, h, (recordsOk_def s).symm.trans (eq_true h)])
@[simp] theorem recordsOk_afterOther (s : State) (h : RecordsOk s) : RecordsOk (State.afterOther s) := by
  generalize e : (State.afterOther s) = t
  unfold State.afterOther at e
  (try dsimp only at e)
  (repeat' split at e) <;> subst e <;> (try simp only [refuse_state, accept_state]) <;> (simp (config := {maxDischargeDepth := 60}) [recordsOk_mk, h, (recordsOk_def s).symm.trans (eq_true h)])
@[simp] theorem recordsOk_receptionStart (s : State) (h : RecordsOk s) : RecordsOk (State.receptionStart s) := by simpa [recordsOk_def] using h
@[simp] theorem recordsOk_windowExpiry (s : State) (h : RecordsOk s) : RecordsOk (State.windowExpiry s) := by
  generalize e : (State.windowExpiry s) = t
  unfold State.windowExpiry at e
  (try dsimp only at e)
  (repeat' split at e) <;> subst e <;> (try simp only [refuse_state, accept_state]) <;> (simp (config := {maxDischargeDepth := 60}) [recordsOk_mk, h, (recordsOk_def s).symm.trans (eq_true h)])
@[simp] theorem recordsOk_guardEnd (s : State) (h : RecordsOk s) : RecordsOk (State.guardEnd s) := by simpa [recordsOk_def] using h
@[simp] theorem recordsOk_transmitDone (s : State) (h : RecordsOk s) : RecordsOk (State.transmitDone s) := by simpa [recordsOk_def] using h
@[simp] theorem recordsOk_openTransaction (s : State) (kind : TransactionKind) (address : Byte) (node : Option NodeIdx) (frames : List Frame) (window : Nat) (h : RecordsOk s) : RecordsOk (State.openTransaction s kind address node frames window) := by simpa [recordsOk_def] using h
@[simp] theorem recordsOk_startCommand (s : State) (c : Command) (rest : List Command) (h : RecordsOk s) : RecordsOk (State.startCommand s c rest) := by simpa [recordsOk_def] using h
@[simp] theorem recordsOk_startBlock (s : State) (ticket : Nat) (h : RecordsOk s) : RecordsOk (State.startBlock s ticket) := by simpa [recordsOk_def] using h
@[simp] theorem recordsOk_startPass (s : State) (f : Frame) (rest : List Frame) (h : RecordsOk s) : RecordsOk (State.startPass s f rest) := by simpa [recordsOk_def] using h
@[simp] theorem recordsOk_startPoll (s : State) (i : NodeIdx) (rest : List NodeIdx) (h : RecordsOk s) : RecordsOk (State.startPoll s i rest) := by simpa [recordsOk_def] using h
@[simp] theorem recordsOk_startSource (s : State) (c : FieldSource) (h : RecordsOk s) : RecordsOk (State.startSource s c) := by simpa [recordsOk_def] using h
@[simp] theorem recordsOk_startTransaction (s : State) (h : RecordsOk s) : RecordsOk (State.startTransaction s) := by simpa [recordsOk_def] using h
@[simp] theorem recordsOk_choosing (s : State) (c : Option FieldSource) (h : RecordsOk s) : RecordsOk (s.choosing c) := by simpa [recordsOk_def] using h
@[simp] theorem recordsOk_scheduleNode (c : CadenceId) (s : State) (i : NodeIdx) (h : RecordsOk s) : RecordsOk (State.scheduleNode c s i) := by simpa [recordsOk_def] using h
@[simp] theorem recordsOk_updCadence (s : State) (c : CadenceId) (f : Cadence → Cadence) (h : RecordsOk s) : RecordsOk (State.updCadence s c f) := by simpa [recordsOk_def] using h
@[simp] theorem recordsOk_cadenceExpiry (s : State) (c : CadenceId) (h : RecordsOk s) : RecordsOk (State.cadenceExpiry s c) := by simpa [recordsOk_def] using h
@[simp] theorem recordsOk_restartField (s : State) (h : RecordsOk s) : RecordsOk (State.restartField s) := by
  refine recordsOk_of (Numbering.numberingOk_restartField _ (recordsOk_num h)) ?_
  unfold State.restartField
  dsimp only
  split
  · apply accountsIn_printScan
    exact accountsIn_congr { s with tickets := { s.tickets with queue := s.tickets.queue.map Ticket.abandoned } } _
      (by apply accountsIn_mapTickets s _ (recordsOk_acc h) <;> (intro t; unfold Ticket.abandoned; split <;> rfl)) rfl rfl rfl rfl rfl rfl rfl
  · exact accountsIn_congr s _ (recordsOk_acc h) rfl rfl rfl rfl rfl rfl rfl
@[simp] theorem recordsOk_printerWritten (s : State) (before after : Option Role) (h : RecordsOk s) : RecordsOk (State.printerWritten s before after) := by
  generalize e : (State.printerWritten s before after) = t
  unfold State.printerWritten at e
  (try dsimp only at e)
  (repeat' split at e) <;> subst e <;> (try simp only [refuse_state, accept_state]) <;> (simp (config := {maxDischargeDepth := 60}) [recordsOk_mk, h, (recordsOk_def s).symm.trans (eq_true h)])
@[simp] theorem recordsOk_writeNode (s : State) (i : NodeIdx) (g : NodeImage) (h : RecordsOk s) : RecordsOk (State.writeNode s i g) := by
  generalize e : (State.writeNode s i g) = t
  unfold State.writeNode at e
  (try dsimp only at e)
  (repeat' split at e) <;> subst e <;> (try simp only [refuse_state, accept_state]) <;> (simp (config := {maxDischargeDepth := 60}) [recordsOk_mk, h, (recordsOk_def s).symm.trans (eq_true h)])
@[simp] theorem recordsOk_performNodeWrite (index : Byte) (image : List Byte) (s : State) (h : RecordsOk s) : RecordsOk (performNodeWrite index image s).state := by
  generalize e : (performNodeWrite index image s) = t
  unfold performNodeWrite at e
  (try dsimp only at e)
  (repeat' split at e) <;> subst e <;> (try simp only [refuse_state, accept_state]) <;> (simp (config := {maxDischargeDepth := 60}) [recordsOk_mk, h, (recordsOk_def s).symm.trans (eq_true h)])
@[simp] theorem recordsOk_performRouteWrite (index : Byte) (image : List Byte) (s : State) (h : RecordsOk s) : RecordsOk (performRouteWrite index image s).state := by simpa [recordsOk_def] using h
@[simp] theorem recordsOk_performCadenceWrite (index : Byte) (image : List Byte) (s : State) (h : RecordsOk s) : RecordsOk (performCadenceWrite index image s).state := by simpa [recordsOk_def] using h
@[simp] theorem recordsOk_setKilnEntry (s : State) (k : Kiln) (e : KilnEntry) (h : RecordsOk s) : RecordsOk (State.setKilnEntry s k e) := by simpa [recordsOk_def] using h
@[simp] theorem recordsOk_performScheduleWrite (index : Byte) (image : List Byte) (s : State) (h : RecordsOk s) : RecordsOk (performScheduleWrite index image s).state := by simpa [recordsOk_def] using h
@[simp] theorem recordsOk_performStepWrite (index : Byte) (image : List Byte) (s : State) (h : RecordsOk s) : RecordsOk (performStepWrite index image s).state := by simpa [recordsOk_def] using h
@[simp] theorem recordsOk_performVarietyWrite (index : Byte) (image : List Byte) (s : State) (h : RecordsOk s) : RecordsOk (performVarietyWrite index image s).state := by simpa [recordsOk_def] using h
@[simp] theorem recordsOk_performTareWrite (index : Byte) (image : List Byte) (s : State) (h : RecordsOk s) : RecordsOk (performTareWrite index image s).state := by simpa [recordsOk_def] using h
@[simp] theorem recordsOk_performScaleSetupWrite (index : Byte) (image : List Byte) (s : State) (h : RecordsOk s) : RecordsOk (performScaleSetupWrite index image s).state := by simpa [recordsOk_def] using h
@[simp] theorem recordsOk_performStationWrite (index : Byte) (image : List Byte) (s : State) (h : RecordsOk s) : RecordsOk (performStationWrite index image s).state := by simpa [recordsOk_def] using h
@[simp] theorem recordsOk_performTableRead (table index part : Byte) (s : State) (h : RecordsOk s) : RecordsOk (performTableRead table index part s).state := by simpa [recordsOk_def] using h
@[simp] theorem recordsOk_performLotOpen (lot grower : Word16) (variety : Byte) (s : State) (h : RecordsOk s) : RecordsOk (performLotOpen lot grower variety s).state := by
  unfold performLotOpen
  (repeat' split) <;> try exact h
  rename_i hn _
  simp only [accept_state]
  refine recordsOk_of (Numbering.numberingOk_addLot _ _ (recordsOk_num h)) (accountsIn_addLot _ _ (recordsOk_acc h) (by simpa [newLot] using hn) rfl ?_)
  constructor <;> simp [newLot, netSum, wrap32]
@[simp] theorem recordsOk_performLotRead (lot : Word16) (item : Byte) (s : State) (h : RecordsOk s) : RecordsOk (performLotRead lot item s).state := by simpa [recordsOk_def] using h
@[simp] theorem recordsOk_performLotVoid (lot : Word16) (s : State) (h : RecordsOk s) : RecordsOk (performLotVoid lot s).state := by
  unfold performLotVoid
  (repeat' split) <;> try exact h
  rename_i l hl hs
  simp only [accept_state]
  refine recordsOk_of (Numbering.numberingOk_removeLot _ _ (recordsOk_num h)) (accountsIn_removeLot _ _ l (recordsOk_acc h) hl ?_)
  have := recordsOk_acc h; unfold AccountsIn at this; rw [accountsAt_def] at this
  rw [this.2.2.opened _ l hl hs]; simp
@[simp] theorem recordsOk_performLotClose (lot : Word16) (s : State) (h : RecordsOk s) : RecordsOk (performLotClose lot s).state := by
  unfold performLotClose
  (repeat' split) <;> try exact h
  rename_i l hl hs
  simp [Lot.allTicketed] at hs
  simp only [accept_state]
  exact recordsOk_of (Numbering.numberingOk_removeLot _ _ (recordsOk_num h)) (accountsIn_removeLot _ _ l (recordsOk_acc h) hl hs.2)
@[simp] theorem recordsOk_clearCounts (s : State) (h : RecordsOk s) : RecordsOk (State.clearCounts s) := by simpa [recordsOk_def] using h
@[simp] theorem recordsOk_performStatus (clear page : Byte) (s : State) (h : RecordsOk s) : RecordsOk (performStatus clear page s).state := by simpa [recordsOk_def] using h
@[simp] theorem recordsOk_performTimeSet (time : Word32) (s : State) (h : RecordsOk s) : RecordsOk (performTimeSet time s).state := by simpa [recordsOk_def] using h
@[simp] theorem recordsOk_secondPassed (s : State) (h : RecordsOk s) : RecordsOk (State.secondPassed s) := by simpa [recordsOk_def] using h
@[simp] theorem recordsOk_setReply (s : State) (payload : List Byte) (h : RecordsOk s) : RecordsOk (State.setReply s payload) := by simpa [recordsOk_def] using h
@[simp] theorem recordsOk_updLink (s : State) (f : Link → Link) (h : RecordsOk s) : RecordsOk (State.updLink s f) := by simpa [recordsOk_def] using h
@[simp] theorem recordsOk_validArrival (s : State) (h : RecordsOk s) : RecordsOk (State.validArrival s) := by simpa [recordsOk_def] using h
@[simp] theorem recordsOk_linkSilent (s : State) (h : RecordsOk s) : RecordsOk (State.linkSilent s) := by simpa [recordsOk_def] using h
@[simp] theorem recordsOk_offerPass (s : State) (f : Frame) (h : RecordsOk s) : RecordsOk (State.offerPass s f) := by simpa [recordsOk_def] using h
@[simp] theorem recordsOk_idleGap (s : State) (port : Port) (h : RecordsOk s) : RecordsOk (State.idleGap s port) := by simpa [recordsOk_def] using h
@[simp] theorem recordsOk_startUpstream (s : State) (t : UpTransmit) (h : RecordsOk s) : RecordsOk (State.startUpstream s t) := by simpa [recordsOk_def] using h
@[simp] theorem recordsOk_upstreamTransmit (s : State) (h : RecordsOk s) : RecordsOk (State.upstreamTransmit s) := by simpa [recordsOk_def] using h

/-! ## The feed -/
theorem recordsOk_updFeedAny (s : State) (f : Feed → Feed) (h : RecordsOk s) : RecordsOk (s.updFeed f) := recordsOk_updFeed s f h
theorem recordsOk_updLotOf (s : State) (n : Nat) (f : Lot → Lot) (h : RecordsOk s) (hn : ∀ l, (f l).number = l.number) (hc : ∀ l, (f l).charges = l.charges)
    (ho : ∀ l, (f l).state = .opened → l.state = .opened) (ha : ∀ l bs ts, SumsAre n l bs ts → SumsAre n (f l) bs ts) : RecordsOk (s.updLot n f) :=
  recordsOk_of (Numbering.numberingOk_updLot _ _ _ (recordsOk_num h)) (by have := accountsAt_updLotOf s n f (recordsOk_acc h) hn hc ho ha; exact this)
theorem sums_same {n l bs ts} (h : SumsAre n l bs ts) {m : Lot} (e : m = { m with charges := l.charges, baleCount := l.baleCount, netTotal := l.netTotal, releasedBales := l.releasedBales, releasedNet := l.releasedNet, ticketsIssued := l.ticketsIssued, ticketsTaken := l.ticketsTaken }) : SumsAre n m bs ts := by
  rw [e]; exact ⟨h.bales, h.net, h.released, h.chargeBales, h.chargeNet, h.tickets⟩
theorem recordsOk_selectKiln (s : State) (b : Nat) (g : Green.GreenFor none s) (hb : s.feed.beltLot = some b) (h : RecordsOk s) : RecordsOk (s.selectKiln b) := by
  unfold State.selectKiln
  split
  · exact recordsOk_updHold _ _ h
  · rename_i k hk
    split
    · have hk2 := List.find?_some hk
      simp at hk2
      have g' := g
      rw [Green.greenFor_def] at g'
      obtain ⟨l, hl, hn, hf⟩ := g'.fed b (Or.inr (Or.inl hb))
      have hl? : s.lot? b = some l := by
        have := Green.lot?_unique g'.ascending hl; rw [hn] at this; exact this
      have h1 := recordsOk_updHold s (fun h => { h with noKiln := false }) h
      refine recordsOk_of (Numbering.numberingOk_takeKiln _ _ _ (recordsOk_num h1)) (accountsIn_takeKiln _ b k l (recordsOk_acc h1) ?_ (by rw [hf]; simp) ?_)
      · exact hl?
      · exact hk2.1
    · exact recordsOk_hitChargeLimit _ _ _ h
theorem recordsOk_attemptSelection (s : State) (g : Green.GreenIn s) (h : RecordsOk s) : RecordsOk s.attemptSelection := by
  unfold State.attemptSelection
  split
  · rename_i hb hl
    split
    · exact h
    · unfold Green.GreenIn at g; rw [hl] at g; exact recordsOk_selectKiln _ _ g hb h
  · exact h
theorem recordsOk_closeFill (s : State) (k : Kiln) (g : Green.GreenFor (some k) s) (h : RecordsOk s) : RecordsOk (s.closeFill k) := by
  rw [Green.greenFor_def] at g
  exact recordsOk_of (Numbering.numberingOk_closeFill _ _ (recordsOk_num h)) (accountsIn_closeFill s k (recordsOk_acc h) (g.loading k rfl).1 (recordsOk_num h)
    (fun t n a hf => recordsOk_acc (recordsOk_autoStart t k hf (recordsOk_of n a))))
theorem recordsOk_closeAndSelect (s : State) (k : Kiln) (g : Green.GreenFor (some k) s) (h : RecordsOk s) : RecordsOk (s.closeAndSelect k) := by
  unfold State.closeAndSelect
  apply recordsOk_attemptSelection _ _ (recordsOk_closeFill _ _ g h)
  unfold Green.GreenIn; rw [Green.closeFill_loading]; exact Green.greenFor_closeFill _ _ g
theorem recordsOk_finishOldLot (s : State) (h : RecordsOk s) : RecordsOk s.finishOldLot := by
  unfold State.finishOldLot
  (repeat' split) <;> try exact h
  exact recordsOk_updLotOf _ _ _ h (by intro l; rfl) (by intro l; rfl) (by intro l e; cases e) (fun l bs ts hS => sums_same hS rfl)
theorem recordsOk_completeChangeover (s : State) (g : Green.GreenIn s) (h : RecordsOk s) : RecordsOk s.completeChangeover := by
  unfold State.completeChangeover
  dsimp only
  unfold Green.GreenIn at g
  split
  · rename_i e; rw [e] at g
    exact recordsOk_attemptSelection _ (Green.greenIn_changedOver _ g e) (recordsOk_updFeed _ _ (recordsOk_finishOldLot _ h))
  · rename_i k e; rw [e] at g
    exact recordsOk_attemptSelection _ (Green.greenIn_changedOver _ (Green.greenFor_closeFill _ _ g) (Green.closeFill_loading _ _)) (recordsOk_updFeed _ _ (recordsOk_finishOldLot _ (recordsOk_closeFill _ _ g h)))
theorem recordsOk_changeoverExpiry (s : State) (g : Green.GreenIn s) (h : RecordsOk s) : RecordsOk s.changeoverExpiry := by
  unfold State.changeoverExpiry
  dsimp only
  split
  · split
    · exact recordsOk_completeChangeover _ (Green.greenFor_updFeedSame _ _ g rfl rfl rfl) (recordsOk_updFeed _ _ h)
    · exact recordsOk_updFeed _ _ (recordsOk_updFeed _ _ h)
  · exact h
  · exact h
theorem recordsOk_beltAnswered (s : State) (g : Green.GreenIn s) (h : RecordsOk s) : RecordsOk s.beltAnswered := by
  unfold State.beltAnswered
  split
  · exact recordsOk_completeChangeover _ g h
  · exact h
theorem recordsOk_credit (s : State) (inc : Nat) (g : Green.GreenIn s) (h : RecordsOk s) : RecordsOk (s.credit inc) := by
  unfold State.credit
  split
  · exact recordsOk_updFeed _ _ h
  · rename_i b hb
    split
    · rename_i k hk hd
      dsimp only
      unfold Green.GreenIn at g
      rw [hk] at g
      have g1 := Green.credit_lots s b inc k g hb
      have h1 : RecordsOk ((s.updLot b (fun l => { l with greenTotal := l.greenTotal + inc })).updKilnCharge k (fun c => { c with green := c.green + inc })) :=
        recordsOk_updKilnChargeOf _ _ _ (recordsOk_updLotOf _ _ _ h (by intro l; rfl) (by intro l; rfl) (by intro l e; exact e) (fun l bs ts hS => sums_same hS rfl)) (by intro c; rfl)
      generalize (s.updLot b (fun l => { l with greenTotal := l.greenTotal + inc })).updKilnCharge k (fun c => { c with green := c.green + inc }) = t at g1 h1
      split
      · exact h1
      · split
        · exact recordsOk_closeAndSelect _ _ g1 h1
        · exact h1
    · dsimp only
      exact recordsOk_raise _ _ _ _ (recordsOk_updLotOf _ _ _ h (by intro l; rfl) (by intro l; rfl) (by intro l e; exact e) (fun l bs ts hS => sums_same hS rfl))
theorem recordsOk_green (s : State) (i : NodeIdx) (v : Word32) (g : Green.GreenIn s) (h : RecordsOk s) : RecordsOk (s.green i v) := by
  unfold State.green
  dsimp only
  have h1 : ∀ n, RecordsOk (s.setNode i n) := fun n => recordsOk_setNode _ _ _ h
  have g1 : ∀ n, Green.GreenIn (s.setNode i n) := by
    intro n; unfold Green.GreenIn; simp only [setNode_frame]; exact Green.greenFor_setNode _ _ _ g
  split
  · split
    · exact h1 _
    · split
      · exact recordsOk_raiseOpt _ _ _ _ (h1 _)
      · exact recordsOk_credit _ _ (g1 _) (h1 _)
  · exact h1 _
theorem recordsOk_feedLot (s : State) (new : Option Nat) (g : Green.GreenIn s) (hn : ∀ n, new = some n → (s.lot? n).isSome) (h : RecordsOk s) : RecordsOk (s.feedLot new) := by
  have hx := Green.greenIn_fed s new g hn
  unfold State.feedLot
  dsimp only at hx ⊢
  have h2 : RecordsOk (match (generalizing := false) new with
    | none => s.updFeed (fun u => { u with
    feedLot := new, changeover := .draining new, timer := 10 * s.mgmt.station.transit
    hold := { u.hold with changeover := true, stopped := new.isNone } })
    | some n => (s.updFeed (fun u => { u with
    feedLot := new, changeover := .draining new, timer := 10 * s.mgmt.station.transit
    hold := { u.hold with changeover := true, stopped := new.isNone } })).updLot n (fun l => { l with state := .feeding })) := by
    split
    · exact recordsOk_updFeed _ _ h
    · exact recordsOk_updLotOf _ _ _ (recordsOk_updFeed _ _ h) (by intro l; rfl) (by intro l; rfl) (by intro l e; cases e) (fun l bs ts hS => sums_same hS rfl)
  split
  · exact recordsOk_changeoverExpiry _ hx h2
  · exact h2
theorem recordsOk_performLotFeed (lot : Word16) (s : State) (g : Green.GreenIn s) (h : RecordsOk s) : RecordsOk (performLotFeed lot s).state := by
  unfold performLotFeed
  dsimp only
  by_cases h0 : lot.toNat = 0
  · simp only [h0, if_true]
    (repeat' split) <;> try exact h
    simp only [accept_state]
    apply recordsOk_feedEvent; exact recordsOk_feedLot _ _ g (by simp) h
  · simp only [h0, if_false]
    (repeat' split) <;> try exact h
    rename_i h1 h2 _ _
    simp only [accept_state]
    apply recordsOk_feedEvent; apply recordsOk_feedLot _ _ g _ h
    intro n hn
    simp at hn; subst hn
    exact Option.isSome_iff_ne_none.mpr (by simpa using h2)
theorem recordsOk_performFillOrder (count kilns) (s : State) (g : Green.GreenIn s) (h : RecordsOk s) : RecordsOk (performFillOrder count kilns s).state := by
  unfold performFillOrder
  (repeat' split) <;> try exact h
  simp only [accept_state]
  apply recordsOk_feedEvent
  exact recordsOk_attemptSelection _ (Green.greenFor_updFeedSame _ _ g rfl rfl rfl) (recordsOk_updFeed _ _ h)
theorem recordsOk_performLoadClose (s : State) (g : Green.GreenIn s) (h : RecordsOk s) : RecordsOk (performLoadClose s).state := by
  unfold performLoadClose
  split
  · exact h
  · rename_i k hk
    simp only [accept_state]
    apply recordsOk_feedEvent
    unfold Green.GreenIn at g; rw [hk] at g
    exact recordsOk_closeAndSelect _ _ g h
theorem recordsOk_unloadHead (s : State) (k : Kiln) (rest : List Kiln) (hq : s.press.queue = k :: rest) (g : Green.GreenIn s) (h : RecordsOk s) : RecordsOk (s.unloadHead k) := by
  have g1 := Green.greenIn_unloadedHead s k rest hq g
  have hnd : rest.Nodup := by
    unfold Green.GreenIn at g; rw [Green.greenFor_def] at g; have := g.queueOnce; rw [hq] at this; exact this.of_cons
  unfold State.unloadHead
  dsimp only
  apply recordsOk_serve
  apply recordsOk_attemptSelection _ g1
  apply recordsOk_judgePress
  have n0 : Numbering.NumberingOk ({ s with press := { s.press with queue := s.press.queue.tail } } : State) := by
    rw [Numbering.numberingOk_mk]; have := recordsOk_num h; rw [Numbering.numberingOk_def] at this; exact this
  have h3 : RecordsOk (((({ s with press := { s.press with queue := s.press.queue.tail } } : State).updKilnCharge k (fun c => { c with state := .pressed })).kilnEmptied k).advanceHead) := by
    refine recordsOk_of ?_ ?_
    · exact Numbering.numberingOk_advanceHead _ (Numbering.numberingOk_kilnEmptied _ _ (Numbering.numberingOk_updKilnCharge _ _ _ n0))
    · have a0 : AccountsAt (some k) rest ({ s with press := { s.press with queue := s.press.queue.tail } } : State) := by
        have := recordsOk_acc h; unfold AccountsIn at this; rw [hq] at this; exact accountsAt_congr s _ this rfl rfl rfl rfl rfl rfl
      have a1 := accountsAt_emptied _ k a0
      apply accountsIn_advanceHead
      · simp only [kilnEmptied_frame, updKilnCharge_frame, hq, List.tail_cons]
        simp only [hq, List.tail_cons] at a1
        exact a1
      · simp only [kilnEmptied_frame, updKilnCharge_frame, hq, List.tail_cons]; exact hnd
  split
  · exact h3
  · exact recordsOk_testComposition _ _ h3
theorem recordsOk_unloadDone (s : State) (g : Green.GreenIn s) (h : RecordsOk s) : RecordsOk s.unloadDone := by
  unfold State.unloadDone
  split
  · exact h
  · rename_i k rest hq; exact recordsOk_unloadHead _ _ rest hq g h
theorem recordsOk_performUnloadDone (kiln : Byte) (s : State) (g : Green.GreenIn s) (h : RecordsOk s) : RecordsOk (performUnloadDone kiln s).state := by
  unfold performUnloadDone
  dsimp only
  (repeat' split) <;> try exact h
  simp only [accept_state]
  exact recordsOk_feedEvent _ _ (recordsOk_unloadDone _ g h)
theorem recordsOk_performKilnWrite (index image) (s : State) (g : Green.GreenIn s) (h : RecordsOk s) : RecordsOk (performKilnWrite index image s).state := by
  unfold performKilnWrite
  (repeat' split) <;> try exact h
  simp only [accept_state]
  apply recordsOk_feedEvent
  exact recordsOk_attemptSelection _ (Green.greenIn_of s _ (by simp) (Green.greenFor_setKilnEntry _ _ _ g)) (recordsOk_setKilnEntry _ _ _ h)

/-! ## With the law of the green weight -/
/-- The accounts and the green weight of the records. -/
structure AllAre (ls : List Lot) (run : Vector KilnRun 6) (q : List Kiln) (bs : List Bale) (ts : List Ticket) (w : List ChargeRef) (nt : Nat) (lt : Option Nat) (nb : Nat) (lb : Option Nat)
    (ld : Option Kiln) (belt fl pend : Option Nat) : Prop where
  records : RecordsAre ls run q bs ts w nt lt nb lb
  green : Green.GreenIs ls run ld belt fl pend q
/-- The same of a state. -/
@[irreducible] def AccountsOk (s : State) : Prop := AllAre s.table.lots s.kilns.run s.press.queue s.press.bales s.tickets.queue s.tickets.wait s.tickets.nextTicket s.tickets.lastTicket s.tickets.nextBale s.tickets.lastBale
  s.feed.loading s.feed.beltLot s.feed.feedLot s.feed.changeover.pending
theorem accountsOk_def (s : State) : AccountsOk s = AllAre s.table.lots s.kilns.run s.press.queue s.press.bales s.tickets.queue s.tickets.wait s.tickets.nextTicket s.tickets.lastTicket s.tickets.nextBale s.tickets.lastBale
  s.feed.loading s.feed.beltLot s.feed.feedLot s.feed.changeover.pending := by unfold AccountsOk; rfl
theorem accountsOk_mk (a b c d e f g h i j k l) : AccountsOk (State.mk a b c d e f g h i j k l) = AllAre f.lots h.run j.queue j.bales k.queue k.wait k.nextTicket k.lastTicket k.nextBale k.lastBale g.loading g.beltLot g.feedLot g.changeover.pending := by unfold AccountsOk; rfl
theorem accountsOk_iff (s : State) : AccountsOk s ↔ Green.GreenOk s ∧ RecordsOk s := by
  rw [accountsOk_def, Green.greenOk_def, recordsOk_def]
  exact ⟨fun h => ⟨h.green, h.records⟩, fun h => ⟨h.2, h.1⟩⟩
theorem accountsOk_of {s : State} (g : Green.GreenOk s) (a : RecordsOk s) : AccountsOk s := (accountsOk_iff s).mpr ⟨g, a⟩
theorem accountsOk_g {s : State} (h : AccountsOk s) : Green.GreenOk s := ((accountsOk_iff s).mp h).1
theorem accountsOk_a {s : State} (h : AccountsOk s) : RecordsOk s := ((accountsOk_iff s).mp h).2
theorem accountsOk_in {s : State} (h : AccountsOk s) : Green.GreenIn s := by have := accountsOk_g h; unfold Green.GreenOk at this; exact this
@[simp] theorem accountsOk_raiseOpt (s : State) (k : NoticeKind) (o : Nat) (v : Option Word32) (h : AccountsOk s) : AccountsOk (State.raiseOpt s k o v) := accountsOk_of (Green.greenOk_raiseOpt _ _ _ _ (accountsOk_g h)) (recordsOk_raiseOpt _ _ _ _ (accountsOk_a h))
@[simp] theorem accountsOk_raise (s : State) (k : NoticeKind) (o : Nat) (v : Int) (h : AccountsOk s) : AccountsOk (State.raise s k o v) := accountsOk_of (Green.greenOk_raise _ _ _ _ (accountsOk_g h)) (recordsOk_raise _ _ _ _ (accountsOk_a h))
@[simp] theorem accountsOk_setNode (s : State) (i : NodeIdx) (n : Node) (h : AccountsOk s) : AccountsOk (State.setNode s i n) := accountsOk_of (Green.greenOk_setNode _ _ _ (accountsOk_g h)) (recordsOk_setNode _ _ _ (accountsOk_a h))
@[simp] theorem accountsOk_placeCommand (s : State) (i : NodeIdx) (c : Commanded) (h : AccountsOk s) : AccountsOk (State.placeCommand s i c) := accountsOk_of (Green.greenOk_placeCommand _ _ _ (accountsOk_g h)) (recordsOk_placeCommand _ _ _ (accountsOk_a h))
@[simp] theorem accountsOk_writeCommanded (s : State) (i : Option NodeIdx) (c : Commanded) (h : AccountsOk s) : AccountsOk (State.writeCommanded s i c) := accountsOk_of (Green.greenOk_writeCommanded _ _ _ (accountsOk_g h)) (recordsOk_writeCommanded _ _ _ (accountsOk_a h))
@[simp] theorem accountsOk_clearCommanded (s : State) (i : Option NodeIdx) (h : AccountsOk s) : AccountsOk (State.clearCommanded s i) := accountsOk_of (Green.greenOk_clearCommanded _ _ (accountsOk_g h)) (recordsOk_clearCommanded _ _ (accountsOk_a h))
@[simp] theorem accountsOk_judgePress (s : State) (h : AccountsOk s) : AccountsOk (State.judgePress s) := accountsOk_of (Green.greenOk_judgePress _ (accountsOk_g h)) (recordsOk_judgePress _ (accountsOk_a h))
@[simp] theorem accountsOk_judgeStore (s : State) (h : AccountsOk s) : AccountsOk (State.judgeStore s) := accountsOk_of (Green.greenOk_judgeStore _ (accountsOk_g h)) (recordsOk_judgeStore _ (accountsOk_a h))
@[simp] theorem accountsOk_writeBurner (s : State) (k : Kiln) (h : AccountsOk s) : AccountsOk (State.writeBurner s k) := accountsOk_of (Green.greenOk_writeBurner _ _ (accountsOk_g h)) (recordsOk_writeBurner _ _ (accountsOk_a h))
@[simp] theorem accountsOk_holdKiln (s : State) (k : Kiln) (reason : HoldReason) (h : AccountsOk s) : AccountsOk (State.holdKiln s k reason) := accountsOk_of (Green.greenOk_holdKiln _ _ _ (accountsOk_g h)) (recordsOk_holdKiln _ _ _ (accountsOk_a h))
@[simp] theorem accountsOk_kilnAir (s : State) (k : Kiln) (value : Int) (h : AccountsOk s) : AccountsOk (State.kilnAir s k value) := accountsOk_of (Green.greenOk_kilnAir _ _ _ (accountsOk_g h)) (recordsOk_kilnAir _ _ _ (accountsOk_a h))
@[simp] theorem accountsOk_kilnExhaust (s : State) (k : Kiln) (value : Int) (h : AccountsOk s) : AccountsOk (State.kilnExhaust s k value) := accountsOk_of (Green.greenOk_kilnExhaust _ _ _ (accountsOk_g h)) (recordsOk_kilnExhaust _ _ _ (accountsOk_a h))
@[simp] theorem accountsOk_stepEnd (s : State) (k : Kiln) (h : AccountsOk s) : AccountsOk (State.stepEnd s k) := accountsOk_of (Green.greenOk_stepEnd _ _ (accountsOk_g h)) (recordsOk_stepEnd _ _ (accountsOk_a h))
@[simp] theorem accountsOk_rampMinute (s : State) (k : Kiln) (h : AccountsOk s) : AccountsOk (State.rampMinute s k) := accountsOk_of (Green.greenOk_rampMinute _ _ (accountsOk_g h)) (recordsOk_rampMinute _ _ (accountsOk_a h))
@[simp] theorem accountsOk_dryToOvertime (s : State) (k : Kiln) (h : AccountsOk s) : AccountsOk (State.dryToOvertime s k) := accountsOk_of (Green.greenOk_dryToOvertime _ _ (accountsOk_g h)) (recordsOk_dryToOvertime _ _ (accountsOk_a h))
@[simp] theorem accountsOk_abortCoolingEnd (s : State) (k : Kiln) (h : AccountsOk s) : AccountsOk (State.abortCoolingEnd s k) := accountsOk_of (Green.greenOk_abortCoolingEnd _ _ (accountsOk_g h)) (recordsOk_abortCoolingEnd _ _ (accountsOk_a h))
@[simp] theorem accountsOk_refreshExpiry (s : State) (k : Kiln) (h : AccountsOk s) : AccountsOk (State.refreshExpiry s k) := accountsOk_of (Green.greenOk_refreshExpiry _ _ (accountsOk_g h)) (recordsOk_refreshExpiry _ _ (accountsOk_a h))
@[simp] theorem accountsOk_performKilnStart (kiln : Byte) (s : State) (h : AccountsOk s) : AccountsOk (performKilnStart kiln s).state := accountsOk_of (Green.greenOk_performKilnStart _ _ (accountsOk_g h)) (recordsOk_performKilnStart _ _ (accountsOk_a h))
@[simp] theorem accountsOk_performKilnHold (kiln : Byte) (s : State) (h : AccountsOk s) : AccountsOk (performKilnHold kiln s).state := accountsOk_of (Green.greenOk_performKilnHold _ _ (accountsOk_g h)) (recordsOk_performKilnHold _ _ (accountsOk_a h))
@[simp] theorem accountsOk_performKilnResume (kiln mode : Byte) (s : State) (h : AccountsOk s) : AccountsOk (performKilnResume kiln mode s).state := accountsOk_of (Green.greenOk_performKilnResume _ _ _ (accountsOk_g h)) (recordsOk_performKilnResume _ _ _ (accountsOk_a h))
@[simp] theorem accountsOk_performKilnAbort (kiln : Byte) (s : State) (h : AccountsOk s) : AccountsOk (performKilnAbort kiln s).state := accountsOk_of (Green.greenOk_performKilnAbort _ _ (accountsOk_g h)) (recordsOk_performKilnAbort _ _ (accountsOk_a h))
@[simp] theorem accountsOk_performKilnRead (kiln : Byte) (s : State) (h : AccountsOk s) : AccountsOk (performKilnRead kiln s).state := accountsOk_of (Green.greenOk_performKilnRead _ _ (accountsOk_g h)) (recordsOk_performKilnRead _ _ (accountsOk_a h))
@[simp] theorem accountsOk_setPrint (s : State) (n : Nat) (p : PrintState) (h : AccountsOk s) : AccountsOk (State.setPrint s n p) := accountsOk_of (Green.greenOk_setPrint _ _ _ (accountsOk_g h)) (recordsOk_setPrint _ _ _ (accountsOk_a h))
@[simp] theorem accountsOk_setProcess (s : State) (p : PrintProcess) (h : AccountsOk s) : AccountsOk (State.setProcess s p) := accountsOk_of (Green.greenOk_setProcess _ _ (accountsOk_g h)) (recordsOk_setProcess _ _ (accountsOk_a h))
@[simp] theorem accountsOk_printScan (s : State) (h : AccountsOk s) : AccountsOk (State.printScan s) := accountsOk_of (Green.greenOk_printScan _ (accountsOk_g h)) (recordsOk_printScan _ (accountsOk_a h))
@[simp] theorem accountsOk_promptPrint (s : State) (h : AccountsOk s) : AccountsOk (State.promptPrint s) := accountsOk_of (Green.greenOk_promptPrint _ (accountsOk_g h)) (recordsOk_promptPrint _ (accountsOk_a h))
@[simp] theorem accountsOk_testComposition (s : State) (r : ChargeRef) (h : AccountsOk s) : AccountsOk (State.testComposition s r) := accountsOk_of (Green.greenOk_testComposition _ _ (accountsOk_g h)) (recordsOk_testComposition _ _ (accountsOk_a h))
@[simp] theorem accountsOk_serveFuel (n : Nat) (s : State) (h : AccountsOk s) : AccountsOk (State.serveFuel n s) := accountsOk_of (Green.greenOk_serveFuel _ _ (accountsOk_g h)) (recordsOk_serveFuel _ _ (accountsOk_a h))
@[simp] theorem accountsOk_serve (s : State) (h : AccountsOk s) : AccountsOk (State.serve s) := accountsOk_of (Green.greenOk_serve _ (accountsOk_g h)) (recordsOk_serve _ (accountsOk_a h))
@[simp] theorem accountsOk_offerCharge (s : State) (r : ChargeRef) (h : AccountsOk s) : AccountsOk (State.offerCharge s r) := accountsOk_of (Green.greenOk_offerCharge _ _ (accountsOk_g h)) (recordsOk_offerCharge _ _ (accountsOk_a h))
@[simp] theorem accountsOk_performTicketBase (nextTicket nextBale : Word32) (s : State) (h : AccountsOk s) : AccountsOk (performTicketBase nextTicket nextBale s).state := accountsOk_of (Green.greenOk_performTicketBase _ _ _ (accountsOk_g h)) (recordsOk_performTicketBase _ _ _ (accountsOk_a h))
@[simp] theorem accountsOk_performTicketRead (ticket : Word32) (s : State) (h : AccountsOk s) : AccountsOk (performTicketRead ticket s).state := accountsOk_of (Green.greenOk_performTicketRead _ _ (accountsOk_g h)) (recordsOk_performTicketRead _ _ (accountsOk_a h))
@[simp] theorem accountsOk_performTicketTake (ticket : Word32) (s : State) (h : AccountsOk s) : AccountsOk (performTicketTake ticket s).state := accountsOk_of (Green.greenOk_performTicketTake _ _ (accountsOk_g h)) (recordsOk_performTicketTake _ _ (accountsOk_a h))
@[simp] theorem accountsOk_performTicketReprint (ticket : Word32) (s : State) (h : AccountsOk s) : AccountsOk (performTicketReprint ticket s).state := accountsOk_of (Green.greenOk_performTicketReprint _ _ (accountsOk_g h)) (recordsOk_performTicketReprint _ _ (accountsOk_a h))
@[simp] theorem accountsOk_raiseFeedHeld (s : State) (reason : Nat) (h : AccountsOk s) : AccountsOk (State.raiseFeedHeld s reason) := accountsOk_of (Green.greenOk_raiseFeedHeld _ _ (accountsOk_g h)) (recordsOk_raiseFeedHeld _ _ (accountsOk_a h))
@[simp] theorem accountsOk_judgeHeld (s : State) (before : FeedHold) (h : AccountsOk s) : AccountsOk (State.judgeHeld s before) := accountsOk_of (Green.greenOk_judgeHeld _ _ (accountsOk_g h)) (recordsOk_judgeHeld _ _ (accountsOk_a h))
@[simp] theorem accountsOk_judgePicker (s : State) (h : AccountsOk s) : AccountsOk (State.judgePicker s) := accountsOk_of (Green.greenOk_judgePicker _ (accountsOk_g h)) (recordsOk_judgePicker _ (accountsOk_a h))
@[simp] theorem accountsOk_attemptSelection (s : State) (h : AccountsOk s) : AccountsOk (State.attemptSelection s) := accountsOk_of (Green.greenOk_attemptSelection _ (accountsOk_g h)) (recordsOk_attemptSelection _ (accountsOk_in h) (accountsOk_a h))
@[simp] theorem accountsOk_completeChangeover (s : State) (h : AccountsOk s) : AccountsOk (State.completeChangeover s) := accountsOk_of (Green.greenOk_completeChangeover _ (accountsOk_g h)) (recordsOk_completeChangeover _ (accountsOk_in h) (accountsOk_a h))
@[simp] theorem accountsOk_changeoverExpiry (s : State) (h : AccountsOk s) : AccountsOk (State.changeoverExpiry s) := accountsOk_of (Green.greenOk_changeoverExpiry _ (accountsOk_g h)) (recordsOk_changeoverExpiry _ (accountsOk_in h) (accountsOk_a h))
@[simp] theorem accountsOk_beltAnswered (s : State) (h : AccountsOk s) : AccountsOk (State.beltAnswered s) := accountsOk_of (Green.greenOk_beltAnswered _ (accountsOk_g h)) (recordsOk_beltAnswered _ (accountsOk_in h) (accountsOk_a h))
@[simp] theorem accountsOk_divertWatchExpiry (s : State) (h : AccountsOk s) : AccountsOk (State.divertWatchExpiry s) := accountsOk_of (Green.greenOk_divertWatchExpiry _ (accountsOk_g h)) (recordsOk_divertWatchExpiry _ (accountsOk_a h))
@[simp] theorem accountsOk_divertReport (s : State) (target : Option Kiln) (h : AccountsOk s) : AccountsOk (State.divertReport s target) := accountsOk_of (Green.greenOk_divertReport _ _ (accountsOk_g h)) (recordsOk_divertReport _ _ (accountsOk_a h))
@[simp] theorem accountsOk_green (s : State) (i : NodeIdx) (value : Word32) (h : AccountsOk s) : AccountsOk (State.green s i value) := accountsOk_of (Green.greenOk_green _ _ _ (accountsOk_g h)) (recordsOk_green _ _ _ (accountsOk_in h) (accountsOk_a h))
@[simp] theorem accountsOk_performLotFeed (lot : Word16) (s : State) (h : AccountsOk s) : AccountsOk (performLotFeed lot s).state := accountsOk_of (Green.greenOk_performLotFeed _ _ (accountsOk_g h)) (recordsOk_performLotFeed _ _ (accountsOk_in h) (accountsOk_a h))
@[simp] theorem accountsOk_performFeedHold (flag : Byte) (s : State) (h : AccountsOk s) : AccountsOk (performFeedHold flag s).state := accountsOk_of (Green.greenOk_performFeedHold _ _ (accountsOk_g h)) (recordsOk_performFeedHold _ _ (accountsOk_a h))
@[simp] theorem accountsOk_performFillOrder (count : Byte) (kilns : List Byte) (s : State) (h : AccountsOk s) : AccountsOk (performFillOrder count kilns s).state := accountsOk_of (Green.greenOk_performFillOrder _ _ _ (accountsOk_g h)) (recordsOk_performFillOrder _ _ _ (accountsOk_in h) (accountsOk_a h))
@[simp] theorem accountsOk_performLoadClose (s : State) (h : AccountsOk s) : AccountsOk (performLoadClose s).state := accountsOk_of (Green.greenOk_performLoadClose _ (accountsOk_g h)) (recordsOk_performLoadClose _ (accountsOk_in h) (accountsOk_a h))
@[simp] theorem accountsOk_captured (s : State) (weight : Int) (h : AccountsOk s) : AccountsOk (State.captured s weight) := accountsOk_of (Green.greenOk_captured _ _ (accountsOk_g h)) (recordsOk_captured _ _ (accountsOk_a h))
@[simp] theorem accountsOk_notCaptured (s : State) (h : AccountsOk s) : AccountsOk (State.notCaptured s) := accountsOk_of (Green.greenOk_notCaptured _ (accountsOk_g h)) (recordsOk_notCaptured _ (accountsOk_a h))
@[simp] theorem accountsOk_updScale (s : State) (f : Scale → Scale) (h : AccountsOk s) : AccountsOk (State.updScale s f) := accountsOk_of (Green.greenOk_updScale _ _ (accountsOk_g h)) (recordsOk_updScale _ _ (accountsOk_a h))
@[simp] theorem accountsOk_judgeBlock (s : State) (h : AccountsOk s) : AccountsOk (State.judgeBlock s) := accountsOk_of (Green.greenOk_judgeBlock _ (accountsOk_g h)) (recordsOk_judgeBlock _ (accountsOk_a h))
@[simp] theorem accountsOk_enterFault (s : State) (cause : FaultCause) (h : AccountsOk s) : AccountsOk (State.enterFault s cause) := accountsOk_of (Green.greenOk_enterFault _ _ (accountsOk_g h)) (recordsOk_enterFault _ _ (accountsOk_a h))
@[simp] theorem accountsOk_faultCause (s : State) (cause : FaultCause) (h : AccountsOk s) : AccountsOk (State.faultCause s cause) := accountsOk_of (Green.greenOk_faultCause _ _ (accountsOk_g h)) (recordsOk_faultCause _ _ (accountsOk_a h))
@[simp] theorem accountsOk_takeReading (s : State) (r : Int) (h : AccountsOk s) : AccountsOk (State.takeReading s r) := accountsOk_of (Green.greenOk_takeReading _ _ (accountsOk_g h)) (recordsOk_takeReading _ _ (accountsOk_a h))
@[simp] theorem accountsOk_takeSample (s : State) (st : Byte) (sample : Int) (h : AccountsOk s) : AccountsOk (State.takeSample s st sample) := accountsOk_of (Green.greenOk_takeSample _ _ _ (accountsOk_g h)) (recordsOk_takeSample _ _ _ (accountsOk_a h))
@[simp] theorem accountsOk_frameStart (s : State) (h : AccountsOk s) : AccountsOk (State.frameStart s) := accountsOk_of (Green.greenOk_frameStart _ (accountsOk_g h)) (recordsOk_frameStart _ (accountsOk_a h))
@[simp] theorem accountsOk_frameComplete (s : State) (st : Byte) (sample : BitVec 24) (h : AccountsOk s) : AccountsOk (State.frameComplete s st sample) := accountsOk_of (Green.greenOk_frameComplete _ _ _ (accountsOk_g h)) (recordsOk_frameComplete _ _ _ (accountsOk_a h))
@[simp] theorem accountsOk_frameTorn (s : State) (h : AccountsOk s) : AccountsOk (State.frameTorn s) := accountsOk_of (Green.greenOk_frameTorn _ (accountsOk_g h)) (recordsOk_frameTorn _ (accountsOk_a h))
@[simp] theorem accountsOk_watchExpiry (s : State) (h : AccountsOk s) : AccountsOk (State.watchExpiry s) := accountsOk_of (Green.greenOk_watchExpiry _ (accountsOk_g h)) (recordsOk_watchExpiry _ (accountsOk_a h))
@[simp] theorem accountsOk_settleTimeout (s : State) (h : AccountsOk s) : AccountsOk (State.settleTimeout s) := accountsOk_of (Green.greenOk_settleTimeout _ (accountsOk_g h)) (recordsOk_settleTimeout _ (accountsOk_a h))
@[simp] theorem accountsOk_scaleOnScale (s : State) (h : AccountsOk s) : AccountsOk (State.scaleOnScale s) := accountsOk_of (Green.greenOk_scaleOnScale _ (accountsOk_g h)) (recordsOk_scaleOnScale _ (accountsOk_a h))
@[simp] theorem accountsOk_newCycle (s : State) (value : Word32) (weighing : Bool) (h : AccountsOk s) : AccountsOk (State.newCycle s value weighing) := accountsOk_of (Green.greenOk_newCycle _ _ _ (accountsOk_g h)) (recordsOk_newCycle _ _ _ (accountsOk_a h))
@[simp] theorem accountsOk_onScale (s : State) (value : Word32) (h : AccountsOk s) : AccountsOk (State.onScale s value) := accountsOk_of (Green.greenOk_onScale _ _ (accountsOk_g h)) (recordsOk_onScale _ _ (accountsOk_a h))
@[simp] theorem accountsOk_offScale (s : State) (h : AccountsOk s) : AccountsOk (State.offScale s) := accountsOk_of (Green.greenOk_offScale _ (accountsOk_g h)) (recordsOk_offScale _ (accountsOk_a h))
@[simp] theorem accountsOk_moisture (s : State) (value : Word32) (h : AccountsOk s) : AccountsOk (State.moisture s value) := accountsOk_of (Green.greenOk_moisture _ _ (accountsOk_g h)) (recordsOk_moisture _ _ (accountsOk_a h))
@[simp] theorem accountsOk_unloadDone (s : State) (h : AccountsOk s) : AccountsOk (State.unloadDone s) := accountsOk_of (Green.greenOk_unloadDone _ (accountsOk_g h)) (recordsOk_unloadDone _ (accountsOk_in h) (accountsOk_a h))
@[simp] theorem accountsOk_performUnloadDone (kiln : Byte) (s : State) (h : AccountsOk s) : AccountsOk (performUnloadDone kiln s).state := accountsOk_of (Green.greenOk_performUnloadDone _ _ (accountsOk_g h)) (recordsOk_performUnloadDone _ _ (accountsOk_in h) (accountsOk_a h))
@[simp] theorem accountsOk_performPressHold (flag : Byte) (s : State) (h : AccountsOk s) : AccountsOk (performPressHold flag s).state := accountsOk_of (Green.greenOk_performPressHold _ _ (accountsOk_g h)) (recordsOk_performPressHold _ _ (accountsOk_a h))
@[simp] theorem accountsOk_performBaleWeight (bale gross : Word32) (s : State) (h : AccountsOk s) : AccountsOk (performBaleWeight bale gross s).state := accountsOk_of (Green.greenOk_performBaleWeight _ _ _ (accountsOk_g h)) (recordsOk_performBaleWeight _ _ _ (accountsOk_a h))
@[simp] theorem accountsOk_performBaleRead (bale : Word32) (s : State) (h : AccountsOk s) : AccountsOk (performBaleRead bale s).state := accountsOk_of (Green.greenOk_performBaleRead _ _ (accountsOk_g h)) (recordsOk_performBaleRead _ _ (accountsOk_a h))
@[simp] theorem accountsOk_performScaleRead (s : State) (h : AccountsOk s) : AccountsOk (performScaleRead s).state := accountsOk_of (Green.greenOk_performScaleRead _ (accountsOk_g h)) (recordsOk_performScaleRead _ (accountsOk_a h))
@[simp] theorem accountsOk_performScaleZero (s : State) (h : AccountsOk s) : AccountsOk (performScaleZero s).state := accountsOk_of (Green.greenOk_performScaleZero _ (accountsOk_g h)) (recordsOk_performScaleZero _ (accountsOk_a h))
@[simp] theorem accountsOk_performScaleCommand (word : Byte) (s : State) (h : AccountsOk s) : AccountsOk (performScaleCommand word s).state := accountsOk_of (Green.greenOk_performScaleCommand _ _ (accountsOk_g h)) (recordsOk_performScaleCommand _ _ (accountsOk_a h))
@[simp] theorem accountsOk_nodeAnswered (s : State) (i : NodeIdx) (h : AccountsOk s) : AccountsOk (State.nodeAnswered s i) := accountsOk_of (Green.greenOk_nodeAnswered _ _ (accountsOk_g h)) (recordsOk_nodeAnswered _ _ (accountsOk_a h))
@[simp] theorem accountsOk_reportAnswer (s : State) (i : NodeIdx) (h : AccountsOk s) : AccountsOk (State.reportAnswer s i) := by
  generalize e : (State.reportAnswer s i) = t
  unfold State.reportAnswer at e
  (try dsimp only at e)
  (repeat' split at e) <;> subst e <;> (try simp only [refuse_state, accept_state]) <;> (simp (config := {maxDischargeDepth := 60}) [accountsOk_mk, h, (accountsOk_def s).symm.trans (eq_true h)])
@[simp] theorem accountsOk_holdBound (s : State) (n : Node) (reason : HoldReason) (h : AccountsOk s) : AccountsOk (State.holdBound s n reason) := accountsOk_of (Green.greenOk_holdBound _ _ _ (accountsOk_g h)) (recordsOk_holdBound _ _ _ (accountsOk_a h))
@[simp] theorem accountsOk_reportLost (s : State) (n : Node) (h : AccountsOk s) : AccountsOk (State.reportLost s n) := accountsOk_of (Green.greenOk_reportLost _ _ (accountsOk_g h)) (recordsOk_reportLost _ _ (accountsOk_a h))
@[simp] theorem accountsOk_nodeMissed (s : State) (i : NodeIdx) (h : AccountsOk s) : AccountsOk (State.nodeMissed s i) := accountsOk_of (Green.greenOk_nodeMissed _ _ (accountsOk_g h)) (recordsOk_nodeMissed _ _ (accountsOk_a h))
@[simp] theorem accountsOk_missOn (s : State) (t : Transaction) (h : AccountsOk s) : AccountsOk (State.missOn s t) := accountsOk_of (Green.greenOk_missOn _ _ (accountsOk_g h)) (recordsOk_missOn _ _ (accountsOk_a h))
@[simp] theorem accountsOk_forward (s : State) (f : Frame) (h : AccountsOk s) : AccountsOk (State.forward s f) := accountsOk_of (Green.greenOk_forward _ _ (accountsOk_g h)) (recordsOk_forward _ _ (accountsOk_a h))
@[simp] theorem accountsOk_applyRoute (s : State) (r : Route) (i : NodeIdx) (f : Frame) (h : AccountsOk s) : AccountsOk (State.applyRoute s r i f) := by
  generalize e : (State.applyRoute s r i f) = t
  unfold State.applyRoute at e
  (try dsimp only at e)
  (repeat' split at e) <;> subst e <;> (try simp only [refuse_state, accept_state]) <;> (simp (config := {maxDischargeDepth := 60}) [accountsOk_mk, h, (accountsOk_def s).symm.trans (eq_true h)])
@[simp] theorem accountsOk_jobAction (s : State) (r : Route) (x : RouteIdx) (i : NodeIdx) (f : Frame) (h : AccountsOk s) : AccountsOk (State.jobAction s r x i f) := by
  generalize e : (State.jobAction s r x i f) = t
  unfold State.jobAction at e
  (try dsimp only at e)
  (repeat' split at e) <;> subst e <;> (try simp only [refuse_state, accept_state]) <;> (simp (config := {maxDischargeDepth := 60}) [accountsOk_mk, h, (accountsOk_def s).symm.trans (eq_true h)])
@[simp] theorem accountsOk_copyIf (s : State) (c : Bool) (f : Frame) (h : AccountsOk s) : AccountsOk (State.copyIf s c f) := accountsOk_of (Green.greenOk_copyIf _ _ _ (accountsOk_g h)) (recordsOk_copyIf _ _ _ (accountsOk_a h))
@[simp] theorem accountsOk_classify (s : State) (i : NodeIdx) (f : Frame) (h : AccountsOk s) : AccountsOk (State.classify s i f) := by
  generalize e : (State.classify s i f) = t
  unfold State.classify at e
  (try dsimp only at e)
  (repeat' split at e) <;> subst e <;> (try simp only [refuse_state, accept_state]) <;> (simp (config := {maxDischargeDepth := 60}) [accountsOk_mk, h, (accountsOk_def s).symm.trans (eq_true h)])
@[simp] theorem accountsOk_endTransaction (s : State) (h : AccountsOk s) : AccountsOk (State.endTransaction s) := accountsOk_of (Green.greenOk_endTransaction _ (accountsOk_g h)) (recordsOk_endTransaction _ (accountsOk_a h))
@[simp] theorem accountsOk_countUnsolicited (s : State) (h : AccountsOk s) : AccountsOk (State.countUnsolicited s) := accountsOk_of (Green.greenOk_countUnsolicited _ (accountsOk_g h)) (recordsOk_countUnsolicited _ (accountsOk_a h))
@[simp] theorem accountsOk_pollAnswered (s : State) (i : NodeIdx) (f : Frame) (h : AccountsOk s) : AccountsOk (State.pollAnswered s i f) := by
  generalize e : (State.pollAnswered s i f) = t
  unfold State.pollAnswered at e
  (try dsimp only at e)
  (repeat' split at e) <;> subst e <;> (try simp only [refuse_state, accept_state]) <;> (simp (config := {maxDischargeDepth := 60}) [accountsOk_mk, h, (accountsOk_def s).symm.trans (eq_true h)])
@[simp] theorem accountsOk_reportConfirmed (s : State) (c : Commanded) (h : AccountsOk s) : AccountsOk (State.reportConfirmed s c) := by simpa [accountsOk_def] using h
@[simp] theorem accountsOk_commandAnswered (s : State) (i : NodeIdx) (code : Byte) (f : Frame) (h : AccountsOk s) : AccountsOk (State.commandAnswered s i code f) := by simpa [accountsOk_def] using h
@[simp] theorem accountsOk_blockAnswered (s : State) (i : NodeIdx) (ticket : Nat) (f : Frame) (h : AccountsOk s) : AccountsOk (State.blockAnswered s i ticket f) := accountsOk_of (Green.greenOk_blockAnswered _ _ _ _ (accountsOk_g h)) (recordsOk_blockAnswered _ _ _ _ (accountsOk_a h))
@[simp] theorem accountsOk_answerBody (s : State) (t : Transaction) (i : NodeIdx) (f : Frame) (h : AccountsOk s) : AccountsOk (State.answerBody s t i f) := by
  generalize e : (State.answerBody s t i f) = t
  unfold State.answerBody at e
  (try dsimp only at e)
  (repeat' split at e) <;> subst e <;> (try simp only [refuse_state, accept_state]) <;> (simp (config := {maxDischargeDepth := 60}) [accountsOk_mk, h, (accountsOk_def s).symm.trans (eq_true h)])
@[simp] theorem accountsOk_answered (s : State) (t : Transaction) (f : Frame) (h : AccountsOk s) : AccountsOk (State.answered s t f) := by
  generalize e : (State.answered s t f) = t
  unfold State.answered at e
  (try dsimp only at e)
  (repeat' split at e) <;> subst e <;> (try simp only [refuse_state, accept_state]) <;> (simp (config := {maxDischargeDepth := 60}) [accountsOk_mk, h, (accountsOk_def s).symm.trans (eq_true h)])
@[simp] theorem accountsOk_expired (s : State) (t : Transaction) (h : AccountsOk s) : AccountsOk (State.expired s t) := accountsOk_of (Green.greenOk_expired _ _ (accountsOk_g h)) (recordsOk_expired _ _ (accountsOk_a h))
@[simp] theorem accountsOk_afterOther (s : State) (h : AccountsOk s) : AccountsOk (State.afterOther s) := accountsOk_of (Green.greenOk_afterOther _ (accountsOk_g h)) (recordsOk_afterOther _ (accountsOk_a h))
@[simp] theorem accountsOk_offerFrame (s : State) (f : Frame) (h : AccountsOk s) : AccountsOk (State.offerFrame s f) := by
  generalize e : (State.offerFrame s f) = t
  unfold State.offerFrame at e
  (try dsimp only at e)
  (repeat' split at e) <;> subst e <;> (try simp only [refuse_state, accept_state]) <;> (simp (config := {maxDischargeDepth := 60}) [accountsOk_mk, h, (accountsOk_def s).symm.trans (eq_true h)])
@[simp] theorem accountsOk_fieldArrival (s : State) (chars : List Byte) (h : AccountsOk s) : AccountsOk (State.fieldArrival s chars) := by
  unfold State.fieldArrival
  dsimp only
  have h' := (accountsOk_def s) ▸ h
  split
  · split <;> simp (config := {maxDischargeDepth := 60}) [accountsOk_mk, h']
  · exact h
@[simp] theorem accountsOk_receptionStart (s : State) (h : AccountsOk s) : AccountsOk (State.receptionStart s) := accountsOk_of (Green.greenOk_receptionStart _ (accountsOk_g h)) (recordsOk_receptionStart _ (accountsOk_a h))
@[simp] theorem accountsOk_windowExpiry (s : State) (h : AccountsOk s) : AccountsOk (State.windowExpiry s) := accountsOk_of (Green.greenOk_windowExpiry _ (accountsOk_g h)) (recordsOk_windowExpiry _ (accountsOk_a h))
@[simp] theorem accountsOk_guardEnd (s : State) (h : AccountsOk s) : AccountsOk (State.guardEnd s) := accountsOk_of (Green.greenOk_guardEnd _ (accountsOk_g h)) (recordsOk_guardEnd _ (accountsOk_a h))
@[simp] theorem accountsOk_transmitDone (s : State) (h : AccountsOk s) : AccountsOk (State.transmitDone s) := accountsOk_of (Green.greenOk_transmitDone _ (accountsOk_g h)) (recordsOk_transmitDone _ (accountsOk_a h))
@[simp] theorem accountsOk_openTransaction (s : State) (kind : TransactionKind) (address : Byte) (node : Option NodeIdx) (frames : List Frame) (window : Nat) (h : AccountsOk s) : AccountsOk (State.openTransaction s kind address node frames window) := accountsOk_of (Green.greenOk_openTransaction _ _ _ _ _ _ (accountsOk_g h)) (recordsOk_openTransaction _ _ _ _ _ _ (accountsOk_a h))
@[simp] theorem accountsOk_startCommand (s : State) (c : Command) (rest : List Command) (h : AccountsOk s) : AccountsOk (State.startCommand s c rest) := accountsOk_of (Green.greenOk_startCommand _ _ _ (accountsOk_g h)) (recordsOk_startCommand _ _ _ (accountsOk_a h))
@[simp] theorem accountsOk_startBlock (s : State) (ticket : Nat) (h : AccountsOk s) : AccountsOk (State.startBlock s ticket) := accountsOk_of (Green.greenOk_startBlock _ _ (accountsOk_g h)) (recordsOk_startBlock _ _ (accountsOk_a h))
@[simp] theorem accountsOk_startPass (s : State) (f : Frame) (rest : List Frame) (h : AccountsOk s) : AccountsOk (State.startPass s f rest) := accountsOk_of (Green.greenOk_startPass _ _ _ (accountsOk_g h)) (recordsOk_startPass _ _ _ (accountsOk_a h))
@[simp] theorem accountsOk_startPoll (s : State) (i : NodeIdx) (rest : List NodeIdx) (h : AccountsOk s) : AccountsOk (State.startPoll s i rest) := accountsOk_of (Green.greenOk_startPoll _ _ _ (accountsOk_g h)) (recordsOk_startPoll _ _ _ (accountsOk_a h))
@[simp] theorem accountsOk_startSource (s : State) (c : FieldSource) (h : AccountsOk s) : AccountsOk (State.startSource s c) := accountsOk_of (Green.greenOk_startSource _ _ (accountsOk_g h)) (recordsOk_startSource _ _ (accountsOk_a h))
@[simp] theorem accountsOk_startTransaction (s : State) (h : AccountsOk s) : AccountsOk (State.startTransaction s) := accountsOk_of (Green.greenOk_startTransaction _ (accountsOk_g h)) (recordsOk_startTransaction _ (accountsOk_a h))
@[simp] theorem accountsOk_choosing (s : State) (c : Option FieldSource) (h : AccountsOk s) : AccountsOk (s.choosing c) := accountsOk_of (Green.greenOk_choosing _ _ (accountsOk_g h)) (recordsOk_choosing _ _ (accountsOk_a h))
@[simp] theorem accountsOk_scheduleNode (c : CadenceId) (s : State) (i : NodeIdx) (h : AccountsOk s) : AccountsOk (State.scheduleNode c s i) := accountsOk_of (Green.greenOk_scheduleNode _ _ _ (accountsOk_g h)) (recordsOk_scheduleNode _ _ _ (accountsOk_a h))
@[simp] theorem accountsOk_updCadence (s : State) (c : CadenceId) (f : Cadence → Cadence) (h : AccountsOk s) : AccountsOk (State.updCadence s c f) := accountsOk_of (Green.greenOk_updCadence _ _ _ (accountsOk_g h)) (recordsOk_updCadence _ _ _ (accountsOk_a h))
@[simp] theorem accountsOk_cadenceExpiry (s : State) (c : CadenceId) (h : AccountsOk s) : AccountsOk (State.cadenceExpiry s c) := accountsOk_of (Green.greenOk_cadenceExpiry _ _ (accountsOk_g h)) (recordsOk_cadenceExpiry _ _ (accountsOk_a h))
@[simp] theorem accountsOk_restartField (s : State) (h : AccountsOk s) : AccountsOk (State.restartField s) := accountsOk_of (Green.greenOk_restartField _ (accountsOk_g h)) (recordsOk_restartField _ (accountsOk_a h))
@[simp] theorem accountsOk_printerWritten (s : State) (before after : Option Role) (h : AccountsOk s) : AccountsOk (State.printerWritten s before after) := accountsOk_of (Green.greenOk_printerWritten _ _ _ (accountsOk_g h)) (recordsOk_printerWritten _ _ _ (accountsOk_a h))
@[simp] theorem accountsOk_writeNode (s : State) (i : NodeIdx) (g : NodeImage) (h : AccountsOk s) : AccountsOk (State.writeNode s i g) := accountsOk_of (Green.greenOk_writeNode _ _ _ (accountsOk_g h)) (recordsOk_writeNode _ _ _ (accountsOk_a h))
@[simp] theorem accountsOk_performNodeWrite (index : Byte) (image : List Byte) (s : State) (h : AccountsOk s) : AccountsOk (performNodeWrite index image s).state := accountsOk_of (Green.greenOk_performNodeWrite _ _ _ (accountsOk_g h)) (recordsOk_performNodeWrite _ _ _ (accountsOk_a h))
@[simp] theorem accountsOk_performRouteWrite (index : Byte) (image : List Byte) (s : State) (h : AccountsOk s) : AccountsOk (performRouteWrite index image s).state := accountsOk_of (Green.greenOk_performRouteWrite _ _ _ (accountsOk_g h)) (recordsOk_performRouteWrite _ _ _ (accountsOk_a h))
@[simp] theorem accountsOk_performCadenceWrite (index : Byte) (image : List Byte) (s : State) (h : AccountsOk s) : AccountsOk (performCadenceWrite index image s).state := accountsOk_of (Green.greenOk_performCadenceWrite _ _ _ (accountsOk_g h)) (recordsOk_performCadenceWrite _ _ _ (accountsOk_a h))
@[simp] theorem accountsOk_setKilnEntry (s : State) (k : Kiln) (e : KilnEntry) (h : AccountsOk s) : AccountsOk (State.setKilnEntry s k e) := accountsOk_of (Green.greenOk_setKilnEntry _ _ _ (accountsOk_g h)) (recordsOk_setKilnEntry _ _ _ (accountsOk_a h))
@[simp] theorem accountsOk_performKilnWrite (index : Byte) (image : List Byte) (s : State) (h : AccountsOk s) : AccountsOk (performKilnWrite index image s).state := accountsOk_of (Green.greenOk_performKilnWrite _ _ _ (accountsOk_g h)) (recordsOk_performKilnWrite _ _ _ (accountsOk_in h) (accountsOk_a h))
@[simp] theorem accountsOk_performScheduleWrite (index : Byte) (image : List Byte) (s : State) (h : AccountsOk s) : AccountsOk (performScheduleWrite index image s).state := accountsOk_of (Green.greenOk_performScheduleWrite _ _ _ (accountsOk_g h)) (recordsOk_performScheduleWrite _ _ _ (accountsOk_a h))
@[simp] theorem accountsOk_performStepWrite (index : Byte) (image : List Byte) (s : State) (h : AccountsOk s) : AccountsOk (performStepWrite index image s).state := accountsOk_of (Green.greenOk_performStepWrite _ _ _ (accountsOk_g h)) (recordsOk_performStepWrite _ _ _ (accountsOk_a h))
@[simp] theorem accountsOk_performVarietyWrite (index : Byte) (image : List Byte) (s : State) (h : AccountsOk s) : AccountsOk (performVarietyWrite index image s).state := accountsOk_of (Green.greenOk_performVarietyWrite _ _ _ (accountsOk_g h)) (recordsOk_performVarietyWrite _ _ _ (accountsOk_a h))
@[simp] theorem accountsOk_performTareWrite (index : Byte) (image : List Byte) (s : State) (h : AccountsOk s) : AccountsOk (performTareWrite index image s).state := accountsOk_of (Green.greenOk_performTareWrite _ _ _ (accountsOk_g h)) (recordsOk_performTareWrite _ _ _ (accountsOk_a h))
@[simp] theorem accountsOk_performScaleSetupWrite (index : Byte) (image : List Byte) (s : State) (h : AccountsOk s) : AccountsOk (performScaleSetupWrite index image s).state := accountsOk_of (Green.greenOk_performScaleSetupWrite _ _ _ (accountsOk_g h)) (recordsOk_performScaleSetupWrite _ _ _ (accountsOk_a h))
@[simp] theorem accountsOk_performStationWrite (index : Byte) (image : List Byte) (s : State) (h : AccountsOk s) : AccountsOk (performStationWrite index image s).state := accountsOk_of (Green.greenOk_performStationWrite _ _ _ (accountsOk_g h)) (recordsOk_performStationWrite _ _ _ (accountsOk_a h))
@[simp] theorem accountsOk_performTableRead (table index part : Byte) (s : State) (h : AccountsOk s) : AccountsOk (performTableRead table index part s).state := accountsOk_of (Green.greenOk_performTableRead _ _ _ _ (accountsOk_g h)) (recordsOk_performTableRead _ _ _ _ (accountsOk_a h))
@[simp] theorem accountsOk_performTableWrite (table index : Byte) (image : List Byte) (s : State) (h : AccountsOk s) : AccountsOk (performTableWrite table index image s).state := by
  generalize e : (performTableWrite table index image s) = t
  unfold performTableWrite at e
  (try dsimp only at e)
  (repeat' split at e) <;> subst e <;> (try simp only [refuse_state, accept_state]) <;> (simp (config := {maxDischargeDepth := 60}) [accountsOk_mk, h, (accountsOk_def s).symm.trans (eq_true h)])
@[simp] theorem accountsOk_performLotOpen (lot grower : Word16) (variety : Byte) (s : State) (h : AccountsOk s) : AccountsOk (performLotOpen lot grower variety s).state := accountsOk_of (Green.greenOk_performLotOpen _ _ _ _ (accountsOk_g h)) (recordsOk_performLotOpen _ _ _ _ (accountsOk_a h))
@[simp] theorem accountsOk_performLotRead (lot : Word16) (item : Byte) (s : State) (h : AccountsOk s) : AccountsOk (performLotRead lot item s).state := accountsOk_of (Green.greenOk_performLotRead _ _ _ (accountsOk_g h)) (recordsOk_performLotRead _ _ _ (accountsOk_a h))
@[simp] theorem accountsOk_performLotVoid (lot : Word16) (s : State) (h : AccountsOk s) : AccountsOk (performLotVoid lot s).state := accountsOk_of (Green.greenOk_performLotVoid _ _ (accountsOk_g h)) (recordsOk_performLotVoid _ _ (accountsOk_a h))
@[simp] theorem accountsOk_performLotClose (lot : Word16) (s : State) (h : AccountsOk s) : AccountsOk (performLotClose lot s).state := accountsOk_of (Green.greenOk_performLotClose _ _ (accountsOk_g h)) (recordsOk_performLotClose _ _ (accountsOk_a h))
@[simp] theorem accountsOk_clearCounts (s : State) (h : AccountsOk s) : AccountsOk (State.clearCounts s) := accountsOk_of (Green.greenOk_clearCounts _ (accountsOk_g h)) (recordsOk_clearCounts _ (accountsOk_a h))
@[simp] theorem accountsOk_performStatus (clear page : Byte) (s : State) (h : AccountsOk s) : AccountsOk (performStatus clear page s).state := accountsOk_of (Green.greenOk_performStatus _ _ _ (accountsOk_g h)) (recordsOk_performStatus _ _ _ (accountsOk_a h))
@[simp] theorem accountsOk_performTimeSet (time : Word32) (s : State) (h : AccountsOk s) : AccountsOk (performTimeSet time s).state := accountsOk_of (Green.greenOk_performTimeSet _ _ (accountsOk_g h)) (recordsOk_performTimeSet _ _ (accountsOk_a h))
@[simp] theorem accountsOk_secondPassed (s : State) (h : AccountsOk s) : AccountsOk (State.secondPassed s) := accountsOk_of (Green.greenOk_secondPassed _ (accountsOk_g h)) (recordsOk_secondPassed _ (accountsOk_a h))
@[simp] theorem accountsOk_restartStation (s : State) (h : AccountsOk s) : AccountsOk (State.restartStation s) := by
  refine accountsOk_of (Green.greenOk_restartStation _ (accountsOk_g h)) (recordsOk_of (Numbering.numberingOk_restartStation _ (recordsOk_num (accountsOk_a h))) ?_)
  unfold State.restartStation AccountsIn
  rw [accountsAt_def]
  refine ⟨⟨?_, ?_, ?_, ?_⟩, ?_, ?_⟩
  · intro k r hk; simp [heldIn] at hk
  · intro k _; simp [kindIn]
  · intro k; simp [kindIn]
  · intro k; simp [kindIn]
  · constructor <;> simp [chargeIn, lotIn, Tickets.stationRestarted]
  · constructor <;> simp [lotIn]
@[simp] theorem accountsOk_performRestart (scope : Byte) (s : State) (h : AccountsOk s) : AccountsOk (performRestart scope s).state := by
  generalize e : (performRestart scope s) = t
  unfold performRestart at e
  (try dsimp only at e)
  (repeat' split at e) <;> subst e <;> (try simp only [refuse_state, accept_state]) <;> (simp (config := {maxDischargeDepth := 60}) [accountsOk_mk, h, (accountsOk_def s).symm.trans (eq_true h)])
@[simp] theorem accountsOk_performRequest (r : Request) (s : State) (h : AccountsOk s) : AccountsOk (performRequest r s).state := by
  generalize e : (performRequest r s) = t
  unfold performRequest at e
  (try dsimp only at e)
  (repeat' split at e) <;> subst e <;> (try simp only [refuse_state, accept_state]) <;> (simp (config := {maxDischargeDepth := 60}) [accountsOk_mk, h, (accountsOk_def s).symm.trans (eq_true h)])
@[simp] theorem accountsOk_setReply (s : State) (payload : List Byte) (h : AccountsOk s) : AccountsOk (State.setReply s payload) := accountsOk_of (Green.greenOk_setReply _ _ (accountsOk_g h)) (recordsOk_setReply _ _ (accountsOk_a h))
@[simp] theorem accountsOk_performPayload (payload : List Byte) (s : State) (h : AccountsOk s) : AccountsOk (performPayload payload s).2.2.state := by
  unfold performPayload
  repeat' split
  all_goals simp [h]
@[simp] theorem accountsOk_executeFrame (s : State) (f : Frame) (h : AccountsOk s) : AccountsOk (State.executeFrame s f) := by
  generalize e : (State.executeFrame s f) = t
  unfold State.executeFrame at e
  (try dsimp only at e)
  (repeat' split at e) <;> subst e <;> (try simp only [refuse_state, accept_state]) <;> (simp (config := {maxDischargeDepth := 60}) [accountsOk_mk, h, (accountsOk_def s).symm.trans (eq_true h)])
@[simp] theorem accountsOk_executeHead (s : State) (h : AccountsOk s) : AccountsOk (State.executeHead s) := by
  generalize e : (State.executeHead s) = t
  unfold State.executeHead at e
  (try dsimp only at e)
  (repeat' split at e) <;> subst e <;> (try simp only [refuse_state, accept_state]) <;> (simp (config := {maxDischargeDepth := 60}) [accountsOk_mk, h, (accountsOk_def s).symm.trans (eq_true h)])
@[simp] theorem accountsOk_admitRequest (s : State) (f : Frame) (h : AccountsOk s) : AccountsOk (State.admitRequest s f) := by
  generalize e : (State.admitRequest s f) = t
  unfold State.admitRequest at e
  (try dsimp only at e)
  (repeat' split at e) <;> subst e <;> (try simp only [refuse_state, accept_state]) <;> (simp (config := {maxDischargeDepth := 60}) [accountsOk_mk, h, (accountsOk_def s).symm.trans (eq_true h)])
@[simp] theorem accountsOk_completeRequest (s : State) (h : AccountsOk s) : AccountsOk (State.completeRequest s) := by
  generalize e : (State.completeRequest s) = t
  unfold State.completeRequest at e
  (try dsimp only at e)
  (repeat' split at e) <;> subst e <;> (try simp only [refuse_state, accept_state]) <;> (simp (config := {maxDischargeDepth := 60}) [accountsOk_mk, h, (accountsOk_def s).symm.trans (eq_true h)])
@[simp] theorem accountsOk_submit (tag : Byte) (r : Request) (s : State) (h : AccountsOk s) : AccountsOk (State.submit tag r s) := by
  generalize e : (State.submit tag r s) = t
  unfold State.submit at e
  (try dsimp only at e)
  (repeat' split at e) <;> subst e <;> (try simp only [refuse_state, accept_state]) <;> (simp (config := {maxDischargeDepth := 60}) [accountsOk_mk, h, (accountsOk_def s).symm.trans (eq_true h)])
@[simp] theorem accountsOk_updLink (s : State) (f : Link → Link) (h : AccountsOk s) : AccountsOk (State.updLink s f) := accountsOk_of (Green.greenOk_updLink _ _ (accountsOk_g h)) (recordsOk_updLink _ _ (accountsOk_a h))
@[simp] theorem accountsOk_validArrival (s : State) (h : AccountsOk s) : AccountsOk (State.validArrival s) := accountsOk_of (Green.greenOk_validArrival _ (accountsOk_g h)) (recordsOk_validArrival _ (accountsOk_a h))
@[simp] theorem accountsOk_linkSilent (s : State) (h : AccountsOk s) : AccountsOk (State.linkSilent s) := accountsOk_of (Green.greenOk_linkSilent _ (accountsOk_g h)) (recordsOk_linkSilent _ (accountsOk_a h))
@[simp] theorem accountsOk_offerPass (s : State) (f : Frame) (h : AccountsOk s) : AccountsOk (State.offerPass s f) := accountsOk_of (Green.greenOk_offerPass _ _ (accountsOk_g h)) (recordsOk_offerPass _ _ (accountsOk_a h))
@[simp] theorem accountsOk_classifyUpstream (s : State) (f : Frame) (h : AccountsOk s) : AccountsOk (State.classifyUpstream s f) := by
  generalize e : (State.classifyUpstream s f) = t
  unfold State.classifyUpstream at e
  (try dsimp only at e)
  (repeat' split at e) <;> subst e <;> (try simp only [refuse_state, accept_state]) <;> (simp (config := {maxDischargeDepth := 60}) [accountsOk_mk, h, (accountsOk_def s).symm.trans (eq_true h)])
@[simp] theorem accountsOk_upstreamArrival (s : State) (chars : List Byte) (h : AccountsOk s) : AccountsOk (State.upstreamArrival s chars) := by
  generalize e : (State.upstreamArrival s chars) = t
  unfold State.upstreamArrival at e
  (try dsimp only at e)
  (repeat' split at e) <;> subst e <;> (try simp only [refuse_state, accept_state]) <;> (simp (config := {maxDischargeDepth := 60}) [accountsOk_mk, h, (accountsOk_def s).symm.trans (eq_true h)])
@[simp] theorem accountsOk_idleGap (s : State) (port : Port) (h : AccountsOk s) : AccountsOk (State.idleGap s port) := accountsOk_of (Green.greenOk_idleGap _ _ (accountsOk_g h)) (recordsOk_idleGap _ _ (accountsOk_a h))
@[simp] theorem accountsOk_startUpstream (s : State) (t : UpTransmit) (h : AccountsOk s) : AccountsOk (State.startUpstream s t) := accountsOk_of (Green.greenOk_startUpstream _ _ (accountsOk_g h)) (recordsOk_startUpstream _ _ (accountsOk_a h))
@[simp] theorem accountsOk_upstreamTransmit (s : State) (h : AccountsOk s) : AccountsOk (State.upstreamTransmit s) := accountsOk_of (Green.greenOk_upstreamTransmit _ (accountsOk_g h)) (recordsOk_upstreamTransmit _ (accountsOk_a h))
@[simp] theorem accountsOk_replySent (s : State) (h : AccountsOk s) : AccountsOk (State.replySent s) := by
  generalize e : (State.replySent s) = t
  unfold State.replySent at e
  (try dsimp only at e)
  (repeat' split at e) <;> subst e <;> (try simp only [refuse_state, accept_state]) <;> (simp (config := {maxDischargeDepth := 60}) [accountsOk_mk, h, (accountsOk_def s).symm.trans (eq_true h)])
@[simp] theorem accountsOk_segmentSent (s : State) (h : AccountsOk s) : AccountsOk (State.segmentSent s) := by
  generalize e : (State.segmentSent s) = t
  unfold State.segmentSent at e
  (try dsimp only at e)
  (repeat' split at e) <;> subst e <;> (try simp only [refuse_state, accept_state]) <;> (simp (config := {maxDischargeDepth := 60}) [accountsOk_mk, h, (accountsOk_def s).symm.trans (eq_true h)])
@[simp] theorem accountsOk_upstreamFrameSent (s : State) (h : AccountsOk s) : AccountsOk (State.upstreamFrameSent s) := by
  generalize e : (State.upstreamFrameSent s) = t
  unfold State.upstreamFrameSent at e
  (try dsimp only at e)
  (repeat' split at e) <;> subst e <;> (try simp only [refuse_state, accept_state]) <;> (simp (config := {maxDischargeDepth := 60}) [accountsOk_mk, h, (accountsOk_def s).symm.trans (eq_true h)])
theorem accountsOk_empty (s : State) (h : s.table = {} ∧ s.kilns = {} ∧ s.feed = {} ∧ s.press = {} ∧ s.tickets = {}) : AccountsOk s := by
  obtain ⟨h1, h2, h3, h4, h5⟩ := h
  rw [accountsOk_def, h1, h2, h3, h4, h5]
  refine ⟨⟨?_, ⟨?_, ?_, ?_, ?_⟩, ?_, ?_⟩, ?_⟩
  · constructor <;> simp [Numbering.baleNumbers, Numbering.ticketNumbers]
  · intro k r hk; simp [heldIn] at hk
  · intro k _; simp [kindIn]
  · intro k; simp [kindIn]
  · intro k; simp [kindIn]
  · constructor <;> simp [chargeIn, lotIn]
  · constructor <;> simp [lotIn]
  · constructor <;> simp [Changeover.pending]
theorem accountsOk_pend (s : State) (p) (h : AccountsOk s) : AccountsOk { s with pending := p } := by rw [accountsOk_mk]; rw [accountsOk_def] at h; exact h
theorem accountsOk_started (s : State) (a b c) : AccountsOk (s.started a b c) := accountsOk_empty _ ⟨rfl, rfl, rfl, rfl, rfl⟩
theorem accountsOk_inactive (s : State) (p) : AccountsOk (s.inactive p) := accountsOk_empty _ ⟨rfl, rfl, rfl, rfl, rfl⟩
theorem accountsOk_powerOn (s : State) (a b c) (h : AccountsOk s) : AccountsOk (s.powerOn a b c) := by
  unfold State.powerOn; split
  · exact accountsOk_inactive _ _
  · exact accountsOk_started _ _ _ _
theorem accountsOk_resetRelease (s : State) (a b c) (h : AccountsOk s) : AccountsOk (s.resetRelease a b c) := by
  unfold State.resetRelease; split
  · exact accountsOk_started _ _ _ _
  · rw [accountsOk_mk]; rw [accountsOk_def] at h; exact h
theorem accountsOk_powerFail (s : State) (h : AccountsOk s) : AccountsOk s.powerFail := accountsOk_inactive _ _
theorem accountsOk_resetAssert (s : State) (h : AccountsOk s) : AccountsOk s.resetAssert := by
  unfold State.resetAssert; rw [accountsOk_mk]; rw [accountsOk_def] at h; exact h
theorem accountsOk_ticked (s : State) (h : AccountsOk s) : AccountsOk s.ticked := by
  have hr : ∀ r : KilnRun, r.tick.state = r.state ∧ r.tick.charge = r.charge := by
    intro r
    unfold KilnRun.tick KilnRun.tickTotal KilnRun.tickStep
    dsimp only
    repeat' split
    all_goals exact ⟨rfl, rfl⟩
  refine accountsOk_of (Green.greenOk_ticked s (accountsOk_g h)) (recordsOk_of (Numbering.numberingOk_ticked s (recordsOk_num (accountsOk_a h))) ?_)
  refine accountsIn_congr s _ (recordsOk_acc (accountsOk_a h)) rfl rfl ?_ ?_ rfl rfl rfl
  · funext k; show (s.kilns.run.map KilnRun.tick)[k].state = _
    rw [show (s.kilns.run.map KilnRun.tick)[k] = (s.kilns.run[k]).tick by simp]; exact (hr _).1
  · funext k; show (s.kilns.run.map KilnRun.tick)[k].charge = _
    rw [show (s.kilns.run.map KilnRun.tick)[k] = (s.kilns.run[k]).tick by simp]; exact (hr _).2

/-! ## The law that the statements name -/
theorem lotIn_of_mem {ls : List Lot} (hu : (ls.map (fun l => l.number)).Pairwise (· < ·)) {l : Lot} (h : l ∈ ls) : lotIn ls l.number = some l := Green.lot?_unique hu h
theorem accountLaw_iff (s : State) (hu : (s.table.lots.map (fun l => l.number)).Pairwise (· < ·)) : s.AccountLaw ↔ AccountsIn s := by
  unfold AccountsIn
  rw [accountsAt_def]
  constructor
  · intro h
    refine ⟨⟨h.kilnCharge, h.kilnFree, h.pressHead, h.pressTail⟩, ⟨?_, h.bales, h.waits, h.waitsOnce, h.tickets, h.finalLast, h.listed, h.weighed, h.lines, h.totalNet⟩, ?_, ?_⟩
    · intro r c hc hf
      unfold chargeIn at hc
      cases hl : lotIn s.table.lots r.lot with
      | none => rw [hl] at hc; cases hc
      | some l => rw [hl] at hc; exact h.finals l (lotIn_mem hl) c (List.mem_of_getElem? hc) hf
    · intro n l hl; exact h.opened l (lotIn_mem hl)
    · intro n l hl
      have hn := lotIn_number hl
      have ha := h.accounted l (lotIn_mem hl)
      subst hn
      exact ⟨ha.bales, ha.net, ha.released, ha.chargeBales, ha.chargeNet, ha.tickets⟩
  · rintro ⟨a, p, c⟩
    refine ⟨a.charge, a.free, a.head, a.tail, ?_, ?_, p.bales, p.waits, p.waitsOnce, p.tickets, p.finalLast, p.listed, p.weighed, p.lines, p.totalNet, ?_⟩
    · intro l hl ho; exact c.opened _ l (lotIn_of_mem hu hl) ho
    · intro l hl x hx hf
      obtain ⟨i, hi⟩ := List.mem_iff_getElem?.mp hx
      refine p.finals { lot := l.number, index := i } x ?_ hf
      unfold chargeIn; rw [lotIn_of_mem hu hl]; exact hi
    · intro l hl
      have ha := c.sums _ l (lotIn_of_mem hu hl)
      exact ⟨ha.bales, ha.net, ha.released, ha.chargeBales, ha.chargeNet, ha.tickets⟩
theorem accountsOk_laws (s : State) : AccountsOk s ↔ s.GreenLaw ∧ s.NumberingLaw ∧ s.AccountLaw := by
  rw [accountsOk_iff, recordsOk_iff, Numbering.numberingLaw_iff]
  have g : Green.GreenOk s ↔ s.GreenLaw := by unfold Green.GreenOk Green.GreenIn; exact Green.greenFor_iff s
  rw [g]
  constructor
  · rintro ⟨h1, h2, h3⟩; exact ⟨h1, h2, (accountLaw_iff s h1.ascending).mpr h3⟩
  · rintro ⟨h1, h2, h3⟩; exact ⟨h1, h2, (accountLaw_iff s h1.ascending).mp h3⟩


end Sys2Proof.Laws.Accounts
end

