-- ==== Sys2Proof/Laws/KeptCapacity.lean ====
section
/-! SUPPORT. Every operation keeps the collections within their capacities (R1, R28, R39, R43, R44, R53, R69, R107, R111, R149). -/

namespace Sys2Proof.Laws.Capacity

set_option linter.all false
set_option maxHeartbeats 1000000

open Sys2Proof Sys2Proof.Machine

/-- The collections at their capacities, without the Notice Queue. -/
structure BoundsOk (rq pq fq : List Frame) (tq : List Ticket) (ls : List Lot) (sc : Scale) (st : Nat) (poll : List NodeIdx) (fo : List Kiln) : Prop where
  requests : rq.length ≤ 4
  passQueue : pq.length ≤ 8
  forwardQueue : fq.length ≤ 16
  tickets : tq.length ≤ 16
  lots : ls.length ≤ 24
  scaleCommands : sc.commands.length ≤ 4
  history : sc.history.length ≤ 8
  passStreak : st ≤ 4
  pollQueue : poll.Nodup
  fillOrder : fo.Nodup
/-- The collections of the state are within them. -/
@[irreducible] def CapacityOk (s : State) : Prop := BoundsOk s.classifier.requests s.classifier.passQueue s.classifier.forwardQueue s.tickets.queue s.table.lots s.scale s.field.passStreak s.field.pollQueue s.feed.fillOrder
theorem capacityOk_def (s : State) : CapacityOk s = BoundsOk s.classifier.requests s.classifier.passQueue s.classifier.forwardQueue s.tickets.queue s.table.lots s.scale s.field.passStreak s.field.pollQueue s.feed.fillOrder := by unfold CapacityOk; rfl
theorem capacityOk_mk (a b c d e f g h i j k l) : CapacityOk (State.mk a b c d e f g h i j k l) = BoundsOk d.requests d.passQueue d.forwardQueue k.queue f.lots i e.passStreak e.pollQueue g.fillOrder := by unfold CapacityOk; rfl
theorem insertLot_length (l ls) : (insertLot l ls).length = ls.length + 1 := by
  induction ls with
  | nil => rfl
  | cons a ls ih => unfold insertLot; split <;> simp [ih]
theorem lastN_length {α} (n) (l : List α) : (lastN n l).length ≤ n := by simp [lastN]; omega
/-- A change of the Scale Engine that keeps its two collections within their capacities. -/
def ScaleBoundsOk (c c' : Scale) : Prop := (c.commands.length ≤ 4 → c'.commands.length ≤ 4) ∧ (c.history.length ≤ 8 → c'.history.length ≤ 8)
theorem capacityOk_updScaleOf (s : State) (f : Scale → Scale) (h : CapacityOk s) (hf : ScaleBoundsOk s.scale (f s.scale)) : CapacityOk (s.updScale f) := by
  simp only [capacityOk_def] at *
  obtain ⟨a,b,c,d,e,f1,g,i,j,k⟩ := h
  exact ⟨a,b,c,d,e,hf.1 f1,hf.2 g,i,j,k⟩
theorem scaleBoundsOk_track (c : Scale) : ScaleBoundsOk c c.track := by
  unfold Scale.track; split
  · exact ⟨id, id⟩
  · split
    · simp [ScaleBoundsOk, Scale.absorb, Scale.clearHistory]
    · exact ⟨id, id⟩
theorem scaleBoundsOk_formBlock (c : Scale) : ScaleBoundsOk c c.formBlock := by
  simp [ScaleBoundsOk, Scale.formBlock]; intro _; exact lastN_length _ _
theorem scaleBoundsOk_enterFault (c : Scale) : ScaleBoundsOk c c.enterFault := by simp [ScaleBoundsOk, Scale.enterFault, Scale.clearData, Scale.clearHistory]
theorem scaleBoundsOk_endCycle (c : Scale) : ScaleBoundsOk c c.endCycle := by simp [ScaleBoundsOk, Scale.endCycle, Scale.clearHistory]
theorem scaleBoundsOk_withSetup (c : Scale) (u) : ScaleBoundsOk c (c.withSetup u) := by
  unfold Scale.withSetup; dsimp only; repeat' split
  all_goals simp [ScaleBoundsOk, Scale.clearData, Scale.clearHistory]
@[simp] theorem capacityOk_raiseOpt (s : State) (k : NoticeKind) (o : Nat) (v : Option Word32) (h : CapacityOk s) : CapacityOk (State.raiseOpt s k o v) := by simpa [capacityOk_def] using h
@[simp] theorem capacityOk_raise (s : State) (k : NoticeKind) (o : Nat) (v : Int) (h : CapacityOk s) : CapacityOk (State.raise s k o v) := by simpa [capacityOk_def] using h
@[simp] theorem capacityOk_updLot (s : State) (n : Nat) (f : Lot → Lot) (h : CapacityOk s) : CapacityOk (State.updLot s n f) := by
  simp only [capacityOk_def] at *
  obtain ⟨a,b,c,d,e,f1,g,i,j,k⟩ := h
  constructor <;> simp_all
@[simp] theorem capacityOk_updCharge (s : State) (r : ChargeRef) (f : Charge → Charge) (h : CapacityOk s) : CapacityOk (State.updCharge s r f) := by
  simp only [capacityOk_def] at *
  obtain ⟨a,b,c,d,e,f1,g,i,j,k⟩ := h
  constructor <;> simp_all
@[simp] theorem capacityOk_removeLot (s : State) (n : Nat) (h : CapacityOk s) : CapacityOk (State.removeLot s n) := by
  simp only [capacityOk_def] at *
  obtain ⟨a,b,c,d,e,f1,g,i,j,k⟩ := h
  constructor <;> simp_all
  exact Nat.le_trans (List.length_filter_le _ _) e
@[simp] theorem capacityOk_setNode (s : State) (i : NodeIdx) (n : Node) (h : CapacityOk s) : CapacityOk (State.setNode s i n) := by simpa [capacityOk_def] using h
@[simp] theorem capacityOk_placeCommand (s : State) (i : NodeIdx) (c : Commanded) (h : CapacityOk s) : CapacityOk (State.placeCommand s i c) := by simpa [capacityOk_def] using h
@[simp] theorem capacityOk_writeCommanded (s : State) (i : Option NodeIdx) (c : Commanded) (h : CapacityOk s) : CapacityOk (State.writeCommanded s i c) := by simpa [capacityOk_def] using h
@[simp] theorem capacityOk_clearCommanded (s : State) (i : Option NodeIdx) (h : CapacityOk s) : CapacityOk (State.clearCommanded s i) := by simpa [capacityOk_def] using h
@[simp] theorem capacityOk_updKiln (s : State) (k : Kiln) (f : KilnRun → KilnRun) (h : CapacityOk s) : CapacityOk (State.updKiln s k f) := by simpa [capacityOk_def] using h
@[simp] theorem capacityOk_updKilnCharge (s : State) (k : Kiln) (f : Charge → Charge) (h : CapacityOk s) : CapacityOk (State.updKilnCharge s k f) := by
  generalize e : (State.updKilnCharge s k f) = t
  unfold State.updKilnCharge at e
  (try dsimp only at e)
  (repeat' split at e) <;> subst e <;> (try simp only [refuse_state, accept_state]) <;> (simp (config := {maxDischargeDepth := 60}) [capacityOk_mk, h, (capacityOk_def s).symm.trans (eq_true h)])
@[simp] theorem capacityOk_updBale (s : State) (n : Nat) (f : Bale → Bale) (h : CapacityOk s) : CapacityOk (State.updBale s n f) := by simpa [capacityOk_def] using h
@[simp] theorem capacityOk_judgePress (s : State) (h : CapacityOk s) : CapacityOk (State.judgePress s) := by simpa [capacityOk_def] using h
@[simp] theorem capacityOk_judgeStore (s : State) (h : CapacityOk s) : CapacityOk (State.judgeStore s) := by simpa [capacityOk_def] using h
@[simp] theorem capacityOk_becomeHead (s : State) (k : Kiln) (h : CapacityOk s) : CapacityOk (State.becomeHead s k) := by
  generalize e : (State.becomeHead s k) = t
  unfold State.becomeHead at e
  (try dsimp only at e)
  (repeat' split at e) <;> subst e <;> (try simp only [refuse_state, accept_state]) <;> (simp (config := {maxDischargeDepth := 60}) [capacityOk_mk, h, (capacityOk_def s).symm.trans (eq_true h)])
@[simp] theorem capacityOk_joinPressQueue (s : State) (k : Kiln) (h : CapacityOk s) : CapacityOk (State.joinPressQueue s k) := by
  generalize e : (State.joinPressQueue s k) = t
  unfold State.joinPressQueue at e
  (try dsimp only at e)
  (repeat' split at e) <;> subst e <;> (try simp only [refuse_state, accept_state]) <;> (simp (config := {maxDischargeDepth := 60}) [capacityOk_mk, h, (capacityOk_def s).symm.trans (eq_true h)])
@[simp] theorem capacityOk_writeBurner (s : State) (k : Kiln) (h : CapacityOk s) : CapacityOk (State.writeBurner s k) := by simpa [capacityOk_def] using h
@[simp] theorem capacityOk_kilnDried (s : State) (k : Kiln) (h : CapacityOk s) : CapacityOk (State.kilnDried s k) := by
  generalize e : (State.kilnDried s k) = t
  unfold State.kilnDried at e
  (try dsimp only at e)
  (repeat' split at e) <;> subst e <;> (try simp only [refuse_state, accept_state]) <;> (simp (config := {maxDischargeDepth := 60}) [capacityOk_mk, h, (capacityOk_def s).symm.trans (eq_true h)])
@[simp] theorem capacityOk_enterStep (s : State) (k : Kiln) (h : CapacityOk s) : CapacityOk (State.enterStep s k) := by
  generalize e : (State.enterStep s k) = t
  unfold State.enterStep at e
  (try dsimp only at e)
  (repeat' split at e) <;> subst e <;> (try simp only [refuse_state, accept_state]) <;> (simp (config := {maxDischargeDepth := 60}) [capacityOk_mk, h, (capacityOk_def s).symm.trans (eq_true h)])
@[simp] theorem capacityOk_nextStep (s : State) (k : Kiln) (h : CapacityOk s) : CapacityOk (State.nextStep s k) := by
  generalize e : (State.nextStep s k) = t
  unfold State.nextStep at e
  (try dsimp only at e)
  (repeat' split at e) <;> subst e <;> (try simp only [refuse_state, accept_state]) <;> (simp (config := {maxDischargeDepth := 60}) [capacityOk_mk, h, (capacityOk_def s).symm.trans (eq_true h)])
@[simp] theorem capacityOk_holdKiln (s : State) (k : Kiln) (reason : HoldReason) (h : CapacityOk s) : CapacityOk (State.holdKiln s k reason) := by simpa [capacityOk_def] using h
@[simp] theorem capacityOk_kilnAir (s : State) (k : Kiln) (value : Int) (h : CapacityOk s) : CapacityOk (State.kilnAir s k value) := by simpa [capacityOk_def] using h
@[simp] theorem capacityOk_kilnExhaust (s : State) (k : Kiln) (value : Int) (h : CapacityOk s) : CapacityOk (State.kilnExhaust s k value) := by
  generalize e : (State.kilnExhaust s k value) = t
  unfold State.kilnExhaust at e
  (try dsimp only at e)
  (repeat' split at e) <;> subst e <;> (try simp only [refuse_state, accept_state]) <;> (simp (config := {maxDischargeDepth := 60}) [capacityOk_mk, h, (capacityOk_def s).symm.trans (eq_true h)])
@[simp] theorem capacityOk_startRun (s : State) (k : Kiln) (d : Fin 8) (h : CapacityOk s) : CapacityOk (State.startRun s k d) := by
  generalize e : (State.startRun s k d) = t
  unfold State.startRun at e
  (try dsimp only at e)
  (repeat' split at e) <;> subst e <;> (try simp only [refuse_state, accept_state]) <;> (simp (config := {maxDischargeDepth := 60}) [capacityOk_mk, h, (capacityOk_def s).symm.trans (eq_true h)])
@[simp] theorem capacityOk_autoStart (s : State) (k : Kiln) (h : CapacityOk s) : CapacityOk (State.autoStart s k) := by
  generalize e : (State.autoStart s k) = t
  unfold State.autoStart at e
  (try dsimp only at e)
  (repeat' split at e) <;> subst e <;> (try simp only [refuse_state, accept_state]) <;> (simp (config := {maxDischargeDepth := 60}) [capacityOk_mk, h, (capacityOk_def s).symm.trans (eq_true h)])
@[simp] theorem capacityOk_kilnLoaded (s : State) (k : Kiln) (h : CapacityOk s) : CapacityOk (State.kilnLoaded s k) := by
  generalize e : (State.kilnLoaded s k) = t
  unfold State.kilnLoaded at e
  (try dsimp only at e)
  (repeat' split at e) <;> subst e <;> (try simp only [refuse_state, accept_state]) <;> (simp (config := {maxDischargeDepth := 60}) [capacityOk_mk, h, (capacityOk_def s).symm.trans (eq_true h)])
@[simp] theorem capacityOk_kilnEmptied (s : State) (k : Kiln) (h : CapacityOk s) : CapacityOk (State.kilnEmptied s k) := by simpa [capacityOk_def] using h
@[simp] theorem capacityOk_stepEnd (s : State) (k : Kiln) (h : CapacityOk s) : CapacityOk (State.stepEnd s k) := by
  generalize e : (State.stepEnd s k) = t
  unfold State.stepEnd at e
  (try dsimp only at e)
  (repeat' split at e) <;> subst e <;> (try simp only [refuse_state, accept_state]) <;> (simp (config := {maxDischargeDepth := 60}) [capacityOk_mk, h, (capacityOk_def s).symm.trans (eq_true h)])
@[simp] theorem capacityOk_rampMinute (s : State) (k : Kiln) (h : CapacityOk s) : CapacityOk (State.rampMinute s k) := by
  generalize e : (State.rampMinute s k) = t
  unfold State.rampMinute at e
  (try dsimp only at e)
  (repeat' split at e) <;> subst e <;> (try simp only [refuse_state, accept_state]) <;> (simp (config := {maxDischargeDepth := 60}) [capacityOk_mk, h, (capacityOk_def s).symm.trans (eq_true h)])
@[simp] theorem capacityOk_dryToOvertime (s : State) (k : Kiln) (h : CapacityOk s) : CapacityOk (State.dryToOvertime s k) := by simpa [capacityOk_def] using h
@[simp] theorem capacityOk_abortCoolingEnd (s : State) (k : Kiln) (h : CapacityOk s) : CapacityOk (State.abortCoolingEnd s k) := by
  generalize e : (State.abortCoolingEnd s k) = t
  unfold State.abortCoolingEnd at e
  (try dsimp only at e)
  (repeat' split at e) <;> subst e <;> (try simp only [refuse_state, accept_state]) <;> (simp (config := {maxDischargeDepth := 60}) [capacityOk_mk, h, (capacityOk_def s).symm.trans (eq_true h)])
@[simp] theorem capacityOk_refreshExpiry (s : State) (k : Kiln) (h : CapacityOk s) : CapacityOk (State.refreshExpiry s k) := by simpa [capacityOk_def] using h
@[simp] theorem capacityOk_performKilnStart (kiln : Byte) (s : State) (h : CapacityOk s) : CapacityOk (performKilnStart kiln s).state := by
  generalize e : (performKilnStart kiln s) = t
  unfold performKilnStart at e
  (try dsimp only at e)
  (repeat' split at e) <;> subst e <;> (try simp only [refuse_state, accept_state]) <;> (simp (config := {maxDischargeDepth := 60}) [capacityOk_mk, h, (capacityOk_def s).symm.trans (eq_true h)])
@[simp] theorem capacityOk_performKilnHold (kiln : Byte) (s : State) (h : CapacityOk s) : CapacityOk (performKilnHold kiln s).state := by simpa [capacityOk_def] using h
@[simp] theorem capacityOk_resume (s : State) (k : Kiln) (m : ResumeMode) (h : CapacityOk s) : CapacityOk (State.resume s k m) := by
  generalize e : (State.resume s k m) = t
  unfold State.resume at e
  (try dsimp only at e)
  (repeat' split at e) <;> subst e <;> (try simp only [refuse_state, accept_state]) <;> (simp (config := {maxDischargeDepth := 60}) [capacityOk_mk, h, (capacityOk_def s).symm.trans (eq_true h)])
@[simp] theorem capacityOk_performKilnResume (kiln mode : Byte) (s : State) (h : CapacityOk s) : CapacityOk (performKilnResume kiln mode s).state := by
  generalize e : (performKilnResume kiln mode s) = t
  unfold performKilnResume at e
  (try dsimp only at e)
  (repeat' split at e) <;> subst e <;> (try simp only [refuse_state, accept_state]) <;> (simp (config := {maxDischargeDepth := 60}) [capacityOk_mk, h, (capacityOk_def s).symm.trans (eq_true h)])
@[simp] theorem capacityOk_abort (s : State) (k : Kiln) (h : CapacityOk s) : CapacityOk (State.abort s k) := by
  generalize e : (State.abort s k) = t
  unfold State.abort at e
  (try dsimp only at e)
  (repeat' split at e) <;> subst e <;> (try simp only [refuse_state, accept_state]) <;> (simp (config := {maxDischargeDepth := 60}) [capacityOk_mk, h, (capacityOk_def s).symm.trans (eq_true h)])
@[simp] theorem capacityOk_performKilnAbort (kiln : Byte) (s : State) (h : CapacityOk s) : CapacityOk (performKilnAbort kiln s).state := by
  generalize e : (performKilnAbort kiln s) = t
  unfold performKilnAbort at e
  (try dsimp only at e)
  (repeat' split at e) <;> subst e <;> (try simp only [refuse_state, accept_state]) <;> (simp (config := {maxDischargeDepth := 60}) [capacityOk_mk, h, (capacityOk_def s).symm.trans (eq_true h)])
@[simp] theorem capacityOk_performKilnRead (kiln : Byte) (s : State) (h : CapacityOk s) : CapacityOk (performKilnRead kiln s).state := by simpa [capacityOk_def] using h
@[simp] theorem capacityOk_setPrint (s : State) (n : Nat) (p : PrintState) (h : CapacityOk s) : CapacityOk (State.setPrint s n p) := by
  simp only [capacityOk_def] at *
  obtain ⟨a,b,c,d,e,f1,g,i,j,k⟩ := h
  constructor <;> simp_all
@[simp] theorem capacityOk_setProcess (s : State) (p : PrintProcess) (h : CapacityOk s) : CapacityOk (State.setProcess s p) := by simpa [capacityOk_def] using h
@[simp] theorem capacityOk_printScan (s : State) (h : CapacityOk s) : CapacityOk (State.printScan s) := by
  have k : ∀ n, CapacityOk ((s.setPrint n .printing).setProcess .sending) := fun n => capacityOk_setProcess _ _ (capacityOk_setPrint _ _ _ h)
  unfold State.printScan
  dsimp only
  (repeat' split)
  · exact capacityOk_setProcess _ _ h
  · exact capacityOk_setProcess _ _ h
  · exact capacityOk_setProcess _ _ h
  · have := k; simp only [capacityOk_mk]; simp only [capacityOk_def] at this; exact this _
@[simp] theorem capacityOk_promptPrint (s : State) (h : CapacityOk s) : CapacityOk (State.promptPrint s) := by
  generalize e : (State.promptPrint s) = t
  unfold State.promptPrint at e
  (try dsimp only at e)
  (repeat' split at e) <;> subst e <;> (try simp only [refuse_state, accept_state]) <;> (simp (config := {maxDischargeDepth := 60}) [capacityOk_mk, h, (capacityOk_def s).symm.trans (eq_true h)])
@[simp] theorem capacityOk_testComposition (s : State) (r : ChargeRef) (h : CapacityOk s) : CapacityOk (State.testComposition s r) := by simpa [capacityOk_def] using h
@[simp] theorem capacityOk_issueTicket (s : State) (r : ChargeRef) (t : Ticket) (hq : s.tickets.queue.length < 16) (h : CapacityOk s) : CapacityOk (State.issueTicket s r t) := by
  unfold State.issueTicket
  dsimp only
  apply capacityOk_promptPrint
  apply capacityOk_raise
  apply capacityOk_updCharge
  apply capacityOk_updLot
  simp only [capacityOk_mk]
  simp only [capacityOk_def] at h
  obtain ⟨a,b,c,d,e,f1,g,i,j,k⟩ := h
  constructor <;> simp_all <;> omega
@[simp] theorem capacityOk_compose (s : State) (r : ChargeRef) (hq : s.tickets.queue.length < 16) (h : CapacityOk s) : CapacityOk (State.compose s r) := by
  unfold State.compose
  (repeat' split) <;> (try exact h)
  dsimp only
  split
  · exact h
  · exact capacityOk_testComposition _ _ (capacityOk_issueTicket _ _ _ hq h)
@[simp] theorem capacityOk_serveFuel (n : Nat) (s : State) (h : CapacityOk s) : CapacityOk (State.serveFuel n s) := by
  induction n generalizing s with
  | zero => simpa [State.serveFuel]
  | succ n ih =>
    unfold State.serveFuel
    split
    · exact h
    · split
      · rename_i hc
        apply ih; apply capacityOk_compose
        · simp [State.canCompose, Config.ticketCapacity] at hc; exact of_decide_eq_true hc.1.1
        · simpa [capacityOk_def] using h
      · exact h
@[simp] theorem capacityOk_serve (s : State) (h : CapacityOk s) : CapacityOk (State.serve s) := by
  generalize e : (State.serve s) = t
  unfold State.serve at e
  (try dsimp only at e)
  (repeat' split at e) <;> subst e <;> (try simp only [refuse_state, accept_state]) <;> (simp (config := {maxDischargeDepth := 60}) [capacityOk_mk, h, (capacityOk_def s).symm.trans (eq_true h)])
@[simp] theorem capacityOk_offerCharge (s : State) (r : ChargeRef) (h : CapacityOk s) : CapacityOk (State.offerCharge s r) := by
  generalize e : (State.offerCharge s r) = t
  unfold State.offerCharge at e
  (try dsimp only at e)
  (repeat' split at e) <;> subst e <;> (try simp only [refuse_state, accept_state]) <;> (simp (config := {maxDischargeDepth := 60}) [capacityOk_mk, h, (capacityOk_def s).symm.trans (eq_true h)])
@[simp] theorem capacityOk_performTicketBase (nextTicket nextBale : Word32) (s : State) (h : CapacityOk s) : CapacityOk (performTicketBase nextTicket nextBale s).state := by simpa [capacityOk_def] using h
@[simp] theorem capacityOk_performTicketRead (ticket : Word32) (s : State) (h : CapacityOk s) : CapacityOk (performTicketRead ticket s).state := by simpa [capacityOk_def] using h
@[simp] theorem capacityOk_takeTicket (s : State) (t : Ticket) (h : CapacityOk s) : CapacityOk (State.takeTicket s t) := by
  have h0 : CapacityOk { s with tickets := { s.tickets with queue := s.tickets.queue.tail } } := by
    simp only [capacityOk_def] at *
    obtain ⟨a,b,c,d,e,f1,g,i,j,k⟩ := h
    constructor <;> simp_all <;> omega
  unfold State.takeTicket
  dsimp only
  apply capacityOk_serve; apply capacityOk_judgeStore
  split
  · apply capacityOk_updCharge; apply capacityOk_updLot; simpa [capacityOk_def] using h0
  · apply capacityOk_updLot; simpa [capacityOk_def] using h0
@[simp] theorem capacityOk_performTicketTake (ticket : Word32) (s : State) (h : CapacityOk s) : CapacityOk (performTicketTake ticket s).state := by
  generalize e : (performTicketTake ticket s) = t
  unfold performTicketTake at e
  (try dsimp only at e)
  (repeat' split at e) <;> subst e <;> (try simp only [refuse_state, accept_state]) <;> (simp (config := {maxDischargeDepth := 60}) [capacityOk_mk, h, (capacityOk_def s).symm.trans (eq_true h)])
@[simp] theorem capacityOk_performTicketReprint (ticket : Word32) (s : State) (h : CapacityOk s) : CapacityOk (performTicketReprint ticket s).state := by
  generalize e : (performTicketReprint ticket s) = t
  unfold performTicketReprint at e
  (try dsimp only at e)
  (repeat' split at e) <;> subst e <;> (try simp only [refuse_state, accept_state]) <;> (simp (config := {maxDischargeDepth := 60}) [capacityOk_mk, h, (capacityOk_def s).symm.trans (eq_true h)])
@[simp] theorem capacityOk_updHold (s : State) (f : FeedHold → FeedHold) (h : CapacityOk s) : CapacityOk (State.updHold s f) := by simp only [capacityOk_def] at *; simpa using h
@[simp] theorem capacityOk_raiseFeedHeld (s : State) (reason : Nat) (h : CapacityOk s) : CapacityOk (State.raiseFeedHeld s reason) := by simpa [capacityOk_def] using h
@[simp] theorem capacityOk_judgeHeld (s : State) (before : FeedHold) (h : CapacityOk s) : CapacityOk (State.judgeHeld s before) := by simpa [capacityOk_def] using h
@[simp] theorem capacityOk_judgePicker (s : State) (h : CapacityOk s) : CapacityOk (State.judgePicker s) := by
  unfold State.judgePicker
  split
  · exact h
  · simpa [capacityOk_def] using h
@[simp] theorem capacityOk_feedEvent (f : State → State) (s : State) (h : CapacityOk (f s)) : CapacityOk (feedEvent f s) := by
  simp [feedEvent, h]
@[simp] theorem capacityOk_startDivertWatch (s : State) (h : CapacityOk s) : CapacityOk (State.startDivertWatch s) := by
  unfold State.startDivertWatch
  split
  · apply capacityOk_raiseFeedHeld; simpa [capacityOk_def] using h
  · simpa [capacityOk_def] using h
@[simp] theorem capacityOk_takeKiln (s : State) (b : Nat) (k : Kiln) (h : CapacityOk s) : CapacityOk (State.takeKiln s b k) := by
  simp only [State.takeKiln]
  apply capacityOk_startDivertWatch; apply capacityOk_updHold; apply capacityOk_writeCommanded
  have := capacityOk_updKiln (s.updLot b (fun l => { l with charges := l.charges ++ [newCharge k s.now] })) k (fun r => { r with state := .loading, charge := some { lot := b, index := ((s.lot? b).map (fun l => l.charges.length)).getD 0 } }) (capacityOk_updLot _ _ _ h)
  simpa [capacityOk_def] using this
@[simp] theorem capacityOk_hitChargeLimit (s : State) (b : Nat) (k : Kiln) (h : CapacityOk s) : CapacityOk (State.hitChargeLimit s b k) := by simpa [capacityOk_def] using h
@[simp] theorem capacityOk_selectKiln (s : State) (b : Nat) (h : CapacityOk s) : CapacityOk (State.selectKiln s b) := by
  generalize e : (State.selectKiln s b) = t
  unfold State.selectKiln at e
  (try dsimp only at e)
  (repeat' split at e) <;> subst e <;> (try simp only [refuse_state, accept_state]) <;> (simp (config := {maxDischargeDepth := 60}) [capacityOk_mk, h, (capacityOk_def s).symm.trans (eq_true h)])
@[simp] theorem capacityOk_attemptSelection (s : State) (h : CapacityOk s) : CapacityOk (State.attemptSelection s) := by
  generalize e : (State.attemptSelection s) = t
  unfold State.attemptSelection at e
  (try dsimp only at e)
  (repeat' split at e) <;> subst e <;> (try simp only [refuse_state, accept_state]) <;> (simp (config := {maxDischargeDepth := 60}) [capacityOk_mk, h, (capacityOk_def s).symm.trans (eq_true h)])
@[simp] theorem capacityOk_closeCharge (s : State) (k : Kiln) (h : CapacityOk s) : CapacityOk (State.closeCharge s k) := by
  generalize e : (State.closeCharge s k) = t
  unfold State.closeCharge at e
  (try dsimp only at e)
  (repeat' split at e) <;> subst e <;> (try simp only [refuse_state, accept_state]) <;> (simp (config := {maxDischargeDepth := 60}) [capacityOk_mk, h, (capacityOk_def s).symm.trans (eq_true h)])
@[simp] theorem capacityOk_closeFill (s : State) (k : Kiln) (h : CapacityOk s) : CapacityOk (State.closeFill s k) := by
  simp only [State.closeFill]
  have := capacityOk_kilnLoaded _ k (capacityOk_closeCharge s k h)
  simpa [capacityOk_def] using this
@[simp] theorem capacityOk_closeAndSelect (s : State) (k : Kiln) (h : CapacityOk s) : CapacityOk (State.closeAndSelect s k) := by
  generalize e : (State.closeAndSelect s k) = t
  unfold State.closeAndSelect at e
  (try dsimp only at e)
  (repeat' split at e) <;> subst e <;> (try simp only [refuse_state, accept_state]) <;> (simp (config := {maxDischargeDepth := 60}) [capacityOk_mk, h, (capacityOk_def s).symm.trans (eq_true h)])
@[simp] theorem capacityOk_finishOldLot (s : State) (h : CapacityOk s) : CapacityOk (State.finishOldLot s) := by
  generalize e : (State.finishOldLot s) = t
  unfold State.finishOldLot at e
  (try dsimp only at e)
  (repeat' split at e) <;> subst e <;> (try simp only [refuse_state, accept_state]) <;> (simp (config := {maxDischargeDepth := 60}) [capacityOk_mk, h, (capacityOk_def s).symm.trans (eq_true h)])
@[simp] theorem capacityOk_completeChangeover (s : State) (h : CapacityOk s) : CapacityOk (State.completeChangeover s) := by
  unfold State.completeChangeover
  dsimp only
  apply capacityOk_attemptSelection
  have key : ∀ t, CapacityOk t → CapacityOk (t.finishOldLot.updFeed (fun u => { u with
    beltLot := u.changeover.pending, changeover := .steady
    hold := { u.hold with changeover := false, noKiln := false, chargeLimit := false } })) := by
    intro t ht
    have := capacityOk_finishOldLot t ht
    simpa [capacityOk_def] using this
  split
  · exact key _ h
  · exact key _ (capacityOk_closeFill _ _ h)
@[simp] theorem capacityOk_changeoverExpiry (s : State) (h : CapacityOk s) : CapacityOk (State.changeoverExpiry s) := by
  unfold State.changeoverExpiry
  dsimp only
  split
  · have : CapacityOk (s.updFeed fun u => { u with timer := 0 }) := by simpa [capacityOk_def] using h
    split
    · exact capacityOk_completeChangeover _ this
    · simpa [capacityOk_def] using h
  · exact h
  · exact h
@[simp] theorem capacityOk_beltAnswered (s : State) (h : CapacityOk s) : CapacityOk (State.beltAnswered s) := by
  generalize e : (State.beltAnswered s) = t
  unfold State.beltAnswered at e
  (try dsimp only at e)
  (repeat' split at e) <;> subst e <;> (try simp only [refuse_state, accept_state]) <;> (simp (config := {maxDischargeDepth := 60}) [capacityOk_mk, h, (capacityOk_def s).symm.trans (eq_true h)])
@[simp] theorem capacityOk_divertWatchExpiry (s : State) (h : CapacityOk s) : CapacityOk (State.divertWatchExpiry s) := by
  unfold State.divertWatchExpiry
  split
  · apply capacityOk_raiseFeedHeld; simpa [capacityOk_def] using h
  · exact h
@[simp] theorem capacityOk_divertReport (s : State) (target : Option Kiln) (h : CapacityOk s) : CapacityOk (State.divertReport s target) := by
  unfold State.divertReport
  split
  · simpa [capacityOk_def] using h
  · exact h
@[simp] theorem capacityOk_credit (s : State) (inc : Nat) (h : CapacityOk s) : CapacityOk (State.credit s inc) := by
  have h' : BoundsOk s.classifier.requests s.classifier.passQueue s.classifier.forwardQueue s.tickets.queue s.table.lots s.scale s.field.passStreak s.field.pollQueue s.feed.fillOrder := (capacityOk_def s) ▸ h
  unfold State.credit
  (try dsimp only)
  split
  · simpa [capacityOk_def] using h
  · split
    · split
      · simp (config := {maxDischargeDepth := 60}) [h]
      · split <;> simp (config := {maxDischargeDepth := 60}) [h]
    · simp (config := {maxDischargeDepth := 60}) [h]
@[simp] theorem capacityOk_green (s : State) (i : NodeIdx) (value : Word32) (h : CapacityOk s) : CapacityOk (State.green s i value) := by
  generalize e : (State.green s i value) = t
  unfold State.green at e
  (try dsimp only at e)
  (repeat' split at e) <;> subst e <;> (try simp only [refuse_state, accept_state]) <;> (simp (config := {maxDischargeDepth := 60}) [capacityOk_mk, h, (capacityOk_def s).symm.trans (eq_true h)])
@[simp] theorem capacityOk_feedLot (s : State) (new : Option Nat) (h : CapacityOk s) : CapacityOk (State.feedLot s new) := by
  unfold State.feedLot
  dsimp only
  have key : ∀ g : Feed → Feed, (g s.feed).fillOrder = s.feed.fillOrder → CapacityOk (s.updFeed g) := by
    intro g hg; simp only [capacityOk_def] at *; simpa [hg] using h
  have k2 : CapacityOk (match new with
    | none => s.updFeed (fun u => { u with
    feedLot := new, changeover := .draining new, timer := 10 * s.mgmt.station.transit
    hold := { u.hold with changeover := true, stopped := new.isNone } })
    | some n => (s.updFeed (fun u => { u with
    feedLot := new, changeover := .draining new, timer := 10 * s.mgmt.station.transit
    hold := { u.hold with changeover := true, stopped := new.isNone } })).updLot n (fun l => { l with state := .feeding })) := by
    split
    · exact key _ rfl
    · exact capacityOk_updLot _ _ _ (key _ rfl)
  split
  · exact capacityOk_changeoverExpiry _ k2
  · exact k2
@[simp] theorem capacityOk_performLotFeed (lot : Word16) (s : State) (h : CapacityOk s) : CapacityOk (performLotFeed lot s).state := by
  generalize e : (performLotFeed lot s) = t
  unfold performLotFeed at e
  (try dsimp only at e)
  (repeat' split at e) <;> subst e <;> (try simp only [refuse_state, accept_state]) <;> (simp (config := {maxDischargeDepth := 60}) [capacityOk_mk, h, (capacityOk_def s).symm.trans (eq_true h)])
@[simp] theorem capacityOk_performFeedHold (flag : Byte) (s : State) (h : CapacityOk s) : CapacityOk (performFeedHold flag s).state := by simpa [capacityOk_def] using h
@[simp] theorem capacityOk_performFillOrder (count : Byte) (kilns : List Byte) (s : State) (h : CapacityOk s) : CapacityOk (performFillOrder count kilns s).state := by
  unfold performFillOrder
  (repeat' split) <;> try exact h
  rename_i hn
  apply capacityOk_feedEvent; apply capacityOk_attemptSelection
  simp only [capacityOk_def] at *
  obtain ⟨a,b,c,d,e,f1,g,i,j,k⟩ := h
  constructor <;> simp_all
@[simp] theorem capacityOk_performLoadClose (s : State) (h : CapacityOk s) : CapacityOk (performLoadClose s).state := by
  generalize e : (performLoadClose s) = t
  unfold performLoadClose at e
  (try dsimp only at e)
  (repeat' split at e) <;> subst e <;> (try simp only [refuse_state, accept_state]) <;> (simp (config := {maxDischargeDepth := 60}) [capacityOk_mk, h, (capacityOk_def s).symm.trans (eq_true h)])
@[simp] theorem capacityOk_fillBale (s : State) (b : Bale) (gross : Int) (h : CapacityOk s) : CapacityOk (State.fillBale s b gross) := by
  generalize e : (State.fillBale s b gross) = t
  unfold State.fillBale at e
  (try dsimp only at e)
  (repeat' split at e) <;> subst e <;> (try simp only [refuse_state, accept_state]) <;> (simp (config := {maxDischargeDepth := 60}) [capacityOk_mk, h, (capacityOk_def s).symm.trans (eq_true h)])
@[simp] theorem capacityOk_captured (s : State) (weight : Int) (h : CapacityOk s) : CapacityOk (State.captured s weight) := by
  generalize e : (State.captured s weight) = t
  unfold State.captured at e
  (try dsimp only at e)
  (repeat' split at e) <;> subst e <;> (try simp only [refuse_state, accept_state]) <;> (simp (config := {maxDischargeDepth := 60}) [capacityOk_mk, h, (capacityOk_def s).symm.trans (eq_true h)])
@[simp] theorem capacityOk_notCaptured (s : State) (h : CapacityOk s) : CapacityOk (State.notCaptured s) := by
  generalize e : (State.notCaptured s) = t
  unfold State.notCaptured at e
  (try dsimp only at e)
  (repeat' split at e) <;> subst e <;> (try simp only [refuse_state, accept_state]) <;> (simp (config := {maxDischargeDepth := 60}) [capacityOk_mk, h, (capacityOk_def s).symm.trans (eq_true h)])
@[simp] theorem capacityOk_judgeBlock (s : State) (h : CapacityOk s) : CapacityOk (State.judgeBlock s) := by
  unfold State.judgeBlock
  (try dsimp only)
  (repeat' split)
  all_goals repeat' (first | with_reducible exact h | apply capacityOk_raise | apply capacityOk_notCaptured | apply capacityOk_captured | refine capacityOk_updScaleOf _ _ ?_ (by first | exact scaleBoundsOk_track _ | exact scaleBoundsOk_formBlock _ | exact scaleBoundsOk_enterFault _ | exact scaleBoundsOk_endCycle _ | simp [ScaleBoundsOk, Scale.clearData, Scale.clearHistory]))
@[simp] theorem capacityOk_enterFault (s : State) (cause : FaultCause) (h : CapacityOk s) : CapacityOk (State.enterFault s cause) := by
  unfold State.enterFault
  (try dsimp only)
  (repeat' split)
  all_goals repeat' (first | with_reducible exact h | apply capacityOk_raise | apply capacityOk_notCaptured | apply capacityOk_captured | refine capacityOk_updScaleOf _ _ ?_ (by first | exact scaleBoundsOk_track _ | exact scaleBoundsOk_formBlock _ | exact scaleBoundsOk_enterFault _ | exact scaleBoundsOk_endCycle _ | simp [ScaleBoundsOk, Scale.clearData, Scale.clearHistory]))
@[simp] theorem capacityOk_faultCause (s : State) (cause : FaultCause) (h : CapacityOk s) : CapacityOk (State.faultCause s cause) := by
  unfold State.faultCause
  (try dsimp only)
  (repeat' split)
  all_goals repeat' (first | with_reducible exact h | apply capacityOk_raise | apply capacityOk_notCaptured | apply capacityOk_captured | apply capacityOk_enterFault | refine capacityOk_updScaleOf _ _ ?_ (by first | exact scaleBoundsOk_track _ | exact scaleBoundsOk_formBlock _ | exact scaleBoundsOk_enterFault _ | exact scaleBoundsOk_endCycle _ | simp [ScaleBoundsOk, Scale.clearData, Scale.clearHistory]))
@[simp] theorem capacityOk_takeReading (s : State) (r : Int) (h : CapacityOk s) : CapacityOk (State.takeReading s r) := by
  unfold State.takeReading
  dsimp only
  have key : CapacityOk (s.updScale fun c => { c with samples := c.samples ++ [r] }) := capacityOk_updScaleOf _ _ h (by simp [ScaleBoundsOk])
  split
  · split <;> exact capacityOk_updScaleOf _ _ h (by simp [ScaleBoundsOk, Scale.clearHistory])
  · split
    · exact capacityOk_judgeBlock _ (capacityOk_updScaleOf _ _ key (scaleBoundsOk_formBlock _))
    · exact key
@[simp] theorem capacityOk_takeSample (s : State) (st : Byte) (sample : Int) (h : CapacityOk s) : CapacityOk (State.takeSample s st sample) := by
  unfold State.takeSample
  (try dsimp only)
  (repeat' split)
  all_goals repeat' (first | with_reducible exact h | apply capacityOk_raise | apply capacityOk_notCaptured | apply capacityOk_captured | apply capacityOk_faultCause | apply capacityOk_takeReading | apply capacityOk_enterFault | refine capacityOk_updScaleOf _ _ ?_ (by first | exact scaleBoundsOk_track _ | exact scaleBoundsOk_formBlock _ | exact scaleBoundsOk_enterFault _ | exact scaleBoundsOk_endCycle _ | simp [ScaleBoundsOk, Scale.clearData, Scale.clearHistory]))
@[simp] theorem capacityOk_frameStart (s : State) (h : CapacityOk s) : CapacityOk (State.frameStart s) := by
  unfold State.frameStart
  (try dsimp only)
  (repeat' split)
  all_goals repeat' (first | with_reducible exact h | apply capacityOk_raise | apply capacityOk_notCaptured | apply capacityOk_captured | apply capacityOk_faultCause | apply capacityOk_takeReading | apply capacityOk_enterFault | refine capacityOk_updScaleOf _ _ ?_ (by first | exact scaleBoundsOk_track _ | exact scaleBoundsOk_formBlock _ | exact scaleBoundsOk_enterFault _ | exact scaleBoundsOk_endCycle _ | simp [ScaleBoundsOk, Scale.clearData, Scale.clearHistory]))
@[simp] theorem capacityOk_frameComplete (s : State) (st : Byte) (sample : BitVec 24) (h : CapacityOk s) : CapacityOk (State.frameComplete s st sample) := by
  unfold State.frameComplete
  split
  · exact h
  · apply capacityOk_takeSample; apply capacityOk_updScaleOf _ _ h
    simp only [ScaleBoundsOk]; split <;> simp <;> omega
@[simp] theorem capacityOk_frameTorn (s : State) (h : CapacityOk s) : CapacityOk (State.frameTorn s) := by
  unfold State.frameTorn
  (try dsimp only)
  (repeat' split)
  all_goals repeat' (first | with_reducible exact h | apply capacityOk_raise | apply capacityOk_notCaptured | apply capacityOk_captured | apply capacityOk_faultCause | apply capacityOk_takeReading | apply capacityOk_enterFault | refine capacityOk_updScaleOf _ _ ?_ (by first | exact scaleBoundsOk_track _ | exact scaleBoundsOk_formBlock _ | exact scaleBoundsOk_enterFault _ | exact scaleBoundsOk_endCycle _ | simp [ScaleBoundsOk, Scale.clearData, Scale.clearHistory]))
@[simp] theorem capacityOk_watchExpiry (s : State) (h : CapacityOk s) : CapacityOk (State.watchExpiry s) := by
  unfold State.watchExpiry
  (try dsimp only)
  (repeat' split)
  all_goals repeat' (first | with_reducible exact h | apply capacityOk_raise | apply capacityOk_notCaptured | apply capacityOk_captured | apply capacityOk_faultCause | apply capacityOk_takeReading | apply capacityOk_enterFault | refine capacityOk_updScaleOf _ _ ?_ (by first | exact scaleBoundsOk_track _ | exact scaleBoundsOk_formBlock _ | exact scaleBoundsOk_enterFault _ | exact scaleBoundsOk_endCycle _ | simp [ScaleBoundsOk, Scale.clearData, Scale.clearHistory]))
@[simp] theorem capacityOk_settleTimeout (s : State) (h : CapacityOk s) : CapacityOk (State.settleTimeout s) := by
  unfold State.settleTimeout
  (try dsimp only)
  (repeat' split)
  all_goals repeat' (first | with_reducible exact h | apply capacityOk_raise | apply capacityOk_notCaptured | apply capacityOk_captured | apply capacityOk_faultCause | apply capacityOk_takeReading | apply capacityOk_enterFault | refine capacityOk_updScaleOf _ _ ?_ (by first | exact scaleBoundsOk_track _ | exact scaleBoundsOk_formBlock _ | exact scaleBoundsOk_enterFault _ | exact scaleBoundsOk_endCycle _ | simp [ScaleBoundsOk, Scale.clearData, Scale.clearHistory]))
@[simp] theorem capacityOk_scaleOnScale (s : State) (h : CapacityOk s) : CapacityOk (State.scaleOnScale s) := by
  unfold State.scaleOnScale
  (try dsimp only)
  (repeat' split)
  all_goals repeat' (first | with_reducible exact h | apply capacityOk_raise | apply capacityOk_notCaptured | apply capacityOk_captured | apply capacityOk_faultCause | apply capacityOk_takeReading | apply capacityOk_enterFault | refine capacityOk_updScaleOf _ _ ?_ (by first | exact scaleBoundsOk_track _ | exact scaleBoundsOk_formBlock _ | exact scaleBoundsOk_enterFault _ | exact scaleBoundsOk_endCycle _ | simp [ScaleBoundsOk, Scale.clearData, Scale.clearHistory]))
@[simp] theorem capacityOk_createBale (s : State) (k : Kiln) (r : ChargeRef) (value : Word32) (weighing : Bool) (h : CapacityOk s) : CapacityOk (State.createBale s k r value weighing) := by
  generalize e : (State.createBale s k r value weighing) = t
  unfold State.createBale at e
  (try dsimp only at e)
  (repeat' split at e) <;> subst e <;> (try simp only [refuse_state, accept_state]) <;> (simp (config := {maxDischargeDepth := 60}) [capacityOk_mk, h, (capacityOk_def s).symm.trans (eq_true h)])
@[simp] theorem capacityOk_newCycle (s : State) (value : Word32) (weighing : Bool) (h : CapacityOk s) : CapacityOk (State.newCycle s value weighing) := by
  generalize e : (State.newCycle s value weighing) = t
  unfold State.newCycle at e
  (try dsimp only at e)
  (repeat' split at e) <;> subst e <;> (try simp only [refuse_state, accept_state]) <;> (simp (config := {maxDischargeDepth := 60}) [capacityOk_mk, h, (capacityOk_def s).symm.trans (eq_true h)])
@[simp] theorem capacityOk_onScale (s : State) (value : Word32) (h : CapacityOk s) : CapacityOk (State.onScale s value) := by
  generalize e : (State.onScale s value) = t
  unfold State.onScale at e
  (try dsimp only at e)
  (repeat' split at e) <;> subst e <;> (try simp only [refuse_state, accept_state]) <;> (simp (config := {maxDischargeDepth := 60}) [capacityOk_mk, h, (capacityOk_def s).symm.trans (eq_true h)])
@[simp] theorem capacityOk_offScale (s : State) (h : CapacityOk s) : CapacityOk (State.offScale s) := by
  unfold State.offScale
  dsimp only
  rw [capacityOk_mk]
  rw [← capacityOk_def]
  split
  all_goals repeat' (first | with_reducible exact h | apply capacityOk_raise | apply capacityOk_notCaptured | apply capacityOk_captured | apply capacityOk_faultCause | apply capacityOk_takeReading | apply capacityOk_enterFault | refine capacityOk_updScaleOf _ _ ?_ (by first | exact scaleBoundsOk_track _ | exact scaleBoundsOk_formBlock _ | exact scaleBoundsOk_enterFault _ | exact scaleBoundsOk_endCycle _ | simp [ScaleBoundsOk, Scale.clearData, Scale.clearHistory]))
@[simp] theorem capacityOk_moisture (s : State) (value : Word32) (h : CapacityOk s) : CapacityOk (State.moisture s value) := by simpa [capacityOk_def] using h
@[simp] theorem capacityOk_advanceHead (s : State) (h : CapacityOk s) : CapacityOk (State.advanceHead s) := by
  generalize e : (State.advanceHead s) = t
  unfold State.advanceHead at e
  (try dsimp only at e)
  (repeat' split at e) <;> subst e <;> (try simp only [refuse_state, accept_state]) <;> (simp (config := {maxDischargeDepth := 60}) [capacityOk_mk, h, (capacityOk_def s).symm.trans (eq_true h)])
@[simp] theorem capacityOk_unloadHead (s : State) (k : Kiln) (h : CapacityOk s) : CapacityOk (State.unloadHead s k) := by
  generalize e : (State.unloadHead s k) = t
  unfold State.unloadHead at e
  (try dsimp only at e)
  (repeat' split at e) <;> subst e <;> (try simp only [refuse_state, accept_state]) <;> (simp (config := {maxDischargeDepth := 60}) [capacityOk_mk, h, (capacityOk_def s).symm.trans (eq_true h)])
@[simp] theorem capacityOk_unloadDone (s : State) (h : CapacityOk s) : CapacityOk (State.unloadDone s) := by
  generalize e : (State.unloadDone s) = t
  unfold State.unloadDone at e
  (try dsimp only at e)
  (repeat' split at e) <;> subst e <;> (try simp only [refuse_state, accept_state]) <;> (simp (config := {maxDischargeDepth := 60}) [capacityOk_mk, h, (capacityOk_def s).symm.trans (eq_true h)])
@[simp] theorem capacityOk_performUnloadDone (kiln : Byte) (s : State) (h : CapacityOk s) : CapacityOk (performUnloadDone kiln s).state := by
  generalize e : (performUnloadDone kiln s) = t
  unfold performUnloadDone at e
  (try dsimp only at e)
  (repeat' split at e) <;> subst e <;> (try simp only [refuse_state, accept_state]) <;> (simp (config := {maxDischargeDepth := 60}) [capacityOk_mk, h, (capacityOk_def s).symm.trans (eq_true h)])
@[simp] theorem capacityOk_performPressHold (flag : Byte) (s : State) (h : CapacityOk s) : CapacityOk (performPressHold flag s).state := by simpa [capacityOk_def] using h
@[simp] theorem capacityOk_performBaleWeight (bale gross : Word32) (s : State) (h : CapacityOk s) : CapacityOk (performBaleWeight bale gross s).state := by
  generalize e : (performBaleWeight bale gross s) = t
  unfold performBaleWeight at e
  (try dsimp only at e)
  (repeat' split at e) <;> subst e <;> (try simp only [refuse_state, accept_state]) <;> (simp (config := {maxDischargeDepth := 60}) [capacityOk_mk, h, (capacityOk_def s).symm.trans (eq_true h)])
@[simp] theorem capacityOk_performBaleRead (bale : Word32) (s : State) (h : CapacityOk s) : CapacityOk (performBaleRead bale s).state := by simpa [capacityOk_def] using h
@[simp] theorem capacityOk_performScaleRead (s : State) (h : CapacityOk s) : CapacityOk (performScaleRead s).state := by simpa [capacityOk_def] using h
@[simp] theorem capacityOk_performScaleZero (s : State) (h : CapacityOk s) : CapacityOk (performScaleZero s).state := by
  unfold performScaleZero
  (repeat' split) <;> try exact h
  simp only [accept_state]
  apply capacityOk_updScaleOf _ _ h
  simp [ScaleBoundsOk, Scale.absorb, Scale.clearHistory]
@[simp] theorem capacityOk_performScaleCommand (word : Byte) (s : State) (h : CapacityOk s) : CapacityOk (performScaleCommand word s).state := by
  unfold performScaleCommand
  split
  · exact h
  · rename_i hc
    simp [Config.scaleCommandCapacity] at hc
    simp only [accept_state]
    apply capacityOk_updScaleOf _ _ h
    simp only [ScaleBoundsOk]; simp; omega
@[simp] theorem capacityOk_nodeAnswered (s : State) (i : NodeIdx) (h : CapacityOk s) : CapacityOk (State.nodeAnswered s i) := by simpa [capacityOk_def] using h
@[simp] theorem capacityOk_reportAnswer (s : State) (i : NodeIdx) (h : CapacityOk s) : CapacityOk (State.reportAnswer s i) := by
  generalize e : (State.reportAnswer s i) = t
  unfold State.reportAnswer at e
  (try dsimp only at e)
  (repeat' split at e) <;> subst e <;> (try simp only [refuse_state, accept_state]) <;> (simp (config := {maxDischargeDepth := 60}) [capacityOk_mk, h, (capacityOk_def s).symm.trans (eq_true h)])
@[simp] theorem capacityOk_holdBound (s : State) (n : Node) (reason : HoldReason) (h : CapacityOk s) : CapacityOk (State.holdBound s n reason) := by simpa [capacityOk_def] using h
@[simp] theorem capacityOk_reportLost (s : State) (n : Node) (h : CapacityOk s) : CapacityOk (State.reportLost s n) := by simpa [capacityOk_def] using h
@[simp] theorem capacityOk_nodeMissed (s : State) (i : NodeIdx) (h : CapacityOk s) : CapacityOk (State.nodeMissed s i) := by simpa [capacityOk_def] using h
@[simp] theorem capacityOk_missOn (s : State) (t : Transaction) (h : CapacityOk s) : CapacityOk (State.missOn s t) := by simpa [capacityOk_def] using h
@[simp] theorem capacityOk_forward (s : State) (f : Frame) (h : CapacityOk s) : CapacityOk (State.forward s f) := by
  unfold State.forward
  split
  · simp only [capacityOk_def] at *
    obtain ⟨a,b,c,d,e,f1,g,i,j,k⟩ := h
    constructor <;> simp_all
    split <;> simp_all [Config.forwardCapacity] <;> omega
  · exact h
@[simp] theorem capacityOk_applyRoute (s : State) (r : Route) (i : NodeIdx) (f : Frame) (h : CapacityOk s) : CapacityOk (State.applyRoute s r i f) := by
  generalize e : (State.applyRoute s r i f) = t
  unfold State.applyRoute at e
  (try dsimp only at e)
  (repeat' split at e) <;> subst e <;> (try simp only [refuse_state, accept_state]) <;> (simp (config := {maxDischargeDepth := 60}) [capacityOk_mk, h, (capacityOk_def s).symm.trans (eq_true h)])
@[simp] theorem capacityOk_jobAction (s : State) (r : Route) (x : RouteIdx) (i : NodeIdx) (f : Frame) (h : CapacityOk s) : CapacityOk (State.jobAction s r x i f) := by
  generalize e : (State.jobAction s r x i f) = t
  unfold State.jobAction at e
  (try dsimp only at e)
  (repeat' split at e) <;> subst e <;> (try simp only [refuse_state, accept_state]) <;> (simp (config := {maxDischargeDepth := 60}) [capacityOk_mk, h, (capacityOk_def s).symm.trans (eq_true h)])
@[simp] theorem capacityOk_copyIf (s : State) (c : Bool) (f : Frame) (h : CapacityOk s) : CapacityOk (State.copyIf s c f) := by
  generalize e : (State.copyIf s c f) = t
  unfold State.copyIf at e
  (try dsimp only at e)
  (repeat' split at e) <;> subst e <;> (try simp only [refuse_state, accept_state]) <;> (simp (config := {maxDischargeDepth := 60}) [capacityOk_mk, h, (capacityOk_def s).symm.trans (eq_true h)])
@[simp] theorem capacityOk_classify (s : State) (i : NodeIdx) (f : Frame) (h : CapacityOk s) : CapacityOk (State.classify s i f) := by
  generalize e : (State.classify s i f) = t
  unfold State.classify at e
  (try dsimp only at e)
  (repeat' split at e) <;> subst e <;> (try simp only [refuse_state, accept_state]) <;> (simp (config := {maxDischargeDepth := 60}) [capacityOk_mk, h, (capacityOk_def s).symm.trans (eq_true h)])
@[simp] theorem capacityOk_endTransaction (s : State) (h : CapacityOk s) : CapacityOk (State.endTransaction s) := by simpa [capacityOk_def] using h
@[simp] theorem capacityOk_countUnsolicited (s : State) (h : CapacityOk s) : CapacityOk (State.countUnsolicited s) := by simpa [capacityOk_def] using h
@[simp] theorem capacityOk_pollAnswered (s : State) (i : NodeIdx) (f : Frame) (h : CapacityOk s) : CapacityOk (State.pollAnswered s i f) := by
  generalize e : (State.pollAnswered s i f) = t
  unfold State.pollAnswered at e
  (try dsimp only at e)
  (repeat' split at e) <;> subst e <;> (try simp only [refuse_state, accept_state]) <;> (simp (config := {maxDischargeDepth := 60}) [capacityOk_mk, h, (capacityOk_def s).symm.trans (eq_true h)])
@[simp] theorem capacityOk_reportConfirmed (s : State) (c : Commanded) (h : CapacityOk s) : CapacityOk (State.reportConfirmed s c) := by simpa [capacityOk_def] using h
@[simp] theorem capacityOk_commandAnswered (s : State) (i : NodeIdx) (code : Byte) (f : Frame) (h : CapacityOk s) : CapacityOk (State.commandAnswered s i code f) := by simpa [capacityOk_def] using h
@[simp] theorem capacityOk_blockAnswered (s : State) (i : NodeIdx) (ticket : Nat) (f : Frame) (h : CapacityOk s) : CapacityOk (State.blockAnswered s i ticket f) := by
  generalize e : (State.blockAnswered s i ticket f) = t
  unfold State.blockAnswered at e
  (try dsimp only at e)
  (repeat' split at e) <;> subst e <;> (try simp only [refuse_state, accept_state]) <;> (simp (config := {maxDischargeDepth := 60}) [capacityOk_mk, h, (capacityOk_def s).symm.trans (eq_true h)])
@[simp] theorem capacityOk_answerBody (s : State) (t : Transaction) (i : NodeIdx) (f : Frame) (h : CapacityOk s) : CapacityOk (State.answerBody s t i f) := by
  generalize e : (State.answerBody s t i f) = t
  unfold State.answerBody at e
  (try dsimp only at e)
  (repeat' split at e) <;> subst e <;> (try simp only [refuse_state, accept_state]) <;> (simp (config := {maxDischargeDepth := 60}) [capacityOk_mk, h, (capacityOk_def s).symm.trans (eq_true h)])
@[simp] theorem capacityOk_answered (s : State) (t : Transaction) (f : Frame) (h : CapacityOk s) : CapacityOk (State.answered s t f) := by
  generalize e : (State.answered s t f) = t
  unfold State.answered at e
  (try dsimp only at e)
  (repeat' split at e) <;> subst e <;> (try simp only [refuse_state, accept_state]) <;> (simp (config := {maxDischargeDepth := 60}) [capacityOk_mk, h, (capacityOk_def s).symm.trans (eq_true h)])
@[simp] theorem capacityOk_expired (s : State) (t : Transaction) (h : CapacityOk s) : CapacityOk (State.expired s t) := by
  generalize e : (State.expired s t) = t
  unfold State.expired at e
  (try dsimp only at e)
  (repeat' split at e) <;> subst e <;> (try simp only [refuse_state, accept_state]) <;> (simp (config := {maxDischargeDepth := 60}) [capacityOk_mk, h, (capacityOk_def s).symm.trans (eq_true h)])
@[simp] theorem capacityOk_afterOther (s : State) (h : CapacityOk s) : CapacityOk (State.afterOther s) := by
  generalize e : (State.afterOther s) = t
  unfold State.afterOther at e
  (try dsimp only at e)
  (repeat' split at e) <;> subst e <;> (try simp only [refuse_state, accept_state]) <;> (simp (config := {maxDischargeDepth := 60}) [capacityOk_mk, h, (capacityOk_def s).symm.trans (eq_true h)])
@[simp] theorem capacityOk_offerFrame (s : State) (f : Frame) (h : CapacityOk s) : CapacityOk (State.offerFrame s f) := by
  generalize e : (State.offerFrame s f) = t
  unfold State.offerFrame at e
  (try dsimp only at e)
  (repeat' split at e) <;> subst e <;> (try simp only [refuse_state, accept_state]) <;> (simp (config := {maxDischargeDepth := 60}) [capacityOk_mk, h, (capacityOk_def s).symm.trans (eq_true h)])
@[simp] theorem capacityOk_fieldArrival (s : State) (chars : List Byte) (h : CapacityOk s) : CapacityOk (State.fieldArrival s chars) := by
  unfold State.fieldArrival
  dsimp only
  have h' : BoundsOk s.classifier.requests s.classifier.passQueue s.classifier.forwardQueue s.tickets.queue s.table.lots s.scale s.field.passStreak s.field.pollQueue s.feed.fillOrder := (capacityOk_def s) ▸ h
  split
  · split <;> simp (config := {maxDischargeDepth := 60}) [capacityOk_mk, h']
  · exact h
@[simp] theorem capacityOk_receptionStart (s : State) (h : CapacityOk s) : CapacityOk (State.receptionStart s) := by simpa [capacityOk_def] using h
@[simp] theorem capacityOk_windowExpiry (s : State) (h : CapacityOk s) : CapacityOk (State.windowExpiry s) := by
  generalize e : (State.windowExpiry s) = t
  unfold State.windowExpiry at e
  (try dsimp only at e)
  (repeat' split at e) <;> subst e <;> (try simp only [refuse_state, accept_state]) <;> (simp (config := {maxDischargeDepth := 60}) [capacityOk_mk, h, (capacityOk_def s).symm.trans (eq_true h)])
@[simp] theorem capacityOk_guardEnd (s : State) (h : CapacityOk s) : CapacityOk (State.guardEnd s) := by simpa [capacityOk_def] using h
@[simp] theorem capacityOk_transmitDone (s : State) (h : CapacityOk s) : CapacityOk (State.transmitDone s) := by simpa [capacityOk_def] using h
@[simp] theorem capacityOk_openTransaction (s : State) (kind : TransactionKind) (address : Byte) (node : Option NodeIdx) (frames : List Frame) (window : Nat) (h : CapacityOk s) : CapacityOk (State.openTransaction s kind address node frames window) := by simpa [capacityOk_def] using h
@[simp] theorem capacityOk_startCommand (s : State) (c : Command) (rest : List Command) (h : CapacityOk s) : CapacityOk (State.startCommand s c rest) := by simpa [capacityOk_def] using h
@[simp] theorem capacityOk_startBlock (s : State) (ticket : Nat) (h : CapacityOk s) : CapacityOk (State.startBlock s ticket) := by simpa [capacityOk_def] using h
@[simp] theorem capacityOk_startPass (s : State) (f : Frame) (rest : List Frame) (hr : rest.length ≤ 8) (h : CapacityOk s) : CapacityOk (State.startPass s f rest) := by
  have hs : (if s.field.pollQueue = [] then 0 else min Config.passStreakLimit (s.field.passStreak + 1)) ≤ 4 := by
    simp [Config.passStreakLimit]; split <;> omega
  unfold State.startPass
  dsimp only
  generalize (if s.field.pollQueue = [] then 0 else min Config.passStreakLimit (s.field.passStreak + 1)) = st at hs
  have key : CapacityOk { s with
    classifier := { s.classifier with passQueue := rest }
    field := { s.field with passStreak := st } } := by
    simp only [capacityOk_def] at *
    obtain ⟨a,b,c,d,e,f1,g,i,j,k⟩ := h
    constructor <;> simp_all
  split
  · exact capacityOk_openTransaction _ _ _ _ _ _ key
  · split <;> exact capacityOk_openTransaction _ _ _ _ _ _ key
@[simp] theorem capacityOk_startPoll (s : State) (i : NodeIdx) (rest : List NodeIdx) (hr : rest.Nodup) (h : CapacityOk s) : CapacityOk (State.startPoll s i rest) := by
  unfold State.startPoll
  apply capacityOk_openTransaction
  simp only [capacityOk_def] at *
  obtain ⟨a,b,c,d,e,f1,g,i,j,k⟩ := h
  constructor <;> simp_all
@[simp] theorem capacityOk_startSource (s : State) (c : FieldSource) (h : CapacityOk s) : CapacityOk (State.startSource s c) := by
  have hp : ∀ f fs, s.classifier.passQueue = f :: fs → fs.length ≤ 8 := by
    intro f fs e; have := ((capacityOk_def s) ▸ h).passQueue; rw [e] at this; simp at this; omega
  have hq : ∀ f fs, s.field.pollQueue = f :: fs → fs.Nodup := by
    intro f fs e; have := ((capacityOk_def s) ▸ h).pollQueue; rw [e] at this; simp at this; exact this.2
  unfold State.startSource
  repeat' split
  all_goals first
    | exact h
    | exact capacityOk_startCommand _ _ _ h
    | exact capacityOk_startBlock _ _ h
    | (apply capacityOk_startPass _ _ _ _ h; apply hp; assumption)
    | (apply capacityOk_startPoll _ _ _ _ h; apply hq; assumption)
@[simp] theorem capacityOk_startTransaction (s : State) (h : CapacityOk s) : CapacityOk (State.startTransaction s) := by
  generalize e : (State.startTransaction s) = t
  unfold State.startTransaction at e
  (try dsimp only at e)
  (repeat' split at e) <;> subst e <;> (try simp only [refuse_state, accept_state]) <;> (simp (config := {maxDischargeDepth := 60}) [capacityOk_mk, h, (capacityOk_def s).symm.trans (eq_true h)])
@[simp] theorem capacityOk_choosing (s : State) (c : Option FieldSource) (h : CapacityOk s) : CapacityOk (s.choosing c) := by simpa [capacityOk_def] using h
@[simp] theorem capacityOk_scheduleNode (c : CadenceId) (s : State) (i : NodeIdx) (h : CapacityOk s) : CapacityOk (State.scheduleNode c s i) := by
  unfold State.scheduleNode
  dsimp only
  repeat' split
  · exact capacityOk_placeCommand _ _ _ h
  · exact capacityOk_raise _ _ _ _ h
  · rename_i hc
    simp at hc
    simp only [capacityOk_def] at *
    obtain ⟨a,b,c,d,e,f1,g,i,j,k⟩ := h
    constructor <;> simp_all [List.nodup_append]
    intro a ha hh; subst hh; exact hc ha
  · exact h
@[simp] theorem capacityOk_updCadence (s : State) (c : CadenceId) (f : Cadence → Cadence) (h : CapacityOk s) : CapacityOk (State.updCadence s c f) := by simpa [capacityOk_def] using h
@[simp] theorem capacityOk_cadenceExpiry (s : State) (c : CadenceId) (h : CapacityOk s) : CapacityOk (State.cadenceExpiry s c) := by
  have fold : ∀ (is : List NodeIdx) (s : State), CapacityOk s → CapacityOk (is.foldl (State.scheduleNode c) s) := by
    intro is
    induction is with
    | nil => intro s h; simpa
    | cons i is ih => intro s h; exact ih _ (capacityOk_scheduleNode c s i h)
  unfold State.cadenceExpiry
  split
  · exact fold _ _ (capacityOk_updCadence _ _ _ h)
  · exact h
@[simp] theorem capacityOk_restartField (s : State) (h : CapacityOk s) : CapacityOk (State.restartField s) := by
  unfold State.restartField
  dsimp only
  split
  · apply capacityOk_printScan
    simp only [capacityOk_def] at *
    obtain ⟨a,b,c,d,e,f1,g,i,j,k⟩ := h
    constructor <;> simp_all
  · simp only [capacityOk_def] at *
    obtain ⟨a,b,c,d,e,f1,g,i,j,k⟩ := h
    constructor <;> simp_all
@[simp] theorem capacityOk_printerWritten (s : State) (before after : Option Role) (h : CapacityOk s) : CapacityOk (State.printerWritten s before after) := by
  generalize e : (State.printerWritten s before after) = t
  unfold State.printerWritten at e
  (try dsimp only at e)
  (repeat' split at e) <;> subst e <;> (try simp only [refuse_state, accept_state]) <;> (simp (config := {maxDischargeDepth := 60}) [capacityOk_mk, h, (capacityOk_def s).symm.trans (eq_true h)])
@[simp] theorem capacityOk_writeNode (s : State) (i : NodeIdx) (g : NodeImage) (h : CapacityOk s) : CapacityOk (State.writeNode s i g) := by
  unfold State.writeNode
  dsimp only
  apply capacityOk_printerWritten
  simp only [capacityOk_def] at *
  obtain ⟨a,b,c,d,e,f1,g,i,j,k⟩ := h
  constructor <;> simp_all [FieldMaster.afterWrite]
  split
  · exact j
  · exact j.filter _
@[simp] theorem capacityOk_performNodeWrite (index : Byte) (image : List Byte) (s : State) (h : CapacityOk s) : CapacityOk (performNodeWrite index image s).state := by
  generalize e : (performNodeWrite index image s) = t
  unfold performNodeWrite at e
  (try dsimp only at e)
  (repeat' split at e) <;> subst e <;> (try simp only [refuse_state, accept_state]) <;> (simp (config := {maxDischargeDepth := 60}) [capacityOk_mk, h, (capacityOk_def s).symm.trans (eq_true h)])
@[simp] theorem capacityOk_performRouteWrite (index : Byte) (image : List Byte) (s : State) (h : CapacityOk s) : CapacityOk (performRouteWrite index image s).state := by simpa [capacityOk_def] using h
@[simp] theorem capacityOk_performCadenceWrite (index : Byte) (image : List Byte) (s : State) (h : CapacityOk s) : CapacityOk (performCadenceWrite index image s).state := by simpa [capacityOk_def] using h
@[simp] theorem capacityOk_setKilnEntry (s : State) (k : Kiln) (e : KilnEntry) (h : CapacityOk s) : CapacityOk (State.setKilnEntry s k e) := by simpa [capacityOk_def] using h
@[simp] theorem capacityOk_performKilnWrite (index : Byte) (image : List Byte) (s : State) (h : CapacityOk s) : CapacityOk (performKilnWrite index image s).state := by
  generalize e : (performKilnWrite index image s) = t
  unfold performKilnWrite at e
  (try dsimp only at e)
  (repeat' split at e) <;> subst e <;> (try simp only [refuse_state, accept_state]) <;> (simp (config := {maxDischargeDepth := 60}) [capacityOk_mk, h, (capacityOk_def s).symm.trans (eq_true h)])
@[simp] theorem capacityOk_performScheduleWrite (index : Byte) (image : List Byte) (s : State) (h : CapacityOk s) : CapacityOk (performScheduleWrite index image s).state := by simpa [capacityOk_def] using h
@[simp] theorem capacityOk_performStepWrite (index : Byte) (image : List Byte) (s : State) (h : CapacityOk s) : CapacityOk (performStepWrite index image s).state := by simpa [capacityOk_def] using h
@[simp] theorem capacityOk_performVarietyWrite (index : Byte) (image : List Byte) (s : State) (h : CapacityOk s) : CapacityOk (performVarietyWrite index image s).state := by simpa [capacityOk_def] using h
@[simp] theorem capacityOk_performTareWrite (index : Byte) (image : List Byte) (s : State) (h : CapacityOk s) : CapacityOk (performTareWrite index image s).state := by simpa [capacityOk_def] using h
@[simp] theorem capacityOk_performScaleSetupWrite (index : Byte) (image : List Byte) (s : State) (h : CapacityOk s) : CapacityOk (performScaleSetupWrite index image s).state := by
  unfold performScaleSetupWrite
  split
  · dsimp only
    repeat' split
    all_goals (try exact h)
    simp only [accept_state]
    exact capacityOk_updScaleOf _ _ h (scaleBoundsOk_withSetup _ _)
  · exact h
@[simp] theorem capacityOk_performStationWrite (index : Byte) (image : List Byte) (s : State) (h : CapacityOk s) : CapacityOk (performStationWrite index image s).state := by simpa [capacityOk_def] using h
@[simp] theorem capacityOk_performTableRead (table index part : Byte) (s : State) (h : CapacityOk s) : CapacityOk (performTableRead table index part s).state := by simpa [capacityOk_def] using h
@[simp] theorem capacityOk_performTableWrite (table index : Byte) (image : List Byte) (s : State) (h : CapacityOk s) : CapacityOk (performTableWrite table index image s).state := by
  generalize e : (performTableWrite table index image s) = t
  unfold performTableWrite at e
  (try dsimp only at e)
  (repeat' split at e) <;> subst e <;> (try simp only [refuse_state, accept_state]) <;> (simp (config := {maxDischargeDepth := 60}) [capacityOk_mk, h, (capacityOk_def s).symm.trans (eq_true h)])
@[simp] theorem capacityOk_performLotOpen (lot grower : Word16) (variety : Byte) (s : State) (h : CapacityOk s) : CapacityOk (performLotOpen lot grower variety s).state := by
  unfold performLotOpen
  split
  · exact h
  · split
    · exact h
    · split
      · exact h
      · split
        · exact h
        · split
          · exact h
          · rename_i hl
            simp only [capacityOk_def] at *
            obtain ⟨a,b,c,d,e,f1,g,i,j,k⟩ := h
            simp [Config.lotCapacity] at hl
            constructor <;> simp_all [insertLot_length]

@[simp] theorem capacityOk_performLotRead (lot : Word16) (item : Byte) (s : State) (h : CapacityOk s) : CapacityOk (performLotRead lot item s).state := by simpa [capacityOk_def] using h
@[simp] theorem capacityOk_performLotVoid (lot : Word16) (s : State) (h : CapacityOk s) : CapacityOk (performLotVoid lot s).state := by
  generalize e : (performLotVoid lot s) = t
  unfold performLotVoid at e
  (try dsimp only at e)
  (repeat' split at e) <;> subst e <;> (try simp only [refuse_state, accept_state]) <;> (simp (config := {maxDischargeDepth := 60}) [capacityOk_mk, h, (capacityOk_def s).symm.trans (eq_true h)])
@[simp] theorem capacityOk_performLotClose (lot : Word16) (s : State) (h : CapacityOk s) : CapacityOk (performLotClose lot s).state := by
  generalize e : (performLotClose lot s) = t
  unfold performLotClose at e
  (try dsimp only at e)
  (repeat' split at e) <;> subst e <;> (try simp only [refuse_state, accept_state]) <;> (simp (config := {maxDischargeDepth := 60}) [capacityOk_mk, h, (capacityOk_def s).symm.trans (eq_true h)])
@[simp] theorem capacityOk_clearCounts (s : State) (h : CapacityOk s) : CapacityOk (State.clearCounts s) := by simpa [capacityOk_def] using h
@[simp] theorem capacityOk_performStatus (clear page : Byte) (s : State) (h : CapacityOk s) : CapacityOk (performStatus clear page s).state := by simpa [capacityOk_def] using h
@[simp] theorem capacityOk_performTimeSet (time : Word32) (s : State) (h : CapacityOk s) : CapacityOk (performTimeSet time s).state := by simpa [capacityOk_def] using h
@[simp] theorem capacityOk_secondPassed (s : State) (h : CapacityOk s) : CapacityOk (State.secondPassed s) := by simpa [capacityOk_def] using h
@[simp] theorem capacityOk_restartStation (s : State) (h : CapacityOk s) : CapacityOk (State.restartStation s) := by
  unfold State.restartStation
  simp only [capacityOk_def, Classifier.stationRestarted, Tickets.stationRestarted] at *
  obtain ⟨a,b,c,d,e,f1,g,i,j,k⟩ := h
  constructor <;> simp_all
@[simp] theorem capacityOk_performRestart (scope : Byte) (s : State) (h : CapacityOk s) : CapacityOk (performRestart scope s).state := by
  generalize e : (performRestart scope s) = t
  unfold performRestart at e
  (try dsimp only at e)
  (repeat' split at e) <;> subst e <;> (try simp only [refuse_state, accept_state]) <;> (simp (config := {maxDischargeDepth := 60}) [capacityOk_mk, h, (capacityOk_def s).symm.trans (eq_true h)])
@[simp] theorem capacityOk_performRequest (r : Request) (s : State) (h : CapacityOk s) : CapacityOk (performRequest r s).state := by
  generalize e : (performRequest r s) = t
  unfold performRequest at e
  (try dsimp only at e)
  (repeat' split at e) <;> subst e <;> (try simp only [refuse_state, accept_state]) <;> (simp (config := {maxDischargeDepth := 60}) [capacityOk_mk, h, (capacityOk_def s).symm.trans (eq_true h)])
@[simp] theorem capacityOk_setReply (s : State) (payload : List Byte) (h : CapacityOk s) : CapacityOk (State.setReply s payload) := by simpa [capacityOk_def] using h
@[simp] theorem capacityOk_performPayload (payload : List Byte) (s : State) (h : CapacityOk s) : CapacityOk (performPayload payload s).2.2.state := by
  unfold performPayload
  repeat' split
  all_goals simp [h]
@[simp] theorem capacityOk_executeFrame (s : State) (f : Frame) (h : CapacityOk s) : CapacityOk (State.executeFrame s f) := by
  generalize e : (State.executeFrame s f) = t
  unfold State.executeFrame at e
  (try dsimp only at e)
  (repeat' split at e) <;> subst e <;> (try simp only [refuse_state, accept_state]) <;> (simp (config := {maxDischargeDepth := 60}) [capacityOk_mk, h, (capacityOk_def s).symm.trans (eq_true h)])
@[simp] theorem capacityOk_executeHead (s : State) (h : CapacityOk s) : CapacityOk (State.executeHead s) := by
  generalize e : (State.executeHead s) = t
  unfold State.executeHead at e
  (try dsimp only at e)
  (repeat' split at e) <;> subst e <;> (try simp only [refuse_state, accept_state]) <;> (simp (config := {maxDischargeDepth := 60}) [capacityOk_mk, h, (capacityOk_def s).symm.trans (eq_true h)])
@[simp] theorem capacityOk_admitRequest (s : State) (f : Frame) (h : CapacityOk s) : CapacityOk (State.admitRequest s f) := by
  unfold State.admitRequest
  split
  · simpa [capacityOk_def] using h
  · rename_i hc
    simp [Config.requestCapacity] at hc
    have key : CapacityOk { s with classifier := { s.classifier with requests := s.classifier.requests ++ [f] } } := by
      simp only [capacityOk_def] at *
      obtain ⟨a,b,c,d,e,f1,g,i,j,k⟩ := h
      constructor <;> simp_all <;> omega
    dsimp only
    split
    · exact capacityOk_executeHead _ key
    · exact key
@[simp] theorem capacityOk_completeRequest (s : State) (h : CapacityOk s) : CapacityOk (State.completeRequest s) := by
  unfold State.completeRequest
  apply capacityOk_executeHead
  simp only [capacityOk_def] at *
  obtain ⟨a,b,c,d,e,f1,g,i,j,k⟩ := h
  constructor <;> simp_all <;> omega
@[simp] theorem capacityOk_submit (tag : Byte) (r : Request) (s : State) (h : CapacityOk s) : CapacityOk (State.submit tag r s) := by
  generalize e : (State.submit tag r s) = t
  unfold State.submit at e
  (try dsimp only at e)
  (repeat' split at e) <;> subst e <;> (try simp only [refuse_state, accept_state]) <;> (simp (config := {maxDischargeDepth := 60}) [capacityOk_mk, h, (capacityOk_def s).symm.trans (eq_true h)])
@[simp] theorem capacityOk_updLink (s : State) (f : Link → Link) (h : CapacityOk s) : CapacityOk (State.updLink s f) := by simpa [capacityOk_def] using h
@[simp] theorem capacityOk_validArrival (s : State) (h : CapacityOk s) : CapacityOk (State.validArrival s) := by simpa [capacityOk_def] using h
@[simp] theorem capacityOk_linkSilent (s : State) (h : CapacityOk s) : CapacityOk (State.linkSilent s) := by simpa [capacityOk_def] using h
@[simp] theorem capacityOk_offerPass (s : State) (f : Frame) (h : CapacityOk s) : CapacityOk (State.offerPass s f) := by
  unfold State.offerPass
  split
  · exact capacityOk_raise _ _ _ _ h
  · split
    · rename_i hc
      simp [Config.passCapacity] at hc
      simp only [capacityOk_def] at *
      obtain ⟨a,b,c,d,e,f1,g,i,j,k⟩ := h
      constructor <;> simp_all <;> omega
    · exact capacityOk_raise _ _ _ _ h
@[simp] theorem capacityOk_classifyUpstream (s : State) (f : Frame) (h : CapacityOk s) : CapacityOk (State.classifyUpstream s f) := by
  generalize e : (State.classifyUpstream s f) = t
  unfold State.classifyUpstream at e
  (try dsimp only at e)
  (repeat' split at e) <;> subst e <;> (try simp only [refuse_state, accept_state]) <;> (simp (config := {maxDischargeDepth := 60}) [capacityOk_mk, h, (capacityOk_def s).symm.trans (eq_true h)])
@[simp] theorem capacityOk_upstreamArrival (s : State) (chars : List Byte) (h : CapacityOk s) : CapacityOk (State.upstreamArrival s chars) := by
  generalize e : (State.upstreamArrival s chars) = t
  unfold State.upstreamArrival at e
  (try dsimp only at e)
  (repeat' split at e) <;> subst e <;> (try simp only [refuse_state, accept_state]) <;> (simp (config := {maxDischargeDepth := 60}) [capacityOk_mk, h, (capacityOk_def s).symm.trans (eq_true h)])
@[simp] theorem capacityOk_idleGap (s : State) (port : Port) (h : CapacityOk s) : CapacityOk (State.idleGap s port) := by simpa [capacityOk_def] using h
@[simp] theorem capacityOk_startUpstream (s : State) (t : UpTransmit) (h : CapacityOk s) : CapacityOk (State.startUpstream s t) := by
  unfold State.startUpstream
  dsimp only
  split <;> simp_all [capacityOk_def]
  obtain ⟨a,b,c,d,e,f1,g,i,j,k⟩ := h
  constructor <;> simp_all <;> omega
@[simp] theorem capacityOk_upstreamTransmit (s : State) (h : CapacityOk s) : CapacityOk (State.upstreamTransmit s) := by
  generalize e : (State.upstreamTransmit s) = t
  unfold State.upstreamTransmit at e
  (try dsimp only at e)
  (repeat' split at e) <;> subst e <;> (try simp only [refuse_state, accept_state]) <;> (simp (config := {maxDischargeDepth := 60}) [capacityOk_mk, h, (capacityOk_def s).symm.trans (eq_true h)])
@[simp] theorem capacityOk_replySent (s : State) (h : CapacityOk s) : CapacityOk (State.replySent s) := by
  generalize e : (State.replySent s) = t
  unfold State.replySent at e
  (try dsimp only at e)
  (repeat' split at e) <;> subst e <;> (try simp only [refuse_state, accept_state]) <;> (simp (config := {maxDischargeDepth := 60}) [capacityOk_mk, h, (capacityOk_def s).symm.trans (eq_true h)])
@[simp] theorem capacityOk_segmentSent (s : State) (h : CapacityOk s) : CapacityOk (State.segmentSent s) := by
  generalize e : (State.segmentSent s) = t
  unfold State.segmentSent at e
  (try dsimp only at e)
  (repeat' split at e) <;> subst e <;> (try simp only [refuse_state, accept_state]) <;> (simp (config := {maxDischargeDepth := 60}) [capacityOk_mk, h, (capacityOk_def s).symm.trans (eq_true h)])
@[simp] theorem capacityOk_upstreamFrameSent (s : State) (h : CapacityOk s) : CapacityOk (State.upstreamFrameSent s) := by
  generalize e : (State.upstreamFrameSent s) = t
  unfold State.upstreamFrameSent at e
  (try dsimp only at e)
  (repeat' split at e) <;> subst e <;> (try simp only [refuse_state, accept_state]) <;> (simp (config := {maxDischargeDepth := 60}) [capacityOk_mk, h, (capacityOk_def s).symm.trans (eq_true h)])
theorem capacityOk_pend (s : State) (p) (h : CapacityOk s) : CapacityOk { s with pending := p } := by rw [capacityOk_mk]; rw [capacityOk_def] at h; exact h
theorem capacityOk_started (s : State) (a b c) : CapacityOk (s.started a b c) := by
  unfold State.started; rw [capacityOk_mk]; constructor <;> simp [State.reset]
theorem capacityOk_inactive (s : State) (p) : CapacityOk (s.inactive p) := by
  unfold State.inactive; rw [capacityOk_mk]; constructor <;> simp [State.reset]
theorem capacityOk_powerOn (s : State) (a b c) (h : CapacityOk s) : CapacityOk (s.powerOn a b c) := by
  unfold State.powerOn; split
  · exact capacityOk_inactive _ _
  · exact capacityOk_started _ _ _ _
theorem capacityOk_resetRelease (s : State) (a b c) (h : CapacityOk s) : CapacityOk (s.resetRelease a b c) := by
  unfold State.resetRelease; split
  · exact capacityOk_started _ _ _ _
  · rw [capacityOk_mk]; rw [capacityOk_def] at h; exact h
theorem capacityOk_powerFail (s : State) (h : CapacityOk s) : CapacityOk s.powerFail := capacityOk_inactive _ _
theorem capacityOk_resetAssert (s : State) (h : CapacityOk s) : CapacityOk s.resetAssert := by
  unfold State.resetAssert; rw [capacityOk_mk]; rw [capacityOk_def] at h; obtain ⟨a,b,c,d,e,f1,g,i,j,k⟩ := h; exact ⟨a,b,c,d,e,f1,g,i,j,k⟩
theorem capacityOk_ticked (s : State) (h : CapacityOk s) : CapacityOk s.ticked := by
  unfold State.ticked; rw [capacityOk_mk]; rw [capacityOk_def] at h; obtain ⟨a,b,c,d,e,f1,g,i,j,k⟩ := h; exact ⟨a,b,c,d,e,f1,g,i,j,k⟩


end Sys2Proof.Laws.Capacity
end

