-- ==== Sys2Proof/Laws/KeptCommands.lean ====
section
/-! SUPPORT. Every operation keeps STORE, the press command and the picker command as their reason sets call for (R59, R135, R136). -/

namespace Sys2Proof.Laws.Commands

set_option linter.all false
set_option maxHeartbeats 1000000

open Sys2Proof Sys2Proof.Machine

/-- STORE is held exactly while the free count is at or below the threshold (R135). -/
def StoreIs (st : Bool) (n : Nat) (th : Nat) : Prop := st = decide (256 - n ≤ th)
/-- The same of a state. -/
@[irreducible] def StoreFollows (s : State) : Prop := StoreIs s.press.hold.store s.press.bales.length s.mgmt.station.threshold
theorem storeFollows_def (s : State) : StoreFollows s = StoreIs s.press.hold.store s.press.bales.length s.mgmt.station.threshold := by unfold StoreFollows; rfl
theorem storeFollows_mk (a b c d e f g h i j k l) : StoreFollows (State.mk a b c d e f g h i j k l) = StoreIs j.hold.store j.bales.length l.station.threshold := by unfold StoreFollows; rfl
/-- The press command by the Press Queue and the press-hold reason set (R136). -/
def PressIs (c : Option RunHold) (q : List Kiln) (h : PressHoldSet) : Prop := c = if q = [] then none else if h.isEmpty then some .run else some .hold
/-- The same of a state. -/
@[irreducible] def PressFollows (s : State) : Prop := PressIs s.press.command s.press.queue s.press.hold
theorem pressFollows_def (s : State) : PressFollows s = PressIs s.press.command s.press.queue s.press.hold := by unfold PressFollows; rfl
theorem pressFollows_mk (a b c d e f g h i j k l) : PressFollows (State.mk a b c d e f g h i j k l) = PressIs j.command j.queue j.hold := by unfold PressFollows; rfl
theorem pressFollows_iff (s : State) : PressFollows s ↔ s.press.command = s.pressWanted := by unfold PressFollows; rfl
@[simp] theorem judgePress_command (s : State) : s.judgePress.press.command = s.pressWanted := by
  unfold State.judgePress
  split
  · assumption
  · dsimp only; split <;> simp_all
theorem pressFollows_judgePress' (s : State) : PressFollows s.judgePress := by
  rw [pressFollows_iff, judgePress_command]; simp [State.pressWanted]
theorem pressFollows_judgeStore' (s : State) : PressFollows s.judgeStore := by unfold State.judgeStore; exact pressFollows_judgePress' _
theorem storeFollows_judgeStore' (s : State) : StoreFollows s.judgeStore := by
  unfold State.judgeStore
  dsimp only
  split <;> simp [storeFollows_def, StoreIs, State.freeCount, Config.baleCapacity]
@[simp] theorem storeFollows_raiseOpt (s : State) (k : NoticeKind) (o : Nat) (v : Option Word32) (h : StoreFollows s) : StoreFollows (State.raiseOpt s k o v) := by simpa [storeFollows_def] using h
@[simp] theorem storeFollows_raise (s : State) (k : NoticeKind) (o : Nat) (v : Int) (h : StoreFollows s) : StoreFollows (State.raise s k o v) := by simpa [storeFollows_def] using h
@[simp] theorem storeFollows_updLot (s : State) (n : Nat) (f : Lot → Lot) (h : StoreFollows s) : StoreFollows (State.updLot s n f) := by simpa [storeFollows_def] using h
@[simp] theorem storeFollows_updCharge (s : State) (r : ChargeRef) (f : Charge → Charge) (h : StoreFollows s) : StoreFollows (State.updCharge s r f) := by simpa [storeFollows_def] using h
@[simp] theorem storeFollows_removeLot (s : State) (n : Nat) (h : StoreFollows s) : StoreFollows (State.removeLot s n) := by simpa [storeFollows_def] using h
@[simp] theorem storeFollows_setNode (s : State) (i : NodeIdx) (n : Node) (h : StoreFollows s) : StoreFollows (State.setNode s i n) := by simpa [storeFollows_def] using h
@[simp] theorem storeFollows_placeCommand (s : State) (i : NodeIdx) (c : Commanded) (h : StoreFollows s) : StoreFollows (State.placeCommand s i c) := by simpa [storeFollows_def] using h
@[simp] theorem storeFollows_writeCommanded (s : State) (i : Option NodeIdx) (c : Commanded) (h : StoreFollows s) : StoreFollows (State.writeCommanded s i c) := by simpa [storeFollows_def] using h
@[simp] theorem storeFollows_clearCommanded (s : State) (i : Option NodeIdx) (h : StoreFollows s) : StoreFollows (State.clearCommanded s i) := by simpa [storeFollows_def] using h
@[simp] theorem storeFollows_updKiln (s : State) (k : Kiln) (f : KilnRun → KilnRun) (h : StoreFollows s) : StoreFollows (State.updKiln s k f) := by simpa [storeFollows_def] using h
@[simp] theorem storeFollows_updKilnCharge (s : State) (k : Kiln) (f : Charge → Charge) (h : StoreFollows s) : StoreFollows (State.updKilnCharge s k f) := by simpa [storeFollows_def] using h
@[simp] theorem storeFollows_updBale (s : State) (n : Nat) (f : Bale → Bale) (h : StoreFollows s) : StoreFollows (State.updBale s n f) := by simp only [storeFollows_def] at *; simpa using h
@[simp] theorem storeFollows_judgePress (s : State) (h : StoreFollows s) : StoreFollows (State.judgePress s) := by simpa [storeFollows_def] using h
@[simp] theorem storeFollows_judgeStore (s : State) (h : StoreFollows s) : StoreFollows (State.judgeStore s) := storeFollows_judgeStore' s
@[simp] theorem storeFollows_becomeHead (s : State) (k : Kiln) (h : StoreFollows s) : StoreFollows (State.becomeHead s k) := by simpa [storeFollows_def] using h
@[simp] theorem storeFollows_joinPressQueue (s : State) (k : Kiln) (h : StoreFollows s) : StoreFollows (State.joinPressQueue s k) := by simpa [storeFollows_def] using h
@[simp] theorem storeFollows_writeBurner (s : State) (k : Kiln) (h : StoreFollows s) : StoreFollows (State.writeBurner s k) := by simpa [storeFollows_def] using h
@[simp] theorem storeFollows_kilnDried (s : State) (k : Kiln) (h : StoreFollows s) : StoreFollows (State.kilnDried s k) := by simpa [storeFollows_def] using h
@[simp] theorem storeFollows_enterStep (s : State) (k : Kiln) (h : StoreFollows s) : StoreFollows (State.enterStep s k) := by simpa [storeFollows_def] using h
@[simp] theorem storeFollows_nextStep (s : State) (k : Kiln) (h : StoreFollows s) : StoreFollows (State.nextStep s k) := by simpa [storeFollows_def] using h
@[simp] theorem storeFollows_holdKiln (s : State) (k : Kiln) (reason : HoldReason) (h : StoreFollows s) : StoreFollows (State.holdKiln s k reason) := by simpa [storeFollows_def] using h
@[simp] theorem storeFollows_kilnAir (s : State) (k : Kiln) (value : Int) (h : StoreFollows s) : StoreFollows (State.kilnAir s k value) := by simpa [storeFollows_def] using h
@[simp] theorem storeFollows_kilnExhaust (s : State) (k : Kiln) (value : Int) (h : StoreFollows s) : StoreFollows (State.kilnExhaust s k value) := by simpa [storeFollows_def] using h
@[simp] theorem storeFollows_startRun (s : State) (k : Kiln) (d : Fin 8) (h : StoreFollows s) : StoreFollows (State.startRun s k d) := by simpa [storeFollows_def] using h
@[simp] theorem storeFollows_autoStart (s : State) (k : Kiln) (h : StoreFollows s) : StoreFollows (State.autoStart s k) := by simpa [storeFollows_def] using h
@[simp] theorem storeFollows_kilnLoaded (s : State) (k : Kiln) (h : StoreFollows s) : StoreFollows (State.kilnLoaded s k) := by simpa [storeFollows_def] using h
@[simp] theorem storeFollows_kilnEmptied (s : State) (k : Kiln) (h : StoreFollows s) : StoreFollows (State.kilnEmptied s k) := by simpa [storeFollows_def] using h
@[simp] theorem storeFollows_stepEnd (s : State) (k : Kiln) (h : StoreFollows s) : StoreFollows (State.stepEnd s k) := by simpa [storeFollows_def] using h
@[simp] theorem storeFollows_rampMinute (s : State) (k : Kiln) (h : StoreFollows s) : StoreFollows (State.rampMinute s k) := by simpa [storeFollows_def] using h
@[simp] theorem storeFollows_dryToOvertime (s : State) (k : Kiln) (h : StoreFollows s) : StoreFollows (State.dryToOvertime s k) := by simpa [storeFollows_def] using h
@[simp] theorem storeFollows_abortCoolingEnd (s : State) (k : Kiln) (h : StoreFollows s) : StoreFollows (State.abortCoolingEnd s k) := by simpa [storeFollows_def] using h
@[simp] theorem storeFollows_refreshExpiry (s : State) (k : Kiln) (h : StoreFollows s) : StoreFollows (State.refreshExpiry s k) := by simpa [storeFollows_def] using h
@[simp] theorem storeFollows_performKilnStart (kiln : Byte) (s : State) (h : StoreFollows s) : StoreFollows (performKilnStart kiln s).state := by simpa [storeFollows_def] using h
@[simp] theorem storeFollows_performKilnHold (kiln : Byte) (s : State) (h : StoreFollows s) : StoreFollows (performKilnHold kiln s).state := by simpa [storeFollows_def] using h
@[simp] theorem storeFollows_resume (s : State) (k : Kiln) (m : ResumeMode) (h : StoreFollows s) : StoreFollows (State.resume s k m) := by simpa [storeFollows_def] using h
@[simp] theorem storeFollows_performKilnResume (kiln mode : Byte) (s : State) (h : StoreFollows s) : StoreFollows (performKilnResume kiln mode s).state := by simpa [storeFollows_def] using h
@[simp] theorem storeFollows_abort (s : State) (k : Kiln) (h : StoreFollows s) : StoreFollows (State.abort s k) := by simpa [storeFollows_def] using h
@[simp] theorem storeFollows_performKilnAbort (kiln : Byte) (s : State) (h : StoreFollows s) : StoreFollows (performKilnAbort kiln s).state := by simpa [storeFollows_def] using h
@[simp] theorem storeFollows_performKilnRead (kiln : Byte) (s : State) (h : StoreFollows s) : StoreFollows (performKilnRead kiln s).state := by simpa [storeFollows_def] using h
@[simp] theorem storeFollows_setPrint (s : State) (n : Nat) (p : PrintState) (h : StoreFollows s) : StoreFollows (State.setPrint s n p) := by simpa [storeFollows_def] using h
@[simp] theorem storeFollows_setProcess (s : State) (p : PrintProcess) (h : StoreFollows s) : StoreFollows (State.setProcess s p) := by simpa [storeFollows_def] using h
@[simp] theorem storeFollows_printScan (s : State) (h : StoreFollows s) : StoreFollows (State.printScan s) := by simpa [storeFollows_def] using h
@[simp] theorem storeFollows_promptPrint (s : State) (h : StoreFollows s) : StoreFollows (State.promptPrint s) := by simpa [storeFollows_def] using h
@[simp] theorem storeFollows_testComposition (s : State) (r : ChargeRef) (h : StoreFollows s) : StoreFollows (State.testComposition s r) := by simpa [storeFollows_def] using h
@[simp] theorem storeFollows_issueTicket (s : State) (r : ChargeRef) (t : Ticket) (h : StoreFollows s) : StoreFollows (State.issueTicket s r t) := by
  unfold State.issueTicket
  dsimp only
  apply storeFollows_promptPrint; apply storeFollows_raise; apply storeFollows_updCharge; apply storeFollows_updLot
  simp only [storeFollows_mk]; simp only [storeFollows_def] at h; simpa using h
@[simp] theorem storeFollows_compose (s : State) (r : ChargeRef) (h : StoreFollows s) : StoreFollows (State.compose s r) := by
  generalize e : (State.compose s r) = t
  unfold State.compose at e
  (try dsimp only at e)
  (repeat' split at e) <;> subst e <;> (try simp only [refuse_state, accept_state]) <;> (simp (config := {maxDischargeDepth := 60}) [storeFollows_mk, h, (storeFollows_def s).symm.trans (eq_true h)])
@[simp] theorem storeFollows_serveFuel (n : Nat) (s : State) (h : StoreFollows s) : StoreFollows (State.serveFuel n s) := by
  induction n generalizing s with
  | zero => simpa [State.serveFuel]
  | succ n ih =>
    unfold State.serveFuel
    split
    · exact h
    · split
      · apply ih; apply storeFollows_compose
        simpa [storeFollows_def] using h
      · exact h
@[simp] theorem storeFollows_serve (s : State) (h : StoreFollows s) : StoreFollows (State.serve s) := by
  generalize e : (State.serve s) = t
  unfold State.serve at e
  (try dsimp only at e)
  (repeat' split at e) <;> subst e <;> (try simp only [refuse_state, accept_state]) <;> (simp (config := {maxDischargeDepth := 60}) [storeFollows_mk, h, (storeFollows_def s).symm.trans (eq_true h)])
@[simp] theorem storeFollows_offerCharge (s : State) (r : ChargeRef) (h : StoreFollows s) : StoreFollows (State.offerCharge s r) := by
  generalize e : (State.offerCharge s r) = t
  unfold State.offerCharge at e
  (try dsimp only at e)
  (repeat' split at e) <;> subst e <;> (try simp only [refuse_state, accept_state]) <;> (simp (config := {maxDischargeDepth := 60}) [storeFollows_mk, h, (storeFollows_def s).symm.trans (eq_true h)])
@[simp] theorem storeFollows_performTicketBase (nextTicket nextBale : Word32) (s : State) (h : StoreFollows s) : StoreFollows (performTicketBase nextTicket nextBale s).state := by simpa [storeFollows_def] using h
@[simp] theorem storeFollows_performTicketRead (ticket : Word32) (s : State) (h : StoreFollows s) : StoreFollows (performTicketRead ticket s).state := by simpa [storeFollows_def] using h
@[simp] theorem storeFollows_takeTicket (s : State) (t : Ticket) (h : StoreFollows s) : StoreFollows (State.takeTicket s t) := by
  unfold State.takeTicket
  dsimp only
  apply storeFollows_serve; exact storeFollows_judgeStore' _
@[simp] theorem storeFollows_performTicketTake (ticket : Word32) (s : State) (h : StoreFollows s) : StoreFollows (performTicketTake ticket s).state := by
  generalize e : (performTicketTake ticket s) = t
  unfold performTicketTake at e
  (try dsimp only at e)
  (repeat' split at e) <;> subst e <;> (try simp only [refuse_state, accept_state]) <;> (simp (config := {maxDischargeDepth := 60}) [storeFollows_mk, h, (storeFollows_def s).symm.trans (eq_true h)])
@[simp] theorem storeFollows_performTicketReprint (ticket : Word32) (s : State) (h : StoreFollows s) : StoreFollows (performTicketReprint ticket s).state := by simpa [storeFollows_def] using h
@[simp] theorem storeFollows_updFeed (s : State) (f : Feed → Feed) (h : StoreFollows s) : StoreFollows (State.updFeed s f) := by simpa [storeFollows_def] using h
@[simp] theorem storeFollows_updHold (s : State) (f : FeedHold → FeedHold) (h : StoreFollows s) : StoreFollows (State.updHold s f) := by simpa [storeFollows_def] using h
@[simp] theorem storeFollows_raiseFeedHeld (s : State) (reason : Nat) (h : StoreFollows s) : StoreFollows (State.raiseFeedHeld s reason) := by simpa [storeFollows_def] using h
@[simp] theorem storeFollows_judgeHeld (s : State) (before : FeedHold) (h : StoreFollows s) : StoreFollows (State.judgeHeld s before) := by simpa [storeFollows_def] using h
@[simp] theorem storeFollows_judgePicker (s : State) (h : StoreFollows s) : StoreFollows (State.judgePicker s) := by simpa [storeFollows_def] using h
@[simp] theorem storeFollows_feedEvent (f : State → State) (s : State) (h : StoreFollows (f s)) : StoreFollows (feedEvent f s) := by
  simp [feedEvent, h]
@[simp] theorem storeFollows_startDivertWatch (s : State) (h : StoreFollows s) : StoreFollows (State.startDivertWatch s) := by simpa [storeFollows_def] using h
@[simp] theorem storeFollows_takeKiln (s : State) (b : Nat) (k : Kiln) (h : StoreFollows s) : StoreFollows (State.takeKiln s b k) := by simpa [storeFollows_def] using h
@[simp] theorem storeFollows_hitChargeLimit (s : State) (b : Nat) (k : Kiln) (h : StoreFollows s) : StoreFollows (State.hitChargeLimit s b k) := by simpa [storeFollows_def] using h
@[simp] theorem storeFollows_selectKiln (s : State) (b : Nat) (h : StoreFollows s) : StoreFollows (State.selectKiln s b) := by simpa [storeFollows_def] using h
@[simp] theorem storeFollows_attemptSelection (s : State) (h : StoreFollows s) : StoreFollows (State.attemptSelection s) := by simpa [storeFollows_def] using h
@[simp] theorem storeFollows_closeCharge (s : State) (k : Kiln) (h : StoreFollows s) : StoreFollows (State.closeCharge s k) := by simpa [storeFollows_def] using h
@[simp] theorem storeFollows_closeFill (s : State) (k : Kiln) (h : StoreFollows s) : StoreFollows (State.closeFill s k) := by simpa [storeFollows_def] using h
@[simp] theorem storeFollows_closeAndSelect (s : State) (k : Kiln) (h : StoreFollows s) : StoreFollows (State.closeAndSelect s k) := by simpa [storeFollows_def] using h
@[simp] theorem storeFollows_finishOldLot (s : State) (h : StoreFollows s) : StoreFollows (State.finishOldLot s) := by simpa [storeFollows_def] using h
@[simp] theorem storeFollows_completeChangeover (s : State) (h : StoreFollows s) : StoreFollows (State.completeChangeover s) := by simpa [storeFollows_def] using h
@[simp] theorem storeFollows_changeoverExpiry (s : State) (h : StoreFollows s) : StoreFollows (State.changeoverExpiry s) := by simpa [storeFollows_def] using h
@[simp] theorem storeFollows_beltAnswered (s : State) (h : StoreFollows s) : StoreFollows (State.beltAnswered s) := by simpa [storeFollows_def] using h
@[simp] theorem storeFollows_divertWatchExpiry (s : State) (h : StoreFollows s) : StoreFollows (State.divertWatchExpiry s) := by simpa [storeFollows_def] using h
@[simp] theorem storeFollows_divertReport (s : State) (target : Option Kiln) (h : StoreFollows s) : StoreFollows (State.divertReport s target) := by simpa [storeFollows_def] using h
@[simp] theorem storeFollows_credit (s : State) (inc : Nat) (h : StoreFollows s) : StoreFollows (State.credit s inc) := by simpa [storeFollows_def] using h
@[simp] theorem storeFollows_green (s : State) (i : NodeIdx) (value : Word32) (h : StoreFollows s) : StoreFollows (State.green s i value) := by simpa [storeFollows_def] using h
@[simp] theorem storeFollows_feedLot (s : State) (new : Option Nat) (h : StoreFollows s) : StoreFollows (State.feedLot s new) := by simpa [storeFollows_def] using h
@[simp] theorem storeFollows_performLotFeed (lot : Word16) (s : State) (h : StoreFollows s) : StoreFollows (performLotFeed lot s).state := by simpa [storeFollows_def] using h
@[simp] theorem storeFollows_performFeedHold (flag : Byte) (s : State) (h : StoreFollows s) : StoreFollows (performFeedHold flag s).state := by simpa [storeFollows_def] using h
@[simp] theorem storeFollows_performFillOrder (count : Byte) (kilns : List Byte) (s : State) (h : StoreFollows s) : StoreFollows (performFillOrder count kilns s).state := by simpa [storeFollows_def] using h
@[simp] theorem storeFollows_performLoadClose (s : State) (h : StoreFollows s) : StoreFollows (performLoadClose s).state := by simpa [storeFollows_def] using h
@[simp] theorem storeFollows_fillBale (s : State) (b : Bale) (gross : Int) (h : StoreFollows s) : StoreFollows (State.fillBale s b gross) := by
  generalize e : (State.fillBale s b gross) = t
  unfold State.fillBale at e
  (try dsimp only at e)
  (repeat' split at e) <;> subst e <;> (try simp only [refuse_state, accept_state]) <;> (simp (config := {maxDischargeDepth := 60}) [storeFollows_mk, h, (storeFollows_def s).symm.trans (eq_true h)])
@[simp] theorem storeFollows_captured (s : State) (weight : Int) (h : StoreFollows s) : StoreFollows (State.captured s weight) := by
  generalize e : (State.captured s weight) = t
  unfold State.captured at e
  (try dsimp only at e)
  (repeat' split at e) <;> subst e <;> (try simp only [refuse_state, accept_state]) <;> (simp (config := {maxDischargeDepth := 60}) [storeFollows_mk, h, (storeFollows_def s).symm.trans (eq_true h)])
@[simp] theorem storeFollows_notCaptured (s : State) (h : StoreFollows s) : StoreFollows (State.notCaptured s) := by
  generalize e : (State.notCaptured s) = t
  unfold State.notCaptured at e
  (try dsimp only at e)
  (repeat' split at e) <;> subst e <;> (try simp only [refuse_state, accept_state]) <;> (simp (config := {maxDischargeDepth := 60}) [storeFollows_mk, h, (storeFollows_def s).symm.trans (eq_true h)])
@[simp] theorem storeFollows_updScale (s : State) (f : Scale → Scale) (h : StoreFollows s) : StoreFollows (State.updScale s f) := by simpa [storeFollows_def] using h
@[simp] theorem storeFollows_judgeBlock (s : State) (h : StoreFollows s) : StoreFollows (State.judgeBlock s) := by
  generalize e : (State.judgeBlock s) = t
  unfold State.judgeBlock at e
  (try dsimp only at e)
  (repeat' split at e) <;> subst e <;> (try simp only [refuse_state, accept_state]) <;> (simp (config := {maxDischargeDepth := 60}) [storeFollows_mk, h, (storeFollows_def s).symm.trans (eq_true h)])
@[simp] theorem storeFollows_enterFault (s : State) (cause : FaultCause) (h : StoreFollows s) : StoreFollows (State.enterFault s cause) := by
  generalize e : (State.enterFault s cause) = t
  unfold State.enterFault at e
  (try dsimp only at e)
  (repeat' split at e) <;> subst e <;> (try simp only [refuse_state, accept_state]) <;> (simp (config := {maxDischargeDepth := 60}) [storeFollows_mk, h, (storeFollows_def s).symm.trans (eq_true h)])
@[simp] theorem storeFollows_faultCause (s : State) (cause : FaultCause) (h : StoreFollows s) : StoreFollows (State.faultCause s cause) := by
  generalize e : (State.faultCause s cause) = t
  unfold State.faultCause at e
  (try dsimp only at e)
  (repeat' split at e) <;> subst e <;> (try simp only [refuse_state, accept_state]) <;> (simp (config := {maxDischargeDepth := 60}) [storeFollows_mk, h, (storeFollows_def s).symm.trans (eq_true h)])
@[simp] theorem storeFollows_takeReading (s : State) (r : Int) (h : StoreFollows s) : StoreFollows (State.takeReading s r) := by
  generalize e : (State.takeReading s r) = t
  unfold State.takeReading at e
  (try dsimp only at e)
  (repeat' split at e) <;> subst e <;> (try simp only [refuse_state, accept_state]) <;> (simp (config := {maxDischargeDepth := 60}) [storeFollows_mk, h, (storeFollows_def s).symm.trans (eq_true h)])
@[simp] theorem storeFollows_takeSample (s : State) (st : Byte) (sample : Int) (h : StoreFollows s) : StoreFollows (State.takeSample s st sample) := by
  generalize e : (State.takeSample s st sample) = t
  unfold State.takeSample at e
  (try dsimp only at e)
  (repeat' split at e) <;> subst e <;> (try simp only [refuse_state, accept_state]) <;> (simp (config := {maxDischargeDepth := 60}) [storeFollows_mk, h, (storeFollows_def s).symm.trans (eq_true h)])
@[simp] theorem storeFollows_frameStart (s : State) (h : StoreFollows s) : StoreFollows (State.frameStart s) := by simpa [storeFollows_def] using h
@[simp] theorem storeFollows_frameComplete (s : State) (st : Byte) (sample : BitVec 24) (h : StoreFollows s) : StoreFollows (State.frameComplete s st sample) := by
  generalize e : (State.frameComplete s st sample) = t
  unfold State.frameComplete at e
  (try dsimp only at e)
  (repeat' split at e) <;> subst e <;> (try simp only [refuse_state, accept_state]) <;> (simp (config := {maxDischargeDepth := 60}) [storeFollows_mk, h, (storeFollows_def s).symm.trans (eq_true h)])
@[simp] theorem storeFollows_frameTorn (s : State) (h : StoreFollows s) : StoreFollows (State.frameTorn s) := by simpa [storeFollows_def] using h
@[simp] theorem storeFollows_watchExpiry (s : State) (h : StoreFollows s) : StoreFollows (State.watchExpiry s) := by
  generalize e : (State.watchExpiry s) = t
  unfold State.watchExpiry at e
  (try dsimp only at e)
  (repeat' split at e) <;> subst e <;> (try simp only [refuse_state, accept_state]) <;> (simp (config := {maxDischargeDepth := 60}) [storeFollows_mk, h, (storeFollows_def s).symm.trans (eq_true h)])
@[simp] theorem storeFollows_settleTimeout (s : State) (h : StoreFollows s) : StoreFollows (State.settleTimeout s) := by
  generalize e : (State.settleTimeout s) = t
  unfold State.settleTimeout at e
  (try dsimp only at e)
  (repeat' split at e) <;> subst e <;> (try simp only [refuse_state, accept_state]) <;> (simp (config := {maxDischargeDepth := 60}) [storeFollows_mk, h, (storeFollows_def s).symm.trans (eq_true h)])
@[simp] theorem storeFollows_scaleOnScale (s : State) (h : StoreFollows s) : StoreFollows (State.scaleOnScale s) := by
  generalize e : (State.scaleOnScale s) = t
  unfold State.scaleOnScale at e
  (try dsimp only at e)
  (repeat' split at e) <;> subst e <;> (try simp only [refuse_state, accept_state]) <;> (simp (config := {maxDischargeDepth := 60}) [storeFollows_mk, h, (storeFollows_def s).symm.trans (eq_true h)])
@[simp] theorem storeFollows_createBale (s : State) (k : Kiln) (r : ChargeRef) (value : Word32) (weighing : Bool) (h : StoreFollows s) : StoreFollows (State.createBale s k r value weighing) := by
  unfold State.createBale
  dsimp only
  split
  · exact storeFollows_judgeStore' _
  · apply storeFollows_offerCharge; exact storeFollows_judgeStore' _
@[simp] theorem storeFollows_newCycle (s : State) (value : Word32) (weighing : Bool) (h : StoreFollows s) : StoreFollows (State.newCycle s value weighing) := by
  generalize e : (State.newCycle s value weighing) = t
  unfold State.newCycle at e
  (try dsimp only at e)
  (repeat' split at e) <;> subst e <;> (try simp only [refuse_state, accept_state]) <;> (simp (config := {maxDischargeDepth := 60}) [storeFollows_mk, h, (storeFollows_def s).symm.trans (eq_true h)])
@[simp] theorem storeFollows_onScale (s : State) (value : Word32) (h : StoreFollows s) : StoreFollows (State.onScale s value) := by
  generalize e : (State.onScale s value) = t
  unfold State.onScale at e
  (try dsimp only at e)
  (repeat' split at e) <;> subst e <;> (try simp only [refuse_state, accept_state]) <;> (simp (config := {maxDischargeDepth := 60}) [storeFollows_mk, h, (storeFollows_def s).symm.trans (eq_true h)])
@[simp] theorem storeFollows_offScale (s : State) (h : StoreFollows s) : StoreFollows (State.offScale s) := by
  unfold State.offScale
  dsimp only
  rw [storeFollows_mk, ← storeFollows_def]
  split <;> simp (config := {maxDischargeDepth := 60}) only [storeFollows_raise, storeFollows_updScale, storeFollows_notCaptured, h]
@[simp] theorem storeFollows_moisture (s : State) (value : Word32) (h : StoreFollows s) : StoreFollows (State.moisture s value) := by
  generalize e : (State.moisture s value) = t
  unfold State.moisture at e
  (try dsimp only at e)
  (repeat' split at e) <;> subst e <;> (try simp only [refuse_state, accept_state]) <;> (simp (config := {maxDischargeDepth := 60}) [storeFollows_mk, h, (storeFollows_def s).symm.trans (eq_true h)])
@[simp] theorem storeFollows_advanceHead (s : State) (h : StoreFollows s) : StoreFollows (State.advanceHead s) := by simpa [storeFollows_def] using h
@[simp] theorem storeFollows_unloadHead (s : State) (k : Kiln) (h : StoreFollows s) : StoreFollows (State.unloadHead s k) := by
  generalize e : (State.unloadHead s k) = t
  unfold State.unloadHead at e
  (try dsimp only at e)
  (repeat' split at e) <;> subst e <;> (try simp only [refuse_state, accept_state]) <;> (simp (config := {maxDischargeDepth := 60}) [storeFollows_mk, h, (storeFollows_def s).symm.trans (eq_true h)])
@[simp] theorem storeFollows_unloadDone (s : State) (h : StoreFollows s) : StoreFollows (State.unloadDone s) := by
  generalize e : (State.unloadDone s) = t
  unfold State.unloadDone at e
  (try dsimp only at e)
  (repeat' split at e) <;> subst e <;> (try simp only [refuse_state, accept_state]) <;> (simp (config := {maxDischargeDepth := 60}) [storeFollows_mk, h, (storeFollows_def s).symm.trans (eq_true h)])
@[simp] theorem storeFollows_performUnloadDone (kiln : Byte) (s : State) (h : StoreFollows s) : StoreFollows (performUnloadDone kiln s).state := by
  generalize e : (performUnloadDone kiln s) = t
  unfold performUnloadDone at e
  (try dsimp only at e)
  (repeat' split at e) <;> subst e <;> (try simp only [refuse_state, accept_state]) <;> (simp (config := {maxDischargeDepth := 60}) [storeFollows_mk, h, (storeFollows_def s).symm.trans (eq_true h)])
@[simp] theorem storeFollows_performPressHold (flag : Byte) (s : State) (h : StoreFollows s) : StoreFollows (performPressHold flag s).state := by
  unfold performPressHold
  split
  · exact h
  · simp only [accept_state]; apply storeFollows_judgePress; simp only [storeFollows_mk]; simp only [storeFollows_def] at h; exact h
@[simp] theorem storeFollows_performBaleWeight (bale gross : Word32) (s : State) (h : StoreFollows s) : StoreFollows (performBaleWeight bale gross s).state := by
  generalize e : (performBaleWeight bale gross s) = t
  unfold performBaleWeight at e
  (try dsimp only at e)
  (repeat' split at e) <;> subst e <;> (try simp only [refuse_state, accept_state]) <;> (simp (config := {maxDischargeDepth := 60}) [storeFollows_mk, h, (storeFollows_def s).symm.trans (eq_true h)])
@[simp] theorem storeFollows_performBaleRead (bale : Word32) (s : State) (h : StoreFollows s) : StoreFollows (performBaleRead bale s).state := by simpa [storeFollows_def] using h
@[simp] theorem storeFollows_performScaleRead (s : State) (h : StoreFollows s) : StoreFollows (performScaleRead s).state := by simpa [storeFollows_def] using h
@[simp] theorem storeFollows_performScaleZero (s : State) (h : StoreFollows s) : StoreFollows (performScaleZero s).state := by simpa [storeFollows_def] using h
@[simp] theorem storeFollows_performScaleCommand (word : Byte) (s : State) (h : StoreFollows s) : StoreFollows (performScaleCommand word s).state := by simpa [storeFollows_def] using h
@[simp] theorem storeFollows_nodeAnswered (s : State) (i : NodeIdx) (h : StoreFollows s) : StoreFollows (State.nodeAnswered s i) := by simpa [storeFollows_def] using h
@[simp] theorem storeFollows_reportAnswer (s : State) (i : NodeIdx) (h : StoreFollows s) : StoreFollows (State.reportAnswer s i) := by simpa [storeFollows_def] using h
@[simp] theorem storeFollows_holdBound (s : State) (n : Node) (reason : HoldReason) (h : StoreFollows s) : StoreFollows (State.holdBound s n reason) := by simpa [storeFollows_def] using h
@[simp] theorem storeFollows_reportLost (s : State) (n : Node) (h : StoreFollows s) : StoreFollows (State.reportLost s n) := by simpa [storeFollows_def] using h
@[simp] theorem storeFollows_nodeMissed (s : State) (i : NodeIdx) (h : StoreFollows s) : StoreFollows (State.nodeMissed s i) := by simpa [storeFollows_def] using h
@[simp] theorem storeFollows_missOn (s : State) (t : Transaction) (h : StoreFollows s) : StoreFollows (State.missOn s t) := by simpa [storeFollows_def] using h
@[simp] theorem storeFollows_forward (s : State) (f : Frame) (h : StoreFollows s) : StoreFollows (State.forward s f) := by simpa [storeFollows_def] using h
@[simp] theorem storeFollows_applyRoute (s : State) (r : Route) (i : NodeIdx) (f : Frame) (h : StoreFollows s) : StoreFollows (State.applyRoute s r i f) := by
  generalize e : (State.applyRoute s r i f) = t
  unfold State.applyRoute at e
  (try dsimp only at e)
  (repeat' split at e) <;> subst e <;> (try simp only [refuse_state, accept_state]) <;> (simp (config := {maxDischargeDepth := 60}) [storeFollows_mk, h, (storeFollows_def s).symm.trans (eq_true h)])
@[simp] theorem storeFollows_jobAction (s : State) (r : Route) (x : RouteIdx) (i : NodeIdx) (f : Frame) (h : StoreFollows s) : StoreFollows (State.jobAction s r x i f) := by
  generalize e : (State.jobAction s r x i f) = t
  unfold State.jobAction at e
  (try dsimp only at e)
  (repeat' split at e) <;> subst e <;> (try simp only [refuse_state, accept_state]) <;> (simp (config := {maxDischargeDepth := 60}) [storeFollows_mk, h, (storeFollows_def s).symm.trans (eq_true h)])
@[simp] theorem storeFollows_copyIf (s : State) (c : Bool) (f : Frame) (h : StoreFollows s) : StoreFollows (State.copyIf s c f) := by simpa [storeFollows_def] using h
@[simp] theorem storeFollows_classify (s : State) (i : NodeIdx) (f : Frame) (h : StoreFollows s) : StoreFollows (State.classify s i f) := by
  generalize e : (State.classify s i f) = t
  unfold State.classify at e
  (try dsimp only at e)
  (repeat' split at e) <;> subst e <;> (try simp only [refuse_state, accept_state]) <;> (simp (config := {maxDischargeDepth := 60}) [storeFollows_mk, h, (storeFollows_def s).symm.trans (eq_true h)])
@[simp] theorem storeFollows_endTransaction (s : State) (h : StoreFollows s) : StoreFollows (State.endTransaction s) := by simpa [storeFollows_def] using h
@[simp] theorem storeFollows_countUnsolicited (s : State) (h : StoreFollows s) : StoreFollows (State.countUnsolicited s) := by simpa [storeFollows_def] using h
@[simp] theorem storeFollows_pollAnswered (s : State) (i : NodeIdx) (f : Frame) (h : StoreFollows s) : StoreFollows (State.pollAnswered s i f) := by
  generalize e : (State.pollAnswered s i f) = t
  unfold State.pollAnswered at e
  (try dsimp only at e)
  (repeat' split at e) <;> subst e <;> (try simp only [refuse_state, accept_state]) <;> (simp (config := {maxDischargeDepth := 60}) [storeFollows_mk, h, (storeFollows_def s).symm.trans (eq_true h)])
@[simp] theorem storeFollows_reportConfirmed (s : State) (c : Commanded) (h : StoreFollows s) : StoreFollows (State.reportConfirmed s c) := by simpa [storeFollows_def] using h
@[simp] theorem storeFollows_commandAnswered (s : State) (i : NodeIdx) (code : Byte) (f : Frame) (h : StoreFollows s) : StoreFollows (State.commandAnswered s i code f) := by simpa [storeFollows_def] using h
@[simp] theorem storeFollows_blockAnswered (s : State) (i : NodeIdx) (ticket : Nat) (f : Frame) (h : StoreFollows s) : StoreFollows (State.blockAnswered s i ticket f) := by simpa [storeFollows_def] using h
@[simp] theorem storeFollows_answerBody (s : State) (t : Transaction) (i : NodeIdx) (f : Frame) (h : StoreFollows s) : StoreFollows (State.answerBody s t i f) := by
  generalize e : (State.answerBody s t i f) = t
  unfold State.answerBody at e
  (try dsimp only at e)
  (repeat' split at e) <;> subst e <;> (try simp only [refuse_state, accept_state]) <;> (simp (config := {maxDischargeDepth := 60}) [storeFollows_mk, h, (storeFollows_def s).symm.trans (eq_true h)])
@[simp] theorem storeFollows_answered (s : State) (t : Transaction) (f : Frame) (h : StoreFollows s) : StoreFollows (State.answered s t f) := by
  generalize e : (State.answered s t f) = t
  unfold State.answered at e
  (try dsimp only at e)
  (repeat' split at e) <;> subst e <;> (try simp only [refuse_state, accept_state]) <;> (simp (config := {maxDischargeDepth := 60}) [storeFollows_mk, h, (storeFollows_def s).symm.trans (eq_true h)])
@[simp] theorem storeFollows_expired (s : State) (t : Transaction) (h : StoreFollows s) : StoreFollows (State.expired s t) := by simpa [storeFollows_def] using h
@[simp] theorem storeFollows_afterOther (s : State) (h : StoreFollows s) : StoreFollows (State.afterOther s) := by simpa [storeFollows_def] using h
@[simp] theorem storeFollows_offerFrame (s : State) (f : Frame) (h : StoreFollows s) : StoreFollows (State.offerFrame s f) := by
  generalize e : (State.offerFrame s f) = t
  unfold State.offerFrame at e
  (try dsimp only at e)
  (repeat' split at e) <;> subst e <;> (try simp only [refuse_state, accept_state]) <;> (simp (config := {maxDischargeDepth := 60}) [storeFollows_mk, h, (storeFollows_def s).symm.trans (eq_true h)])
@[simp] theorem storeFollows_fieldArrival (s : State) (chars : List Byte) (h : StoreFollows s) : StoreFollows (State.fieldArrival s chars) := by
  unfold State.fieldArrival
  dsimp only
  have h' := (storeFollows_def s) ▸ h
  split
  · split <;> simp (config := {maxDischargeDepth := 60}) [storeFollows_mk, h']
  · exact h
@[simp] theorem storeFollows_receptionStart (s : State) (h : StoreFollows s) : StoreFollows (State.receptionStart s) := by simpa [storeFollows_def] using h
@[simp] theorem storeFollows_windowExpiry (s : State) (h : StoreFollows s) : StoreFollows (State.windowExpiry s) := by simpa [storeFollows_def] using h
@[simp] theorem storeFollows_guardEnd (s : State) (h : StoreFollows s) : StoreFollows (State.guardEnd s) := by simpa [storeFollows_def] using h
@[simp] theorem storeFollows_transmitDone (s : State) (h : StoreFollows s) : StoreFollows (State.transmitDone s) := by simpa [storeFollows_def] using h
@[simp] theorem storeFollows_openTransaction (s : State) (kind : TransactionKind) (address : Byte) (node : Option NodeIdx) (frames : List Frame) (window : Nat) (h : StoreFollows s) : StoreFollows (State.openTransaction s kind address node frames window) := by simpa [storeFollows_def] using h
@[simp] theorem storeFollows_startCommand (s : State) (c : Command) (rest : List Command) (h : StoreFollows s) : StoreFollows (State.startCommand s c rest) := by simpa [storeFollows_def] using h
@[simp] theorem storeFollows_startBlock (s : State) (ticket : Nat) (h : StoreFollows s) : StoreFollows (State.startBlock s ticket) := by simpa [storeFollows_def] using h
@[simp] theorem storeFollows_startPass (s : State) (f : Frame) (rest : List Frame) (h : StoreFollows s) : StoreFollows (State.startPass s f rest) := by simpa [storeFollows_def] using h
@[simp] theorem storeFollows_startPoll (s : State) (i : NodeIdx) (rest : List NodeIdx) (h : StoreFollows s) : StoreFollows (State.startPoll s i rest) := by simpa [storeFollows_def] using h
@[simp] theorem storeFollows_startSource (s : State) (c : FieldSource) (h : StoreFollows s) : StoreFollows (State.startSource s c) := by simpa [storeFollows_def] using h
@[simp] theorem storeFollows_startTransaction (s : State) (h : StoreFollows s) : StoreFollows (State.startTransaction s) := by simpa [storeFollows_def] using h
@[simp] theorem storeFollows_choosing (s : State) (c : Option FieldSource) (h : StoreFollows s) : StoreFollows (s.choosing c) := by simpa [storeFollows_def] using h
@[simp] theorem storeFollows_scheduleNode (c : CadenceId) (s : State) (i : NodeIdx) (h : StoreFollows s) : StoreFollows (State.scheduleNode c s i) := by simpa [storeFollows_def] using h
@[simp] theorem storeFollows_updCadence (s : State) (c : CadenceId) (f : Cadence → Cadence) (h : StoreFollows s) : StoreFollows (State.updCadence s c f) := by simpa [storeFollows_def] using h
@[simp] theorem storeFollows_cadenceExpiry (s : State) (c : CadenceId) (h : StoreFollows s) : StoreFollows (State.cadenceExpiry s c) := by simpa [storeFollows_def] using h
@[simp] theorem storeFollows_restartField (s : State) (h : StoreFollows s) : StoreFollows (State.restartField s) := by simpa [storeFollows_def] using h
@[simp] theorem storeFollows_printerWritten (s : State) (before after : Option Role) (h : StoreFollows s) : StoreFollows (State.printerWritten s before after) := by simpa [storeFollows_def] using h
@[simp] theorem storeFollows_writeNode (s : State) (i : NodeIdx) (g : NodeImage) (h : StoreFollows s) : StoreFollows (State.writeNode s i g) := by simpa [storeFollows_def] using h
@[simp] theorem storeFollows_performNodeWrite (index : Byte) (image : List Byte) (s : State) (h : StoreFollows s) : StoreFollows (performNodeWrite index image s).state := by simpa [storeFollows_def] using h
@[simp] theorem storeFollows_performRouteWrite (index : Byte) (image : List Byte) (s : State) (h : StoreFollows s) : StoreFollows (performRouteWrite index image s).state := by simpa [storeFollows_def] using h
@[simp] theorem storeFollows_performCadenceWrite (index : Byte) (image : List Byte) (s : State) (h : StoreFollows s) : StoreFollows (performCadenceWrite index image s).state := by simpa [storeFollows_def] using h
@[simp] theorem storeFollows_setKilnEntry (s : State) (k : Kiln) (e : KilnEntry) (h : StoreFollows s) : StoreFollows (State.setKilnEntry s k e) := by simpa [storeFollows_def] using h
@[simp] theorem storeFollows_performKilnWrite (index : Byte) (image : List Byte) (s : State) (h : StoreFollows s) : StoreFollows (performKilnWrite index image s).state := by simpa [storeFollows_def] using h
@[simp] theorem storeFollows_performScheduleWrite (index : Byte) (image : List Byte) (s : State) (h : StoreFollows s) : StoreFollows (performScheduleWrite index image s).state := by simpa [storeFollows_def] using h
@[simp] theorem storeFollows_performStepWrite (index : Byte) (image : List Byte) (s : State) (h : StoreFollows s) : StoreFollows (performStepWrite index image s).state := by simpa [storeFollows_def] using h
@[simp] theorem storeFollows_performVarietyWrite (index : Byte) (image : List Byte) (s : State) (h : StoreFollows s) : StoreFollows (performVarietyWrite index image s).state := by simpa [storeFollows_def] using h
@[simp] theorem storeFollows_performTareWrite (index : Byte) (image : List Byte) (s : State) (h : StoreFollows s) : StoreFollows (performTareWrite index image s).state := by simpa [storeFollows_def] using h
@[simp] theorem storeFollows_performScaleSetupWrite (index : Byte) (image : List Byte) (s : State) (h : StoreFollows s) : StoreFollows (performScaleSetupWrite index image s).state := by simpa [storeFollows_def] using h
@[simp] theorem storeFollows_performStationWrite (index : Byte) (image : List Byte) (s : State) (h : StoreFollows s) : StoreFollows (performStationWrite index image s).state := by
  unfold performStationWrite
  repeat' split
  all_goals (try dsimp only)
  repeat' split
  all_goals first | exact h | exact storeFollows_judgeStore' _
@[simp] theorem storeFollows_performTableRead (table index part : Byte) (s : State) (h : StoreFollows s) : StoreFollows (performTableRead table index part s).state := by simpa [storeFollows_def] using h
@[simp] theorem storeFollows_performTableWrite (table index : Byte) (image : List Byte) (s : State) (h : StoreFollows s) : StoreFollows (performTableWrite table index image s).state := by
  generalize e : (performTableWrite table index image s) = t
  unfold performTableWrite at e
  (try dsimp only at e)
  (repeat' split at e) <;> subst e <;> (try simp only [refuse_state, accept_state]) <;> (simp (config := {maxDischargeDepth := 60}) [storeFollows_mk, h, (storeFollows_def s).symm.trans (eq_true h)])
@[simp] theorem storeFollows_addLot (s : State) (l : Lot) (h : StoreFollows s) : StoreFollows (State.addLot s l) := by simpa [storeFollows_def] using h
@[simp] theorem storeFollows_performLotOpen (lot grower : Word16) (variety : Byte) (s : State) (h : StoreFollows s) : StoreFollows (performLotOpen lot grower variety s).state := by simpa [storeFollows_def] using h
@[simp] theorem storeFollows_performLotRead (lot : Word16) (item : Byte) (s : State) (h : StoreFollows s) : StoreFollows (performLotRead lot item s).state := by simpa [storeFollows_def] using h
@[simp] theorem storeFollows_performLotVoid (lot : Word16) (s : State) (h : StoreFollows s) : StoreFollows (performLotVoid lot s).state := by simpa [storeFollows_def] using h
@[simp] theorem storeFollows_performLotClose (lot : Word16) (s : State) (h : StoreFollows s) : StoreFollows (performLotClose lot s).state := by simpa [storeFollows_def] using h
@[simp] theorem storeFollows_clearCounts (s : State) (h : StoreFollows s) : StoreFollows (State.clearCounts s) := by simpa [storeFollows_def] using h
@[simp] theorem storeFollows_performStatus (clear page : Byte) (s : State) (h : StoreFollows s) : StoreFollows (performStatus clear page s).state := by simpa [storeFollows_def] using h
@[simp] theorem storeFollows_performTimeSet (time : Word32) (s : State) (h : StoreFollows s) : StoreFollows (performTimeSet time s).state := by simpa [storeFollows_def] using h
@[simp] theorem storeFollows_secondPassed (s : State) (h : StoreFollows s) : StoreFollows (State.secondPassed s) := by simpa [storeFollows_def] using h
@[simp] theorem storeFollows_restartStation (s : State) (h : StoreFollows s) : StoreFollows (State.restartStation s) := by
  simp [State.restartStation, storeFollows_mk, StoreIs]
@[simp] theorem storeFollows_performRestart (scope : Byte) (s : State) (h : StoreFollows s) : StoreFollows (performRestart scope s).state := by
  generalize e : (performRestart scope s) = t
  unfold performRestart at e
  (try dsimp only at e)
  (repeat' split at e) <;> subst e <;> (try simp only [refuse_state, accept_state]) <;> (simp (config := {maxDischargeDepth := 60}) [storeFollows_mk, h, (storeFollows_def s).symm.trans (eq_true h)])
@[simp] theorem storeFollows_performRequest (r : Request) (s : State) (h : StoreFollows s) : StoreFollows (performRequest r s).state := by
  generalize e : (performRequest r s) = t
  unfold performRequest at e
  (try dsimp only at e)
  (repeat' split at e) <;> subst e <;> (try simp only [refuse_state, accept_state]) <;> (simp (config := {maxDischargeDepth := 60}) [storeFollows_mk, h, (storeFollows_def s).symm.trans (eq_true h)])
@[simp] theorem storeFollows_setReply (s : State) (payload : List Byte) (h : StoreFollows s) : StoreFollows (State.setReply s payload) := by simpa [storeFollows_def] using h
@[simp] theorem storeFollows_performPayload (payload : List Byte) (s : State) (h : StoreFollows s) : StoreFollows (performPayload payload s).2.2.state := by
  unfold performPayload
  repeat' split
  all_goals simp [h]
@[simp] theorem storeFollows_executeFrame (s : State) (f : Frame) (h : StoreFollows s) : StoreFollows (State.executeFrame s f) := by
  generalize e : (State.executeFrame s f) = t
  unfold State.executeFrame at e
  (try dsimp only at e)
  (repeat' split at e) <;> subst e <;> (try simp only [refuse_state, accept_state]) <;> (simp (config := {maxDischargeDepth := 60}) [storeFollows_mk, h, (storeFollows_def s).symm.trans (eq_true h)])
@[simp] theorem storeFollows_executeHead (s : State) (h : StoreFollows s) : StoreFollows (State.executeHead s) := by
  generalize e : (State.executeHead s) = t
  unfold State.executeHead at e
  (try dsimp only at e)
  (repeat' split at e) <;> subst e <;> (try simp only [refuse_state, accept_state]) <;> (simp (config := {maxDischargeDepth := 60}) [storeFollows_mk, h, (storeFollows_def s).symm.trans (eq_true h)])
@[simp] theorem storeFollows_admitRequest (s : State) (f : Frame) (h : StoreFollows s) : StoreFollows (State.admitRequest s f) := by
  generalize e : (State.admitRequest s f) = t
  unfold State.admitRequest at e
  (try dsimp only at e)
  (repeat' split at e) <;> subst e <;> (try simp only [refuse_state, accept_state]) <;> (simp (config := {maxDischargeDepth := 60}) [storeFollows_mk, h, (storeFollows_def s).symm.trans (eq_true h)])
@[simp] theorem storeFollows_completeRequest (s : State) (h : StoreFollows s) : StoreFollows (State.completeRequest s) := by
  generalize e : (State.completeRequest s) = t
  unfold State.completeRequest at e
  (try dsimp only at e)
  (repeat' split at e) <;> subst e <;> (try simp only [refuse_state, accept_state]) <;> (simp (config := {maxDischargeDepth := 60}) [storeFollows_mk, h, (storeFollows_def s).symm.trans (eq_true h)])
@[simp] theorem storeFollows_submit (tag : Byte) (r : Request) (s : State) (h : StoreFollows s) : StoreFollows (State.submit tag r s) := by
  generalize e : (State.submit tag r s) = t
  unfold State.submit at e
  (try dsimp only at e)
  (repeat' split at e) <;> subst e <;> (try simp only [refuse_state, accept_state]) <;> (simp (config := {maxDischargeDepth := 60}) [storeFollows_mk, h, (storeFollows_def s).symm.trans (eq_true h)])
@[simp] theorem storeFollows_updLink (s : State) (f : Link → Link) (h : StoreFollows s) : StoreFollows (State.updLink s f) := by simpa [storeFollows_def] using h
@[simp] theorem storeFollows_validArrival (s : State) (h : StoreFollows s) : StoreFollows (State.validArrival s) := by simpa [storeFollows_def] using h
@[simp] theorem storeFollows_linkSilent (s : State) (h : StoreFollows s) : StoreFollows (State.linkSilent s) := by simpa [storeFollows_def] using h
@[simp] theorem storeFollows_offerPass (s : State) (f : Frame) (h : StoreFollows s) : StoreFollows (State.offerPass s f) := by simpa [storeFollows_def] using h
@[simp] theorem storeFollows_classifyUpstream (s : State) (f : Frame) (h : StoreFollows s) : StoreFollows (State.classifyUpstream s f) := by
  generalize e : (State.classifyUpstream s f) = t
  unfold State.classifyUpstream at e
  (try dsimp only at e)
  (repeat' split at e) <;> subst e <;> (try simp only [refuse_state, accept_state]) <;> (simp (config := {maxDischargeDepth := 60}) [storeFollows_mk, h, (storeFollows_def s).symm.trans (eq_true h)])
@[simp] theorem storeFollows_upstreamArrival (s : State) (chars : List Byte) (h : StoreFollows s) : StoreFollows (State.upstreamArrival s chars) := by
  generalize e : (State.upstreamArrival s chars) = t
  unfold State.upstreamArrival at e
  (try dsimp only at e)
  (repeat' split at e) <;> subst e <;> (try simp only [refuse_state, accept_state]) <;> (simp (config := {maxDischargeDepth := 60}) [storeFollows_mk, h, (storeFollows_def s).symm.trans (eq_true h)])
@[simp] theorem storeFollows_idleGap (s : State) (port : Port) (h : StoreFollows s) : StoreFollows (State.idleGap s port) := by simpa [storeFollows_def] using h
@[simp] theorem storeFollows_startUpstream (s : State) (t : UpTransmit) (h : StoreFollows s) : StoreFollows (State.startUpstream s t) := by simpa [storeFollows_def] using h
@[simp] theorem storeFollows_upstreamTransmit (s : State) (h : StoreFollows s) : StoreFollows (State.upstreamTransmit s) := by simpa [storeFollows_def] using h
@[simp] theorem storeFollows_replySent (s : State) (h : StoreFollows s) : StoreFollows (State.replySent s) := by
  generalize e : (State.replySent s) = t
  unfold State.replySent at e
  (try dsimp only at e)
  (repeat' split at e) <;> subst e <;> (try simp only [refuse_state, accept_state]) <;> (simp (config := {maxDischargeDepth := 60}) [storeFollows_mk, h, (storeFollows_def s).symm.trans (eq_true h)])
@[simp] theorem storeFollows_segmentSent (s : State) (h : StoreFollows s) : StoreFollows (State.segmentSent s) := by
  generalize e : (State.segmentSent s) = t
  unfold State.segmentSent at e
  (try dsimp only at e)
  (repeat' split at e) <;> subst e <;> (try simp only [refuse_state, accept_state]) <;> (simp (config := {maxDischargeDepth := 60}) [storeFollows_mk, h, (storeFollows_def s).symm.trans (eq_true h)])
@[simp] theorem storeFollows_upstreamFrameSent (s : State) (h : StoreFollows s) : StoreFollows (State.upstreamFrameSent s) := by
  generalize e : (State.upstreamFrameSent s) = t
  unfold State.upstreamFrameSent at e
  (try dsimp only at e)
  (repeat' split at e) <;> subst e <;> (try simp only [refuse_state, accept_state]) <;> (simp (config := {maxDischargeDepth := 60}) [storeFollows_mk, h, (storeFollows_def s).symm.trans (eq_true h)])
@[simp] theorem pressFollows_raiseOpt (s : State) (k : NoticeKind) (o : Nat) (v : Option Word32) (h : PressFollows s) : PressFollows (State.raiseOpt s k o v) := by simpa [pressFollows_def] using h
@[simp] theorem pressFollows_raise (s : State) (k : NoticeKind) (o : Nat) (v : Int) (h : PressFollows s) : PressFollows (State.raise s k o v) := by simpa [pressFollows_def] using h
@[simp] theorem pressFollows_updLot (s : State) (n : Nat) (f : Lot → Lot) (h : PressFollows s) : PressFollows (State.updLot s n f) := by simpa [pressFollows_def] using h
@[simp] theorem pressFollows_updCharge (s : State) (r : ChargeRef) (f : Charge → Charge) (h : PressFollows s) : PressFollows (State.updCharge s r f) := by simpa [pressFollows_def] using h
@[simp] theorem pressFollows_removeLot (s : State) (n : Nat) (h : PressFollows s) : PressFollows (State.removeLot s n) := by simpa [pressFollows_def] using h
@[simp] theorem pressFollows_setNode (s : State) (i : NodeIdx) (n : Node) (h : PressFollows s) : PressFollows (State.setNode s i n) := by simpa [pressFollows_def] using h
@[simp] theorem pressFollows_placeCommand (s : State) (i : NodeIdx) (c : Commanded) (h : PressFollows s) : PressFollows (State.placeCommand s i c) := by simpa [pressFollows_def] using h
@[simp] theorem pressFollows_writeCommanded (s : State) (i : Option NodeIdx) (c : Commanded) (h : PressFollows s) : PressFollows (State.writeCommanded s i c) := by simpa [pressFollows_def] using h
@[simp] theorem pressFollows_clearCommanded (s : State) (i : Option NodeIdx) (h : PressFollows s) : PressFollows (State.clearCommanded s i) := by simpa [pressFollows_def] using h
@[simp] theorem pressFollows_updKiln (s : State) (k : Kiln) (f : KilnRun → KilnRun) (h : PressFollows s) : PressFollows (State.updKiln s k f) := by simpa [pressFollows_def] using h
@[simp] theorem pressFollows_updKilnCharge (s : State) (k : Kiln) (f : Charge → Charge) (h : PressFollows s) : PressFollows (State.updKilnCharge s k f) := by simpa [pressFollows_def] using h
@[simp] theorem pressFollows_updBale (s : State) (n : Nat) (f : Bale → Bale) (h : PressFollows s) : PressFollows (State.updBale s n f) := by simpa [pressFollows_def] using h
@[simp] theorem pressFollows_judgePress (s : State) (h : PressFollows s) : PressFollows (State.judgePress s) := pressFollows_judgePress' s
@[simp] theorem pressFollows_judgeStore (s : State) (h : PressFollows s) : PressFollows (State.judgeStore s) := pressFollows_judgeStore' s
@[simp] theorem pressFollows_becomeHead (s : State) (k : Kiln) (h : PressFollows s) : PressFollows (State.becomeHead s k) := by simpa [pressFollows_def] using h
@[simp] theorem pressFollows_joinPressQueue (s : State) (k : Kiln) (h : PressFollows s) : PressFollows (State.joinPressQueue s k) := by
  unfold State.joinPressQueue
  dsimp only
  split
  · exact pressFollows_judgePress' _
  · rename_i hq
    simp only [pressFollows_mk, PressIs]; simp only [pressFollows_def, PressIs] at h
    simpa [hq] using h
@[simp] theorem pressFollows_writeBurner (s : State) (k : Kiln) (h : PressFollows s) : PressFollows (State.writeBurner s k) := by simpa [pressFollows_def] using h
@[simp] theorem pressFollows_kilnDried (s : State) (k : Kiln) (h : PressFollows s) : PressFollows (State.kilnDried s k) := by
  generalize e : (State.kilnDried s k) = t
  unfold State.kilnDried at e
  (try dsimp only at e)
  (repeat' split at e) <;> subst e <;> (try simp only [refuse_state, accept_state]) <;> (simp (config := {maxDischargeDepth := 60}) [pressFollows_mk, h, (pressFollows_def s).symm.trans (eq_true h)])
@[simp] theorem pressFollows_enterStep (s : State) (k : Kiln) (h : PressFollows s) : PressFollows (State.enterStep s k) := by
  generalize e : (State.enterStep s k) = t
  unfold State.enterStep at e
  (try dsimp only at e)
  (repeat' split at e) <;> subst e <;> (try simp only [refuse_state, accept_state]) <;> (simp (config := {maxDischargeDepth := 60}) [pressFollows_mk, h, (pressFollows_def s).symm.trans (eq_true h)])
@[simp] theorem pressFollows_nextStep (s : State) (k : Kiln) (h : PressFollows s) : PressFollows (State.nextStep s k) := by
  generalize e : (State.nextStep s k) = t
  unfold State.nextStep at e
  (try dsimp only at e)
  (repeat' split at e) <;> subst e <;> (try simp only [refuse_state, accept_state]) <;> (simp (config := {maxDischargeDepth := 60}) [pressFollows_mk, h, (pressFollows_def s).symm.trans (eq_true h)])
@[simp] theorem pressFollows_holdKiln (s : State) (k : Kiln) (reason : HoldReason) (h : PressFollows s) : PressFollows (State.holdKiln s k reason) := by simpa [pressFollows_def] using h
@[simp] theorem pressFollows_kilnAir (s : State) (k : Kiln) (value : Int) (h : PressFollows s) : PressFollows (State.kilnAir s k value) := by simpa [pressFollows_def] using h
@[simp] theorem pressFollows_kilnExhaust (s : State) (k : Kiln) (value : Int) (h : PressFollows s) : PressFollows (State.kilnExhaust s k value) := by
  generalize e : (State.kilnExhaust s k value) = t
  unfold State.kilnExhaust at e
  (try dsimp only at e)
  (repeat' split at e) <;> subst e <;> (try simp only [refuse_state, accept_state]) <;> (simp (config := {maxDischargeDepth := 60}) [pressFollows_mk, h, (pressFollows_def s).symm.trans (eq_true h)])
@[simp] theorem pressFollows_startRun (s : State) (k : Kiln) (d : Fin 8) (h : PressFollows s) : PressFollows (State.startRun s k d) := by
  generalize e : (State.startRun s k d) = t
  unfold State.startRun at e
  (try dsimp only at e)
  (repeat' split at e) <;> subst e <;> (try simp only [refuse_state, accept_state]) <;> (simp (config := {maxDischargeDepth := 60}) [pressFollows_mk, h, (pressFollows_def s).symm.trans (eq_true h)])
@[simp] theorem pressFollows_autoStart (s : State) (k : Kiln) (h : PressFollows s) : PressFollows (State.autoStart s k) := by
  generalize e : (State.autoStart s k) = t
  unfold State.autoStart at e
  (try dsimp only at e)
  (repeat' split at e) <;> subst e <;> (try simp only [refuse_state, accept_state]) <;> (simp (config := {maxDischargeDepth := 60}) [pressFollows_mk, h, (pressFollows_def s).symm.trans (eq_true h)])
@[simp] theorem pressFollows_kilnLoaded (s : State) (k : Kiln) (h : PressFollows s) : PressFollows (State.kilnLoaded s k) := by
  generalize e : (State.kilnLoaded s k) = t
  unfold State.kilnLoaded at e
  (try dsimp only at e)
  (repeat' split at e) <;> subst e <;> (try simp only [refuse_state, accept_state]) <;> (simp (config := {maxDischargeDepth := 60}) [pressFollows_mk, h, (pressFollows_def s).symm.trans (eq_true h)])
@[simp] theorem pressFollows_kilnEmptied (s : State) (k : Kiln) (h : PressFollows s) : PressFollows (State.kilnEmptied s k) := by simpa [pressFollows_def] using h
@[simp] theorem pressFollows_stepEnd (s : State) (k : Kiln) (h : PressFollows s) : PressFollows (State.stepEnd s k) := by
  generalize e : (State.stepEnd s k) = t
  unfold State.stepEnd at e
  (try dsimp only at e)
  (repeat' split at e) <;> subst e <;> (try simp only [refuse_state, accept_state]) <;> (simp (config := {maxDischargeDepth := 60}) [pressFollows_mk, h, (pressFollows_def s).symm.trans (eq_true h)])
@[simp] theorem pressFollows_rampMinute (s : State) (k : Kiln) (h : PressFollows s) : PressFollows (State.rampMinute s k) := by
  generalize e : (State.rampMinute s k) = t
  unfold State.rampMinute at e
  (try dsimp only at e)
  (repeat' split at e) <;> subst e <;> (try simp only [refuse_state, accept_state]) <;> (simp (config := {maxDischargeDepth := 60}) [pressFollows_mk, h, (pressFollows_def s).symm.trans (eq_true h)])
@[simp] theorem pressFollows_dryToOvertime (s : State) (k : Kiln) (h : PressFollows s) : PressFollows (State.dryToOvertime s k) := by simpa [pressFollows_def] using h
@[simp] theorem pressFollows_abortCoolingEnd (s : State) (k : Kiln) (h : PressFollows s) : PressFollows (State.abortCoolingEnd s k) := by
  generalize e : (State.abortCoolingEnd s k) = t
  unfold State.abortCoolingEnd at e
  (try dsimp only at e)
  (repeat' split at e) <;> subst e <;> (try simp only [refuse_state, accept_state]) <;> (simp (config := {maxDischargeDepth := 60}) [pressFollows_mk, h, (pressFollows_def s).symm.trans (eq_true h)])
@[simp] theorem pressFollows_refreshExpiry (s : State) (k : Kiln) (h : PressFollows s) : PressFollows (State.refreshExpiry s k) := by simpa [pressFollows_def] using h
@[simp] theorem pressFollows_performKilnStart (kiln : Byte) (s : State) (h : PressFollows s) : PressFollows (performKilnStart kiln s).state := by
  generalize e : (performKilnStart kiln s) = t
  unfold performKilnStart at e
  (try dsimp only at e)
  (repeat' split at e) <;> subst e <;> (try simp only [refuse_state, accept_state]) <;> (simp (config := {maxDischargeDepth := 60}) [pressFollows_mk, h, (pressFollows_def s).symm.trans (eq_true h)])
@[simp] theorem pressFollows_performKilnHold (kiln : Byte) (s : State) (h : PressFollows s) : PressFollows (performKilnHold kiln s).state := by simpa [pressFollows_def] using h
@[simp] theorem pressFollows_resume (s : State) (k : Kiln) (m : ResumeMode) (h : PressFollows s) : PressFollows (State.resume s k m) := by
  generalize e : (State.resume s k m) = t
  unfold State.resume at e
  (try dsimp only at e)
  (repeat' split at e) <;> subst e <;> (try simp only [refuse_state, accept_state]) <;> (simp (config := {maxDischargeDepth := 60}) [pressFollows_mk, h, (pressFollows_def s).symm.trans (eq_true h)])
@[simp] theorem pressFollows_performKilnResume (kiln mode : Byte) (s : State) (h : PressFollows s) : PressFollows (performKilnResume kiln mode s).state := by
  generalize e : (performKilnResume kiln mode s) = t
  unfold performKilnResume at e
  (try dsimp only at e)
  (repeat' split at e) <;> subst e <;> (try simp only [refuse_state, accept_state]) <;> (simp (config := {maxDischargeDepth := 60}) [pressFollows_mk, h, (pressFollows_def s).symm.trans (eq_true h)])
@[simp] theorem pressFollows_abort (s : State) (k : Kiln) (h : PressFollows s) : PressFollows (State.abort s k) := by
  generalize e : (State.abort s k) = t
  unfold State.abort at e
  (try dsimp only at e)
  (repeat' split at e) <;> subst e <;> (try simp only [refuse_state, accept_state]) <;> (simp (config := {maxDischargeDepth := 60}) [pressFollows_mk, h, (pressFollows_def s).symm.trans (eq_true h)])
@[simp] theorem pressFollows_performKilnAbort (kiln : Byte) (s : State) (h : PressFollows s) : PressFollows (performKilnAbort kiln s).state := by
  generalize e : (performKilnAbort kiln s) = t
  unfold performKilnAbort at e
  (try dsimp only at e)
  (repeat' split at e) <;> subst e <;> (try simp only [refuse_state, accept_state]) <;> (simp (config := {maxDischargeDepth := 60}) [pressFollows_mk, h, (pressFollows_def s).symm.trans (eq_true h)])
@[simp] theorem pressFollows_performKilnRead (kiln : Byte) (s : State) (h : PressFollows s) : PressFollows (performKilnRead kiln s).state := by simpa [pressFollows_def] using h
@[simp] theorem pressFollows_setPrint (s : State) (n : Nat) (p : PrintState) (h : PressFollows s) : PressFollows (State.setPrint s n p) := by simpa [pressFollows_def] using h
@[simp] theorem pressFollows_setProcess (s : State) (p : PrintProcess) (h : PressFollows s) : PressFollows (State.setProcess s p) := by simpa [pressFollows_def] using h
@[simp] theorem pressFollows_printScan (s : State) (h : PressFollows s) : PressFollows (State.printScan s) := by simpa [pressFollows_def] using h
@[simp] theorem pressFollows_promptPrint (s : State) (h : PressFollows s) : PressFollows (State.promptPrint s) := by simpa [pressFollows_def] using h
@[simp] theorem pressFollows_testComposition (s : State) (r : ChargeRef) (h : PressFollows s) : PressFollows (State.testComposition s r) := by simpa [pressFollows_def] using h
@[simp] theorem pressFollows_issueTicket (s : State) (r : ChargeRef) (t : Ticket) (h : PressFollows s) : PressFollows (State.issueTicket s r t) := by simpa [pressFollows_def] using h
@[simp] theorem pressFollows_compose (s : State) (r : ChargeRef) (h : PressFollows s) : PressFollows (State.compose s r) := by simpa [pressFollows_def] using h
@[simp] theorem pressFollows_serveFuel (n : Nat) (s : State) (h : PressFollows s) : PressFollows (State.serveFuel n s) := by
  induction n generalizing s with
  | zero => simpa [State.serveFuel]
  | succ n ih =>
    unfold State.serveFuel
    split
    · exact h
    · split
      · apply ih; apply pressFollows_compose
        simpa [pressFollows_def] using h
      · exact h
@[simp] theorem pressFollows_serve (s : State) (h : PressFollows s) : PressFollows (State.serve s) := by simpa [pressFollows_def] using h
@[simp] theorem pressFollows_offerCharge (s : State) (r : ChargeRef) (h : PressFollows s) : PressFollows (State.offerCharge s r) := by simpa [pressFollows_def] using h
@[simp] theorem pressFollows_performTicketBase (nextTicket nextBale : Word32) (s : State) (h : PressFollows s) : PressFollows (performTicketBase nextTicket nextBale s).state := by simpa [pressFollows_def] using h
@[simp] theorem pressFollows_performTicketRead (ticket : Word32) (s : State) (h : PressFollows s) : PressFollows (performTicketRead ticket s).state := by simpa [pressFollows_def] using h
@[simp] theorem pressFollows_takeTicket (s : State) (t : Ticket) (h : PressFollows s) : PressFollows (State.takeTicket s t) := by
  generalize e : (State.takeTicket s t) = t
  unfold State.takeTicket at e
  (try dsimp only at e)
  (repeat' split at e) <;> subst e <;> (try simp only [refuse_state, accept_state]) <;> (simp (config := {maxDischargeDepth := 60}) [pressFollows_mk, h, (pressFollows_def s).symm.trans (eq_true h)])
@[simp] theorem pressFollows_performTicketTake (ticket : Word32) (s : State) (h : PressFollows s) : PressFollows (performTicketTake ticket s).state := by
  generalize e : (performTicketTake ticket s) = t
  unfold performTicketTake at e
  (try dsimp only at e)
  (repeat' split at e) <;> subst e <;> (try simp only [refuse_state, accept_state]) <;> (simp (config := {maxDischargeDepth := 60}) [pressFollows_mk, h, (pressFollows_def s).symm.trans (eq_true h)])
@[simp] theorem pressFollows_performTicketReprint (ticket : Word32) (s : State) (h : PressFollows s) : PressFollows (performTicketReprint ticket s).state := by simpa [pressFollows_def] using h
@[simp] theorem pressFollows_updFeed (s : State) (f : Feed → Feed) (h : PressFollows s) : PressFollows (State.updFeed s f) := by simpa [pressFollows_def] using h
@[simp] theorem pressFollows_updHold (s : State) (f : FeedHold → FeedHold) (h : PressFollows s) : PressFollows (State.updHold s f) := by simpa [pressFollows_def] using h
@[simp] theorem pressFollows_raiseFeedHeld (s : State) (reason : Nat) (h : PressFollows s) : PressFollows (State.raiseFeedHeld s reason) := by simpa [pressFollows_def] using h
@[simp] theorem pressFollows_judgeHeld (s : State) (before : FeedHold) (h : PressFollows s) : PressFollows (State.judgeHeld s before) := by simpa [pressFollows_def] using h
@[simp] theorem pressFollows_judgePicker (s : State) (h : PressFollows s) : PressFollows (State.judgePicker s) := by simpa [pressFollows_def] using h
@[simp] theorem pressFollows_feedEvent (f : State → State) (s : State) (h : PressFollows (f s)) : PressFollows (feedEvent f s) := by
  simp [feedEvent, h]
@[simp] theorem pressFollows_startDivertWatch (s : State) (h : PressFollows s) : PressFollows (State.startDivertWatch s) := by simpa [pressFollows_def] using h
@[simp] theorem pressFollows_takeKiln (s : State) (b : Nat) (k : Kiln) (h : PressFollows s) : PressFollows (State.takeKiln s b k) := by simpa [pressFollows_def] using h
@[simp] theorem pressFollows_hitChargeLimit (s : State) (b : Nat) (k : Kiln) (h : PressFollows s) : PressFollows (State.hitChargeLimit s b k) := by simpa [pressFollows_def] using h
@[simp] theorem pressFollows_selectKiln (s : State) (b : Nat) (h : PressFollows s) : PressFollows (State.selectKiln s b) := by simpa [pressFollows_def] using h
@[simp] theorem pressFollows_attemptSelection (s : State) (h : PressFollows s) : PressFollows (State.attemptSelection s) := by simpa [pressFollows_def] using h
@[simp] theorem pressFollows_closeCharge (s : State) (k : Kiln) (h : PressFollows s) : PressFollows (State.closeCharge s k) := by simpa [pressFollows_def] using h
@[simp] theorem pressFollows_closeFill (s : State) (k : Kiln) (h : PressFollows s) : PressFollows (State.closeFill s k) := by
  generalize e : (State.closeFill s k) = t
  unfold State.closeFill at e
  (try dsimp only at e)
  (repeat' split at e) <;> subst e <;> (try simp only [refuse_state, accept_state]) <;> (simp (config := {maxDischargeDepth := 60}) [pressFollows_mk, h, (pressFollows_def s).symm.trans (eq_true h)])
@[simp] theorem pressFollows_closeAndSelect (s : State) (k : Kiln) (h : PressFollows s) : PressFollows (State.closeAndSelect s k) := by
  generalize e : (State.closeAndSelect s k) = t
  unfold State.closeAndSelect at e
  (try dsimp only at e)
  (repeat' split at e) <;> subst e <;> (try simp only [refuse_state, accept_state]) <;> (simp (config := {maxDischargeDepth := 60}) [pressFollows_mk, h, (pressFollows_def s).symm.trans (eq_true h)])
@[simp] theorem pressFollows_finishOldLot (s : State) (h : PressFollows s) : PressFollows (State.finishOldLot s) := by simpa [pressFollows_def] using h
@[simp] theorem pressFollows_completeChangeover (s : State) (h : PressFollows s) : PressFollows (State.completeChangeover s) := by
  generalize e : (State.completeChangeover s) = t
  unfold State.completeChangeover at e
  (try dsimp only at e)
  (repeat' split at e) <;> subst e <;> (try simp only [refuse_state, accept_state]) <;> (simp (config := {maxDischargeDepth := 60}) [pressFollows_mk, h, (pressFollows_def s).symm.trans (eq_true h)])
@[simp] theorem pressFollows_changeoverExpiry (s : State) (h : PressFollows s) : PressFollows (State.changeoverExpiry s) := by
  generalize e : (State.changeoverExpiry s) = t
  unfold State.changeoverExpiry at e
  (try dsimp only at e)
  (repeat' split at e) <;> subst e <;> (try simp only [refuse_state, accept_state]) <;> (simp (config := {maxDischargeDepth := 60}) [pressFollows_mk, h, (pressFollows_def s).symm.trans (eq_true h)])
@[simp] theorem pressFollows_beltAnswered (s : State) (h : PressFollows s) : PressFollows (State.beltAnswered s) := by
  generalize e : (State.beltAnswered s) = t
  unfold State.beltAnswered at e
  (try dsimp only at e)
  (repeat' split at e) <;> subst e <;> (try simp only [refuse_state, accept_state]) <;> (simp (config := {maxDischargeDepth := 60}) [pressFollows_mk, h, (pressFollows_def s).symm.trans (eq_true h)])
@[simp] theorem pressFollows_divertWatchExpiry (s : State) (h : PressFollows s) : PressFollows (State.divertWatchExpiry s) := by simpa [pressFollows_def] using h
@[simp] theorem pressFollows_divertReport (s : State) (target : Option Kiln) (h : PressFollows s) : PressFollows (State.divertReport s target) := by simpa [pressFollows_def] using h
@[simp] theorem pressFollows_credit (s : State) (inc : Nat) (h : PressFollows s) : PressFollows (State.credit s inc) := by
  generalize e : (State.credit s inc) = t
  unfold State.credit at e
  (try dsimp only at e)
  (repeat' split at e) <;> subst e <;> (try simp only [refuse_state, accept_state]) <;> (simp (config := {maxDischargeDepth := 60}) [pressFollows_mk, h, (pressFollows_def s).symm.trans (eq_true h)])
@[simp] theorem pressFollows_green (s : State) (i : NodeIdx) (value : Word32) (h : PressFollows s) : PressFollows (State.green s i value) := by
  generalize e : (State.green s i value) = t
  unfold State.green at e
  (try dsimp only at e)
  (repeat' split at e) <;> subst e <;> (try simp only [refuse_state, accept_state]) <;> (simp (config := {maxDischargeDepth := 60}) [pressFollows_mk, h, (pressFollows_def s).symm.trans (eq_true h)])
@[simp] theorem pressFollows_feedLot (s : State) (new : Option Nat) (h : PressFollows s) : PressFollows (State.feedLot s new) := by
  generalize e : (State.feedLot s new) = t
  unfold State.feedLot at e
  (try dsimp only at e)
  (repeat' split at e) <;> subst e <;> (try simp only [refuse_state, accept_state]) <;> (simp (config := {maxDischargeDepth := 60}) [pressFollows_mk, h, (pressFollows_def s).symm.trans (eq_true h)])
@[simp] theorem pressFollows_performLotFeed (lot : Word16) (s : State) (h : PressFollows s) : PressFollows (performLotFeed lot s).state := by
  generalize e : (performLotFeed lot s) = t
  unfold performLotFeed at e
  (try dsimp only at e)
  (repeat' split at e) <;> subst e <;> (try simp only [refuse_state, accept_state]) <;> (simp (config := {maxDischargeDepth := 60}) [pressFollows_mk, h, (pressFollows_def s).symm.trans (eq_true h)])
@[simp] theorem pressFollows_performFeedHold (flag : Byte) (s : State) (h : PressFollows s) : PressFollows (performFeedHold flag s).state := by simpa [pressFollows_def] using h
@[simp] theorem pressFollows_performFillOrder (count : Byte) (kilns : List Byte) (s : State) (h : PressFollows s) : PressFollows (performFillOrder count kilns s).state := by simpa [pressFollows_def] using h
@[simp] theorem pressFollows_performLoadClose (s : State) (h : PressFollows s) : PressFollows (performLoadClose s).state := by
  generalize e : (performLoadClose s) = t
  unfold performLoadClose at e
  (try dsimp only at e)
  (repeat' split at e) <;> subst e <;> (try simp only [refuse_state, accept_state]) <;> (simp (config := {maxDischargeDepth := 60}) [pressFollows_mk, h, (pressFollows_def s).symm.trans (eq_true h)])
@[simp] theorem pressFollows_fillBale (s : State) (b : Bale) (gross : Int) (h : PressFollows s) : PressFollows (State.fillBale s b gross) := by simpa [pressFollows_def] using h
@[simp] theorem pressFollows_captured (s : State) (weight : Int) (h : PressFollows s) : PressFollows (State.captured s weight) := by simpa [pressFollows_def] using h
@[simp] theorem pressFollows_notCaptured (s : State) (h : PressFollows s) : PressFollows (State.notCaptured s) := by simpa [pressFollows_def] using h
@[simp] theorem pressFollows_updScale (s : State) (f : Scale → Scale) (h : PressFollows s) : PressFollows (State.updScale s f) := by simpa [pressFollows_def] using h
@[simp] theorem pressFollows_judgeBlock (s : State) (h : PressFollows s) : PressFollows (State.judgeBlock s) := by simpa [pressFollows_def] using h
@[simp] theorem pressFollows_enterFault (s : State) (cause : FaultCause) (h : PressFollows s) : PressFollows (State.enterFault s cause) := by simpa [pressFollows_def] using h
@[simp] theorem pressFollows_faultCause (s : State) (cause : FaultCause) (h : PressFollows s) : PressFollows (State.faultCause s cause) := by simpa [pressFollows_def] using h
@[simp] theorem pressFollows_takeReading (s : State) (r : Int) (h : PressFollows s) : PressFollows (State.takeReading s r) := by simpa [pressFollows_def] using h
@[simp] theorem pressFollows_takeSample (s : State) (st : Byte) (sample : Int) (h : PressFollows s) : PressFollows (State.takeSample s st sample) := by simpa [pressFollows_def] using h
@[simp] theorem pressFollows_frameStart (s : State) (h : PressFollows s) : PressFollows (State.frameStart s) := by simpa [pressFollows_def] using h
@[simp] theorem pressFollows_frameComplete (s : State) (st : Byte) (sample : BitVec 24) (h : PressFollows s) : PressFollows (State.frameComplete s st sample) := by simpa [pressFollows_def] using h
@[simp] theorem pressFollows_frameTorn (s : State) (h : PressFollows s) : PressFollows (State.frameTorn s) := by simpa [pressFollows_def] using h
@[simp] theorem pressFollows_watchExpiry (s : State) (h : PressFollows s) : PressFollows (State.watchExpiry s) := by simpa [pressFollows_def] using h
@[simp] theorem pressFollows_settleTimeout (s : State) (h : PressFollows s) : PressFollows (State.settleTimeout s) := by simpa [pressFollows_def] using h
@[simp] theorem pressFollows_scaleOnScale (s : State) (h : PressFollows s) : PressFollows (State.scaleOnScale s) := by simpa [pressFollows_def] using h
@[simp] theorem pressFollows_createBale (s : State) (k : Kiln) (r : ChargeRef) (value : Word32) (weighing : Bool) (h : PressFollows s) : PressFollows (State.createBale s k r value weighing) := by
  generalize e : (State.createBale s k r value weighing) = t
  unfold State.createBale at e
  (try dsimp only at e)
  (repeat' split at e) <;> subst e <;> (try simp only [refuse_state, accept_state]) <;> (simp (config := {maxDischargeDepth := 60}) [pressFollows_mk, h, (pressFollows_def s).symm.trans (eq_true h)])
@[simp] theorem pressFollows_newCycle (s : State) (value : Word32) (weighing : Bool) (h : PressFollows s) : PressFollows (State.newCycle s value weighing) := by
  generalize e : (State.newCycle s value weighing) = t
  unfold State.newCycle at e
  (try dsimp only at e)
  (repeat' split at e) <;> subst e <;> (try simp only [refuse_state, accept_state]) <;> (simp (config := {maxDischargeDepth := 60}) [pressFollows_mk, h, (pressFollows_def s).symm.trans (eq_true h)])
@[simp] theorem pressFollows_onScale (s : State) (value : Word32) (h : PressFollows s) : PressFollows (State.onScale s value) := by
  generalize e : (State.onScale s value) = t
  unfold State.onScale at e
  (try dsimp only at e)
  (repeat' split at e) <;> subst e <;> (try simp only [refuse_state, accept_state]) <;> (simp (config := {maxDischargeDepth := 60}) [pressFollows_mk, h, (pressFollows_def s).symm.trans (eq_true h)])
@[simp] theorem pressFollows_offScale (s : State) (h : PressFollows s) : PressFollows (State.offScale s) := by simpa [pressFollows_def] using h
@[simp] theorem pressFollows_moisture (s : State) (value : Word32) (h : PressFollows s) : PressFollows (State.moisture s value) := by simpa [pressFollows_def] using h
@[simp] theorem pressFollows_advanceHead (s : State) (h : PressFollows s) : PressFollows (State.advanceHead s) := by simpa [pressFollows_def] using h
@[simp] theorem pressFollows_unloadHead (s : State) (k : Kiln) (h : PressFollows s) : PressFollows (State.unloadHead s k) := by
  unfold State.unloadHead
  dsimp only
  apply pressFollows_serve; apply pressFollows_attemptSelection; exact pressFollows_judgePress' _
@[simp] theorem pressFollows_unloadDone (s : State) (h : PressFollows s) : PressFollows (State.unloadDone s) := by
  generalize e : (State.unloadDone s) = t
  unfold State.unloadDone at e
  (try dsimp only at e)
  (repeat' split at e) <;> subst e <;> (try simp only [refuse_state, accept_state]) <;> (simp (config := {maxDischargeDepth := 60}) [pressFollows_mk, h, (pressFollows_def s).symm.trans (eq_true h)])
@[simp] theorem pressFollows_performUnloadDone (kiln : Byte) (s : State) (h : PressFollows s) : PressFollows (performUnloadDone kiln s).state := by
  generalize e : (performUnloadDone kiln s) = t
  unfold performUnloadDone at e
  (try dsimp only at e)
  (repeat' split at e) <;> subst e <;> (try simp only [refuse_state, accept_state]) <;> (simp (config := {maxDischargeDepth := 60}) [pressFollows_mk, h, (pressFollows_def s).symm.trans (eq_true h)])
@[simp] theorem pressFollows_performPressHold (flag : Byte) (s : State) (h : PressFollows s) : PressFollows (performPressHold flag s).state := by
  unfold performPressHold
  split
  · exact h
  · exact pressFollows_judgePress' _
@[simp] theorem pressFollows_performBaleWeight (bale gross : Word32) (s : State) (h : PressFollows s) : PressFollows (performBaleWeight bale gross s).state := by simpa [pressFollows_def] using h
@[simp] theorem pressFollows_performBaleRead (bale : Word32) (s : State) (h : PressFollows s) : PressFollows (performBaleRead bale s).state := by simpa [pressFollows_def] using h
@[simp] theorem pressFollows_performScaleRead (s : State) (h : PressFollows s) : PressFollows (performScaleRead s).state := by simpa [pressFollows_def] using h
@[simp] theorem pressFollows_performScaleZero (s : State) (h : PressFollows s) : PressFollows (performScaleZero s).state := by simpa [pressFollows_def] using h
@[simp] theorem pressFollows_performScaleCommand (word : Byte) (s : State) (h : PressFollows s) : PressFollows (performScaleCommand word s).state := by simpa [pressFollows_def] using h
@[simp] theorem pressFollows_nodeAnswered (s : State) (i : NodeIdx) (h : PressFollows s) : PressFollows (State.nodeAnswered s i) := by simpa [pressFollows_def] using h
@[simp] theorem pressFollows_reportAnswer (s : State) (i : NodeIdx) (h : PressFollows s) : PressFollows (State.reportAnswer s i) := by
  generalize e : (State.reportAnswer s i) = t
  unfold State.reportAnswer at e
  (try dsimp only at e)
  (repeat' split at e) <;> subst e <;> (try simp only [refuse_state, accept_state]) <;> (simp (config := {maxDischargeDepth := 60}) [pressFollows_mk, h, (pressFollows_def s).symm.trans (eq_true h)])
@[simp] theorem pressFollows_holdBound (s : State) (n : Node) (reason : HoldReason) (h : PressFollows s) : PressFollows (State.holdBound s n reason) := by simpa [pressFollows_def] using h
@[simp] theorem pressFollows_reportLost (s : State) (n : Node) (h : PressFollows s) : PressFollows (State.reportLost s n) := by simpa [pressFollows_def] using h
@[simp] theorem pressFollows_nodeMissed (s : State) (i : NodeIdx) (h : PressFollows s) : PressFollows (State.nodeMissed s i) := by simpa [pressFollows_def] using h
@[simp] theorem pressFollows_missOn (s : State) (t : Transaction) (h : PressFollows s) : PressFollows (State.missOn s t) := by simpa [pressFollows_def] using h
@[simp] theorem pressFollows_forward (s : State) (f : Frame) (h : PressFollows s) : PressFollows (State.forward s f) := by simpa [pressFollows_def] using h
@[simp] theorem pressFollows_applyRoute (s : State) (r : Route) (i : NodeIdx) (f : Frame) (h : PressFollows s) : PressFollows (State.applyRoute s r i f) := by
  generalize e : (State.applyRoute s r i f) = t
  unfold State.applyRoute at e
  (try dsimp only at e)
  (repeat' split at e) <;> subst e <;> (try simp only [refuse_state, accept_state]) <;> (simp (config := {maxDischargeDepth := 60}) [pressFollows_mk, h, (pressFollows_def s).symm.trans (eq_true h)])
@[simp] theorem pressFollows_jobAction (s : State) (r : Route) (x : RouteIdx) (i : NodeIdx) (f : Frame) (h : PressFollows s) : PressFollows (State.jobAction s r x i f) := by
  generalize e : (State.jobAction s r x i f) = t
  unfold State.jobAction at e
  (try dsimp only at e)
  (repeat' split at e) <;> subst e <;> (try simp only [refuse_state, accept_state]) <;> (simp (config := {maxDischargeDepth := 60}) [pressFollows_mk, h, (pressFollows_def s).symm.trans (eq_true h)])
@[simp] theorem pressFollows_copyIf (s : State) (c : Bool) (f : Frame) (h : PressFollows s) : PressFollows (State.copyIf s c f) := by simpa [pressFollows_def] using h
@[simp] theorem pressFollows_classify (s : State) (i : NodeIdx) (f : Frame) (h : PressFollows s) : PressFollows (State.classify s i f) := by
  generalize e : (State.classify s i f) = t
  unfold State.classify at e
  (try dsimp only at e)
  (repeat' split at e) <;> subst e <;> (try simp only [refuse_state, accept_state]) <;> (simp (config := {maxDischargeDepth := 60}) [pressFollows_mk, h, (pressFollows_def s).symm.trans (eq_true h)])
@[simp] theorem pressFollows_endTransaction (s : State) (h : PressFollows s) : PressFollows (State.endTransaction s) := by simpa [pressFollows_def] using h
@[simp] theorem pressFollows_countUnsolicited (s : State) (h : PressFollows s) : PressFollows (State.countUnsolicited s) := by simpa [pressFollows_def] using h
@[simp] theorem pressFollows_pollAnswered (s : State) (i : NodeIdx) (f : Frame) (h : PressFollows s) : PressFollows (State.pollAnswered s i f) := by
  generalize e : (State.pollAnswered s i f) = t
  unfold State.pollAnswered at e
  (try dsimp only at e)
  (repeat' split at e) <;> subst e <;> (try simp only [refuse_state, accept_state]) <;> (simp (config := {maxDischargeDepth := 60}) [pressFollows_mk, h, (pressFollows_def s).symm.trans (eq_true h)])
@[simp] theorem pressFollows_reportConfirmed (s : State) (c : Commanded) (h : PressFollows s) : PressFollows (State.reportConfirmed s c) := by simpa [pressFollows_def] using h
@[simp] theorem pressFollows_commandAnswered (s : State) (i : NodeIdx) (code : Byte) (f : Frame) (h : PressFollows s) : PressFollows (State.commandAnswered s i code f) := by simpa [pressFollows_def] using h
@[simp] theorem pressFollows_blockAnswered (s : State) (i : NodeIdx) (ticket : Nat) (f : Frame) (h : PressFollows s) : PressFollows (State.blockAnswered s i ticket f) := by simpa [pressFollows_def] using h
@[simp] theorem pressFollows_answerBody (s : State) (t : Transaction) (i : NodeIdx) (f : Frame) (h : PressFollows s) : PressFollows (State.answerBody s t i f) := by
  generalize e : (State.answerBody s t i f) = t
  unfold State.answerBody at e
  (try dsimp only at e)
  (repeat' split at e) <;> subst e <;> (try simp only [refuse_state, accept_state]) <;> (simp (config := {maxDischargeDepth := 60}) [pressFollows_mk, h, (pressFollows_def s).symm.trans (eq_true h)])
@[simp] theorem pressFollows_answered (s : State) (t : Transaction) (f : Frame) (h : PressFollows s) : PressFollows (State.answered s t f) := by
  generalize e : (State.answered s t f) = t
  unfold State.answered at e
  (try dsimp only at e)
  (repeat' split at e) <;> subst e <;> (try simp only [refuse_state, accept_state]) <;> (simp (config := {maxDischargeDepth := 60}) [pressFollows_mk, h, (pressFollows_def s).symm.trans (eq_true h)])
@[simp] theorem pressFollows_expired (s : State) (t : Transaction) (h : PressFollows s) : PressFollows (State.expired s t) := by simpa [pressFollows_def] using h
@[simp] theorem pressFollows_afterOther (s : State) (h : PressFollows s) : PressFollows (State.afterOther s) := by simpa [pressFollows_def] using h
@[simp] theorem pressFollows_offerFrame (s : State) (f : Frame) (h : PressFollows s) : PressFollows (State.offerFrame s f) := by
  generalize e : (State.offerFrame s f) = t
  unfold State.offerFrame at e
  (try dsimp only at e)
  (repeat' split at e) <;> subst e <;> (try simp only [refuse_state, accept_state]) <;> (simp (config := {maxDischargeDepth := 60}) [pressFollows_mk, h, (pressFollows_def s).symm.trans (eq_true h)])
@[simp] theorem pressFollows_fieldArrival (s : State) (chars : List Byte) (h : PressFollows s) : PressFollows (State.fieldArrival s chars) := by
  unfold State.fieldArrival
  dsimp only
  have h' := (pressFollows_def s) ▸ h
  split
  · split <;> simp (config := {maxDischargeDepth := 60}) [pressFollows_mk, h']
  · exact h
@[simp] theorem pressFollows_receptionStart (s : State) (h : PressFollows s) : PressFollows (State.receptionStart s) := by simpa [pressFollows_def] using h
@[simp] theorem pressFollows_windowExpiry (s : State) (h : PressFollows s) : PressFollows (State.windowExpiry s) := by simpa [pressFollows_def] using h
@[simp] theorem pressFollows_guardEnd (s : State) (h : PressFollows s) : PressFollows (State.guardEnd s) := by simpa [pressFollows_def] using h
@[simp] theorem pressFollows_transmitDone (s : State) (h : PressFollows s) : PressFollows (State.transmitDone s) := by simpa [pressFollows_def] using h
@[simp] theorem pressFollows_openTransaction (s : State) (kind : TransactionKind) (address : Byte) (node : Option NodeIdx) (frames : List Frame) (window : Nat) (h : PressFollows s) : PressFollows (State.openTransaction s kind address node frames window) := by simpa [pressFollows_def] using h
@[simp] theorem pressFollows_startCommand (s : State) (c : Command) (rest : List Command) (h : PressFollows s) : PressFollows (State.startCommand s c rest) := by simpa [pressFollows_def] using h
@[simp] theorem pressFollows_startBlock (s : State) (ticket : Nat) (h : PressFollows s) : PressFollows (State.startBlock s ticket) := by simpa [pressFollows_def] using h
@[simp] theorem pressFollows_startPass (s : State) (f : Frame) (rest : List Frame) (h : PressFollows s) : PressFollows (State.startPass s f rest) := by simpa [pressFollows_def] using h
@[simp] theorem pressFollows_startPoll (s : State) (i : NodeIdx) (rest : List NodeIdx) (h : PressFollows s) : PressFollows (State.startPoll s i rest) := by simpa [pressFollows_def] using h
@[simp] theorem pressFollows_startSource (s : State) (c : FieldSource) (h : PressFollows s) : PressFollows (State.startSource s c) := by simpa [pressFollows_def] using h
@[simp] theorem pressFollows_startTransaction (s : State) (h : PressFollows s) : PressFollows (State.startTransaction s) := by simpa [pressFollows_def] using h
@[simp] theorem pressFollows_choosing (s : State) (c : Option FieldSource) (h : PressFollows s) : PressFollows (s.choosing c) := by simpa [pressFollows_def] using h
@[simp] theorem pressFollows_scheduleNode (c : CadenceId) (s : State) (i : NodeIdx) (h : PressFollows s) : PressFollows (State.scheduleNode c s i) := by simpa [pressFollows_def] using h
@[simp] theorem pressFollows_updCadence (s : State) (c : CadenceId) (f : Cadence → Cadence) (h : PressFollows s) : PressFollows (State.updCadence s c f) := by simpa [pressFollows_def] using h
@[simp] theorem pressFollows_cadenceExpiry (s : State) (c : CadenceId) (h : PressFollows s) : PressFollows (State.cadenceExpiry s c) := by simpa [pressFollows_def] using h
@[simp] theorem pressFollows_restartField (s : State) (h : PressFollows s) : PressFollows (State.restartField s) := by simpa [pressFollows_def] using h
@[simp] theorem pressFollows_printerWritten (s : State) (before after : Option Role) (h : PressFollows s) : PressFollows (State.printerWritten s before after) := by simpa [pressFollows_def] using h
@[simp] theorem pressFollows_writeNode (s : State) (i : NodeIdx) (g : NodeImage) (h : PressFollows s) : PressFollows (State.writeNode s i g) := by simpa [pressFollows_def] using h
@[simp] theorem pressFollows_performNodeWrite (index : Byte) (image : List Byte) (s : State) (h : PressFollows s) : PressFollows (performNodeWrite index image s).state := by simpa [pressFollows_def] using h
@[simp] theorem pressFollows_performRouteWrite (index : Byte) (image : List Byte) (s : State) (h : PressFollows s) : PressFollows (performRouteWrite index image s).state := by simpa [pressFollows_def] using h
@[simp] theorem pressFollows_performCadenceWrite (index : Byte) (image : List Byte) (s : State) (h : PressFollows s) : PressFollows (performCadenceWrite index image s).state := by simpa [pressFollows_def] using h
@[simp] theorem pressFollows_setKilnEntry (s : State) (k : Kiln) (e : KilnEntry) (h : PressFollows s) : PressFollows (State.setKilnEntry s k e) := by simpa [pressFollows_def] using h
@[simp] theorem pressFollows_performKilnWrite (index : Byte) (image : List Byte) (s : State) (h : PressFollows s) : PressFollows (performKilnWrite index image s).state := by simpa [pressFollows_def] using h
@[simp] theorem pressFollows_performScheduleWrite (index : Byte) (image : List Byte) (s : State) (h : PressFollows s) : PressFollows (performScheduleWrite index image s).state := by simpa [pressFollows_def] using h
@[simp] theorem pressFollows_performStepWrite (index : Byte) (image : List Byte) (s : State) (h : PressFollows s) : PressFollows (performStepWrite index image s).state := by simpa [pressFollows_def] using h
@[simp] theorem pressFollows_performVarietyWrite (index : Byte) (image : List Byte) (s : State) (h : PressFollows s) : PressFollows (performVarietyWrite index image s).state := by simpa [pressFollows_def] using h
@[simp] theorem pressFollows_performTareWrite (index : Byte) (image : List Byte) (s : State) (h : PressFollows s) : PressFollows (performTareWrite index image s).state := by simpa [pressFollows_def] using h
@[simp] theorem pressFollows_performScaleSetupWrite (index : Byte) (image : List Byte) (s : State) (h : PressFollows s) : PressFollows (performScaleSetupWrite index image s).state := by simpa [pressFollows_def] using h
@[simp] theorem pressFollows_performStationWrite (index : Byte) (image : List Byte) (s : State) (h : PressFollows s) : PressFollows (performStationWrite index image s).state := by
  unfold performStationWrite
  repeat' split
  all_goals (try dsimp only)
  repeat' split
  all_goals first | exact h | exact pressFollows_judgeStore' _
@[simp] theorem pressFollows_performTableRead (table index part : Byte) (s : State) (h : PressFollows s) : PressFollows (performTableRead table index part s).state := by simpa [pressFollows_def] using h
@[simp] theorem pressFollows_performTableWrite (table index : Byte) (image : List Byte) (s : State) (h : PressFollows s) : PressFollows (performTableWrite table index image s).state := by
  generalize e : (performTableWrite table index image s) = t
  unfold performTableWrite at e
  (try dsimp only at e)
  (repeat' split at e) <;> subst e <;> (try simp only [refuse_state, accept_state]) <;> (simp (config := {maxDischargeDepth := 60}) [pressFollows_mk, h, (pressFollows_def s).symm.trans (eq_true h)])
@[simp] theorem pressFollows_addLot (s : State) (l : Lot) (h : PressFollows s) : PressFollows (State.addLot s l) := by simpa [pressFollows_def] using h
@[simp] theorem pressFollows_performLotOpen (lot grower : Word16) (variety : Byte) (s : State) (h : PressFollows s) : PressFollows (performLotOpen lot grower variety s).state := by simpa [pressFollows_def] using h
@[simp] theorem pressFollows_performLotRead (lot : Word16) (item : Byte) (s : State) (h : PressFollows s) : PressFollows (performLotRead lot item s).state := by simpa [pressFollows_def] using h
@[simp] theorem pressFollows_performLotVoid (lot : Word16) (s : State) (h : PressFollows s) : PressFollows (performLotVoid lot s).state := by simpa [pressFollows_def] using h
@[simp] theorem pressFollows_performLotClose (lot : Word16) (s : State) (h : PressFollows s) : PressFollows (performLotClose lot s).state := by simpa [pressFollows_def] using h
@[simp] theorem pressFollows_clearCounts (s : State) (h : PressFollows s) : PressFollows (State.clearCounts s) := by simpa [pressFollows_def] using h
@[simp] theorem pressFollows_performStatus (clear page : Byte) (s : State) (h : PressFollows s) : PressFollows (performStatus clear page s).state := by simpa [pressFollows_def] using h
@[simp] theorem pressFollows_performTimeSet (time : Word32) (s : State) (h : PressFollows s) : PressFollows (performTimeSet time s).state := by simpa [pressFollows_def] using h
@[simp] theorem pressFollows_secondPassed (s : State) (h : PressFollows s) : PressFollows (State.secondPassed s) := by simpa [pressFollows_def] using h
@[simp] theorem pressFollows_restartStation (s : State) (h : PressFollows s) : PressFollows (State.restartStation s) := by
  simp [State.restartStation, pressFollows_mk, PressIs]
@[simp] theorem pressFollows_performRestart (scope : Byte) (s : State) (h : PressFollows s) : PressFollows (performRestart scope s).state := by
  generalize e : (performRestart scope s) = t
  unfold performRestart at e
  (try dsimp only at e)
  (repeat' split at e) <;> subst e <;> (try simp only [refuse_state, accept_state]) <;> (simp (config := {maxDischargeDepth := 60}) [pressFollows_mk, h, (pressFollows_def s).symm.trans (eq_true h)])
@[simp] theorem pressFollows_performRequest (r : Request) (s : State) (h : PressFollows s) : PressFollows (performRequest r s).state := by
  generalize e : (performRequest r s) = t
  unfold performRequest at e
  (try dsimp only at e)
  (repeat' split at e) <;> subst e <;> (try simp only [refuse_state, accept_state]) <;> (simp (config := {maxDischargeDepth := 60}) [pressFollows_mk, h, (pressFollows_def s).symm.trans (eq_true h)])
@[simp] theorem pressFollows_setReply (s : State) (payload : List Byte) (h : PressFollows s) : PressFollows (State.setReply s payload) := by simpa [pressFollows_def] using h
@[simp] theorem pressFollows_performPayload (payload : List Byte) (s : State) (h : PressFollows s) : PressFollows (performPayload payload s).2.2.state := by
  unfold performPayload
  repeat' split
  all_goals simp [h]
@[simp] theorem pressFollows_executeFrame (s : State) (f : Frame) (h : PressFollows s) : PressFollows (State.executeFrame s f) := by
  generalize e : (State.executeFrame s f) = t
  unfold State.executeFrame at e
  (try dsimp only at e)
  (repeat' split at e) <;> subst e <;> (try simp only [refuse_state, accept_state]) <;> (simp (config := {maxDischargeDepth := 60}) [pressFollows_mk, h, (pressFollows_def s).symm.trans (eq_true h)])
@[simp] theorem pressFollows_executeHead (s : State) (h : PressFollows s) : PressFollows (State.executeHead s) := by
  generalize e : (State.executeHead s) = t
  unfold State.executeHead at e
  (try dsimp only at e)
  (repeat' split at e) <;> subst e <;> (try simp only [refuse_state, accept_state]) <;> (simp (config := {maxDischargeDepth := 60}) [pressFollows_mk, h, (pressFollows_def s).symm.trans (eq_true h)])
@[simp] theorem pressFollows_admitRequest (s : State) (f : Frame) (h : PressFollows s) : PressFollows (State.admitRequest s f) := by
  generalize e : (State.admitRequest s f) = t
  unfold State.admitRequest at e
  (try dsimp only at e)
  (repeat' split at e) <;> subst e <;> (try simp only [refuse_state, accept_state]) <;> (simp (config := {maxDischargeDepth := 60}) [pressFollows_mk, h, (pressFollows_def s).symm.trans (eq_true h)])
@[simp] theorem pressFollows_completeRequest (s : State) (h : PressFollows s) : PressFollows (State.completeRequest s) := by
  generalize e : (State.completeRequest s) = t
  unfold State.completeRequest at e
  (try dsimp only at e)
  (repeat' split at e) <;> subst e <;> (try simp only [refuse_state, accept_state]) <;> (simp (config := {maxDischargeDepth := 60}) [pressFollows_mk, h, (pressFollows_def s).symm.trans (eq_true h)])
@[simp] theorem pressFollows_submit (tag : Byte) (r : Request) (s : State) (h : PressFollows s) : PressFollows (State.submit tag r s) := by
  generalize e : (State.submit tag r s) = t
  unfold State.submit at e
  (try dsimp only at e)
  (repeat' split at e) <;> subst e <;> (try simp only [refuse_state, accept_state]) <;> (simp (config := {maxDischargeDepth := 60}) [pressFollows_mk, h, (pressFollows_def s).symm.trans (eq_true h)])
@[simp] theorem pressFollows_updLink (s : State) (f : Link → Link) (h : PressFollows s) : PressFollows (State.updLink s f) := by simpa [pressFollows_def] using h
@[simp] theorem pressFollows_validArrival (s : State) (h : PressFollows s) : PressFollows (State.validArrival s) := by simpa [pressFollows_def] using h
@[simp] theorem pressFollows_linkSilent (s : State) (h : PressFollows s) : PressFollows (State.linkSilent s) := by simpa [pressFollows_def] using h
@[simp] theorem pressFollows_offerPass (s : State) (f : Frame) (h : PressFollows s) : PressFollows (State.offerPass s f) := by simpa [pressFollows_def] using h
@[simp] theorem pressFollows_classifyUpstream (s : State) (f : Frame) (h : PressFollows s) : PressFollows (State.classifyUpstream s f) := by
  generalize e : (State.classifyUpstream s f) = t
  unfold State.classifyUpstream at e
  (try dsimp only at e)
  (repeat' split at e) <;> subst e <;> (try simp only [refuse_state, accept_state]) <;> (simp (config := {maxDischargeDepth := 60}) [pressFollows_mk, h, (pressFollows_def s).symm.trans (eq_true h)])
@[simp] theorem pressFollows_upstreamArrival (s : State) (chars : List Byte) (h : PressFollows s) : PressFollows (State.upstreamArrival s chars) := by
  generalize e : (State.upstreamArrival s chars) = t
  unfold State.upstreamArrival at e
  (try dsimp only at e)
  (repeat' split at e) <;> subst e <;> (try simp only [refuse_state, accept_state]) <;> (simp (config := {maxDischargeDepth := 60}) [pressFollows_mk, h, (pressFollows_def s).symm.trans (eq_true h)])
@[simp] theorem pressFollows_idleGap (s : State) (port : Port) (h : PressFollows s) : PressFollows (State.idleGap s port) := by simpa [pressFollows_def] using h
@[simp] theorem pressFollows_startUpstream (s : State) (t : UpTransmit) (h : PressFollows s) : PressFollows (State.startUpstream s t) := by simpa [pressFollows_def] using h
@[simp] theorem pressFollows_upstreamTransmit (s : State) (h : PressFollows s) : PressFollows (State.upstreamTransmit s) := by simpa [pressFollows_def] using h
@[simp] theorem pressFollows_replySent (s : State) (h : PressFollows s) : PressFollows (State.replySent s) := by
  generalize e : (State.replySent s) = t
  unfold State.replySent at e
  (try dsimp only at e)
  (repeat' split at e) <;> subst e <;> (try simp only [refuse_state, accept_state]) <;> (simp (config := {maxDischargeDepth := 60}) [pressFollows_mk, h, (pressFollows_def s).symm.trans (eq_true h)])
@[simp] theorem pressFollows_segmentSent (s : State) (h : PressFollows s) : PressFollows (State.segmentSent s) := by
  generalize e : (State.segmentSent s) = t
  unfold State.segmentSent at e
  (try dsimp only at e)
  (repeat' split at e) <;> subst e <;> (try simp only [refuse_state, accept_state]) <;> (simp (config := {maxDischargeDepth := 60}) [pressFollows_mk, h, (pressFollows_def s).symm.trans (eq_true h)])
@[simp] theorem pressFollows_upstreamFrameSent (s : State) (h : PressFollows s) : PressFollows (State.upstreamFrameSent s) := by
  generalize e : (State.upstreamFrameSent s) = t
  unfold State.upstreamFrameSent at e
  (try dsimp only at e)
  (repeat' split at e) <;> subst e <;> (try simp only [refuse_state, accept_state]) <;> (simp (config := {maxDischargeDepth := 60}) [pressFollows_mk, h, (pressFollows_def s).symm.trans (eq_true h)])

/-- The picker command by the feed-hold reason set (R59). -/
def PickerIs (p : RunHold) (h : FeedHold) : Prop := p = if h.isEmpty then .run else .hold
/-- The same of a state. -/
@[irreducible] def PickerFollows (s : State) : Prop := PickerIs s.feed.picker s.feed.hold
theorem pickerFollows_def (s : State) : PickerFollows s = PickerIs s.feed.picker s.feed.hold := by unfold PickerFollows; rfl
theorem pickerFollows_mk (a b c d e f g h i j k l) : PickerFollows (State.mk a b c d e f g h i j k l) = PickerIs g.picker g.hold := by unfold PickerFollows; rfl
theorem pickerFollows_feedEvent (f : State → State) (s : State) : PickerFollows (feedEvent f s) := by
  unfold feedEvent State.judgePicker
  split
  · rename_i h; simp only [pickerFollows_def, PickerIs]; exact h
  · simp [pickerFollows_def, PickerIs, State.pickerWanted]
@[simp] theorem pickerFollows_raiseOpt (s : State) (k : NoticeKind) (o : Nat) (v : Option Word32) (h : PickerFollows s) : PickerFollows (State.raiseOpt s k o v) := by simpa [pickerFollows_def] using h
@[simp] theorem pickerFollows_raise (s : State) (k : NoticeKind) (o : Nat) (v : Int) (h : PickerFollows s) : PickerFollows (State.raise s k o v) := by simpa [pickerFollows_def] using h
@[simp] theorem pickerFollows_updLot (s : State) (n : Nat) (f : Lot → Lot) (h : PickerFollows s) : PickerFollows (State.updLot s n f) := by simpa [pickerFollows_def] using h
@[simp] theorem pickerFollows_updCharge (s : State) (r : ChargeRef) (f : Charge → Charge) (h : PickerFollows s) : PickerFollows (State.updCharge s r f) := by simpa [pickerFollows_def] using h
@[simp] theorem pickerFollows_removeLot (s : State) (n : Nat) (h : PickerFollows s) : PickerFollows (State.removeLot s n) := by simpa [pickerFollows_def] using h
@[simp] theorem pickerFollows_setNode (s : State) (i : NodeIdx) (n : Node) (h : PickerFollows s) : PickerFollows (State.setNode s i n) := by simpa [pickerFollows_def] using h
@[simp] theorem pickerFollows_placeCommand (s : State) (i : NodeIdx) (c : Commanded) (h : PickerFollows s) : PickerFollows (State.placeCommand s i c) := by simpa [pickerFollows_def] using h
@[simp] theorem pickerFollows_writeCommanded (s : State) (i : Option NodeIdx) (c : Commanded) (h : PickerFollows s) : PickerFollows (State.writeCommanded s i c) := by simpa [pickerFollows_def] using h
@[simp] theorem pickerFollows_clearCommanded (s : State) (i : Option NodeIdx) (h : PickerFollows s) : PickerFollows (State.clearCommanded s i) := by simpa [pickerFollows_def] using h
@[simp] theorem pickerFollows_updKiln (s : State) (k : Kiln) (f : KilnRun → KilnRun) (h : PickerFollows s) : PickerFollows (State.updKiln s k f) := by simpa [pickerFollows_def] using h
@[simp] theorem pickerFollows_updKilnCharge (s : State) (k : Kiln) (f : Charge → Charge) (h : PickerFollows s) : PickerFollows (State.updKilnCharge s k f) := by simpa [pickerFollows_def] using h
@[simp] theorem pickerFollows_updBale (s : State) (n : Nat) (f : Bale → Bale) (h : PickerFollows s) : PickerFollows (State.updBale s n f) := by simpa [pickerFollows_def] using h
@[simp] theorem pickerFollows_judgePress (s : State) (h : PickerFollows s) : PickerFollows (State.judgePress s) := by simpa [pickerFollows_def] using h
@[simp] theorem pickerFollows_judgeStore (s : State) (h : PickerFollows s) : PickerFollows (State.judgeStore s) := by simpa [pickerFollows_def] using h
@[simp] theorem pickerFollows_becomeHead (s : State) (k : Kiln) (h : PickerFollows s) : PickerFollows (State.becomeHead s k) := by simpa [pickerFollows_def] using h
@[simp] theorem pickerFollows_joinPressQueue (s : State) (k : Kiln) (h : PickerFollows s) : PickerFollows (State.joinPressQueue s k) := by simpa [pickerFollows_def] using h
@[simp] theorem pickerFollows_writeBurner (s : State) (k : Kiln) (h : PickerFollows s) : PickerFollows (State.writeBurner s k) := by simpa [pickerFollows_def] using h
@[simp] theorem pickerFollows_kilnDried (s : State) (k : Kiln) (h : PickerFollows s) : PickerFollows (State.kilnDried s k) := by simpa [pickerFollows_def] using h
@[simp] theorem pickerFollows_enterStep (s : State) (k : Kiln) (h : PickerFollows s) : PickerFollows (State.enterStep s k) := by simpa [pickerFollows_def] using h
@[simp] theorem pickerFollows_nextStep (s : State) (k : Kiln) (h : PickerFollows s) : PickerFollows (State.nextStep s k) := by simpa [pickerFollows_def] using h
@[simp] theorem pickerFollows_holdKiln (s : State) (k : Kiln) (reason : HoldReason) (h : PickerFollows s) : PickerFollows (State.holdKiln s k reason) := by simpa [pickerFollows_def] using h
@[simp] theorem pickerFollows_kilnAir (s : State) (k : Kiln) (value : Int) (h : PickerFollows s) : PickerFollows (State.kilnAir s k value) := by simpa [pickerFollows_def] using h
@[simp] theorem pickerFollows_kilnExhaust (s : State) (k : Kiln) (value : Int) (h : PickerFollows s) : PickerFollows (State.kilnExhaust s k value) := by simpa [pickerFollows_def] using h
@[simp] theorem pickerFollows_startRun (s : State) (k : Kiln) (d : Fin 8) (h : PickerFollows s) : PickerFollows (State.startRun s k d) := by simpa [pickerFollows_def] using h
@[simp] theorem pickerFollows_autoStart (s : State) (k : Kiln) (h : PickerFollows s) : PickerFollows (State.autoStart s k) := by simpa [pickerFollows_def] using h
@[simp] theorem pickerFollows_kilnLoaded (s : State) (k : Kiln) (h : PickerFollows s) : PickerFollows (State.kilnLoaded s k) := by simpa [pickerFollows_def] using h
@[simp] theorem pickerFollows_kilnEmptied (s : State) (k : Kiln) (h : PickerFollows s) : PickerFollows (State.kilnEmptied s k) := by simpa [pickerFollows_def] using h
@[simp] theorem pickerFollows_stepEnd (s : State) (k : Kiln) (h : PickerFollows s) : PickerFollows (State.stepEnd s k) := by simpa [pickerFollows_def] using h
@[simp] theorem pickerFollows_rampMinute (s : State) (k : Kiln) (h : PickerFollows s) : PickerFollows (State.rampMinute s k) := by simpa [pickerFollows_def] using h
@[simp] theorem pickerFollows_dryToOvertime (s : State) (k : Kiln) (h : PickerFollows s) : PickerFollows (State.dryToOvertime s k) := by simpa [pickerFollows_def] using h
@[simp] theorem pickerFollows_abortCoolingEnd (s : State) (k : Kiln) (h : PickerFollows s) : PickerFollows (State.abortCoolingEnd s k) := by simpa [pickerFollows_def] using h
@[simp] theorem pickerFollows_refreshExpiry (s : State) (k : Kiln) (h : PickerFollows s) : PickerFollows (State.refreshExpiry s k) := by simpa [pickerFollows_def] using h
@[simp] theorem pickerFollows_performKilnStart (kiln : Byte) (s : State) (h : PickerFollows s) : PickerFollows (performKilnStart kiln s).state := by simpa [pickerFollows_def] using h
@[simp] theorem pickerFollows_performKilnHold (kiln : Byte) (s : State) (h : PickerFollows s) : PickerFollows (performKilnHold kiln s).state := by simpa [pickerFollows_def] using h
@[simp] theorem pickerFollows_resume (s : State) (k : Kiln) (m : ResumeMode) (h : PickerFollows s) : PickerFollows (State.resume s k m) := by simpa [pickerFollows_def] using h
@[simp] theorem pickerFollows_performKilnResume (kiln mode : Byte) (s : State) (h : PickerFollows s) : PickerFollows (performKilnResume kiln mode s).state := by simpa [pickerFollows_def] using h
@[simp] theorem pickerFollows_abort (s : State) (k : Kiln) (h : PickerFollows s) : PickerFollows (State.abort s k) := by simpa [pickerFollows_def] using h
@[simp] theorem pickerFollows_performKilnAbort (kiln : Byte) (s : State) (h : PickerFollows s) : PickerFollows (performKilnAbort kiln s).state := by simpa [pickerFollows_def] using h
@[simp] theorem pickerFollows_performKilnRead (kiln : Byte) (s : State) (h : PickerFollows s) : PickerFollows (performKilnRead kiln s).state := by simpa [pickerFollows_def] using h
@[simp] theorem pickerFollows_setPrint (s : State) (n : Nat) (p : PrintState) (h : PickerFollows s) : PickerFollows (State.setPrint s n p) := by simpa [pickerFollows_def] using h
@[simp] theorem pickerFollows_setProcess (s : State) (p : PrintProcess) (h : PickerFollows s) : PickerFollows (State.setProcess s p) := by simpa [pickerFollows_def] using h
@[simp] theorem pickerFollows_printScan (s : State) (h : PickerFollows s) : PickerFollows (State.printScan s) := by simpa [pickerFollows_def] using h
@[simp] theorem pickerFollows_promptPrint (s : State) (h : PickerFollows s) : PickerFollows (State.promptPrint s) := by simpa [pickerFollows_def] using h
@[simp] theorem pickerFollows_testComposition (s : State) (r : ChargeRef) (h : PickerFollows s) : PickerFollows (State.testComposition s r) := by simpa [pickerFollows_def] using h
@[simp] theorem pickerFollows_issueTicket (s : State) (r : ChargeRef) (t : Ticket) (h : PickerFollows s) : PickerFollows (State.issueTicket s r t) := by simpa [pickerFollows_def] using h
@[simp] theorem pickerFollows_compose (s : State) (r : ChargeRef) (h : PickerFollows s) : PickerFollows (State.compose s r) := by simpa [pickerFollows_def] using h
@[simp] theorem pickerFollows_serveFuel (n : Nat) (s : State) (h : PickerFollows s) : PickerFollows (State.serveFuel n s) := by
  induction n generalizing s with
  | zero => simpa [State.serveFuel]
  | succ n ih =>
    unfold State.serveFuel
    split
    · exact h
    · split
      · apply ih; apply pickerFollows_compose
        simpa [pickerFollows_def] using h
      · exact h
@[simp] theorem pickerFollows_serve (s : State) (h : PickerFollows s) : PickerFollows (State.serve s) := by simpa [pickerFollows_def] using h
@[simp] theorem pickerFollows_offerCharge (s : State) (r : ChargeRef) (h : PickerFollows s) : PickerFollows (State.offerCharge s r) := by simpa [pickerFollows_def] using h
@[simp] theorem pickerFollows_performTicketBase (nextTicket nextBale : Word32) (s : State) (h : PickerFollows s) : PickerFollows (performTicketBase nextTicket nextBale s).state := by simpa [pickerFollows_def] using h
@[simp] theorem pickerFollows_performTicketRead (ticket : Word32) (s : State) (h : PickerFollows s) : PickerFollows (performTicketRead ticket s).state := by simpa [pickerFollows_def] using h
@[simp] theorem pickerFollows_takeTicket (s : State) (t : Ticket) (h : PickerFollows s) : PickerFollows (State.takeTicket s t) := by simpa [pickerFollows_def] using h
@[simp] theorem pickerFollows_performTicketTake (ticket : Word32) (s : State) (h : PickerFollows s) : PickerFollows (performTicketTake ticket s).state := by simpa [pickerFollows_def] using h
@[simp] theorem pickerFollows_performTicketReprint (ticket : Word32) (s : State) (h : PickerFollows s) : PickerFollows (performTicketReprint ticket s).state := by simpa [pickerFollows_def] using h
@[simp] theorem pickerFollows_raiseFeedHeld (s : State) (reason : Nat) (h : PickerFollows s) : PickerFollows (State.raiseFeedHeld s reason) := by simpa [pickerFollows_def] using h
@[simp] theorem pickerFollows_judgeHeld (s : State) (before : FeedHold) (h : PickerFollows s) : PickerFollows (State.judgeHeld s before) := by simpa [pickerFollows_def] using h
@[simp] theorem pickerFollows_closeCharge (s : State) (k : Kiln) (h : PickerFollows s) : PickerFollows (State.closeCharge s k) := by simpa [pickerFollows_def] using h
@[simp] theorem pickerFollows_finishOldLot (s : State) (h : PickerFollows s) : PickerFollows (State.finishOldLot s) := by simpa [pickerFollows_def] using h
@[simp] theorem pickerFollows_performLotFeed (lot : Word16) (s : State) (h : PickerFollows s) : PickerFollows (performLotFeed lot s).state := by
  unfold performLotFeed
  repeat' split
  all_goals (try dsimp only)
  repeat' split
  all_goals first | exact h | (simp only [accept_state]; exact pickerFollows_feedEvent _ _)
@[simp] theorem pickerFollows_performFeedHold (flag : Byte) (s : State) (h : PickerFollows s) : PickerFollows (performFeedHold flag s).state := by
  unfold performFeedHold
  repeat' split
  all_goals (try dsimp only)
  repeat' split
  all_goals first | exact h | (simp only [accept_state]; exact pickerFollows_feedEvent _ _)
@[simp] theorem pickerFollows_performFillOrder (count : Byte) (kilns : List Byte) (s : State) (h : PickerFollows s) : PickerFollows (performFillOrder count kilns s).state := by
  unfold performFillOrder
  repeat' split
  all_goals (try dsimp only)
  repeat' split
  all_goals first | exact h | (simp only [accept_state]; exact pickerFollows_feedEvent _ _)
@[simp] theorem pickerFollows_performLoadClose (s : State) (h : PickerFollows s) : PickerFollows (performLoadClose s).state := by
  unfold performLoadClose
  repeat' split
  all_goals (try dsimp only)
  repeat' split
  all_goals first | exact h | (simp only [accept_state]; exact pickerFollows_feedEvent _ _)
@[simp] theorem pickerFollows_fillBale (s : State) (b : Bale) (gross : Int) (h : PickerFollows s) : PickerFollows (State.fillBale s b gross) := by simpa [pickerFollows_def] using h
@[simp] theorem pickerFollows_captured (s : State) (weight : Int) (h : PickerFollows s) : PickerFollows (State.captured s weight) := by simpa [pickerFollows_def] using h
@[simp] theorem pickerFollows_notCaptured (s : State) (h : PickerFollows s) : PickerFollows (State.notCaptured s) := by simpa [pickerFollows_def] using h
@[simp] theorem pickerFollows_updScale (s : State) (f : Scale → Scale) (h : PickerFollows s) : PickerFollows (State.updScale s f) := by simpa [pickerFollows_def] using h
@[simp] theorem pickerFollows_judgeBlock (s : State) (h : PickerFollows s) : PickerFollows (State.judgeBlock s) := by simpa [pickerFollows_def] using h
@[simp] theorem pickerFollows_enterFault (s : State) (cause : FaultCause) (h : PickerFollows s) : PickerFollows (State.enterFault s cause) := by simpa [pickerFollows_def] using h
@[simp] theorem pickerFollows_faultCause (s : State) (cause : FaultCause) (h : PickerFollows s) : PickerFollows (State.faultCause s cause) := by simpa [pickerFollows_def] using h
@[simp] theorem pickerFollows_takeReading (s : State) (r : Int) (h : PickerFollows s) : PickerFollows (State.takeReading s r) := by simpa [pickerFollows_def] using h
@[simp] theorem pickerFollows_takeSample (s : State) (st : Byte) (sample : Int) (h : PickerFollows s) : PickerFollows (State.takeSample s st sample) := by simpa [pickerFollows_def] using h
@[simp] theorem pickerFollows_frameStart (s : State) (h : PickerFollows s) : PickerFollows (State.frameStart s) := by simpa [pickerFollows_def] using h
@[simp] theorem pickerFollows_frameComplete (s : State) (st : Byte) (sample : BitVec 24) (h : PickerFollows s) : PickerFollows (State.frameComplete s st sample) := by simpa [pickerFollows_def] using h
@[simp] theorem pickerFollows_frameTorn (s : State) (h : PickerFollows s) : PickerFollows (State.frameTorn s) := by simpa [pickerFollows_def] using h
@[simp] theorem pickerFollows_watchExpiry (s : State) (h : PickerFollows s) : PickerFollows (State.watchExpiry s) := by simpa [pickerFollows_def] using h
@[simp] theorem pickerFollows_settleTimeout (s : State) (h : PickerFollows s) : PickerFollows (State.settleTimeout s) := by simpa [pickerFollows_def] using h
@[simp] theorem pickerFollows_scaleOnScale (s : State) (h : PickerFollows s) : PickerFollows (State.scaleOnScale s) := by simpa [pickerFollows_def] using h
@[simp] theorem pickerFollows_createBale (s : State) (k : Kiln) (r : ChargeRef) (value : Word32) (weighing : Bool) (h : PickerFollows s) : PickerFollows (State.createBale s k r value weighing) := by simpa [pickerFollows_def] using h
@[simp] theorem pickerFollows_newCycle (s : State) (value : Word32) (weighing : Bool) (h : PickerFollows s) : PickerFollows (State.newCycle s value weighing) := by simpa [pickerFollows_def] using h
@[simp] theorem pickerFollows_onScale (s : State) (value : Word32) (h : PickerFollows s) : PickerFollows (State.onScale s value) := by simpa [pickerFollows_def] using h
@[simp] theorem pickerFollows_offScale (s : State) (h : PickerFollows s) : PickerFollows (State.offScale s) := by
  unfold State.offScale
  dsimp only
  rw [pickerFollows_mk, ← pickerFollows_def]
  split <;> simp (config := {maxDischargeDepth := 60}) only [pickerFollows_raise, pickerFollows_updScale, pickerFollows_notCaptured, h]
@[simp] theorem pickerFollows_moisture (s : State) (value : Word32) (h : PickerFollows s) : PickerFollows (State.moisture s value) := by simpa [pickerFollows_def] using h
@[simp] theorem pickerFollows_advanceHead (s : State) (h : PickerFollows s) : PickerFollows (State.advanceHead s) := by simpa [pickerFollows_def] using h
@[simp] theorem pickerFollows_performUnloadDone (kiln : Byte) (s : State) (h : PickerFollows s) : PickerFollows (performUnloadDone kiln s).state := by
  unfold performUnloadDone
  repeat' split
  all_goals (try dsimp only)
  repeat' split
  all_goals first | exact h | (simp only [accept_state]; exact pickerFollows_feedEvent _ _)
@[simp] theorem pickerFollows_performPressHold (flag : Byte) (s : State) (h : PickerFollows s) : PickerFollows (performPressHold flag s).state := by simpa [pickerFollows_def] using h
@[simp] theorem pickerFollows_performBaleWeight (bale gross : Word32) (s : State) (h : PickerFollows s) : PickerFollows (performBaleWeight bale gross s).state := by simpa [pickerFollows_def] using h
@[simp] theorem pickerFollows_performBaleRead (bale : Word32) (s : State) (h : PickerFollows s) : PickerFollows (performBaleRead bale s).state := by simpa [pickerFollows_def] using h
@[simp] theorem pickerFollows_performScaleRead (s : State) (h : PickerFollows s) : PickerFollows (performScaleRead s).state := by simpa [pickerFollows_def] using h
@[simp] theorem pickerFollows_performScaleZero (s : State) (h : PickerFollows s) : PickerFollows (performScaleZero s).state := by simpa [pickerFollows_def] using h
@[simp] theorem pickerFollows_performScaleCommand (word : Byte) (s : State) (h : PickerFollows s) : PickerFollows (performScaleCommand word s).state := by simpa [pickerFollows_def] using h
@[simp] theorem pickerFollows_nodeAnswered (s : State) (i : NodeIdx) (h : PickerFollows s) : PickerFollows (State.nodeAnswered s i) := by simpa [pickerFollows_def] using h
@[simp] theorem pickerFollows_holdBound (s : State) (n : Node) (reason : HoldReason) (h : PickerFollows s) : PickerFollows (State.holdBound s n reason) := by simpa [pickerFollows_def] using h
@[simp] theorem pickerFollows_reportLost (s : State) (n : Node) (h : PickerFollows s) : PickerFollows (State.reportLost s n) := by simpa [pickerFollows_def] using h
@[simp] theorem pickerFollows_nodeMissed (s : State) (i : NodeIdx) (h : PickerFollows s) : PickerFollows (State.nodeMissed s i) := by simpa [pickerFollows_def] using h
@[simp] theorem pickerFollows_missOn (s : State) (t : Transaction) (h : PickerFollows s) : PickerFollows (State.missOn s t) := by simpa [pickerFollows_def] using h
@[simp] theorem pickerFollows_forward (s : State) (f : Frame) (h : PickerFollows s) : PickerFollows (State.forward s f) := by simpa [pickerFollows_def] using h
@[simp] theorem pickerFollows_copyIf (s : State) (c : Bool) (f : Frame) (h : PickerFollows s) : PickerFollows (State.copyIf s c f) := by simpa [pickerFollows_def] using h
@[simp] theorem pickerFollows_endTransaction (s : State) (h : PickerFollows s) : PickerFollows (State.endTransaction s) := by simpa [pickerFollows_def] using h
@[simp] theorem pickerFollows_countUnsolicited (s : State) (h : PickerFollows s) : PickerFollows (State.countUnsolicited s) := by simpa [pickerFollows_def] using h
@[simp] theorem pickerFollows_blockAnswered (s : State) (i : NodeIdx) (ticket : Nat) (f : Frame) (h : PickerFollows s) : PickerFollows (State.blockAnswered s i ticket f) := by simpa [pickerFollows_def] using h
@[simp] theorem pickerFollows_expired (s : State) (t : Transaction) (h : PickerFollows s) : PickerFollows (State.expired s t) := by simpa [pickerFollows_def] using h
@[simp] theorem pickerFollows_afterOther (s : State) (h : PickerFollows s) : PickerFollows (State.afterOther s) := by simpa [pickerFollows_def] using h
@[simp] theorem pickerFollows_receptionStart (s : State) (h : PickerFollows s) : PickerFollows (State.receptionStart s) := by simpa [pickerFollows_def] using h
@[simp] theorem pickerFollows_windowExpiry (s : State) (h : PickerFollows s) : PickerFollows (State.windowExpiry s) := by simpa [pickerFollows_def] using h
@[simp] theorem pickerFollows_guardEnd (s : State) (h : PickerFollows s) : PickerFollows (State.guardEnd s) := by simpa [pickerFollows_def] using h
@[simp] theorem pickerFollows_transmitDone (s : State) (h : PickerFollows s) : PickerFollows (State.transmitDone s) := by simpa [pickerFollows_def] using h
@[simp] theorem pickerFollows_openTransaction (s : State) (kind : TransactionKind) (address : Byte) (node : Option NodeIdx) (frames : List Frame) (window : Nat) (h : PickerFollows s) : PickerFollows (State.openTransaction s kind address node frames window) := by simpa [pickerFollows_def] using h
@[simp] theorem pickerFollows_startCommand (s : State) (c : Command) (rest : List Command) (h : PickerFollows s) : PickerFollows (State.startCommand s c rest) := by simpa [pickerFollows_def] using h
@[simp] theorem pickerFollows_startBlock (s : State) (ticket : Nat) (h : PickerFollows s) : PickerFollows (State.startBlock s ticket) := by simpa [pickerFollows_def] using h
@[simp] theorem pickerFollows_startPass (s : State) (f : Frame) (rest : List Frame) (h : PickerFollows s) : PickerFollows (State.startPass s f rest) := by simpa [pickerFollows_def] using h
@[simp] theorem pickerFollows_startPoll (s : State) (i : NodeIdx) (rest : List NodeIdx) (h : PickerFollows s) : PickerFollows (State.startPoll s i rest) := by simpa [pickerFollows_def] using h
@[simp] theorem pickerFollows_startSource (s : State) (c : FieldSource) (h : PickerFollows s) : PickerFollows (State.startSource s c) := by simpa [pickerFollows_def] using h
@[simp] theorem pickerFollows_startTransaction (s : State) (h : PickerFollows s) : PickerFollows (State.startTransaction s) := by simpa [pickerFollows_def] using h
@[simp] theorem pickerFollows_choosing (s : State) (c : Option FieldSource) (h : PickerFollows s) : PickerFollows (s.choosing c) := by simpa [pickerFollows_def] using h
@[simp] theorem pickerFollows_scheduleNode (c : CadenceId) (s : State) (i : NodeIdx) (h : PickerFollows s) : PickerFollows (State.scheduleNode c s i) := by simpa [pickerFollows_def] using h
@[simp] theorem pickerFollows_updCadence (s : State) (c : CadenceId) (f : Cadence → Cadence) (h : PickerFollows s) : PickerFollows (State.updCadence s c f) := by simpa [pickerFollows_def] using h
@[simp] theorem pickerFollows_cadenceExpiry (s : State) (c : CadenceId) (h : PickerFollows s) : PickerFollows (State.cadenceExpiry s c) := by simpa [pickerFollows_def] using h
@[simp] theorem pickerFollows_restartField (s : State) (h : PickerFollows s) : PickerFollows (State.restartField s) := by simpa [pickerFollows_def] using h
@[simp] theorem pickerFollows_printerWritten (s : State) (before after : Option Role) (h : PickerFollows s) : PickerFollows (State.printerWritten s before after) := by simpa [pickerFollows_def] using h
@[simp] theorem pickerFollows_writeNode (s : State) (i : NodeIdx) (g : NodeImage) (h : PickerFollows s) : PickerFollows (State.writeNode s i g) := by simpa [pickerFollows_def] using h
@[simp] theorem pickerFollows_performNodeWrite (index : Byte) (image : List Byte) (s : State) (h : PickerFollows s) : PickerFollows (performNodeWrite index image s).state := by simpa [pickerFollows_def] using h
@[simp] theorem pickerFollows_performRouteWrite (index : Byte) (image : List Byte) (s : State) (h : PickerFollows s) : PickerFollows (performRouteWrite index image s).state := by simpa [pickerFollows_def] using h
@[simp] theorem pickerFollows_performCadenceWrite (index : Byte) (image : List Byte) (s : State) (h : PickerFollows s) : PickerFollows (performCadenceWrite index image s).state := by simpa [pickerFollows_def] using h
@[simp] theorem pickerFollows_setKilnEntry (s : State) (k : Kiln) (e : KilnEntry) (h : PickerFollows s) : PickerFollows (State.setKilnEntry s k e) := by simpa [pickerFollows_def] using h
@[simp] theorem pickerFollows_performKilnWrite (index : Byte) (image : List Byte) (s : State) (h : PickerFollows s) : PickerFollows (performKilnWrite index image s).state := by
  unfold performKilnWrite
  repeat' split
  all_goals (try dsimp only)
  repeat' split
  all_goals first | exact h | (simp only [accept_state]; exact pickerFollows_feedEvent _ _)
@[simp] theorem pickerFollows_performScheduleWrite (index : Byte) (image : List Byte) (s : State) (h : PickerFollows s) : PickerFollows (performScheduleWrite index image s).state := by simpa [pickerFollows_def] using h
@[simp] theorem pickerFollows_performStepWrite (index : Byte) (image : List Byte) (s : State) (h : PickerFollows s) : PickerFollows (performStepWrite index image s).state := by simpa [pickerFollows_def] using h
@[simp] theorem pickerFollows_performVarietyWrite (index : Byte) (image : List Byte) (s : State) (h : PickerFollows s) : PickerFollows (performVarietyWrite index image s).state := by simpa [pickerFollows_def] using h
@[simp] theorem pickerFollows_performTareWrite (index : Byte) (image : List Byte) (s : State) (h : PickerFollows s) : PickerFollows (performTareWrite index image s).state := by simpa [pickerFollows_def] using h
@[simp] theorem pickerFollows_performScaleSetupWrite (index : Byte) (image : List Byte) (s : State) (h : PickerFollows s) : PickerFollows (performScaleSetupWrite index image s).state := by simpa [pickerFollows_def] using h
@[simp] theorem pickerFollows_performStationWrite (index : Byte) (image : List Byte) (s : State) (h : PickerFollows s) : PickerFollows (performStationWrite index image s).state := by simpa [pickerFollows_def] using h
@[simp] theorem pickerFollows_performTableRead (table index part : Byte) (s : State) (h : PickerFollows s) : PickerFollows (performTableRead table index part s).state := by simpa [pickerFollows_def] using h
@[simp] theorem pickerFollows_performTableWrite (table index : Byte) (image : List Byte) (s : State) (h : PickerFollows s) : PickerFollows (performTableWrite table index image s).state := by
  generalize e : (performTableWrite table index image s) = t
  unfold performTableWrite at e
  (try dsimp only at e)
  (repeat' split at e) <;> subst e <;> (try simp only [refuse_state, accept_state]) <;> (simp (config := {maxDischargeDepth := 60}) [pickerFollows_mk, h, (pickerFollows_def s).symm.trans (eq_true h)])
@[simp] theorem pickerFollows_addLot (s : State) (l : Lot) (h : PickerFollows s) : PickerFollows (State.addLot s l) := by simpa [pickerFollows_def] using h
@[simp] theorem pickerFollows_performLotOpen (lot grower : Word16) (variety : Byte) (s : State) (h : PickerFollows s) : PickerFollows (performLotOpen lot grower variety s).state := by simpa [pickerFollows_def] using h
@[simp] theorem pickerFollows_performLotRead (lot : Word16) (item : Byte) (s : State) (h : PickerFollows s) : PickerFollows (performLotRead lot item s).state := by simpa [pickerFollows_def] using h
@[simp] theorem pickerFollows_performLotVoid (lot : Word16) (s : State) (h : PickerFollows s) : PickerFollows (performLotVoid lot s).state := by simpa [pickerFollows_def] using h
@[simp] theorem pickerFollows_performLotClose (lot : Word16) (s : State) (h : PickerFollows s) : PickerFollows (performLotClose lot s).state := by simpa [pickerFollows_def] using h
@[simp] theorem pickerFollows_clearCounts (s : State) (h : PickerFollows s) : PickerFollows (State.clearCounts s) := by simpa [pickerFollows_def] using h
@[simp] theorem pickerFollows_performStatus (clear page : Byte) (s : State) (h : PickerFollows s) : PickerFollows (performStatus clear page s).state := by simpa [pickerFollows_def] using h
@[simp] theorem pickerFollows_performTimeSet (time : Word32) (s : State) (h : PickerFollows s) : PickerFollows (performTimeSet time s).state := by simpa [pickerFollows_def] using h
@[simp] theorem pickerFollows_secondPassed (s : State) (h : PickerFollows s) : PickerFollows (State.secondPassed s) := by simpa [pickerFollows_def] using h
@[simp] theorem pickerFollows_restartStation (s : State) (h : PickerFollows s) : PickerFollows (State.restartStation s) := by
  simp [State.restartStation, pickerFollows_mk, PickerIs, FeedHold.isEmpty]
@[simp] theorem pickerFollows_performRestart (scope : Byte) (s : State) (h : PickerFollows s) : PickerFollows (performRestart scope s).state := by
  generalize e : (performRestart scope s) = t
  unfold performRestart at e
  (try dsimp only at e)
  (repeat' split at e) <;> subst e <;> (try simp only [refuse_state, accept_state]) <;> (simp (config := {maxDischargeDepth := 60}) [pickerFollows_mk, h, (pickerFollows_def s).symm.trans (eq_true h)])
@[simp] theorem pickerFollows_performRequest (r : Request) (s : State) (h : PickerFollows s) : PickerFollows (performRequest r s).state := by
  generalize e : (performRequest r s) = t
  unfold performRequest at e
  (try dsimp only at e)
  (repeat' split at e) <;> subst e <;> (try simp only [refuse_state, accept_state]) <;> (simp (config := {maxDischargeDepth := 60}) [pickerFollows_mk, h, (pickerFollows_def s).symm.trans (eq_true h)])
@[simp] theorem pickerFollows_setReply (s : State) (payload : List Byte) (h : PickerFollows s) : PickerFollows (State.setReply s payload) := by simpa [pickerFollows_def] using h
@[simp] theorem pickerFollows_performPayload (payload : List Byte) (s : State) (h : PickerFollows s) : PickerFollows (performPayload payload s).2.2.state := by
  unfold performPayload
  repeat' split
  all_goals simp [h]
@[simp] theorem pickerFollows_executeFrame (s : State) (f : Frame) (h : PickerFollows s) : PickerFollows (State.executeFrame s f) := by
  generalize e : (State.executeFrame s f) = t
  unfold State.executeFrame at e
  (try dsimp only at e)
  (repeat' split at e) <;> subst e <;> (try simp only [refuse_state, accept_state]) <;> (simp (config := {maxDischargeDepth := 60}) [pickerFollows_mk, h, (pickerFollows_def s).symm.trans (eq_true h)])
@[simp] theorem pickerFollows_executeHead (s : State) (h : PickerFollows s) : PickerFollows (State.executeHead s) := by
  generalize e : (State.executeHead s) = t
  unfold State.executeHead at e
  (try dsimp only at e)
  (repeat' split at e) <;> subst e <;> (try simp only [refuse_state, accept_state]) <;> (simp (config := {maxDischargeDepth := 60}) [pickerFollows_mk, h, (pickerFollows_def s).symm.trans (eq_true h)])
@[simp] theorem pickerFollows_admitRequest (s : State) (f : Frame) (h : PickerFollows s) : PickerFollows (State.admitRequest s f) := by
  generalize e : (State.admitRequest s f) = t
  unfold State.admitRequest at e
  (try dsimp only at e)
  (repeat' split at e) <;> subst e <;> (try simp only [refuse_state, accept_state]) <;> (simp (config := {maxDischargeDepth := 60}) [pickerFollows_mk, h, (pickerFollows_def s).symm.trans (eq_true h)])
@[simp] theorem pickerFollows_completeRequest (s : State) (h : PickerFollows s) : PickerFollows (State.completeRequest s) := by
  generalize e : (State.completeRequest s) = t
  unfold State.completeRequest at e
  (try dsimp only at e)
  (repeat' split at e) <;> subst e <;> (try simp only [refuse_state, accept_state]) <;> (simp (config := {maxDischargeDepth := 60}) [pickerFollows_mk, h, (pickerFollows_def s).symm.trans (eq_true h)])
@[simp] theorem pickerFollows_submit (tag : Byte) (r : Request) (s : State) (h : PickerFollows s) : PickerFollows (State.submit tag r s) := by
  generalize e : (State.submit tag r s) = t
  unfold State.submit at e
  (try dsimp only at e)
  (repeat' split at e) <;> subst e <;> (try simp only [refuse_state, accept_state]) <;> (simp (config := {maxDischargeDepth := 60}) [pickerFollows_mk, h, (pickerFollows_def s).symm.trans (eq_true h)])
@[simp] theorem pickerFollows_updLink (s : State) (f : Link → Link) (h : PickerFollows s) : PickerFollows (State.updLink s f) := by simpa [pickerFollows_def] using h
@[simp] theorem pickerFollows_validArrival (s : State) (h : PickerFollows s) : PickerFollows (State.validArrival s) := by simpa [pickerFollows_def] using h
@[simp] theorem pickerFollows_linkSilent (s : State) (h : PickerFollows s) : PickerFollows (State.linkSilent s) := by simpa [pickerFollows_def] using h
@[simp] theorem pickerFollows_offerPass (s : State) (f : Frame) (h : PickerFollows s) : PickerFollows (State.offerPass s f) := by simpa [pickerFollows_def] using h
@[simp] theorem pickerFollows_classifyUpstream (s : State) (f : Frame) (h : PickerFollows s) : PickerFollows (State.classifyUpstream s f) := by
  generalize e : (State.classifyUpstream s f) = t
  unfold State.classifyUpstream at e
  (try dsimp only at e)
  (repeat' split at e) <;> subst e <;> (try simp only [refuse_state, accept_state]) <;> (simp (config := {maxDischargeDepth := 60}) [pickerFollows_mk, h, (pickerFollows_def s).symm.trans (eq_true h)])
@[simp] theorem pickerFollows_upstreamArrival (s : State) (chars : List Byte) (h : PickerFollows s) : PickerFollows (State.upstreamArrival s chars) := by
  generalize e : (State.upstreamArrival s chars) = t
  unfold State.upstreamArrival at e
  (try dsimp only at e)
  (repeat' split at e) <;> subst e <;> (try simp only [refuse_state, accept_state]) <;> (simp (config := {maxDischargeDepth := 60}) [pickerFollows_mk, h, (pickerFollows_def s).symm.trans (eq_true h)])
@[simp] theorem pickerFollows_idleGap (s : State) (port : Port) (h : PickerFollows s) : PickerFollows (State.idleGap s port) := by simpa [pickerFollows_def] using h
@[simp] theorem pickerFollows_startUpstream (s : State) (t : UpTransmit) (h : PickerFollows s) : PickerFollows (State.startUpstream s t) := by simpa [pickerFollows_def] using h
@[simp] theorem pickerFollows_upstreamTransmit (s : State) (h : PickerFollows s) : PickerFollows (State.upstreamTransmit s) := by simpa [pickerFollows_def] using h
@[simp] theorem pickerFollows_replySent (s : State) (h : PickerFollows s) : PickerFollows (State.replySent s) := by
  generalize e : (State.replySent s) = t
  unfold State.replySent at e
  (try dsimp only at e)
  (repeat' split at e) <;> subst e <;> (try simp only [refuse_state, accept_state]) <;> (simp (config := {maxDischargeDepth := 60}) [pickerFollows_mk, h, (pickerFollows_def s).symm.trans (eq_true h)])
@[simp] theorem pickerFollows_segmentSent (s : State) (h : PickerFollows s) : PickerFollows (State.segmentSent s) := by
  generalize e : (State.segmentSent s) = t
  unfold State.segmentSent at e
  (try dsimp only at e)
  (repeat' split at e) <;> subst e <;> (try simp only [refuse_state, accept_state]) <;> (simp (config := {maxDischargeDepth := 60}) [pickerFollows_mk, h, (pickerFollows_def s).symm.trans (eq_true h)])
@[simp] theorem pickerFollows_upstreamFrameSent (s : State) (h : PickerFollows s) : PickerFollows (State.upstreamFrameSent s) := by
  generalize e : (State.upstreamFrameSent s) = t
  unfold State.upstreamFrameSent at e
  (try dsimp only at e)
  (repeat' split at e) <;> subst e <;> (try simp only [refuse_state, accept_state]) <;> (simp (config := {maxDischargeDepth := 60}) [pickerFollows_mk, h, (pickerFollows_def s).symm.trans (eq_true h)])
theorem storeFollows_pend (s : State) (p) (h : StoreFollows s) : StoreFollows { s with pending := p } := by rw [storeFollows_mk]; rw [storeFollows_def] at h; exact h
theorem storeFollows_started (s : State) (a b c) : StoreFollows (s.started a b c) := by
  unfold State.started; rw [storeFollows_mk]; simp [State.reset, StoreIs]
theorem storeFollows_inactive (s : State) (p) : StoreFollows (s.inactive p) := by
  unfold State.inactive; rw [storeFollows_mk]; simp [State.reset, StoreIs]
theorem storeFollows_powerOn (s : State) (a b c) (h : StoreFollows s) : StoreFollows (s.powerOn a b c) := by
  unfold State.powerOn; split
  · exact storeFollows_inactive _ _
  · exact storeFollows_started _ _ _ _
theorem storeFollows_resetRelease (s : State) (a b c) (h : StoreFollows s) : StoreFollows (s.resetRelease a b c) := by
  unfold State.resetRelease; split
  · exact storeFollows_started _ _ _ _
  · rw [storeFollows_mk]; rw [storeFollows_def] at h; exact h
theorem storeFollows_powerFail (s : State) (h : StoreFollows s) : StoreFollows s.powerFail := storeFollows_inactive _ _
theorem storeFollows_resetAssert (s : State) (h : StoreFollows s) : StoreFollows s.resetAssert := by
  unfold State.resetAssert; rw [storeFollows_mk]; rw [storeFollows_def] at h; exact h
theorem storeFollows_ticked (s : State) (h : StoreFollows s) : StoreFollows s.ticked := by
  unfold State.ticked; rw [storeFollows_mk]; rw [storeFollows_def] at h; exact h


/-- What the statements ask of the commands. -/
theorem commandsFollow_iff (s : State) :
    s.CommandsFollow ↔ PickerFollows s ∧ PressFollows s ∧ StoreFollows s := by
  rw [pickerFollows_def, pressFollows_iff, storeFollows_def]
  constructor
  · intro ⟨a, b, c⟩; exact ⟨a, b, c⟩
  · intro ⟨a, b, c⟩; exact ⟨a, b, c⟩

end Sys2Proof.Laws.Commands
end

