-- ==== Sys2Proof/Laws/Tables.lean ====
section
/-! SUPPORT. The table images: the field checks of a table accept the image of every entry in range and give that entry back, and
they accept no other image. -/

namespace Sys2Proof.Machine

/-! ## Fields -/

theorem byte_toNat {n : Nat} (h : n < 256) : (byte n).toNat = n := by simp [byte]; omega

theorem byte_of_toNat (b : Byte) : byte b.toNat = b := by simp [byte]

theorem flagByte_le (b : Bool) : (flagByte b).toNat ≤ 1 := by cases b <;> decide

theorem flagByte_one (b : Bool) : decide (flagByte b = 1) = b := by cases b <;> decide

theorem flagByte_of {b : Byte} (h : b.toNat ≤ 1) : flagByte (decide (b = 1)) = b := by
  have e : b = 0 ∨ b = 1 := by
    have : b.toNat = 0 ∨ b.toNat = 1 := by omega
    rcases this with h | h
    · exact Or.inl (BitVec.eq_of_toNat_eq h)
    · exact Or.inr (BitVec.eq_of_toNat_eq h)
  rcases e with rfl | rfl <;> rfl

theorem bytes16_word16 (a b : Byte) : bytes16 (word16 a b) = [a, b] := by
  have h1 : ((word16 a b) >>> 8).setWidth 8 = a := by
    apply BitVec.eq_of_getLsbD_eq
    intro i hi
    have e : ¬ 8 + i < 8 := by omega
    simp only [word16, BitVec.getLsbD_setWidth, BitVec.getLsbD_ushiftRight, BitVec.getLsbD_append, e, if_false]
    simp [hi]
  have h2 : (word16 a b).setWidth 8 = b := by
    apply BitVec.eq_of_getLsbD_eq
    intro i hi
    simp only [word16, BitVec.getLsbD_setWidth, BitVec.getLsbD_append, hi, if_true]
    simp
  rw [bytes16, h1, h2]

theorem bytes32_word32 (a b c d : Byte) : bytes32 (word32 a b c d) = [a, b, c, d] := by
  have h1 : ((word32 a b c d) >>> 24).setWidth 8 = a := by
    apply BitVec.eq_of_getLsbD_eq
    intro i hi
    have e1 : ¬ 24 + i < 8 := by omega
    have e2 : ¬ 24 + i - 8 < 8 := by omega
    have e3 : ¬ 24 + i - 8 - 8 < 8 := by omega
    have e4 : 24 + i - 8 - 8 - 8 = i := by omega
    simp only [word32, BitVec.getLsbD_setWidth, BitVec.getLsbD_ushiftRight, BitVec.getLsbD_append, e1, e2, e3, e4, if_false]
    simp [hi]
  have h2 : ((word32 a b c d) >>> 16).setWidth 8 = b := by
    apply BitVec.eq_of_getLsbD_eq
    intro i hi
    have e1 : ¬ 16 + i < 8 := by omega
    have e2 : ¬ 16 + i - 8 < 8 := by omega
    have e3 : 16 + i - 8 - 8 = i := by omega
    simp only [word32, BitVec.getLsbD_setWidth, BitVec.getLsbD_ushiftRight, BitVec.getLsbD_append, e1, e2, e3, hi, if_false, if_true]
    simp
  have h3 : ((word32 a b c d) >>> 8).setWidth 8 = c := by
    apply BitVec.eq_of_getLsbD_eq
    intro i hi
    have e1 : ¬ 8 + i < 8 := by omega
    have e2 : 8 + i - 8 = i := by omega
    simp only [word32, BitVec.getLsbD_setWidth, BitVec.getLsbD_ushiftRight, BitVec.getLsbD_append, e1, e2, hi, if_false, if_true]
    simp
  have h4 : (word32 a b c d).setWidth 8 = d := by
    apply BitVec.eq_of_getLsbD_eq
    intro i hi
    simp only [word32, BitVec.getLsbD_setWidth, BitVec.getLsbD_append, hi, if_true]
    simp
  rw [bytes32, h1, h2, h3, h4]

theorem be16_word16 (a b : Byte) : be16 (word16 a b).toNat = [a, b] := by
  simp [be16, bytes16_word16]

theorem be32_word32 (a b c d : Byte) : be32 (word32 a b c d).toNat = [a, b, c, d] := by
  simp [be32, bytes32_word32]

/-- A count below 2^16 reads back from its two bytes. -/
theorem be16_read {n : Nat} (h : n < 65536) : ∃ a b, be16 n = [a, b] ∧ (word16 a b).toNat = n := by
  obtain ⟨a, b, e, w⟩ := word16_bytes16 (BitVec.ofNat 16 n)
  exact ⟨a, b, e, by rw [w]; simp; omega⟩

/-- A count below 2^32 reads back from its four bytes. -/
theorem be32_read {n : Nat} (h : n < 4294967296) :
    ∃ a b c d, be32 n = [a, b, c, d] ∧ (word32 a b c d).toNat = n := by
  obtain ⟨a, b, c, d, e, w⟩ := word32_bytes32 (BitVec.ofNat 32 n)
  exact ⟨a, b, c, d, e, by rw [w]; simp; omega⟩

theorem int16_natCast (n : Nat) : int16 (n : Int) = be16 n := by simp [int16, be16, BitVec.ofInt_natCast]

theorem maxWeight_eq : Config.maxWeight = 2147483646 := rfl

/-! ## ROUTE -/

theorem RouteAction.ofCode_code {a : RouteAction} (h : a ≠ .none) : RouteAction.ofCode a.code = some a := by
  cases a <;> first | rfl | exact absurd rfl h

theorem RouteAction.code_ofCode {n : Nat} {a : RouteAction} (h : RouteAction.ofCode n = some a) :
    a.code = n ∧ a ≠ .none := by
  unfold RouteAction.ofCode at h
  split at h <;> first | (injection h with h; subst h; exact ⟨rfl, by decide⟩) | cases h

theorem EventSelector.ofCode_code (a : EventSelector) : EventSelector.ofCode a.code = some a := by cases a <;> rfl

theorem EventSelector.code_ofCode {n : Nat} {a : EventSelector} (h : EventSelector.ofCode n = some a) : a.code = n := by
  unfold EventSelector.ofCode at h
  split at h <;> first | (injection h with h; subst h; rfl) | cases h

theorem RouteAction.code_lt (a : RouteAction) : a.code < 256 := by cases a <;> decide
theorem EventSelector.code_lt (a : EventSelector) : a.code < 256 := by cases a <;> decide

theorem routeFlags (a b : Bool) : (bitsByte [true, a, b]).toNat < 8 ∧ (bitsByte [true, a, b]).getLsbD 0 = true ∧
    (bitsByte [true, a, b]).getLsbD 1 = a ∧ (bitsByte [true, a, b]).getLsbD 2 = b := by
  cases a <;> cases b <;> decide

theorem routeFlags_of {f : Byte} (h : f.toNat < 8) : bitsByte [f.getLsbD 0, f.getLsbD 1, f.getLsbD 2] = f := by
  have all : ∀ n : Fin 8, bitsByte [(BitVec.ofNat 8 n.val).getLsbD 0, (BitVec.ofNat 8 n.val).getLsbD 1,
      (BitVec.ofNat 8 n.val).getLsbD 2] = BitVec.ofNat 8 n.val := by decide
  simpa using all ⟨f.toNat, h⟩

theorem routeImageOf_image {r : Route} (h : r.InRange) :
    ∃ f src c a o w e, r.image = [f, src, c, a, o, w, e, 0] ∧ f.toNat < 8 ∧ routeImageOf f src c a o w e = some r := by
  rcases h with rfl | ⟨hu, hs, hc1, hc2, ha, ho, hw, hw2, he⟩
  · exact ⟨_, _, _, _, _, _, _, rfl, by decide, by decide⟩
  · refine ⟨_, _, _, _, _, _, _, rfl, ?_, ?_⟩
    · rw [hu]; exact (routeFlags _ _).1
    · obtain ⟨_, f0, f1, f2⟩ := routeFlags r.signed r.copy
      have hwl : r.width < 256 := by omega
      have hwb : byte r.width = 1 ∨ byte r.width = 2 ∨ byte r.width = 4 := by
        rcases hw with h | h | h <;> rw [h] <;> decide
      unfold routeImageOf
      rw [hu, f0, f1, f2, byte_toNat (by omega : r.offset < 256), byte_toNat hwl, byte_toNat r.action.code_lt,
        byte_toNat r.selector.code_lt, RouteAction.ofCode_code ha, EventSelector.ofCode_code]
      rw [if_neg (by decide), if_neg (by simp; omega),
        if_neg (by simp only [Bool.or_eq_true, Bool.and_eq_true, decide_eq_true_eq]; rcases hwb with h | h | h <;> rw [h] <;> simp <;> omega)]
      simp only [he]
      simp
      cases r; simp_all

theorem routeImageOf_only {f src c a o w e : Byte} {r : Route} (hf : f.toNat < 8)
    (h : routeImageOf f src c a o w e = some r) : r.InRange ∧ r.image = [f, src, c, a, o, w, e, 0] := by
  unfold routeImageOf at h
  split at h
  · split at h
    · rename_i h1 h2
      injection h with h; subst h
      simp only [Bool.and_eq_true, decide_eq_true_eq] at h2
      obtain ⟨⟨⟨⟨⟨⟨rfl, rfl⟩, rfl⟩, rfl⟩, rfl⟩, rfl⟩, rfl⟩ := h2
      exact ⟨Or.inl rfl, rfl⟩
    · cases h
  · rename_i h0
    split at h
    · cases h
    · rename_i h1
      split at h
      · cases h
      · rename_i h2
        split at h
        · rename_i x y act sel ea es
          split at h
          · rename_i h3
            injection h with h; subst h
            obtain ⟨ca, na⟩ := RouteAction.code_ofCode ea
            have cs := EventSelector.code_ofCode es
            simp only [Bool.or_eq_true, decide_eq_true_eq, not_or, Bool.and_eq_true, not_and, Classical.not_not] at h1 h2
            have hw : w.toNat = 1 ∨ w.toNat = 2 ∨ w.toNat = 4 := by
              by_cases e1 : w = 1
              · left; rw [e1]; rfl
              · by_cases e2 : w = 2
                · right; left; rw [e2]; rfl
                · right; right
                  rw [h2.1 ⟨e1, e2⟩]; rfl
            refine ⟨Or.inr ⟨rfl, by dsimp; omega, by dsimp; omega, by dsimp; omega, na, by dsimp; omega, hw, by dsimp; omega, ?_⟩, ?_⟩
            · simpa [eq_iff_iff] using h3
            · have f0 : f.getLsbD 0 = true := by simpa using h0
              have := routeFlags_of hf
              rw [f0] at this
              simp only [Route.image, this, ca, cs, byte_of_toNat]
          · cases h
        · cases h

/-! ## KILN -/

theorem kilnImageOf_image {e : KilnEntry} (h : e.InRange) :
    ∃ c1 c2 c3 c4 load auto r1 r2 fan streak, e.image = [c1, c2, c3, c4, load, auto, r1, r2, fan, streak, 0, 0] ∧
      kilnImageOf (word32 c1 c2 c3 c4).toNat load auto (word16 r1 r2).toNat fan streak = some e := by
  obtain ⟨h1, h2, h3, h4, h5, h6, h7⟩ := h
  obtain ⟨c1, c2, c3, c4, ec, vc⟩ := be32_read (n := e.capacity) (by omega)
  obtain ⟨r1, r2, er, vr⟩ := be16_read (n := e.refresh) (by omega)
  refine ⟨c1, c2, c3, c4, byte e.minLoad, flagByte e.autoStart, r1, r2, byte e.holdFan, byte e.limitStreak, ?_, ?_⟩
  · simp only [KilnEntry.image, ec, er]; rfl
  · have f := flagByte_le e.autoStart
    have mw := maxWeight_eq
    unfold kilnImageOf
    rw [vc, vr, byte_toNat (by omega : e.minLoad < 256), byte_toNat (by omega : e.holdFan < 256),
      byte_toNat (by omega : e.limitStreak < 256), flagByte_one]
    rw [if_neg (by simp; omega)]

theorem kilnImageOf_only {c1 c2 c3 c4 load auto r1 r2 fan streak : Byte} {e : KilnEntry}
    (h : kilnImageOf (word32 c1 c2 c3 c4).toNat load auto (word16 r1 r2).toNat fan streak = some e) :
    e.InRange ∧ e.image = [c1, c2, c3, c4, load, auto, r1, r2, fan, streak, 0, 0] := by
  unfold kilnImageOf at h
  split at h
  · cases h
  · rename_i hc
    have mw := maxWeight_eq
    simp at hc
    injection h with h; subst h
    refine ⟨⟨by dsimp; omega, by dsimp; omega, by dsimp; omega, by dsimp; omega, by dsimp; omega, by dsimp; omega, by dsimp; omega⟩, ?_⟩
    simp only [KilnEntry.image, be32_word32, be16_word16, byte_of_toNat]
    rw [flagByte_of (by omega)]; rfl

/-! ## SCHEDULE and STEP -/

theorem scheduleImageOf_image {d : Schedule} (h : d.InRange) :
    ∃ first count t1 t2 m1 m2 fan, d.image = [first, count, t1, t2, m1, m2, fan, 0] ∧
      scheduleImageOf first count (word16 t1 t2).toNat (word16 m1 m2).toNat fan = some d := by
  rcases h with rfl | ⟨h1, h2, h3, h4, h5, h6, h7⟩
  · exact ⟨0, 0, 0, 0, 0, 0, 0, rfl, by decide⟩
  · have ht : ((d.startTemp.toNat : Nat) : Int) = d.startTemp := Int.toNat_of_nonneg (by omega)
    obtain ⟨t1, t2, et, vt⟩ := be16_read (n := d.startTemp.toNat) (by omega)
    obtain ⟨m1, m2, em, vm⟩ := be16_read (n := d.abortCoolMinutes) (by omega)
    refine ⟨byte d.first, byte d.count, t1, t2, m1, m2, byte d.abortCoolFan, ?_, ?_⟩
    · simp only [Schedule.image]; rw [← ht, int16_natCast, et, em]; rfl
    · have nz : byte d.count ≠ 0 := by
        intro e
        have := congrArg BitVec.toNat e
        rw [byte_toNat (by omega)] at this
        simp at this; omega
      unfold scheduleImageOf
      rw [if_neg nz, vt, vm, byte_toNat (by omega : d.count < 256), byte_toNat (by omega : d.first < 256),
        byte_toNat (by omega : d.abortCoolFan < 256)]
      rw [if_neg (by simp; omega), ht]

theorem scheduleImageOf_only {first count t1 t2 m1 m2 fan : Byte} {d : Schedule}
    (h : scheduleImageOf first count (word16 t1 t2).toNat (word16 m1 m2).toNat fan = some d) :
    d.InRange ∧ d.image = [first, count, t1, t2, m1, m2, fan, 0] := by
  unfold scheduleImageOf at h
  split at h
  · rename_i hc
    split at h
    · rename_i h0
      injection h with h; subst h
      simp only [Bool.and_eq_true, decide_eq_true_eq] at h0
      obtain ⟨⟨⟨h1, h2⟩, h3⟩, h4⟩ := h0
      have e1 := be16_word16 t1 t2
      have e2 := be16_word16 m1 m2
      rw [h2] at e1
      rw [h3] at e2
      simp [be16, bytes16] at e1 e2
      obtain ⟨rfl, rfl⟩ := e1
      obtain ⟨rfl, rfl⟩ := e2
      subst h1 h4 hc
      exact ⟨Or.inl rfl, rfl⟩
    · cases h
  · rename_i hc
    split at h
    · cases h
    · rename_i h0
      simp at h0
      injection h with h; subst h
      have c0 : count.toNat ≠ 0 := fun e => hc (BitVec.eq_of_toNat_eq e)
      refine ⟨Or.inr ⟨by dsimp; omega, by dsimp; omega, by dsimp; omega, by dsimp; omega, by dsimp; omega, by dsimp; omega, by dsimp; omega⟩, ?_⟩
      simp only [Schedule.image, int16_natCast, be16_word16, byte_of_toNat]; rfl

theorem StepKind.ofCode_code (k : StepKind) : StepKind.ofCode k.code = some k := by cases k <;> rfl

theorem StepKind.code_ofCode {n : Nat} {k : StepKind} (h : StepKind.ofCode n = some k) : k.code = n := by
  unfold StepKind.ofCode at h
  split at h <;> first | (injection h with h; subst h; rfl) | cases h

theorem StepKind.code_lt (k : StepKind) : k.code < 256 := by cases k <;> decide

theorem stepImageOf_image {e : Step} (h : e.InRange) :
    ∃ kind d1 d2 t1 t2 l1 l2 fan, e.image = [kind, 0, d1, d2, t1, t2, l1, l2, fan, 0] ∧
      stepImageOf kind (word16 d1 d2).toNat (word16 t1 t2).toNat (word16 l1 l2).toNat fan = some e := by
  obtain ⟨hf, hc, hh⟩ := h
  have bounds : e.duration ≤ 1440 ∧ 0 ≤ e.target ∧ e.target ≤ 900 ∧ 0 ≤ e.limit ∧ e.limit ≤ 1000 ∧ e.fan ≤ 100 := by
    cases hk : e.kind with
    | fin => rw [hf hk]; decide
    | cool => have := hc hk; omega
    | ramp => have := hh (Or.inl hk); omega
    | soak => have := hh (Or.inr (Or.inl hk)); omega
    | dryTo => have := hh (Or.inr (Or.inr hk)); omega
  obtain ⟨b1, b2, b3, b4, b5, b6⟩ := bounds
  have ht : ((e.target.toNat : Nat) : Int) = e.target := Int.toNat_of_nonneg b2
  have hl : ((e.limit.toNat : Nat) : Int) = e.limit := Int.toNat_of_nonneg b4
  obtain ⟨d1, d2, ed, vd⟩ := be16_read (n := e.duration) (by omega)
  obtain ⟨t1, t2, et, vt⟩ := be16_read (n := e.target.toNat) (by omega)
  obtain ⟨l1, l2, el, vl⟩ := be16_read (n := e.limit.toNat) (by omega)
  refine ⟨byte e.kind.code, d1, d2, t1, t2, l1, l2, byte e.fan, ?_, ?_⟩
  · simp only [Step.image]; rw [← ht, ← hl, int16_natCast, int16_natCast, ed, et, el]; rfl
  · unfold stepImageOf
    rw [vd, vt, vl, byte_toNat e.kind.code_lt, StepKind.ofCode_code, byte_toNat (by omega : e.fan < 256)]
    cases hk : e.kind with
    | fin => rw [hf hk]; rfl
    | cool =>
      obtain ⟨c1, c2, c3, c4, c5⟩ := hc hk
      have z : byte e.fan = byte e.fan := rfl
      simp only [c3, c4]
      rw [if_pos (by simp; omega)]
      cases e; simp_all
    | ramp =>
      have := hh (Or.inl hk)
      simp only
      rw [if_pos (by simp; omega), ht, hl]
      cases e; simp_all
    | soak =>
      have := hh (Or.inr (Or.inl hk))
      simp only
      rw [if_pos (by simp; omega), ht, hl]
      cases e; simp_all
    | dryTo =>
      have := hh (Or.inr (Or.inr hk))
      simp only
      rw [if_pos (by simp; omega), ht, hl]
      cases e; simp_all

theorem stepImageOf_only {kind d1 d2 t1 t2 l1 l2 fan : Byte} {e : Step}
    (h : stepImageOf kind (word16 d1 d2).toNat (word16 t1 t2).toNat (word16 l1 l2).toNat fan = some e) :
    e.InRange ∧ e.image = [kind, 0, d1, d2, t1, t2, l1, l2, fan, 0] := by
  have image : ∀ k, k.code = kind.toNat →
      Step.image { kind := k, duration := (word16 d1 d2).toNat, target := (word16 t1 t2).toNat
                   limit := (word16 l1 l2).toNat, fan := fan.toNat } = [kind, 0, d1, d2, t1, t2, l1, l2, fan, 0] := by
    intro k hk
    simp only [Step.image, int16_natCast, be16_word16, byte_of_toNat, hk]; rfl
  unfold stepImageOf at h
  split at h
  · cases h
  · rename_i k hk
    have ck := StepKind.code_ofCode hk
    cases k with
    | fin =>
      simp only at h
      split at h
      · rename_i c
        simp at c
        injection h with h; subst h
        refine ⟨⟨?_, ?_, ?_⟩, image _ ck⟩
        · intro _; simp [c]
        · intro x; cases x
        · intro x; rcases x with x | x | x <;> cases x
      · cases h
    | cool =>
      simp only at h
      split at h
      · rename_i c
        simp at c
        injection h with h; subst h
        refine ⟨⟨?_, ?_, ?_⟩, image _ ck⟩
        · intro x; cases x
        · intro _; simp [c]
        · intro x; rcases x with x | x | x <;> cases x
      · cases h
    | ramp =>
      simp only at h
      split at h
      · rename_i c
        simp at c
        injection h with h; subst h
        refine ⟨⟨?_, ?_, ?_⟩, image _ ck⟩
        · intro x; cases x
        · intro x; cases x
        · intro _; dsimp; omega
      · cases h
    | soak =>
      simp only at h
      split at h
      · rename_i c
        simp at c
        injection h with h; subst h
        refine ⟨⟨?_, ?_, ?_⟩, image _ ck⟩
        · intro x; cases x
        · intro x; cases x
        · intro _; dsimp; omega
      · cases h
    | dryTo =>
      simp only at h
      split at h
      · rename_i c
        simp at c
        injection h with h; subst h
        refine ⟨⟨?_, ?_, ?_⟩, image _ ck⟩
        · intro x; cases x
        · intro x; cases x
        · intro _; dsimp; omega
      · cases h

/-! ## VARIETY -/

theorem varietyImageOf_image {v : Variety} (h : v.InRange) :
    ∃ valid sched h1 h2 q a1 a2 a3 a4 b1 b2 b3 b4 m1 m2,
      v.image = [valid, sched, h1, h2, q, 0, a1, a2, a3, a4, b1, b2, b3, b4, m1, m2, 0, 0] ∧
      varietyImageOf valid sched (word16 h1 h2).toNat q (word32 a1 a2 a3 a4).toNat (word32 b1 b2 b3 b4).toNat
        (word16 m1 m2).toNat = some v := by
  obtain ⟨r1, r2, r3, r4, r5, r6⟩ := h
  obtain ⟨h1, h2, eh, vh⟩ := be16_read (n := v.endHumidity) (by omega)
  obtain ⟨a1, a2, a3, a4, ea, va⟩ := be32_read (n := v.targetMin) (by omega)
  obtain ⟨b1, b2, b3, b4, eb, vb⟩ := be32_read (n := v.targetMax) (by omega)
  obtain ⟨m1, m2, em, vm⟩ := be16_read (n := v.maxMoisture) (by omega)
  refine ⟨flagByte v.valid, byte v.schedule.val, h1, h2, byte v.qualify, a1, a2, a3, a4, b1, b2, b3, b4, m1, m2, ?_, ?_⟩
  · simp only [Variety.image, eh, ea, eb, em]; rfl
  · have f := flagByte_le v.valid
    have hs : (byte v.schedule.val).toNat = v.schedule.val := byte_toNat (by omega)
    have mw := maxWeight_eq
    unfold varietyImageOf
    rw [dif_pos (by omega), vh, va, vb, vm, byte_toNat (by omega : v.qualify < 256), flagByte_one]
    rw [if_neg (by simp; omega)]
    cases v; simp_all

theorem varietyImageOf_only {valid sched h1 h2 q a1 a2 a3 a4 b1 b2 b3 b4 m1 m2 : Byte} {v : Variety}
    (h : varietyImageOf valid sched (word16 h1 h2).toNat q (word32 a1 a2 a3 a4).toNat (word32 b1 b2 b3 b4).toNat
      (word16 m1 m2).toNat = some v) :
    v.InRange ∧ v.image = [valid, sched, h1, h2, q, 0, a1, a2, a3, a4, b1, b2, b3, b4, m1, m2, 0, 0] := by
  unfold varietyImageOf at h
  split at h
  · split at h
    · cases h
    · rename_i hc
      have mw := maxWeight_eq
      simp at hc
      injection h with h; subst h
      refine ⟨⟨by dsimp; omega, by dsimp; omega, by dsimp; omega, by dsimp; omega, by dsimp; omega, by dsimp; omega⟩, ?_⟩
      simp only [Variety.image, be32_word32, be16_word16, byte_of_toNat]
      rw [flagByte_of (by omega)]; rfl
  · cases h

/-! ## NODE -/

theorem Role.ofCode_code (r : Role) : Role.ofCode r.code = some r := by cases r <;> rfl

theorem Role.code_ofCode {n : Nat} {r : Role} (h : Role.ofCode n = some r) : r.code = n := by
  unfold Role.ofCode at h
  split at h <;> first | (injection h with h; subst h; rfl) | cases h

theorem Role.code_lt (r : Role) : r.code < 256 := by cases r <;> decide

theorem kilnOf_byte (k : Kiln) : kilnOf (byte k.val) = some k := by
  have : (byte k.val).toNat = k.val := byte_toNat (by omega)
  unfold kilnOf; rw [dif_pos (by omega)]; simp [this]

theorem byte_kilnOf {b : Byte} {k : Kiln} (h : kilnOf b = some k) : byte k.val = b := by
  unfold kilnOf at h
  split at h
  · injection h with h; subst h; exact byte_of_toNat b
  · cases h

theorem bindingOf_kilnByte {r : Role} {b : Option Kiln} (h : b.isSome = true ↔ r = .probe ∨ r = .burner) :
    bindingOf r (kilnByte b) = some b := by
  cases b with
  | none => cases r <;> simp_all [bindingOf, Role.isBound, kilnByte]
  | some k => cases r <;> simp_all [bindingOf, Role.isBound, kilnByte, kilnOf_byte]

theorem kilnByte_bindingOf {r : Role} {x : Byte} {b : Option Kiln} (h : bindingOf r x = some b) :
    kilnByte b = x ∧ (b.isSome = true ↔ r = .probe ∨ r = .burner) := by
  unfold bindingOf at h
  split at h
  · rename_i hb
    cases hk : kilnOf x with
    | none => rw [hk] at h; cases h
    | some k =>
      rw [hk] at h
      injection h with h; subst h
      exact ⟨byte_kilnOf hk, by cases r <;> simp_all [Role.isBound]⟩
  · rename_i hb
    split at h
    · rename_i hx
      injection h with h; subst h; subst hx
      exact ⟨rfl, by cases r <;> simp_all [Role.isBound]⟩
    · cases h

theorem cadenceOf_byte (c : Option CadenceId) : cadenceOf (c.elim 0xFF (fun c => byte c.val)) = some c := by
  cases c with
  | none => rfl
  | some c =>
    have : (byte c.val).toNat = c.val := byte_toNat (by omega)
    show cadenceOf (byte c.val) = some (some c)
    unfold cadenceOf
    rw [dif_pos (by omega)]; simp [this]

theorem byte_cadenceOf {b : Byte} {c : Option CadenceId} (h : cadenceOf b = some c) :
    c.elim 0xFF (fun c => byte c.val) = b := by
  unfold cadenceOf at h
  split at h
  · injection h with h; subst h; exact byte_of_toNat b
  · split at h
    · rename_i hb; injection h with h; subst h; subst hb; rfl
    · cases h

theorem byte_ne_zero {n : Nat} (h1 : 1 ≤ n) (h2 : n < 256) : byte n ≠ 0 := by
  intro e
  have := congrArg BitVec.toNat e
  rw [byte_toNat h2] at this
  simp at this; omega

theorem nodeImageOf_bytes {g : NodeImage} (h : g.InRange) :
    ∃ a r b c w m, g.bytes = [a, r, b, c, w, m, 0, 0] ∧ nodeImageOf a r b c w m = some g := by
  cases g with
  | empty => exact ⟨_, _, _, _, _, _, rfl, by decide⟩
  | entry a role b c w m =>
    obtain ⟨h1, h2, h3, h4, h5, h6, h7⟩ := h
    refine ⟨_, _, _, _, _, _, rfl, ?_⟩
    have ha : a ≠ 0 := by rintro rfl; simp at h1
    have z : ¬ (byte w = 0 || byte m = 0 || 15 < (byte m).toNat) = true := by
      rw [byte_toNat (by omega : m < 256)]
      have z1 : byte w ≠ 0 := byte_ne_zero h4 (by omega)
      have z2 : byte m ≠ 0 := byte_ne_zero h6 (by omega)
      simp only [Bool.or_eq_true, decide_eq_true_eq, z1, z2, false_or]; omega
    unfold nodeImageOf
    rw [if_neg ha, if_neg (by omega), if_neg z,
      byte_toNat role.code_lt, Role.ofCode_code]
    simp only
    rw [bindingOf_kilnByte h3, cadenceOf_byte, byte_toNat (by omega : m < 256),
      byte_toNat (by omega : w < 256)]

theorem nodeImageOf_only {a r b c w m : Byte} {g : NodeImage} (h : nodeImageOf a r b c w m = some g) :
    g.InRange ∧ g.bytes = [a, r, b, c, w, m, 0, 0] := by
  unfold nodeImageOf at h
  split at h
  · rename_i ha
    split at h
    · rename_i hc
      injection h with h; subst h
      simp only [Bool.and_eq_true, decide_eq_true_eq] at hc
      obtain ⟨⟨⟨⟨rfl, rfl⟩, rfl⟩, rfl⟩, rfl⟩ := hc
      exact ⟨trivial, by rw [ha]; rfl⟩
    · cases h
  · rename_i ha
    split at h
    · cases h
    · rename_i h1
      split at h
      · cases h
      · rename_i h2
        split at h
        · cases h
        · rename_i role hrole
          split at h
          · rename_i x y bind cad hb hcad
            injection h with h; subst h
            simp only [Bool.or_eq_true, decide_eq_true_eq, not_or] at h2
            have cr := Role.code_ofCode hrole
            obtain ⟨kb, kr⟩ := kilnByte_bindingOf hb
            have a0 : a.toNat ≠ 0 := fun e => ha (BitVec.eq_of_toNat_eq e)
            have w0 : w.toNat ≠ 0 := fun e => h2.1.1 (BitVec.eq_of_toNat_eq e)
            have m0 : m.toNat ≠ 0 := fun e => h2.1.2 (BitVec.eq_of_toNat_eq e)
            refine ⟨⟨by omega, by omega, kr, by omega, by omega, by omega, by omega⟩, ?_⟩
            simp only [NodeImage.bytes, cr, kb, byte_cadenceOf hcad, byte_of_toNat]
          · cases h

end Sys2Proof.Machine
end

