-- ==== Sys2Proof/Laws/KeptNodes.lean ====
section
/-! SUPPORT. Every operation keeps the Node Table and the queues of nodes as R17 to R19, R28 and R30 say. -/

namespace Sys2Proof.Laws.Nodes

set_option linter.all false
set_option maxHeartbeats 1000000

open Sys2Proof Sys2Proof.Machine

/-- The node law on the table and the two queues. -/
structure NodesAre (ns : Vector Node 48) (poll : List NodeIdx) (cq : List Command) : Prop where
  filled : ∀ i : NodeIdx, ns[i].address = 0 ↔ ns[i].role = none
  bound : ∀ i : NodeIdx, ns[i].binding.isSome = true ↔ ns[i].role = some .probe ∨ ns[i].role = some .burner
  addresses : ∀ i j : NodeIdx, ns[i].address = ns[j].address → ns[i].address ≠ 0 → i = j
  singles : ∀ (i j : NodeIdx) (r : Role), ns[i].role = some r → ns[j].role = some r → r.Single → i = j
  pairs : ∀ i j : NodeIdx, ns[i].role = ns[j].role → ns[i].binding = ns[j].binding → ns[i].binding.isSome = true → i = j
  commanded : ∀ (i : NodeIdx) (c : Commanded), ns[i].commanded = some c → ∃ r, ns[i].role = some r ∧ c.Fits r
  polled : ∀ i ∈ poll, ns[i].cadence ≠ none
  queued : ∀ e ∈ cq, ∃ r, ns[e.node].role = some r ∧ e.payload.Fits r
  queuedOnce : (cq.map (fun e => (e.node, e.payload.code))).Nodup
/-- The same of a state. -/
@[irreducible] def NodesOk (s : State) : Prop := NodesAre s.field.nodes s.field.pollQueue s.field.commandQueue
theorem nodesOk_def (s : State) : NodesOk s = NodesAre s.field.nodes s.field.pollQueue s.field.commandQueue := by unfold NodesOk; rfl
theorem nodesOk_mk (a b c d e f g h i j k l) : NodesOk (State.mk a b c d e f g h i j k l) = NodesAre e.nodes e.pollQueue e.commandQueue := by unfold NodesOk; rfl
theorem nodesOk_iff (s : State) : NodesOk s ↔ s.NodeLaw := by
  rw [nodesOk_def]
  constructor
  · intro ⟨a, b, c, d, e, f, g, h, i⟩; exact ⟨a, b, c, d, e, f, g, h, i⟩
  · intro ⟨a, b, c, d, e, f, g, h, i⟩; exact ⟨a, b, c, d, e, f, g, h, i⟩
theorem nodes_set (v : Vector Node 48) (i j : NodeIdx) (n : Node) : (v.set i n)[j] = if i = j then n else v[j] := by
  by_cases h : i = j
  · subst h; simp
  · have : i.val ≠ j.val := fun e => h (Fin.ext e)
    simp [this, h]
/-- An entry changed in its runtime fields only. -/
theorem nodesAre_set {ns : Vector Node 48} {poll cq} (h : NodesAre ns poll cq) (i : NodeIdx) (n : Node)
    (ha : n.address = ns[i].address) (hr : n.role = ns[i].role) (hb : n.binding = ns[i].binding)
    (hc : n.cadence = ns[i].cadence) (hm : ∀ c, n.commanded = some c → ∃ r, ns[i].role = some r ∧ c.Fits r) :
    NodesAre (ns.set i n) poll cq := by
  have e1 : ∀ j : NodeIdx, (ns.set i n)[j].address = ns[j].address := by intro j; rw [nodes_set]; split <;> simp_all
  have e2 : ∀ j : NodeIdx, (ns.set i n)[j].role = ns[j].role := by intro j; rw [nodes_set]; split <;> simp_all
  have e3 : ∀ j : NodeIdx, (ns.set i n)[j].binding = ns[j].binding := by intro j; rw [nodes_set]; split <;> simp_all
  have e4 : ∀ j : NodeIdx, (ns.set i n)[j].cadence = ns[j].cadence := by intro j; rw [nodes_set]; split <;> simp_all
  obtain ⟨a, b, c, d, e, f, g, h, k⟩ := h
  constructor
  · intro j; rw [e1, e2]; exact a j
  · intro j; rw [e2, e3]; exact b j
  · intro j l; rw [e1, e1]; exact c j l
  · intro j l r; rw [e2, e2]; exact d j l r
  · intro j l; rw [e2, e2, e3, e3]; exact e j l
  · intro j x hx
    rw [nodes_set] at hx
    rw [e2]
    split at hx
    · rename_i he; subst he; exact hm x hx
    · exact f j x hx
  · intro j hj; rw [e4]; exact g j hj
  · intro x hx; rw [e2]; exact h x hx
  · exact k
theorem nodesOk_setNodeOf (s : State) (i : NodeIdx) (n : Node) (h : NodesOk s)
    (ha : n.address = (s.node i).address) (hr : n.role = (s.node i).role) (hb : n.binding = (s.node i).binding)
    (hc : n.cadence = (s.node i).cadence) (hm : ∀ c, n.commanded = some c → (s.node i).commanded = some c ∨ ∃ r, (s.node i).role = some r ∧ c.Fits r) :
    NodesOk (s.setNode i n) := by
  rw [nodesOk_def] at *
  refine nodesAre_set h i n ha hr hb hc ?_
  intro c hcc
  rcases hm c hcc with hx | hx
  · exact h.commanded i c hx
  · exact hx
theorem setNode_self (s : State) (i : NodeIdx) (n : Node) : (s.setNode i n).node i = n := by
  unfold State.node State.setNode; simp
theorem code_fits {c d : Commanded} {r : Role} (hc : c.Fits r) (hd : d.Fits r) : c.code = d.code := by
  cases c <;> cases d <;> simp only [Commanded.Fits] at hc hd <;> first | rfl | (rw [hc] at hd; cases hd)
theorem placeIn_keys (i : NodeIdx) (c : Commanded) (q : List Command) (h : (q.map (fun e => (e.node, e.payload.code))).Nodup) :
    ((placeIn i c q).map (fun e => (e.node, e.payload.code))).Nodup := by
  unfold placeIn
  split
  · rw [List.map_map]
    have : ((fun e : Command => (e.node, e.payload.code)) ∘ fun e => if e.node = i && e.payload.code = c.code then { e with payload := c } else e)
        = (fun e => (e.node, e.payload.code)) := by
      funext e; simp only [Function.comp]; split
      · rename_i hh; simp at hh; simp [hh.2]
      · rfl
    rw [this]; exact h
  · rename_i hn
    simp at hn
    rw [List.map_append, List.nodup_append]
    refine ⟨h, by simp, ?_⟩
    intro a ha b hb e
    obtain ⟨x, hx, rfl⟩ := List.mem_map.mp ha
    simp at hb
    subst hb
    simp at e
    exact hn x hx e.1 e.2
theorem placeIn_mem (i : NodeIdx) (c : Commanded) (q : List Command) (e : Command) (h : e ∈ placeIn i c q) :
    e ∈ q ∨ (e.node = i ∧ e.payload = c) := by
  unfold placeIn at h
  split at h
  · obtain ⟨x, hx, rfl⟩ := List.mem_map.mp h
    split
    · rename_i hh; simp at hh; exact Or.inr ⟨hh.1, rfl⟩
    · exact Or.inl hx
  · rcases List.mem_append.mp h with h | h
    · exact Or.inl h
    · simp at h; subst h; exact Or.inr ⟨rfl, rfl⟩
/-- The node may take this command. -/
def Takes (s : State) (i : NodeIdx) (c : Commanded) : Prop := ∃ r, (s.node i).role = some r ∧ c.Fits r
@[simp] theorem nodesOk_placeCommand (s : State) (i : NodeIdx) (c : Commanded) (hf : Takes s i c) (h : NodesOk s) : NodesOk (s.placeCommand i c) := by
  rw [nodesOk_def] at *
  obtain ⟨a, b, c1, d, e, f, g, h, k⟩ := h
  refine ⟨a, b, c1, d, e, f, g, ?_, placeIn_keys _ _ _ k⟩
  intro x hx
  rcases placeIn_mem _ _ _ _ hx with hm | ⟨h1, h2⟩
  · exact h x hm
  · obtain ⟨n, p⟩ := x
    simp only at h1 h2
    subst h1 h2; exact hf
@[simp] theorem nodesOk_writeCommanded (s : State) (i : Option NodeIdx) (c : Commanded) (hf : ∀ j, i = some j → Takes s j c) (h : NodesOk s) : NodesOk (s.writeCommanded i c) := by
  unfold State.writeCommanded
  split
  · exact h
  · rename_i j
    apply nodesOk_placeCommand
    · have := hf j rfl
      unfold Takes at *
      rw [show (s.setNode j { s.node j with commanded := some c, confirmed := false }).node j = { s.node j with commanded := some c, confirmed := false } from setNode_self _ _ _]
      exact this
    · refine nodesOk_setNodeOf _ _ _ h rfl rfl rfl rfl ?_
      intro x hx
      simp at hx; subst hx
      exact Or.inr (hf j rfl)
@[simp] theorem nodesOk_clearCommanded (s : State) (i : Option NodeIdx) (h : NodesOk s) : NodesOk (s.clearCommanded i) := by
  unfold State.clearCommanded
  split
  · exact h
  · exact nodesOk_setNodeOf _ _ _ h rfl rfl rfl rfl (by intro x hx; cases hx)
theorem findNode_has {s : State} {p : Node → Bool} {i : NodeIdx} (h : s.findNode p = some i) : p (s.node i) = true := by
  unfold State.findNode at h
  simpa using List.find?_some h
theorem role_takes {s : State} {r : Role} {c : Commanded} (hc : c.Fits r) (i : NodeIdx) (h : s.roleNode r = some i) : Takes s i c := by
  have := findNode_has h
  exact ⟨r, by simpa using this, hc⟩
theorem bound_takes {s : State} {k : Kiln} {c : Commanded} (hc : c.Fits .burner) (i : NodeIdx) (h : s.boundNode .burner k = some i) : Takes s i c := by
  have := findNode_has h
  simp at this
  exact ⟨.burner, this.1, hc⟩
theorem Takes_of (s t : State) (h : t.field.nodes = s.field.nodes) (i c) : Takes t i c = Takes s i c := by
  unfold Takes State.node; rw [h]
theorem nodesAre_reset : NodesAre ({} : FieldMaster).nodes [] [] := by
  have e : ∀ i : NodeIdx, ({} : FieldMaster).nodes[i] = {} := by intro i; simp
  constructor
  · intro i; rw [e]; decide
  · intro i; rw [e]; decide
  · intro i j; rw [e]; intro _ h; exact absurd rfl h
  · intro i j r h; rw [e] at h; cases h
  · intro i j _ _ h; rw [e] at h; cases h
  · intro i c h; rw [e] at h; cases h
  · intro j hj; cases hj
  · intro j hj; cases hj
  · exact List.nodup_nil
theorem nodeImageOf_inRange {a r b c w m : Byte} {g : NodeImage} (h : nodeImageOf a r b c w m = some g) : g.InRange :=
  (nodeImageOf_only h).1
theorem nodesAre_written {s : State} (h : NodesAre s.field.nodes s.field.pollQueue s.field.commandQueue) (i : NodeIdx) (g : NodeImage)
    (hc : s.nodeConflict i g = false) (hg : g.InRange)
    (n : Node) (hn : n = s.writtenNode g (s.node i)) :
    NodesAre (s.field.nodes.set i n)
      (if n.cadence.isSome then s.field.pollQueue else s.field.pollQueue.filter (fun j => j ≠ i))
      (if g.isLight (s.node i) then s.field.commandQueue else s.field.commandQueue.filter (fun e => e.node ≠ i)) := by
  have sub : ∀ j ∈ (if n.cadence.isSome then s.field.pollQueue else s.field.pollQueue.filter (fun j => j ≠ i)),
      j ∈ s.field.pollQueue ∧ (j = i → n.cadence ≠ none) := by
    intro j hj
    split at hj
    · rename_i hs
      exact ⟨hj, fun _ e => by rw [e] at hs; cases hs⟩
    · simp at hj; exact ⟨hj.1, fun e => absurd e hj.2⟩
  have new : ∀ j : NodeIdx, (s.field.nodes.set i n)[j] = if i = j then n else s.field.nodes[j] :=
    fun j => nodes_set _ _ _ _
  by_cases hl : g.isLight (s.node i) = true
  · cases g with
    | empty => cases hl
    | entry a role binding cadence window missLimit =>
      have hw : n
          = { s.node i with cadence, window, missLimit, state := .unknown, misses := 0 } := by
        rw [hn]; unfold State.writtenNode; simp only [hl, if_true]
      have e1 : ∀ j : NodeIdx, (s.field.nodes.set i n)[j].address = s.field.nodes[j].address := by
        intro j; rw [new]; split
        · rename_i e; subst e; rw [hw]; rfl
        · rfl
      have e2 : ∀ j : NodeIdx, (s.field.nodes.set i n)[j].role = s.field.nodes[j].role := by
        intro j; rw [new]; split
        · rename_i e; subst e; rw [hw]; rfl
        · rfl
      have e3 : ∀ j : NodeIdx, (s.field.nodes.set i n)[j].binding = s.field.nodes[j].binding := by
        intro j; rw [new]; split
        · rename_i e; subst e; rw [hw]; rfl
        · rfl
      have e4 : ∀ j : NodeIdx, (s.field.nodes.set i n)[j].commanded = s.field.nodes[j].commanded := by
        intro j; rw [new]; split
        · rename_i e; subst e; rw [hw]; rfl
        · rfl
      rw [if_pos hl]
      obtain ⟨p1, p2, p3, p4, p5, p6, p7, p8, p9⟩ := h
      constructor
      · intro j; rw [e1, e2]; exact p1 j
      · intro j; rw [e2, e3]; exact p2 j
      · intro j l; rw [e1, e1]; exact p3 j l
      · intro j l r; rw [e2, e2]; exact p4 j l r
      · intro j l; rw [e2, e2, e3, e3]; exact p5 j l
      · intro j x; rw [e2, e4]; exact p6 j x
      · intro j hj
        obtain ⟨hj1, hj2⟩ := sub j hj
        rw [new]; split
        · rename_i e; exact hj2 e.symm
        · exact p7 j hj1
      · intro x hx; rw [e2]; exact p8 x hx
      · exact p9
  · rw [if_neg hl]
    have conf : ∀ j, i ≠ j → g.clashes (s.node j) = false := by
      intro j hij
      unfold State.nodeConflict at hc
      rw [List.any_eq_false] at hc
      have := hc j (List.mem_finRange j)
      simpa [Ne.symm hij] using this
    have old : ∀ j : NodeIdx, i ≠ j → (s.field.nodes.set i n)[j] = s.field.nodes[j] := by
      intro j hij; rw [new, if_neg hij]
    have own : (s.field.nodes.set i n)[i] = n := by
      rw [new, if_pos rfl]
    obtain ⟨p1, p2, p3, p4, p5, p6, p7, p8, p9⟩ := h
    have queued : ∀ x ∈ s.field.commandQueue.filter (fun e => e.node ≠ i),
        ∃ r, (s.field.nodes.set i n)[x.node].role = some r ∧ x.payload.Fits r := by
      intro x hx
      obtain ⟨h1, h2⟩ := List.mem_filter.mp hx
      simp at h2
      rw [old _ (Ne.symm h2)]
      exact p8 x h1
    have once : ((s.field.commandQueue.filter (fun e => e.node ≠ i)).map (fun e => (e.node, e.payload.code))).Nodup :=
      List.Nodup.sublist (List.Sublist.map _ List.filter_sublist) p9
    have polled : ∀ j ∈ (if n.cadence.isSome then s.field.pollQueue else s.field.pollQueue.filter (fun j => j ≠ i)),
        (s.field.nodes.set i n)[j].cadence ≠ none := by
      intro j hj
      obtain ⟨hj1, hj2⟩ := sub j hj
      rw [new]; split
      · rename_i e; exact hj2 e.symm
      · exact p7 j hj1
    cases g with
    | empty =>
      have own2 := own.trans (show n = {} from hn)
      constructor
      · intro j
        by_cases e : i = j
        · subst e; rw [own2]; decide
        · rw [old j e]; exact p1 j
      · intro j
        by_cases e : i = j
        · subst e; rw [own2]; decide
        · rw [old j e]; exact p2 j
      · intro j l
        by_cases e : i = j
        · subst e; rw [own2]; intro _ h0; exact absurd rfl h0
        · rw [old j e]
          by_cases e' : i = l
          · subst e'; rw [own2]; intro h1 h2; exact absurd h1 h2
          · rw [old l e']; exact p3 j l
      · intro j l r
        by_cases e : i = j
        · subst e; rw [own2]; intro h0; cases h0
        · by_cases e' : i = l
          · subst e'; rw [own2]; intro _ h0; cases h0
          · rw [old j e, old l e']; exact p4 j l r
      · intro j l
        by_cases e : i = j
        · subst e; rw [own2]; intro _ _ h0; cases h0
        · by_cases e' : i = l
          · subst e'; rw [own2, old j e]; intro _ h1 h0; rw [h1] at h0; cases h0
          · rw [old j e, old l e']; exact p5 j l
      · intro j c
        by_cases e : i = j
        · subst e; rw [own2]; intro h0; cases h0
        · rw [old j e]; exact p6 j c
      · exact polled
      · exact queued
      · exact once
    | entry a role binding cadence window missLimit =>
      have hw : n
          = { address := a, role := some role, binding, cadence, window, missLimit
              state := .unknown, misses := 0, lastAnswer := none, lastTotalizer := 0, baseline := false
              commanded := s.commandedFor role binding, confirmed := false } := by
        rw [hn]; unfold State.writtenNode; simp only [if_neg hl]
      have own2 := own.trans hw
      obtain ⟨g1, g2, g3, -⟩ := hg
      have ha : a ≠ 0 := by rintro rfl; simp at g1
      have cl : ∀ j, i ≠ j → s.field.nodes[j].address ≠ a ∧ (role.isSingleton = true → s.field.nodes[j].role ≠ some role) ∧
          (role.isBound = true → s.field.nodes[j].role = some role → s.field.nodes[j].binding ≠ binding) := by
        intro j hij
        have := conf j hij
        unfold NodeImage.clashes at this
        simp only [State.node] at this
        simp at this
        exact ⟨of_decide_eq_false this.1.1, fun h => of_decide_eq_false (this.1.2 h), fun h1 h2 => of_decide_eq_false (this.2 h1 (decide_eq_true h2))⟩
      have single : ∀ r : Role, r.Single → r.isSingleton = true := by intro r; cases r <;> simp [Role.Single, Role.isSingleton]
      have isb : role = .probe ∨ role = .burner → role.isBound = true := by rintro (rfl | rfl) <;> rfl
      constructor
      · intro j
        by_cases e : i = j
        · subst e; rw [own2]; exact ⟨fun h => absurd h ha, fun h => by cases h⟩
        · rw [old j e]; exact p1 j
      · intro j
        by_cases e : i = j
        · subst e; rw [own2]; simpa using g3
        · rw [old j e]; exact p2 j
      · intro j l
        by_cases e : i = j
        · by_cases e' : i = l
          · intro _ _; exact e.symm.trans e'
          · subst e; rw [own2, old l e']; intro h0; exact absurd h0.symm (cl l e').1
        · by_cases e' : i = l
          · subst e'; rw [own2, old j e]; intro h0; exact absurd h0 (cl j e).1
          · rw [old j e, old l e']; exact p3 j l
      · intro j l r
        by_cases e : i = j
        · by_cases e' : i = l
          · intro _ _ _; exact e.symm.trans e'
          · subst e; rw [own2, old l e']
            intro h0 h1 hs; cases h0
            exact absurd h1 ((cl l e').2.1 (single _ hs))
        · by_cases e' : i = l
          · subst e'; rw [own2, old j e]
            intro h0 h1 hs; cases h1
            exact absurd h0 ((cl j e).2.1 (single _ hs))
          · rw [old j e, old l e']; exact p4 j l r
      · intro j l
        by_cases e : i = j
        · by_cases e' : i = l
          · intro _ _ _; exact e.symm.trans e'
          · subst e; rw [own2, old l e']
            intro h0 h1 hs
            exact absurd h1.symm ((cl l e').2.2 (isb (g3.mp hs)) h0.symm)
        · by_cases e' : i = l
          · subst e'; rw [own2, old j e]
            intro h0 h1 hs
            rw [h1] at hs
            exact absurd h1 ((cl j e).2.2 (isb (g3.mp hs)) h0)
          · rw [old j e, old l e']; exact p5 j l
      · intro j c
        by_cases e : i = j
        · subst e; rw [own2]
          intro h0
          refine ⟨role, rfl, ?_⟩
          simp only at h0
          unfold State.commandedFor at h0
          cases role <;> simp at h0 <;> first | (subst h0; rfl) | (obtain ⟨x, -, rfl⟩ := h0; rfl)
        · rw [old j e]; exact p6 j c
      · exact polled
      · exact queued
      · exact once
@[simp] theorem nodesOk_raiseOpt (s : State) (k : NoticeKind) (o : Nat) (v : Option Word32) (h : NodesOk s) : NodesOk (State.raiseOpt s k o v) := by simpa [nodesOk_def] using h
@[simp] theorem nodesOk_raise (s : State) (k : NoticeKind) (o : Nat) (v : Int) (h : NodesOk s) : NodesOk (State.raise s k o v) := by simpa [nodesOk_def] using h
@[simp] theorem nodesOk_updCharge (s : State) (r : ChargeRef) (f : Charge → Charge) (h : NodesOk s) : NodesOk (State.updCharge s r f) := by simpa [nodesOk_def] using h
@[simp] theorem nodesOk_removeLot (s : State) (n : Nat) (h : NodesOk s) : NodesOk (State.removeLot s n) := by simpa [nodesOk_def] using h
@[simp] theorem nodesOk_updKiln (s : State) (k : Kiln) (f : KilnRun → KilnRun) (h : NodesOk s) : NodesOk (State.updKiln s k f) := by simpa [nodesOk_def] using h
@[simp] theorem nodesOk_updKilnCharge (s : State) (k : Kiln) (f : Charge → Charge) (h : NodesOk s) : NodesOk (State.updKilnCharge s k f) := by simpa [nodesOk_def] using h
@[simp] theorem nodesOk_updBale (s : State) (n : Nat) (f : Bale → Bale) (h : NodesOk s) : NodesOk (State.updBale s n f) := by simpa [nodesOk_def] using h
@[simp] theorem nodesOk_judgePress (s : State) (h : NodesOk s) : NodesOk (State.judgePress s) := by
  unfold State.judgePress
  split
  · exact h
  · dsimp only
    split
    · apply nodesOk_clearCommanded; simpa [nodesOk_def] using h
    · apply nodesOk_writeCommanded
      · intro j hj; exact role_takes (by exact rfl) j hj
      · simpa [nodesOk_def] using h
@[simp] theorem nodesOk_judgeStore (s : State) (h : NodesOk s) : NodesOk (State.judgeStore s) := by
  generalize e : (State.judgeStore s) = t
  unfold State.judgeStore at e
  (try dsimp only at e)
  (repeat' split at e) <;> subst e <;> (try simp only [refuse_state, accept_state]) <;> (simp (config := {maxDischargeDepth := 60}) [nodesOk_mk, h, (nodesOk_def s).symm.trans (eq_true h)])
@[simp] theorem nodesOk_becomeHead (s : State) (k : Kiln) (h : NodesOk s) : NodesOk (State.becomeHead s k) := by simpa [nodesOk_def] using h
@[simp] theorem nodesOk_joinPressQueue (s : State) (k : Kiln) (h : NodesOk s) : NodesOk (State.joinPressQueue s k) := by
  generalize e : (State.joinPressQueue s k) = t
  unfold State.joinPressQueue at e
  (try dsimp only at e)
  (repeat' split at e) <;> subst e <;> (try simp only [refuse_state, accept_state]) <;> (simp (config := {maxDischargeDepth := 60}) [nodesOk_mk, h, (nodesOk_def s).symm.trans (eq_true h)])
@[simp] theorem nodesOk_writeBurner (s : State) (k : Kiln) (h : NodesOk s) : NodesOk (State.writeBurner s k) := by
  unfold State.writeBurner
  dsimp only
  apply nodesOk_writeCommanded
  · intro j hj; exact bound_takes (by exact rfl) j hj
  · simpa [nodesOk_def] using h
@[simp] theorem nodesOk_kilnDried (s : State) (k : Kiln) (h : NodesOk s) : NodesOk (State.kilnDried s k) := by
  generalize e : (State.kilnDried s k) = t
  unfold State.kilnDried at e
  (try dsimp only at e)
  (repeat' split at e) <;> subst e <;> (try simp only [refuse_state, accept_state]) <;> (simp (config := {maxDischargeDepth := 60}) [nodesOk_mk, h, (nodesOk_def s).symm.trans (eq_true h)])
@[simp] theorem nodesOk_enterStep (s : State) (k : Kiln) (h : NodesOk s) : NodesOk (State.enterStep s k) := by
  generalize e : (State.enterStep s k) = t
  unfold State.enterStep at e
  (try dsimp only at e)
  (repeat' split at e) <;> subst e <;> (try simp only [refuse_state, accept_state]) <;> (simp (config := {maxDischargeDepth := 60}) [nodesOk_mk, h, (nodesOk_def s).symm.trans (eq_true h)])
@[simp] theorem nodesOk_nextStep (s : State) (k : Kiln) (h : NodesOk s) : NodesOk (State.nextStep s k) := by
  generalize e : (State.nextStep s k) = t
  unfold State.nextStep at e
  (try dsimp only at e)
  (repeat' split at e) <;> subst e <;> (try simp only [refuse_state, accept_state]) <;> (simp (config := {maxDischargeDepth := 60}) [nodesOk_mk, h, (nodesOk_def s).symm.trans (eq_true h)])
@[simp] theorem nodesOk_holdKiln (s : State) (k : Kiln) (reason : HoldReason) (h : NodesOk s) : NodesOk (State.holdKiln s k reason) := by
  generalize e : (State.holdKiln s k reason) = t
  unfold State.holdKiln at e
  (try dsimp only at e)
  (repeat' split at e) <;> subst e <;> (try simp only [refuse_state, accept_state]) <;> (simp (config := {maxDischargeDepth := 60}) [nodesOk_mk, h, (nodesOk_def s).symm.trans (eq_true h)])
@[simp] theorem nodesOk_kilnAir (s : State) (k : Kiln) (value : Int) (h : NodesOk s) : NodesOk (State.kilnAir s k value) := by
  generalize e : (State.kilnAir s k value) = t
  unfold State.kilnAir at e
  (try dsimp only at e)
  (repeat' split at e) <;> subst e <;> (try simp only [refuse_state, accept_state]) <;> (simp (config := {maxDischargeDepth := 60}) [nodesOk_mk, h, (nodesOk_def s).symm.trans (eq_true h)])
@[simp] theorem nodesOk_kilnExhaust (s : State) (k : Kiln) (value : Int) (h : NodesOk s) : NodesOk (State.kilnExhaust s k value) := by
  generalize e : (State.kilnExhaust s k value) = t
  unfold State.kilnExhaust at e
  (try dsimp only at e)
  (repeat' split at e) <;> subst e <;> (try simp only [refuse_state, accept_state]) <;> (simp (config := {maxDischargeDepth := 60}) [nodesOk_mk, h, (nodesOk_def s).symm.trans (eq_true h)])
@[simp] theorem nodesOk_startRun (s : State) (k : Kiln) (d : Fin 8) (h : NodesOk s) : NodesOk (State.startRun s k d) := by
  generalize e : (State.startRun s k d) = t
  unfold State.startRun at e
  (try dsimp only at e)
  (repeat' split at e) <;> subst e <;> (try simp only [refuse_state, accept_state]) <;> (simp (config := {maxDischargeDepth := 60}) [nodesOk_mk, h, (nodesOk_def s).symm.trans (eq_true h)])
@[simp] theorem nodesOk_autoStart (s : State) (k : Kiln) (h : NodesOk s) : NodesOk (State.autoStart s k) := by
  generalize e : (State.autoStart s k) = t
  unfold State.autoStart at e
  (try dsimp only at e)
  (repeat' split at e) <;> subst e <;> (try simp only [refuse_state, accept_state]) <;> (simp (config := {maxDischargeDepth := 60}) [nodesOk_mk, h, (nodesOk_def s).symm.trans (eq_true h)])
@[simp] theorem nodesOk_kilnLoaded (s : State) (k : Kiln) (h : NodesOk s) : NodesOk (State.kilnLoaded s k) := by
  generalize e : (State.kilnLoaded s k) = t
  unfold State.kilnLoaded at e
  (try dsimp only at e)
  (repeat' split at e) <;> subst e <;> (try simp only [refuse_state, accept_state]) <;> (simp (config := {maxDischargeDepth := 60}) [nodesOk_mk, h, (nodesOk_def s).symm.trans (eq_true h)])
@[simp] theorem nodesOk_kilnEmptied (s : State) (k : Kiln) (h : NodesOk s) : NodesOk (State.kilnEmptied s k) := by
  generalize e : (State.kilnEmptied s k) = t
  unfold State.kilnEmptied at e
  (try dsimp only at e)
  (repeat' split at e) <;> subst e <;> (try simp only [refuse_state, accept_state]) <;> (simp (config := {maxDischargeDepth := 60}) [nodesOk_mk, h, (nodesOk_def s).symm.trans (eq_true h)])
@[simp] theorem nodesOk_stepEnd (s : State) (k : Kiln) (h : NodesOk s) : NodesOk (State.stepEnd s k) := by
  generalize e : (State.stepEnd s k) = t
  unfold State.stepEnd at e
  (try dsimp only at e)
  (repeat' split at e) <;> subst e <;> (try simp only [refuse_state, accept_state]) <;> (simp (config := {maxDischargeDepth := 60}) [nodesOk_mk, h, (nodesOk_def s).symm.trans (eq_true h)])
@[simp] theorem nodesOk_rampMinute (s : State) (k : Kiln) (h : NodesOk s) : NodesOk (State.rampMinute s k) := by
  generalize e : (State.rampMinute s k) = t
  unfold State.rampMinute at e
  (try dsimp only at e)
  (repeat' split at e) <;> subst e <;> (try simp only [refuse_state, accept_state]) <;> (simp (config := {maxDischargeDepth := 60}) [nodesOk_mk, h, (nodesOk_def s).symm.trans (eq_true h)])
@[simp] theorem nodesOk_dryToOvertime (s : State) (k : Kiln) (h : NodesOk s) : NodesOk (State.dryToOvertime s k) := by
  generalize e : (State.dryToOvertime s k) = t
  unfold State.dryToOvertime at e
  (try dsimp only at e)
  (repeat' split at e) <;> subst e <;> (try simp only [refuse_state, accept_state]) <;> (simp (config := {maxDischargeDepth := 60}) [nodesOk_mk, h, (nodesOk_def s).symm.trans (eq_true h)])
@[simp] theorem nodesOk_abortCoolingEnd (s : State) (k : Kiln) (h : NodesOk s) : NodesOk (State.abortCoolingEnd s k) := by
  generalize e : (State.abortCoolingEnd s k) = t
  unfold State.abortCoolingEnd at e
  (try dsimp only at e)
  (repeat' split at e) <;> subst e <;> (try simp only [refuse_state, accept_state]) <;> (simp (config := {maxDischargeDepth := 60}) [nodesOk_mk, h, (nodesOk_def s).symm.trans (eq_true h)])
@[simp] theorem nodesOk_refreshExpiry (s : State) (k : Kiln) (h : NodesOk s) : NodesOk (State.refreshExpiry s k) := by
  generalize e : (State.refreshExpiry s k) = t
  unfold State.refreshExpiry at e
  (try dsimp only at e)
  (repeat' split at e) <;> subst e <;> (try simp only [refuse_state, accept_state]) <;> (simp (config := {maxDischargeDepth := 60}) [nodesOk_mk, h, (nodesOk_def s).symm.trans (eq_true h)])
@[simp] theorem nodesOk_performKilnStart (kiln : Byte) (s : State) (h : NodesOk s) : NodesOk (performKilnStart kiln s).state := by
  generalize e : (performKilnStart kiln s) = t
  unfold performKilnStart at e
  (try dsimp only at e)
  (repeat' split at e) <;> subst e <;> (try simp only [refuse_state, accept_state]) <;> (simp (config := {maxDischargeDepth := 60}) [nodesOk_mk, h, (nodesOk_def s).symm.trans (eq_true h)])
@[simp] theorem nodesOk_performKilnHold (kiln : Byte) (s : State) (h : NodesOk s) : NodesOk (performKilnHold kiln s).state := by
  generalize e : (performKilnHold kiln s) = t
  unfold performKilnHold at e
  (try dsimp only at e)
  (repeat' split at e) <;> subst e <;> (try simp only [refuse_state, accept_state]) <;> (simp (config := {maxDischargeDepth := 60}) [nodesOk_mk, h, (nodesOk_def s).symm.trans (eq_true h)])
@[simp] theorem nodesOk_resume (s : State) (k : Kiln) (m : ResumeMode) (h : NodesOk s) : NodesOk (State.resume s k m) := by
  generalize e : (State.resume s k m) = t
  unfold State.resume at e
  (try dsimp only at e)
  (repeat' split at e) <;> subst e <;> (try simp only [refuse_state, accept_state]) <;> (simp (config := {maxDischargeDepth := 60}) [nodesOk_mk, h, (nodesOk_def s).symm.trans (eq_true h)])
@[simp] theorem nodesOk_performKilnResume (kiln mode : Byte) (s : State) (h : NodesOk s) : NodesOk (performKilnResume kiln mode s).state := by
  generalize e : (performKilnResume kiln mode s) = t
  unfold performKilnResume at e
  (try dsimp only at e)
  (repeat' split at e) <;> subst e <;> (try simp only [refuse_state, accept_state]) <;> (simp (config := {maxDischargeDepth := 60}) [nodesOk_mk, h, (nodesOk_def s).symm.trans (eq_true h)])
@[simp] theorem nodesOk_abort (s : State) (k : Kiln) (h : NodesOk s) : NodesOk (State.abort s k) := by
  generalize e : (State.abort s k) = t
  unfold State.abort at e
  (try dsimp only at e)
  (repeat' split at e) <;> subst e <;> (try simp only [refuse_state, accept_state]) <;> (simp (config := {maxDischargeDepth := 60}) [nodesOk_mk, h, (nodesOk_def s).symm.trans (eq_true h)])
@[simp] theorem nodesOk_performKilnAbort (kiln : Byte) (s : State) (h : NodesOk s) : NodesOk (performKilnAbort kiln s).state := by
  generalize e : (performKilnAbort kiln s) = t
  unfold performKilnAbort at e
  (try dsimp only at e)
  (repeat' split at e) <;> subst e <;> (try simp only [refuse_state, accept_state]) <;> (simp (config := {maxDischargeDepth := 60}) [nodesOk_mk, h, (nodesOk_def s).symm.trans (eq_true h)])
@[simp] theorem nodesOk_performKilnRead (kiln : Byte) (s : State) (h : NodesOk s) : NodesOk (performKilnRead kiln s).state := by simpa [nodesOk_def] using h
@[simp] theorem nodesOk_setPrint (s : State) (n : Nat) (p : PrintState) (h : NodesOk s) : NodesOk (State.setPrint s n p) := by simpa [nodesOk_def] using h
@[simp] theorem nodesOk_setProcess (s : State) (p : PrintProcess) (h : NodesOk s) : NodesOk (State.setProcess s p) := by simpa [nodesOk_def] using h
@[simp] theorem nodesOk_printScan (s : State) (h : NodesOk s) : NodesOk (State.printScan s) := by simpa [nodesOk_def] using h
@[simp] theorem nodesOk_promptPrint (s : State) (h : NodesOk s) : NodesOk (State.promptPrint s) := by simpa [nodesOk_def] using h
@[simp] theorem nodesOk_testComposition (s : State) (r : ChargeRef) (h : NodesOk s) : NodesOk (State.testComposition s r) := by simpa [nodesOk_def] using h
@[simp] theorem nodesOk_issueTicket (s : State) (r : ChargeRef) (t : Ticket) (h : NodesOk s) : NodesOk (State.issueTicket s r t) := by simpa [nodesOk_def] using h
@[simp] theorem nodesOk_compose (s : State) (r : ChargeRef) (h : NodesOk s) : NodesOk (State.compose s r) := by simpa [nodesOk_def] using h
@[simp] theorem nodesOk_serveFuel (n : Nat) (s : State) (h : NodesOk s) : NodesOk (State.serveFuel n s) := by simpa [nodesOk_def] using h
@[simp] theorem nodesOk_serve (s : State) (h : NodesOk s) : NodesOk (State.serve s) := by simpa [nodesOk_def] using h
@[simp] theorem nodesOk_offerCharge (s : State) (r : ChargeRef) (h : NodesOk s) : NodesOk (State.offerCharge s r) := by simpa [nodesOk_def] using h
@[simp] theorem nodesOk_performTicketBase (nextTicket nextBale : Word32) (s : State) (h : NodesOk s) : NodesOk (performTicketBase nextTicket nextBale s).state := by simpa [nodesOk_def] using h
@[simp] theorem nodesOk_performTicketRead (ticket : Word32) (s : State) (h : NodesOk s) : NodesOk (performTicketRead ticket s).state := by simpa [nodesOk_def] using h
@[simp] theorem nodesOk_takeTicket (s : State) (t : Ticket) (h : NodesOk s) : NodesOk (State.takeTicket s t) := by
  unfold State.takeTicket
  dsimp only
  apply nodesOk_serve; apply nodesOk_judgeStore
  split <;> simpa [nodesOk_def] using h
@[simp] theorem nodesOk_performTicketTake (ticket : Word32) (s : State) (h : NodesOk s) : NodesOk (performTicketTake ticket s).state := by
  generalize e : (performTicketTake ticket s) = t
  unfold performTicketTake at e
  (try dsimp only at e)
  (repeat' split at e) <;> subst e <;> (try simp only [refuse_state, accept_state]) <;> (simp (config := {maxDischargeDepth := 60}) [nodesOk_mk, h, (nodesOk_def s).symm.trans (eq_true h)])
@[simp] theorem nodesOk_performTicketReprint (ticket : Word32) (s : State) (h : NodesOk s) : NodesOk (performTicketReprint ticket s).state := by simpa [nodesOk_def] using h
@[simp] theorem nodesOk_updHold (s : State) (f : FeedHold → FeedHold) (h : NodesOk s) : NodesOk (State.updHold s f) := by simp only [nodesOk_def] at *; simpa using h
@[simp] theorem nodesOk_raiseFeedHeld (s : State) (reason : Nat) (h : NodesOk s) : NodesOk (State.raiseFeedHeld s reason) := by simpa [nodesOk_def] using h
@[simp] theorem nodesOk_judgeHeld (s : State) (before : FeedHold) (h : NodesOk s) : NodesOk (State.judgeHeld s before) := by simpa [nodesOk_def] using h
@[simp] theorem nodesOk_judgePicker (s : State) (h : NodesOk s) : NodesOk (State.judgePicker s) := by
  unfold State.judgePicker
  split
  · exact h
  · dsimp only
    apply nodesOk_writeCommanded
    · intro j hj; exact role_takes (by exact rfl) j hj
    · simpa [nodesOk_def] using h
@[simp] theorem nodesOk_feedEvent (f : State → State) (s : State) (h : NodesOk (f s)) : NodesOk (feedEvent f s) := by
  simp [feedEvent, h]
@[simp] theorem nodesOk_startDivertWatch (s : State) (h : NodesOk s) : NodesOk (State.startDivertWatch s) := by simpa [nodesOk_def] using h
@[simp] theorem nodesOk_takeKiln (s : State) (b : Nat) (k : Kiln) (h : NodesOk s) : NodesOk (State.takeKiln s b k) := by
  simp only [State.takeKiln]
  apply nodesOk_startDivertWatch; apply nodesOk_updHold; apply nodesOk_writeCommanded
  · intro j hj; exact role_takes (by exact rfl) j hj
  · simpa [nodesOk_def] using h
@[simp] theorem nodesOk_hitChargeLimit (s : State) (b : Nat) (k : Kiln) (h : NodesOk s) : NodesOk (State.hitChargeLimit s b k) := by simpa [nodesOk_def] using h
@[simp] theorem nodesOk_selectKiln (s : State) (b : Nat) (h : NodesOk s) : NodesOk (State.selectKiln s b) := by
  generalize e : (State.selectKiln s b) = t
  unfold State.selectKiln at e
  (try dsimp only at e)
  (repeat' split at e) <;> subst e <;> (try simp only [refuse_state, accept_state]) <;> (simp (config := {maxDischargeDepth := 60}) [nodesOk_mk, h, (nodesOk_def s).symm.trans (eq_true h)])
@[simp] theorem nodesOk_attemptSelection (s : State) (h : NodesOk s) : NodesOk (State.attemptSelection s) := by
  generalize e : (State.attemptSelection s) = t
  unfold State.attemptSelection at e
  (try dsimp only at e)
  (repeat' split at e) <;> subst e <;> (try simp only [refuse_state, accept_state]) <;> (simp (config := {maxDischargeDepth := 60}) [nodesOk_mk, h, (nodesOk_def s).symm.trans (eq_true h)])
@[simp] theorem nodesOk_closeCharge (s : State) (k : Kiln) (h : NodesOk s) : NodesOk (State.closeCharge s k) := by simpa [nodesOk_def] using h
@[simp] theorem nodesOk_closeFill (s : State) (k : Kiln) (h : NodesOk s) : NodesOk (State.closeFill s k) := by
  simp only [State.closeFill]
  have h1 := nodesOk_kilnLoaded _ k (nodesOk_closeCharge s k h)
  have h2 : NodesOk ((((s.closeCharge k).kilnLoaded k).updFeed (fun u => { u with loading := none, divertConfirmed := false })).writeCommanded
      ((((s.closeCharge k).kilnLoaded k).updFeed (fun u => { u with loading := none, divertConfirmed := false })).roleNode .diverter) (.divert none)) := by
    apply nodesOk_writeCommanded
    · intro j hj; exact role_takes (by exact rfl) j hj
    · simpa [nodesOk_def] using h1
  simpa [nodesOk_def] using h2
@[simp] theorem nodesOk_closeAndSelect (s : State) (k : Kiln) (h : NodesOk s) : NodesOk (State.closeAndSelect s k) := by
  generalize e : (State.closeAndSelect s k) = t
  unfold State.closeAndSelect at e
  (try dsimp only at e)
  (repeat' split at e) <;> subst e <;> (try simp only [refuse_state, accept_state]) <;> (simp (config := {maxDischargeDepth := 60}) [nodesOk_mk, h, (nodesOk_def s).symm.trans (eq_true h)])
@[simp] theorem nodesOk_finishOldLot (s : State) (h : NodesOk s) : NodesOk (State.finishOldLot s) := by simpa [nodesOk_def] using h
@[simp] theorem nodesOk_completeChangeover (s : State) (h : NodesOk s) : NodesOk (State.completeChangeover s) := by
  unfold State.completeChangeover
  dsimp only
  apply nodesOk_attemptSelection
  have key : ∀ t, NodesOk t → NodesOk (t.finishOldLot.updFeed (fun u => { u with
    beltLot := u.changeover.pending, changeover := .steady
    hold := { u.hold with changeover := false, noKiln := false, chargeLimit := false } })) := by
    intro t ht
    have := nodesOk_finishOldLot t ht
    simpa [nodesOk_def] using this
  split
  · exact key _ h
  · exact key _ (nodesOk_closeFill _ _ h)
@[simp] theorem nodesOk_changeoverExpiry (s : State) (h : NodesOk s) : NodesOk (State.changeoverExpiry s) := by
  unfold State.changeoverExpiry
  dsimp only
  split
  · have : NodesOk (s.updFeed fun u => { u with timer := 0 }) := by simpa [nodesOk_def] using h
    split
    · exact nodesOk_completeChangeover _ this
    · simpa [nodesOk_def] using h
  · exact h
  · exact h
@[simp] theorem nodesOk_beltAnswered (s : State) (h : NodesOk s) : NodesOk (State.beltAnswered s) := by
  generalize e : (State.beltAnswered s) = t
  unfold State.beltAnswered at e
  (try dsimp only at e)
  (repeat' split at e) <;> subst e <;> (try simp only [refuse_state, accept_state]) <;> (simp (config := {maxDischargeDepth := 60}) [nodesOk_mk, h, (nodesOk_def s).symm.trans (eq_true h)])
@[simp] theorem nodesOk_divertWatchExpiry (s : State) (h : NodesOk s) : NodesOk (State.divertWatchExpiry s) := by simpa [nodesOk_def] using h
@[simp] theorem nodesOk_divertReport (s : State) (target : Option Kiln) (h : NodesOk s) : NodesOk (State.divertReport s target) := by simpa [nodesOk_def] using h
@[simp] theorem nodesOk_credit (s : State) (inc : Nat) (h : NodesOk s) : NodesOk (State.credit s inc) := by
  unfold State.credit
  (try dsimp only)
  split
  · simpa [nodesOk_def] using h
  · split
    · have h0 : ∀ b k, NodesOk ((s.updLot b (fun l => { l with greenTotal := l.greenTotal + inc })).updKilnCharge k
          (fun c => { c with green := c.green + inc })) := by
        intro b k; simpa [nodesOk_def] using h
      split
      · exact h0 _ _
      · split
        · exact nodesOk_closeAndSelect _ _ (h0 _ _)
        · exact h0 _ _
    · apply nodesOk_raise; simpa [nodesOk_def] using h
@[simp] theorem nodesOk_green (s : State) (i : NodeIdx) (value : Word32) (h : NodesOk s) : NodesOk (State.green s i value) := by
  unfold State.green
  dsimp only
  have h1 : NodesOk (s.setNode i { s.node i with lastTotalizer := value, baseline := true }) :=
    nodesOk_setNodeOf _ _ _ h rfl rfl rfl rfl (fun x hx => Or.inl hx)
  repeat' split
  · exact h1
  · exact nodesOk_raiseOpt _ _ _ _ h1
  · exact nodesOk_credit _ _ h1
  · exact h1
@[simp] theorem nodesOk_feedLot (s : State) (new : Option Nat) (h : NodesOk s) : NodesOk (State.feedLot s new) := by
  unfold State.feedLot
  dsimp only
  have key : ∀ g : Feed → Feed, NodesOk (s.updFeed g) := by
    intro g; simp only [nodesOk_def] at *; simpa using h
  have k2 : ∀ (g : Feed → Feed) (n f), NodesOk ((s.updFeed g).updLot n f) := by
    intro g n f; simp only [nodesOk_def] at *; simpa using h
  split
  · apply nodesOk_changeoverExpiry
    split
    · exact key _
    · exact k2 _ _ _
  · split
    · exact key _
    · exact k2 _ _ _
@[simp] theorem nodesOk_performLotFeed (lot : Word16) (s : State) (h : NodesOk s) : NodesOk (performLotFeed lot s).state := by
  generalize e : (performLotFeed lot s) = t
  unfold performLotFeed at e
  (try dsimp only at e)
  (repeat' split at e) <;> subst e <;> (try simp only [refuse_state, accept_state]) <;> (simp (config := {maxDischargeDepth := 60}) [nodesOk_mk, h, (nodesOk_def s).symm.trans (eq_true h)])
@[simp] theorem nodesOk_performFeedHold (flag : Byte) (s : State) (h : NodesOk s) : NodesOk (performFeedHold flag s).state := by
  generalize e : (performFeedHold flag s) = t
  unfold performFeedHold at e
  (try dsimp only at e)
  (repeat' split at e) <;> subst e <;> (try simp only [refuse_state, accept_state]) <;> (simp (config := {maxDischargeDepth := 60}) [nodesOk_mk, h, (nodesOk_def s).symm.trans (eq_true h)])
@[simp] theorem nodesOk_performFillOrder (count : Byte) (kilns : List Byte) (s : State) (h : NodesOk s) : NodesOk (performFillOrder count kilns s).state := by
  unfold performFillOrder
  (repeat' split) <;> try exact h
  apply nodesOk_feedEvent; apply nodesOk_attemptSelection
  simpa [nodesOk_def] using h
@[simp] theorem nodesOk_performLoadClose (s : State) (h : NodesOk s) : NodesOk (performLoadClose s).state := by
  generalize e : (performLoadClose s) = t
  unfold performLoadClose at e
  (try dsimp only at e)
  (repeat' split at e) <;> subst e <;> (try simp only [refuse_state, accept_state]) <;> (simp (config := {maxDischargeDepth := 60}) [nodesOk_mk, h, (nodesOk_def s).symm.trans (eq_true h)])
@[simp] theorem nodesOk_fillBale (s : State) (b : Bale) (gross : Int) (h : NodesOk s) : NodesOk (State.fillBale s b gross) := by simpa [nodesOk_def] using h
@[simp] theorem nodesOk_captured (s : State) (weight : Int) (h : NodesOk s) : NodesOk (State.captured s weight) := by simpa [nodesOk_def] using h
@[simp] theorem nodesOk_notCaptured (s : State) (h : NodesOk s) : NodesOk (State.notCaptured s) := by simpa [nodesOk_def] using h
@[simp] theorem nodesOk_judgeBlock (s : State) (h : NodesOk s) : NodesOk (State.judgeBlock s) := by simpa [nodesOk_def] using h
@[simp] theorem nodesOk_enterFault (s : State) (cause : FaultCause) (h : NodesOk s) : NodesOk (State.enterFault s cause) := by simpa [nodesOk_def] using h
@[simp] theorem nodesOk_faultCause (s : State) (cause : FaultCause) (h : NodesOk s) : NodesOk (State.faultCause s cause) := by simpa [nodesOk_def] using h
@[simp] theorem nodesOk_takeReading (s : State) (r : Int) (h : NodesOk s) : NodesOk (State.takeReading s r) := by simpa [nodesOk_def] using h
@[simp] theorem nodesOk_takeSample (s : State) (st : Byte) (sample : Int) (h : NodesOk s) : NodesOk (State.takeSample s st sample) := by simpa [nodesOk_def] using h
@[simp] theorem nodesOk_frameStart (s : State) (h : NodesOk s) : NodesOk (State.frameStart s) := by simpa [nodesOk_def] using h
@[simp] theorem nodesOk_frameComplete (s : State) (st : Byte) (sample : BitVec 24) (h : NodesOk s) : NodesOk (State.frameComplete s st sample) := by simpa [nodesOk_def] using h
@[simp] theorem nodesOk_frameTorn (s : State) (h : NodesOk s) : NodesOk (State.frameTorn s) := by simpa [nodesOk_def] using h
@[simp] theorem nodesOk_watchExpiry (s : State) (h : NodesOk s) : NodesOk (State.watchExpiry s) := by simpa [nodesOk_def] using h
@[simp] theorem nodesOk_settleTimeout (s : State) (h : NodesOk s) : NodesOk (State.settleTimeout s) := by simpa [nodesOk_def] using h
@[simp] theorem nodesOk_scaleOnScale (s : State) (h : NodesOk s) : NodesOk (State.scaleOnScale s) := by simpa [nodesOk_def] using h
@[simp] theorem nodesOk_createBale (s : State) (k : Kiln) (r : ChargeRef) (value : Word32) (weighing : Bool) (h : NodesOk s) : NodesOk (State.createBale s k r value weighing) := by
  unfold State.createBale
  dsimp only
  split
  · apply nodesOk_judgeStore; simpa [nodesOk_def] using h
  · apply nodesOk_offerCharge; apply nodesOk_judgeStore; simpa [nodesOk_def] using h
@[simp] theorem nodesOk_newCycle (s : State) (value : Word32) (weighing : Bool) (h : NodesOk s) : NodesOk (State.newCycle s value weighing) := by
  generalize e : (State.newCycle s value weighing) = t
  unfold State.newCycle at e
  (try dsimp only at e)
  (repeat' split at e) <;> subst e <;> (try simp only [refuse_state, accept_state]) <;> (simp (config := {maxDischargeDepth := 60}) [nodesOk_mk, h, (nodesOk_def s).symm.trans (eq_true h)])
@[simp] theorem nodesOk_onScale (s : State) (value : Word32) (h : NodesOk s) : NodesOk (State.onScale s value) := by
  generalize e : (State.onScale s value) = t
  unfold State.onScale at e
  (try dsimp only at e)
  (repeat' split at e) <;> subst e <;> (try simp only [refuse_state, accept_state]) <;> (simp (config := {maxDischargeDepth := 60}) [nodesOk_mk, h, (nodesOk_def s).symm.trans (eq_true h)])
@[simp] theorem nodesOk_offScale (s : State) (h : NodesOk s) : NodesOk (State.offScale s) := by simpa [nodesOk_def] using h
@[simp] theorem nodesOk_moisture (s : State) (value : Word32) (h : NodesOk s) : NodesOk (State.moisture s value) := by simpa [nodesOk_def] using h
@[simp] theorem nodesOk_advanceHead (s : State) (h : NodesOk s) : NodesOk (State.advanceHead s) := by simpa [nodesOk_def] using h
@[simp] theorem nodesOk_unloadHead (s : State) (k : Kiln) (h : NodesOk s) : NodesOk (State.unloadHead s k) := by
  generalize e : (State.unloadHead s k) = t
  unfold State.unloadHead at e
  (try dsimp only at e)
  (repeat' split at e) <;> subst e <;> (try simp only [refuse_state, accept_state]) <;> (simp (config := {maxDischargeDepth := 60}) [nodesOk_mk, h, (nodesOk_def s).symm.trans (eq_true h)])
@[simp] theorem nodesOk_unloadDone (s : State) (h : NodesOk s) : NodesOk (State.unloadDone s) := by
  generalize e : (State.unloadDone s) = t
  unfold State.unloadDone at e
  (try dsimp only at e)
  (repeat' split at e) <;> subst e <;> (try simp only [refuse_state, accept_state]) <;> (simp (config := {maxDischargeDepth := 60}) [nodesOk_mk, h, (nodesOk_def s).symm.trans (eq_true h)])
@[simp] theorem nodesOk_performUnloadDone (kiln : Byte) (s : State) (h : NodesOk s) : NodesOk (performUnloadDone kiln s).state := by
  generalize e : (performUnloadDone kiln s) = t
  unfold performUnloadDone at e
  (try dsimp only at e)
  (repeat' split at e) <;> subst e <;> (try simp only [refuse_state, accept_state]) <;> (simp (config := {maxDischargeDepth := 60}) [nodesOk_mk, h, (nodesOk_def s).symm.trans (eq_true h)])
@[simp] theorem nodesOk_performPressHold (flag : Byte) (s : State) (h : NodesOk s) : NodesOk (performPressHold flag s).state := by
  generalize e : (performPressHold flag s) = t
  unfold performPressHold at e
  (try dsimp only at e)
  (repeat' split at e) <;> subst e <;> (try simp only [refuse_state, accept_state]) <;> (simp (config := {maxDischargeDepth := 60}) [nodesOk_mk, h, (nodesOk_def s).symm.trans (eq_true h)])
@[simp] theorem nodesOk_performBaleWeight (bale gross : Word32) (s : State) (h : NodesOk s) : NodesOk (performBaleWeight bale gross s).state := by simpa [nodesOk_def] using h
@[simp] theorem nodesOk_performBaleRead (bale : Word32) (s : State) (h : NodesOk s) : NodesOk (performBaleRead bale s).state := by simpa [nodesOk_def] using h
@[simp] theorem nodesOk_performScaleRead (s : State) (h : NodesOk s) : NodesOk (performScaleRead s).state := by simpa [nodesOk_def] using h
@[simp] theorem nodesOk_performScaleZero (s : State) (h : NodesOk s) : NodesOk (performScaleZero s).state := by simpa [nodesOk_def] using h
@[simp] theorem nodesOk_performScaleCommand (word : Byte) (s : State) (h : NodesOk s) : NodesOk (performScaleCommand word s).state := by simpa [nodesOk_def] using h
@[simp] theorem nodesOk_nodeAnswered (s : State) (i : NodeIdx) (h : NodesOk s) : NodesOk (State.nodeAnswered s i) := by
  unfold State.nodeAnswered
  dsimp only
  have h1 : NodesOk (s.setNode i { s.node i with misses := 0, lastAnswer := some s.now, state := .online }) :=
    nodesOk_setNodeOf _ _ _ h rfl rfl rfl rfl (fun x hx => Or.inl hx)
  split
  · exact nodesOk_raise _ _ _ _ h1
  · exact h1
@[simp] theorem nodesOk_reportAnswer (s : State) (i : NodeIdx) (h : NodesOk s) : NodesOk (State.reportAnswer s i) := by
  generalize e : (State.reportAnswer s i) = t
  unfold State.reportAnswer at e
  (try dsimp only at e)
  (repeat' split at e) <;> subst e <;> (try simp only [refuse_state, accept_state]) <;> (simp (config := {maxDischargeDepth := 60}) [nodesOk_mk, h, (nodesOk_def s).symm.trans (eq_true h)])
@[simp] theorem nodesOk_holdBound (s : State) (n : Node) (reason : HoldReason) (h : NodesOk s) : NodesOk (State.holdBound s n reason) := by
  generalize e : (State.holdBound s n reason) = t
  unfold State.holdBound at e
  (try dsimp only at e)
  (repeat' split at e) <;> subst e <;> (try simp only [refuse_state, accept_state]) <;> (simp (config := {maxDischargeDepth := 60}) [nodesOk_mk, h, (nodesOk_def s).symm.trans (eq_true h)])
@[simp] theorem nodesOk_reportLost (s : State) (n : Node) (h : NodesOk s) : NodesOk (State.reportLost s n) := by
  generalize e : (State.reportLost s n) = t
  unfold State.reportLost at e
  (try dsimp only at e)
  (repeat' split at e) <;> subst e <;> (try simp only [refuse_state, accept_state]) <;> (simp (config := {maxDischargeDepth := 60}) [nodesOk_mk, h, (nodesOk_def s).symm.trans (eq_true h)])
@[simp] theorem nodesOk_nodeMissed (s : State) (i : NodeIdx) (h : NodesOk s) : NodesOk (State.nodeMissed s i) := by
  unfold State.nodeMissed
  dsimp only
  have h1 : NodesOk (s.setNode i { s.node i with misses := min 15 ((s.node i).misses + 1) }) :=
    nodesOk_setNodeOf _ _ _ h rfl rfl rfl rfl (fun x hx => Or.inl hx)
  split
  · apply nodesOk_reportLost; apply nodesOk_raise
    refine nodesOk_setNodeOf _ _ _ h1 ?_ ?_ ?_ ?_ ?_
    all_goals rw [setNode_self]
    intro c hc; exact Or.inl hc
  · exact h1
@[simp] theorem nodesOk_missOn (s : State) (t : Transaction) (h : NodesOk s) : NodesOk (State.missOn s t) := by
  generalize e : (State.missOn s t) = t
  unfold State.missOn at e
  (try dsimp only at e)
  (repeat' split at e) <;> subst e <;> (try simp only [refuse_state, accept_state]) <;> (simp (config := {maxDischargeDepth := 60}) [nodesOk_mk, h, (nodesOk_def s).symm.trans (eq_true h)])
@[simp] theorem nodesOk_forward (s : State) (f : Frame) (h : NodesOk s) : NodesOk (State.forward s f) := by simpa [nodesOk_def] using h
@[simp] theorem nodesOk_applyRoute (s : State) (r : Route) (i : NodeIdx) (f : Frame) (h : NodesOk s) : NodesOk (State.applyRoute s r i f) := by
  generalize e : (State.applyRoute s r i f) = t
  unfold State.applyRoute at e
  (try dsimp only at e)
  (repeat' split at e) <;> subst e <;> (try simp only [refuse_state, accept_state]) <;> (simp (config := {maxDischargeDepth := 60}) [nodesOk_mk, h, (nodesOk_def s).symm.trans (eq_true h)])
@[simp] theorem nodesOk_jobAction (s : State) (r : Route) (x : RouteIdx) (i : NodeIdx) (f : Frame) (h : NodesOk s) : NodesOk (State.jobAction s r x i f) := by
  generalize e : (State.jobAction s r x i f) = t
  unfold State.jobAction at e
  (try dsimp only at e)
  (repeat' split at e) <;> subst e <;> (try simp only [refuse_state, accept_state]) <;> (simp (config := {maxDischargeDepth := 60}) [nodesOk_mk, h, (nodesOk_def s).symm.trans (eq_true h)])
@[simp] theorem nodesOk_copyIf (s : State) (c : Bool) (f : Frame) (h : NodesOk s) : NodesOk (State.copyIf s c f) := by simpa [nodesOk_def] using h
@[simp] theorem nodesOk_classify (s : State) (i : NodeIdx) (f : Frame) (h : NodesOk s) : NodesOk (State.classify s i f) := by
  generalize e : (State.classify s i f) = t
  unfold State.classify at e
  (try dsimp only at e)
  (repeat' split at e) <;> subst e <;> (try simp only [refuse_state, accept_state]) <;> (simp (config := {maxDischargeDepth := 60}) [nodesOk_mk, h, (nodesOk_def s).symm.trans (eq_true h)])
@[simp] theorem nodesOk_endTransaction (s : State) (h : NodesOk s) : NodesOk (State.endTransaction s) := by simpa [nodesOk_def] using h
@[simp] theorem nodesOk_countUnsolicited (s : State) (h : NodesOk s) : NodesOk (State.countUnsolicited s) := by simpa [nodesOk_def] using h
@[simp] theorem nodesOk_pollAnswered (s : State) (i : NodeIdx) (f : Frame) (h : NodesOk s) : NodesOk (State.pollAnswered s i f) := by
  generalize e : (State.pollAnswered s i f) = t
  unfold State.pollAnswered at e
  (try dsimp only at e)
  (repeat' split at e) <;> subst e <;> (try simp only [refuse_state, accept_state]) <;> (simp (config := {maxDischargeDepth := 60}) [nodesOk_mk, h, (nodesOk_def s).symm.trans (eq_true h)])
@[simp] theorem nodesOk_reportConfirmed (s : State) (c : Commanded) (h : NodesOk s) : NodesOk (State.reportConfirmed s c) := by simpa [nodesOk_def] using h
@[simp] theorem nodesOk_commandAnswered (s : State) (i : NodeIdx) (code : Byte) (f : Frame) (h : NodesOk s) : NodesOk (State.commandAnswered s i code f) := by
  unfold State.commandAnswered
  repeat' split
  · exact nodesOk_raise _ _ _ _ h
  · exact h
  · exact nodesOk_reportConfirmed _ _ (nodesOk_setNodeOf _ _ _ h rfl rfl rfl rfl (fun x hx => Or.inl hx))
  · exact h
@[simp] theorem nodesOk_blockAnswered (s : State) (i : NodeIdx) (ticket : Nat) (f : Frame) (h : NodesOk s) : NodesOk (State.blockAnswered s i ticket f) := by simpa [nodesOk_def] using h
@[simp] theorem nodesOk_answerBody (s : State) (t : Transaction) (i : NodeIdx) (f : Frame) (h : NodesOk s) : NodesOk (State.answerBody s t i f) := by
  generalize e : (State.answerBody s t i f) = t
  unfold State.answerBody at e
  (try dsimp only at e)
  (repeat' split at e) <;> subst e <;> (try simp only [refuse_state, accept_state]) <;> (simp (config := {maxDischargeDepth := 60}) [nodesOk_mk, h, (nodesOk_def s).symm.trans (eq_true h)])
@[simp] theorem nodesOk_answered (s : State) (t : Transaction) (f : Frame) (h : NodesOk s) : NodesOk (State.answered s t f) := by
  generalize e : (State.answered s t f) = t
  unfold State.answered at e
  (try dsimp only at e)
  (repeat' split at e) <;> subst e <;> (try simp only [refuse_state, accept_state]) <;> (simp (config := {maxDischargeDepth := 60}) [nodesOk_mk, h, (nodesOk_def s).symm.trans (eq_true h)])
@[simp] theorem nodesOk_expired (s : State) (t : Transaction) (h : NodesOk s) : NodesOk (State.expired s t) := by
  generalize e : (State.expired s t) = t
  unfold State.expired at e
  (try dsimp only at e)
  (repeat' split at e) <;> subst e <;> (try simp only [refuse_state, accept_state]) <;> (simp (config := {maxDischargeDepth := 60}) [nodesOk_mk, h, (nodesOk_def s).symm.trans (eq_true h)])
@[simp] theorem nodesOk_afterOther (s : State) (h : NodesOk s) : NodesOk (State.afterOther s) := by
  generalize e : (State.afterOther s) = t
  unfold State.afterOther at e
  (try dsimp only at e)
  (repeat' split at e) <;> subst e <;> (try simp only [refuse_state, accept_state]) <;> (simp (config := {maxDischargeDepth := 60}) [nodesOk_mk, h, (nodesOk_def s).symm.trans (eq_true h)])
@[simp] theorem nodesOk_offerFrame (s : State) (f : Frame) (h : NodesOk s) : NodesOk (State.offerFrame s f) := by
  generalize e : (State.offerFrame s f) = t
  unfold State.offerFrame at e
  (try dsimp only at e)
  (repeat' split at e) <;> subst e <;> (try simp only [refuse_state, accept_state]) <;> (simp (config := {maxDischargeDepth := 60}) [nodesOk_mk, h, (nodesOk_def s).symm.trans (eq_true h)])
@[simp] theorem nodesOk_fieldArrival (s : State) (chars : List Byte) (h : NodesOk s) : NodesOk (State.fieldArrival s chars) := by
  unfold State.fieldArrival
  dsimp only
  have h' : NodesAre s.field.nodes s.field.pollQueue s.field.commandQueue := (nodesOk_def s) ▸ h
  split
  · split <;> simp (config := {maxDischargeDepth := 60}) [nodesOk_mk, h']
  · exact h
@[simp] theorem nodesOk_receptionStart (s : State) (h : NodesOk s) : NodesOk (State.receptionStart s) := by simpa [nodesOk_def] using h
@[simp] theorem nodesOk_windowExpiry (s : State) (h : NodesOk s) : NodesOk (State.windowExpiry s) := by
  generalize e : (State.windowExpiry s) = t
  unfold State.windowExpiry at e
  (try dsimp only at e)
  (repeat' split at e) <;> subst e <;> (try simp only [refuse_state, accept_state]) <;> (simp (config := {maxDischargeDepth := 60}) [nodesOk_mk, h, (nodesOk_def s).symm.trans (eq_true h)])
@[simp] theorem nodesOk_guardEnd (s : State) (h : NodesOk s) : NodesOk (State.guardEnd s) := by simpa [nodesOk_def] using h
@[simp] theorem nodesOk_transmitDone (s : State) (h : NodesOk s) : NodesOk (State.transmitDone s) := by simpa [nodesOk_def] using h
@[simp] theorem nodesOk_openTransaction (s : State) (kind : TransactionKind) (address : Byte) (node : Option NodeIdx) (frames : List Frame) (window : Nat) (h : NodesOk s) : NodesOk (State.openTransaction s kind address node frames window) := by simpa [nodesOk_def] using h
@[simp] theorem nodesOk_startCommand (s : State) (c : Command) (rest : List Command) (hr : NodesAre s.field.nodes s.field.pollQueue rest) (h : NodesOk s) : NodesOk (State.startCommand s c rest) := by
  unfold State.startCommand
  apply nodesOk_openTransaction
  rw [nodesOk_mk]; exact hr
@[simp] theorem nodesOk_startBlock (s : State) (ticket : Nat) (h : NodesOk s) : NodesOk (State.startBlock s ticket) := by simpa [nodesOk_def] using h
@[simp] theorem nodesOk_startPass (s : State) (f : Frame) (rest : List Frame) (h : NodesOk s) : NodesOk (State.startPass s f rest) := by simpa [nodesOk_def] using h
@[simp] theorem nodesOk_startPoll (s : State) (i : NodeIdx) (rest : List NodeIdx) (hr : NodesAre s.field.nodes rest s.field.commandQueue) (h : NodesOk s) : NodesOk (State.startPoll s i rest) := by
  unfold State.startPoll
  apply nodesOk_openTransaction
  rw [nodesOk_mk]; exact hr
@[simp] theorem nodesOk_startSource (s : State) (c : FieldSource) (h : NodesOk s) : NodesOk (State.startSource s c) := by
  have hd := h
  rw [nodesOk_def] at hd
  have hp : ∀ f fs, s.field.commandQueue = f :: fs → NodesAre s.field.nodes s.field.pollQueue fs := by
    intro f fs e; rw [e] at hd
    exact { hd with queued := fun x hx => hd.queued x (List.mem_cons_of_mem _ hx), queuedOnce := (List.nodup_cons.mp hd.queuedOnce).2 }
  have hq : ∀ f fs, s.field.pollQueue = f :: fs → NodesAre s.field.nodes fs s.field.commandQueue := by
    intro f fs e; rw [e] at hd
    exact { hd with polled := fun x hx => hd.polled x (List.mem_cons_of_mem _ hx) }
  unfold State.startSource
  repeat' split
  all_goals first
    | exact h
    | (apply nodesOk_startCommand _ _ _ _ h; apply hp; assumption)
    | exact nodesOk_startBlock _ _ h
    | exact nodesOk_startPass _ _ _ h
    | (apply nodesOk_startPoll _ _ _ _ h; apply hq; assumption)
@[simp] theorem nodesOk_startTransaction (s : State) (h : NodesOk s) : NodesOk (State.startTransaction s) := by
  generalize e : (State.startTransaction s) = t
  unfold State.startTransaction at e
  (try dsimp only at e)
  (repeat' split at e) <;> subst e <;> (try simp only [refuse_state, accept_state]) <;> (simp (config := {maxDischargeDepth := 60}) [nodesOk_mk, h, (nodesOk_def s).symm.trans (eq_true h)])
@[simp] theorem nodesOk_choosing (s : State) (c : Option FieldSource) (h : NodesOk s) : NodesOk (s.choosing c) := by simpa [nodesOk_def] using h
@[simp] theorem nodesOk_scheduleNode (c : CadenceId) (s : State) (i : NodeIdx) (h : NodesOk s) : NodesOk (State.scheduleNode c s i) := by
  have hd := h
  rw [nodesOk_def] at hd
  unfold State.scheduleNode
  dsimp only
  repeat' split
  · rename_i hc _ _ _ hm _
    apply nodesOk_placeCommand _ _ _ _ h
    exact hd.commanded i _ hm
  · exact nodesOk_raise _ _ _ _ h
  · rename_i hc _ _ _ _
    simp at hc
    rw [nodesOk_mk]
    refine { hd with polled := ?_ }
    intro j hj
    rcases List.mem_append.mp hj with hj | hj
    · exact hd.polled j hj
    · simp at hj; subst hj
      change (s.node j).cadence ≠ none
      rw [hc.2]; simp
  · exact h
@[simp] theorem nodesOk_updCadence (s : State) (c : CadenceId) (f : Cadence → Cadence) (h : NodesOk s) : NodesOk (State.updCadence s c f) := by simpa [nodesOk_def] using h
@[simp] theorem nodesOk_cadenceExpiry (s : State) (c : CadenceId) (h : NodesOk s) : NodesOk (State.cadenceExpiry s c) := by
  have fold : ∀ (is : List NodeIdx) (s : State), NodesOk s → NodesOk (is.foldl (State.scheduleNode c) s) := by
    intro is
    induction is with
    | nil => intro s h; simpa
    | cons i is ih => intro s h; exact ih _ (nodesOk_scheduleNode c s i h)
  unfold State.cadenceExpiry
  split
  · exact fold _ _ (nodesOk_updCadence _ _ _ h)
  · exact h
@[simp] theorem nodesOk_restartField (s : State) (h : NodesOk s) : NodesOk (State.restartField s) := by
  have hd := h
  rw [nodesOk_def] at hd
  have key : NodesAre (s.field.nodes.map Node.restarted) [] [] := by
    have e0 : ∀ j : NodeIdx, (s.field.nodes.map Node.restarted)[j] = (s.field.nodes[j]).restarted := by intro j; simp
    have e1 : ∀ n : Node, n.restarted.address = n.address := by intro n; unfold Node.restarted; split <;> rfl
    have e2 : ∀ n : Node, n.restarted.role = n.role := by intro n; unfold Node.restarted; split <;> rfl
    have e3 : ∀ n : Node, n.restarted.binding = n.binding := by intro n; unfold Node.restarted; split <;> rfl
    have e4 : ∀ n : Node, n.restarted.commanded = n.commanded := by intro n; unfold Node.restarted; split <;> rfl
    obtain ⟨a, b, c, d, e, f, g, h, k⟩ := hd
    constructor
    · intro j; rw [e0, e1, e2]; exact a j
    · intro j; rw [e0, e2, e3]; exact b j
    · intro j l; rw [e0, e0, e1, e1]; exact c j l
    · intro j l r; rw [e0, e0, e2, e2]; exact d j l r
    · intro j l; rw [e0, e0, e2, e2, e3, e3]; exact e j l
    · intro j x; rw [e0, e2, e4]; exact f j x
    · intro j hj; cases hj
    · intro j hj; cases hj
    · exact List.nodup_nil
  unfold State.restartField
  dsimp only
  split
  · apply nodesOk_printScan; rw [nodesOk_mk]; exact key
  · rw [nodesOk_mk]; exact key
@[simp] theorem nodesOk_printerWritten (s : State) (before after : Option Role) (h : NodesOk s) : NodesOk (State.printerWritten s before after) := by simpa [nodesOk_def] using h
@[simp] theorem nodesOk_writeNode (s : State) (i : NodeIdx) (g : NodeImage) (hc : s.nodeConflict i g = false) (hg : g.InRange) (h : NodesOk s) : NodesOk (State.writeNode s i g) := by
  have hd := h
  rw [nodesOk_def] at hd
  unfold State.writeNode
  dsimp only
  apply nodesOk_printerWritten
  rw [nodesOk_mk]
  exact nodesAre_written hd i g hc hg _ rfl
@[simp] theorem nodesOk_performNodeWrite (index : Byte) (image : List Byte) (s : State) (h : NodesOk s) : NodesOk (performNodeWrite index image s).state := by
  unfold performNodeWrite
  split
  · repeat' split
    all_goals (try exact h)
    rename_i g hg
    dsimp only
    repeat' split
    all_goals (try exact h)
    rename_i hc _
    refine nodesOk_writeNode _ _ _ ?_ ?_ h
    · simpa using hc
    · exact nodeImageOf_inRange hg
  · exact h
@[simp] theorem nodesOk_performRouteWrite (index : Byte) (image : List Byte) (s : State) (h : NodesOk s) : NodesOk (performRouteWrite index image s).state := by simpa [nodesOk_def] using h
@[simp] theorem nodesOk_performCadenceWrite (index : Byte) (image : List Byte) (s : State) (h : NodesOk s) : NodesOk (performCadenceWrite index image s).state := by simpa [nodesOk_def] using h
@[simp] theorem nodesOk_setKilnEntry (s : State) (k : Kiln) (e : KilnEntry) (h : NodesOk s) : NodesOk (State.setKilnEntry s k e) := by simpa [nodesOk_def] using h
@[simp] theorem nodesOk_performKilnWrite (index : Byte) (image : List Byte) (s : State) (h : NodesOk s) : NodesOk (performKilnWrite index image s).state := by
  generalize e : (performKilnWrite index image s) = t
  unfold performKilnWrite at e
  (try dsimp only at e)
  (repeat' split at e) <;> subst e <;> (try simp only [refuse_state, accept_state]) <;> (simp (config := {maxDischargeDepth := 60}) [nodesOk_mk, h, (nodesOk_def s).symm.trans (eq_true h)])
@[simp] theorem nodesOk_performScheduleWrite (index : Byte) (image : List Byte) (s : State) (h : NodesOk s) : NodesOk (performScheduleWrite index image s).state := by simpa [nodesOk_def] using h
@[simp] theorem nodesOk_performStepWrite (index : Byte) (image : List Byte) (s : State) (h : NodesOk s) : NodesOk (performStepWrite index image s).state := by simpa [nodesOk_def] using h
@[simp] theorem nodesOk_performVarietyWrite (index : Byte) (image : List Byte) (s : State) (h : NodesOk s) : NodesOk (performVarietyWrite index image s).state := by simpa [nodesOk_def] using h
@[simp] theorem nodesOk_performTareWrite (index : Byte) (image : List Byte) (s : State) (h : NodesOk s) : NodesOk (performTareWrite index image s).state := by simpa [nodesOk_def] using h
@[simp] theorem nodesOk_performScaleSetupWrite (index : Byte) (image : List Byte) (s : State) (h : NodesOk s) : NodesOk (performScaleSetupWrite index image s).state := by simpa [nodesOk_def] using h
@[simp] theorem nodesOk_performStationWrite (index : Byte) (image : List Byte) (s : State) (h : NodesOk s) : NodesOk (performStationWrite index image s).state := by
  generalize e : (performStationWrite index image s) = t
  unfold performStationWrite at e
  (try dsimp only at e)
  (repeat' split at e) <;> subst e <;> (try simp only [refuse_state, accept_state]) <;> (simp (config := {maxDischargeDepth := 60}) [nodesOk_mk, h, (nodesOk_def s).symm.trans (eq_true h)])
@[simp] theorem nodesOk_performTableRead (table index part : Byte) (s : State) (h : NodesOk s) : NodesOk (performTableRead table index part s).state := by simpa [nodesOk_def] using h
@[simp] theorem nodesOk_performTableWrite (table index : Byte) (image : List Byte) (s : State) (h : NodesOk s) : NodesOk (performTableWrite table index image s).state := by
  generalize e : (performTableWrite table index image s) = t
  unfold performTableWrite at e
  (try dsimp only at e)
  (repeat' split at e) <;> subst e <;> (try simp only [refuse_state, accept_state]) <;> (simp (config := {maxDischargeDepth := 60}) [nodesOk_mk, h, (nodesOk_def s).symm.trans (eq_true h)])
@[simp] theorem nodesOk_performLotOpen (lot grower : Word16) (variety : Byte) (s : State) (h : NodesOk s) : NodesOk (performLotOpen lot grower variety s).state := by simpa [nodesOk_def] using h
@[simp] theorem nodesOk_performLotRead (lot : Word16) (item : Byte) (s : State) (h : NodesOk s) : NodesOk (performLotRead lot item s).state := by simpa [nodesOk_def] using h
@[simp] theorem nodesOk_performLotVoid (lot : Word16) (s : State) (h : NodesOk s) : NodesOk (performLotVoid lot s).state := by simpa [nodesOk_def] using h
@[simp] theorem nodesOk_performLotClose (lot : Word16) (s : State) (h : NodesOk s) : NodesOk (performLotClose lot s).state := by simpa [nodesOk_def] using h
@[simp] theorem nodesOk_clearCounts (s : State) (h : NodesOk s) : NodesOk (State.clearCounts s) := by simpa [nodesOk_def] using h
@[simp] theorem nodesOk_performStatus (clear page : Byte) (s : State) (h : NodesOk s) : NodesOk (performStatus clear page s).state := by simpa [nodesOk_def] using h
@[simp] theorem nodesOk_performTimeSet (time : Word32) (s : State) (h : NodesOk s) : NodesOk (performTimeSet time s).state := by simpa [nodesOk_def] using h
@[simp] theorem nodesOk_secondPassed (s : State) (h : NodesOk s) : NodesOk (State.secondPassed s) := by simpa [nodesOk_def] using h
@[simp] theorem nodesOk_restartStation (s : State) (h : NodesOk s) : NodesOk (State.restartStation s) := by
  unfold State.restartStation
  simp only [nodesOk_def] at *
  exact nodesAre_reset
@[simp] theorem nodesOk_performRestart (scope : Byte) (s : State) (h : NodesOk s) : NodesOk (performRestart scope s).state := by
  generalize e : (performRestart scope s) = t
  unfold performRestart at e
  (try dsimp only at e)
  (repeat' split at e) <;> subst e <;> (try simp only [refuse_state, accept_state]) <;> (simp (config := {maxDischargeDepth := 60}) [nodesOk_mk, h, (nodesOk_def s).symm.trans (eq_true h)])
@[simp] theorem nodesOk_performRequest (r : Request) (s : State) (h : NodesOk s) : NodesOk (performRequest r s).state := by
  generalize e : (performRequest r s) = t
  unfold performRequest at e
  (try dsimp only at e)
  (repeat' split at e) <;> subst e <;> (try simp only [refuse_state, accept_state]) <;> (simp (config := {maxDischargeDepth := 60}) [nodesOk_mk, h, (nodesOk_def s).symm.trans (eq_true h)])
@[simp] theorem nodesOk_setReply (s : State) (payload : List Byte) (h : NodesOk s) : NodesOk (State.setReply s payload) := by simpa [nodesOk_def] using h
@[simp] theorem nodesOk_performPayload (payload : List Byte) (s : State) (h : NodesOk s) : NodesOk (performPayload payload s).2.2.state := by
  unfold performPayload
  repeat' split
  all_goals simp [h]
@[simp] theorem nodesOk_executeFrame (s : State) (f : Frame) (h : NodesOk s) : NodesOk (State.executeFrame s f) := by
  generalize e : (State.executeFrame s f) = t
  unfold State.executeFrame at e
  (try dsimp only at e)
  (repeat' split at e) <;> subst e <;> (try simp only [refuse_state, accept_state]) <;> (simp (config := {maxDischargeDepth := 60}) [nodesOk_mk, h, (nodesOk_def s).symm.trans (eq_true h)])
@[simp] theorem nodesOk_executeHead (s : State) (h : NodesOk s) : NodesOk (State.executeHead s) := by
  generalize e : (State.executeHead s) = t
  unfold State.executeHead at e
  (try dsimp only at e)
  (repeat' split at e) <;> subst e <;> (try simp only [refuse_state, accept_state]) <;> (simp (config := {maxDischargeDepth := 60}) [nodesOk_mk, h, (nodesOk_def s).symm.trans (eq_true h)])
@[simp] theorem nodesOk_admitRequest (s : State) (f : Frame) (h : NodesOk s) : NodesOk (State.admitRequest s f) := by
  generalize e : (State.admitRequest s f) = t
  unfold State.admitRequest at e
  (try dsimp only at e)
  (repeat' split at e) <;> subst e <;> (try simp only [refuse_state, accept_state]) <;> (simp (config := {maxDischargeDepth := 60}) [nodesOk_mk, h, (nodesOk_def s).symm.trans (eq_true h)])
@[simp] theorem nodesOk_completeRequest (s : State) (h : NodesOk s) : NodesOk (State.completeRequest s) := by
  generalize e : (State.completeRequest s) = t
  unfold State.completeRequest at e
  (try dsimp only at e)
  (repeat' split at e) <;> subst e <;> (try simp only [refuse_state, accept_state]) <;> (simp (config := {maxDischargeDepth := 60}) [nodesOk_mk, h, (nodesOk_def s).symm.trans (eq_true h)])
@[simp] theorem nodesOk_submit (tag : Byte) (r : Request) (s : State) (h : NodesOk s) : NodesOk (State.submit tag r s) := by
  generalize e : (State.submit tag r s) = t
  unfold State.submit at e
  (try dsimp only at e)
  (repeat' split at e) <;> subst e <;> (try simp only [refuse_state, accept_state]) <;> (simp (config := {maxDischargeDepth := 60}) [nodesOk_mk, h, (nodesOk_def s).symm.trans (eq_true h)])
@[simp] theorem nodesOk_updLink (s : State) (f : Link → Link) (h : NodesOk s) : NodesOk (State.updLink s f) := by simpa [nodesOk_def] using h
@[simp] theorem nodesOk_validArrival (s : State) (h : NodesOk s) : NodesOk (State.validArrival s) := by simpa [nodesOk_def] using h
@[simp] theorem nodesOk_linkSilent (s : State) (h : NodesOk s) : NodesOk (State.linkSilent s) := by simpa [nodesOk_def] using h
@[simp] theorem nodesOk_offerPass (s : State) (f : Frame) (h : NodesOk s) : NodesOk (State.offerPass s f) := by simpa [nodesOk_def] using h
@[simp] theorem nodesOk_classifyUpstream (s : State) (f : Frame) (h : NodesOk s) : NodesOk (State.classifyUpstream s f) := by
  generalize e : (State.classifyUpstream s f) = t
  unfold State.classifyUpstream at e
  (try dsimp only at e)
  (repeat' split at e) <;> subst e <;> (try simp only [refuse_state, accept_state]) <;> (simp (config := {maxDischargeDepth := 60}) [nodesOk_mk, h, (nodesOk_def s).symm.trans (eq_true h)])
@[simp] theorem nodesOk_upstreamArrival (s : State) (chars : List Byte) (h : NodesOk s) : NodesOk (State.upstreamArrival s chars) := by
  generalize e : (State.upstreamArrival s chars) = t
  unfold State.upstreamArrival at e
  (try dsimp only at e)
  (repeat' split at e) <;> subst e <;> (try simp only [refuse_state, accept_state]) <;> (simp (config := {maxDischargeDepth := 60}) [nodesOk_mk, h, (nodesOk_def s).symm.trans (eq_true h)])
@[simp] theorem nodesOk_idleGap (s : State) (port : Port) (h : NodesOk s) : NodesOk (State.idleGap s port) := by simpa [nodesOk_def] using h
@[simp] theorem nodesOk_startUpstream (s : State) (t : UpTransmit) (h : NodesOk s) : NodesOk (State.startUpstream s t) := by simpa [nodesOk_def] using h
@[simp] theorem nodesOk_upstreamTransmit (s : State) (h : NodesOk s) : NodesOk (State.upstreamTransmit s) := by simpa [nodesOk_def] using h
@[simp] theorem nodesOk_replySent (s : State) (h : NodesOk s) : NodesOk (State.replySent s) := by
  generalize e : (State.replySent s) = t
  unfold State.replySent at e
  (try dsimp only at e)
  (repeat' split at e) <;> subst e <;> (try simp only [refuse_state, accept_state]) <;> (simp (config := {maxDischargeDepth := 60}) [nodesOk_mk, h, (nodesOk_def s).symm.trans (eq_true h)])
@[simp] theorem nodesOk_segmentSent (s : State) (h : NodesOk s) : NodesOk (State.segmentSent s) := by
  generalize e : (State.segmentSent s) = t
  unfold State.segmentSent at e
  (try dsimp only at e)
  (repeat' split at e) <;> subst e <;> (try simp only [refuse_state, accept_state]) <;> (simp (config := {maxDischargeDepth := 60}) [nodesOk_mk, h, (nodesOk_def s).symm.trans (eq_true h)])
@[simp] theorem nodesOk_upstreamFrameSent (s : State) (h : NodesOk s) : NodesOk (State.upstreamFrameSent s) := by
  generalize e : (State.upstreamFrameSent s) = t
  unfold State.upstreamFrameSent at e
  (try dsimp only at e)
  (repeat' split at e) <;> subst e <;> (try simp only [refuse_state, accept_state]) <;> (simp (config := {maxDischargeDepth := 60}) [nodesOk_mk, h, (nodesOk_def s).symm.trans (eq_true h)])
theorem nodesOk_pend (s : State) (p) (h : NodesOk s) : NodesOk { s with pending := p } := by rw [nodesOk_mk]; rw [nodesOk_def] at h; exact h
theorem nodesOk_started (s : State) (a b c) : NodesOk (s.started a b c) := by
  unfold State.started; rw [nodesOk_mk]; exact nodesAre_reset
theorem nodesOk_inactive (s : State) (p) : NodesOk (s.inactive p) := by
  unfold State.inactive; rw [nodesOk_mk]; exact nodesAre_reset
theorem nodesOk_powerOn (s : State) (a b c) (h : NodesOk s) : NodesOk (s.powerOn a b c) := by
  unfold State.powerOn; split
  · exact nodesOk_inactive _ _
  · exact nodesOk_started _ _ _ _
theorem nodesOk_resetRelease (s : State) (a b c) (h : NodesOk s) : NodesOk (s.resetRelease a b c) := by
  unfold State.resetRelease; split
  · exact nodesOk_started _ _ _ _
  · rw [nodesOk_mk]; rw [nodesOk_def] at h; exact h
theorem nodesOk_powerFail (s : State) (h : NodesOk s) : NodesOk s.powerFail := nodesOk_inactive _ _
theorem nodesOk_resetAssert (s : State) (h : NodesOk s) : NodesOk s.resetAssert := by
  unfold State.resetAssert; rw [nodesOk_mk]; rw [nodesOk_def] at h; exact h
theorem nodesOk_ticked (s : State) (h : NodesOk s) : NodesOk s.ticked := by
  unfold State.ticked; rw [nodesOk_mk]; rw [nodesOk_def] at h; exact h

/-- The place among nine that a command's node takes: one picker, one diverter, one press, six burners (R30). -/
def slotOf (n : Node) : Fin 9 :=
  match n.role, n.binding with
  | some .picker, _ => 0
  | some .diverter, _ => 1
  | some .press, _ => 2
  | some .burner, some k => ⟨3 + k.val, by omega⟩
  | _, _ => 0
theorem slotOf_eq {s : State} (h : s.NodeLaw) {e f : Command} (he : e ∈ s.field.commandQueue) (hf : f ∈ s.field.commandQueue)
    (heq : slotOf (s.node e.node) = slotOf (s.node f.node)) : (e.node, e.payload.code) = (f.node, f.payload.code) := by
  obtain ⟨r, hr, fr⟩ := h.queued e he
  obtain ⟨q, hq, fq⟩ := h.queued f hf
  have burner : ∀ i, (s.node i).role = some .burner → ∃ k, (s.node i).binding = some k := by
    intro i hi
    have := (h.bound i).mpr (Or.inr hi)
    exact Option.isSome_iff_exists.mp this
  have role : r = .picker ∨ r = .diverter ∨ r = .press ∨ r = .burner := by
    cases hp : e.payload <;> rw [hp] at fr <;> simp only [Commanded.Fits] at fr <;> subst fr <;> simp
  have role' : q = .picker ∨ q = .diverter ∨ q = .press ∨ q = .burner := by
    cases hp : f.payload <;> rw [hp] at fq <;> simp only [Commanded.Fits] at fq <;> subst fq <;> simp
  have same : r = q → e.node = f.node → (e.node, e.payload.code) = (f.node, f.payload.code) := by
    rintro rfl hn
    rw [hn, code_fits fr fq]
  unfold slotOf at heq
  rcases role with rfl | rfl | rfl | rfl <;> rcases role' with rfl | rfl | rfl | rfl
  all_goals (try (obtain ⟨k, hk⟩ := burner _ hr))
  all_goals (try (obtain ⟨j, hj⟩ := burner _ hq))
  all_goals simp only [*, Fin.mk.injEq, Fin.ext_iff] at heq
  all_goals first
    | (have e : k = j := Fin.ext (by omega)
       subst e
       exact same rfl (h.pairs _ _ (hr.trans hq.symm) (hk.trans hj.symm) (by rw [hk]; rfl)))
    | exact same rfl (h.singles _ _ _ hr hq (by simp [Role.Single]))
    | (exfalso; simp at heq; done)
    | (exfalso; simp at heq; omega)
/-- The Command Queue holds at most nine entries (R30). -/
theorem commandQueue_length {s : State} (h : s.NodeLaw) : s.field.commandQueue.length ≤ 9 := by
  have once : (s.field.commandQueue.map (fun e => slotOf (s.node e.node))).Nodup := by
    have hk := h.queuedOnce
    rw [List.Nodup, List.pairwise_map] at hk ⊢
    exact List.Pairwise.imp_of_mem (fun he hf hne heq => hne (slotOf_eq h he hf heq)) hk
  have := once.length_le_card
  simpa using this

end Sys2Proof.Laws.Nodes
end

