-- ==== Sys2Proof/Laws/KeptNotices.lean ====
section
/-! SUPPORT. Every operation keeps the Notice Queue within its capacity and at one entry for each kind and object (R182). -/

namespace Sys2Proof.Laws.Notices

set_option linter.all false
set_option maxHeartbeats 1000000

open Sys2Proof Sys2Proof.Machine

/-- At most 32 entries, and one for each kind and object (R182). -/
def QueueOk (q : List Notice) : Prop := q.length ≤ 32 ∧ (q.map (fun n => (n.kind, n.object))).Nodup
/-- The Notice Queue of the state is so. -/
def NoticesOk (s : State) : Prop := QueueOk s.mgmt.notices
theorem noticesOk_def (s : State) : NoticesOk s = QueueOk s.mgmt.notices := propext ⟨fun h => h, fun h => h⟩
theorem noticesOk_mk (a b c d e f g h i j k l) : NoticesOk (State.mk a b c d e f g h i j k l) = QueueOk l.notices := propext ⟨fun h => h, fun h => h⟩
theorem touch_key (now v) (n : Notice) : (n.touch now v).kind = n.kind ∧ (n.touch now v).object = n.object := by
  unfold Notice.touch; split <;> simp
theorem raiseIn_keys (k o v now q f) (h : QueueOk q) : QueueOk (raiseIn k o v now q f).1 := by
  have h1 := h.1
  have h2 := h.2
  unfold QueueOk
  unfold raiseIn
  split
  · constructor
    · simpa using h1
    · have : ((q.map (fun n : Notice => if n.hasKey k o then n.touch now v else n)).map (fun n : Notice => (n.kind, n.object))) = q.map (fun n : Notice => (n.kind, n.object)) := by
        rw [List.map_map]; apply List.map_congr_left; intro n _; simp only [Function.comp]; split <;> simp [touch_key]
      simpa only [this] using h2
  · rename_i hany
    have hno : ∀ n ∈ q, ¬ (n.kind = k ∧ n.object = o) := by
      intro n hn hk
      apply hany
      simp only [List.any_eq_true]
      exact ⟨n, hn, by simp [Notice.hasKey, hk.1, hk.2]⟩
    split
    · rename_i hl
      simp [Config.noticeCapacity] at hl
      refine ⟨by simp; omega, ?_⟩
      rw [List.map_append, List.nodup_append]
      refine ⟨h2, by simp, ?_⟩
      intro a ha b hb hab
      simp [Notice.fresh] at hb ha
      obtain ⟨n, hn, rfl⟩ := ha
      subst hab
      simp at hb
      exact hno n hn hb
    · split
      · rename_i hl hc
        have hev : q.any Notice.evictable := by simp_all
        have hlen : (q.eraseP Notice.evictable).length = q.length - 1 := by
          obtain ⟨n, hn, hp⟩ := List.any_eq_true.mp hev
          exact List.length_eraseP_of_mem hn hp
        have hpos : 0 < q.length := by
          obtain ⟨n, hn, hp⟩ := List.any_eq_true.mp hev
          exact List.length_pos_of_mem hn
        refine ⟨by simp [hlen]; omega, ?_⟩
        rw [List.map_append, List.nodup_append]
        refine ⟨?_, by simp, ?_⟩
        · exact h2.sublist ((List.eraseP_sublist).map _)
        · intro a ha b hb hab
          simp [Notice.fresh] at hb ha
          obtain ⟨n, hn, rfl⟩ := ha
          subst hab
          simp at hb
          exact hno n (List.mem_of_mem_eraseP hn) hb
      · exact ⟨h1, h2⟩
@[simp] theorem noticesOk_raiseOpt (s : State) (k : NoticeKind) (o : Nat) (v : Option Word32) (h : NoticesOk s) : NoticesOk (State.raiseOpt s k o v) := by simp only [noticesOk_def, raiseOpt_notices]; exact raiseIn_keys _ _ _ _ _ _ h
@[simp] theorem noticesOk_raise (s : State) (k : NoticeKind) (o : Nat) (v : Int) (h : NoticesOk s) : NoticesOk (State.raise s k o v) := by simp only [noticesOk_def, raise_notices]; exact raiseIn_keys _ _ _ _ _ _ h
@[simp] theorem noticesOk_updLot (s : State) (n : Nat) (f : Lot → Lot) (h : NoticesOk s) : NoticesOk (State.updLot s n f) := by simpa [noticesOk_def] using h
@[simp] theorem noticesOk_updCharge (s : State) (r : ChargeRef) (f : Charge → Charge) (h : NoticesOk s) : NoticesOk (State.updCharge s r f) := by simpa [noticesOk_def] using h
@[simp] theorem noticesOk_removeLot (s : State) (n : Nat) (h : NoticesOk s) : NoticesOk (State.removeLot s n) := by simpa [noticesOk_def] using h
@[simp] theorem noticesOk_setNode (s : State) (i : NodeIdx) (n : Node) (h : NoticesOk s) : NoticesOk (State.setNode s i n) := by simpa [noticesOk_def] using h
@[simp] theorem noticesOk_placeCommand (s : State) (i : NodeIdx) (c : Commanded) (h : NoticesOk s) : NoticesOk (State.placeCommand s i c) := by simpa [noticesOk_def] using h
@[simp] theorem noticesOk_writeCommanded (s : State) (i : Option NodeIdx) (c : Commanded) (h : NoticesOk s) : NoticesOk (State.writeCommanded s i c) := by simpa [noticesOk_def] using h
@[simp] theorem noticesOk_clearCommanded (s : State) (i : Option NodeIdx) (h : NoticesOk s) : NoticesOk (State.clearCommanded s i) := by simpa [noticesOk_def] using h
@[simp] theorem noticesOk_updKiln (s : State) (k : Kiln) (f : KilnRun → KilnRun) (h : NoticesOk s) : NoticesOk (State.updKiln s k f) := by simpa [noticesOk_def] using h
@[simp] theorem noticesOk_updKilnCharge (s : State) (k : Kiln) (f : Charge → Charge) (h : NoticesOk s) : NoticesOk (State.updKilnCharge s k f) := by simpa [noticesOk_def] using h
@[simp] theorem noticesOk_updBale (s : State) (n : Nat) (f : Bale → Bale) (h : NoticesOk s) : NoticesOk (State.updBale s n f) := by simpa [noticesOk_def] using h
@[simp] theorem noticesOk_judgePress (s : State) (h : NoticesOk s) : NoticesOk (State.judgePress s) := by simpa [noticesOk_def] using h
@[simp] theorem noticesOk_judgeStore (s : State) (h : NoticesOk s) : NoticesOk (State.judgeStore s) := by
  generalize e : (State.judgeStore s) = t
  unfold State.judgeStore at e
  (try dsimp only at e)
  (repeat' split at e) <;> subst e <;> (try simp only [refuse_state, accept_state]) <;> (simp (config := {maxDischargeDepth := 60}) [noticesOk_mk, h, (noticesOk_def s).symm.trans (eq_true h)])
@[simp] theorem noticesOk_becomeHead (s : State) (k : Kiln) (h : NoticesOk s) : NoticesOk (State.becomeHead s k) := by simpa [noticesOk_def] using h
@[simp] theorem noticesOk_joinPressQueue (s : State) (k : Kiln) (h : NoticesOk s) : NoticesOk (State.joinPressQueue s k) := by simpa [noticesOk_def] using h
@[simp] theorem noticesOk_writeBurner (s : State) (k : Kiln) (h : NoticesOk s) : NoticesOk (State.writeBurner s k) := by simpa [noticesOk_def] using h
@[simp] theorem noticesOk_kilnDried (s : State) (k : Kiln) (h : NoticesOk s) : NoticesOk (State.kilnDried s k) := by
  generalize e : (State.kilnDried s k) = t
  unfold State.kilnDried at e
  (try dsimp only at e)
  (repeat' split at e) <;> subst e <;> (try simp only [refuse_state, accept_state]) <;> (simp (config := {maxDischargeDepth := 60}) [noticesOk_mk, h, (noticesOk_def s).symm.trans (eq_true h)])
@[simp] theorem noticesOk_enterStep (s : State) (k : Kiln) (h : NoticesOk s) : NoticesOk (State.enterStep s k) := by
  generalize e : (State.enterStep s k) = t
  unfold State.enterStep at e
  (try dsimp only at e)
  (repeat' split at e) <;> subst e <;> (try simp only [refuse_state, accept_state]) <;> (simp (config := {maxDischargeDepth := 60}) [noticesOk_mk, h, (noticesOk_def s).symm.trans (eq_true h)])
@[simp] theorem noticesOk_nextStep (s : State) (k : Kiln) (h : NoticesOk s) : NoticesOk (State.nextStep s k) := by
  generalize e : (State.nextStep s k) = t
  unfold State.nextStep at e
  (try dsimp only at e)
  (repeat' split at e) <;> subst e <;> (try simp only [refuse_state, accept_state]) <;> (simp (config := {maxDischargeDepth := 60}) [noticesOk_mk, h, (noticesOk_def s).symm.trans (eq_true h)])
@[simp] theorem noticesOk_holdKiln (s : State) (k : Kiln) (reason : HoldReason) (h : NoticesOk s) : NoticesOk (State.holdKiln s k reason) := by
  generalize e : (State.holdKiln s k reason) = t
  unfold State.holdKiln at e
  (try dsimp only at e)
  (repeat' split at e) <;> subst e <;> (try simp only [refuse_state, accept_state]) <;> (simp (config := {maxDischargeDepth := 60}) [noticesOk_mk, h, (noticesOk_def s).symm.trans (eq_true h)])
@[simp] theorem noticesOk_kilnAir (s : State) (k : Kiln) (value : Int) (h : NoticesOk s) : NoticesOk (State.kilnAir s k value) := by
  generalize e : (State.kilnAir s k value) = t
  unfold State.kilnAir at e
  (try dsimp only at e)
  (repeat' split at e) <;> subst e <;> (try simp only [refuse_state, accept_state]) <;> (simp (config := {maxDischargeDepth := 60}) [noticesOk_mk, h, (noticesOk_def s).symm.trans (eq_true h)])
@[simp] theorem noticesOk_kilnExhaust (s : State) (k : Kiln) (value : Int) (h : NoticesOk s) : NoticesOk (State.kilnExhaust s k value) := by
  generalize e : (State.kilnExhaust s k value) = t
  unfold State.kilnExhaust at e
  (try dsimp only at e)
  (repeat' split at e) <;> subst e <;> (try simp only [refuse_state, accept_state]) <;> (simp (config := {maxDischargeDepth := 60}) [noticesOk_mk, h, (noticesOk_def s).symm.trans (eq_true h)])
@[simp] theorem noticesOk_startRun (s : State) (k : Kiln) (d : Fin 8) (h : NoticesOk s) : NoticesOk (State.startRun s k d) := by
  generalize e : (State.startRun s k d) = t
  unfold State.startRun at e
  (try dsimp only at e)
  (repeat' split at e) <;> subst e <;> (try simp only [refuse_state, accept_state]) <;> (simp (config := {maxDischargeDepth := 60}) [noticesOk_mk, h, (noticesOk_def s).symm.trans (eq_true h)])
@[simp] theorem noticesOk_autoStart (s : State) (k : Kiln) (h : NoticesOk s) : NoticesOk (State.autoStart s k) := by
  generalize e : (State.autoStart s k) = t
  unfold State.autoStart at e
  (try dsimp only at e)
  (repeat' split at e) <;> subst e <;> (try simp only [refuse_state, accept_state]) <;> (simp (config := {maxDischargeDepth := 60}) [noticesOk_mk, h, (noticesOk_def s).symm.trans (eq_true h)])
@[simp] theorem noticesOk_kilnLoaded (s : State) (k : Kiln) (h : NoticesOk s) : NoticesOk (State.kilnLoaded s k) := by
  generalize e : (State.kilnLoaded s k) = t
  unfold State.kilnLoaded at e
  (try dsimp only at e)
  (repeat' split at e) <;> subst e <;> (try simp only [refuse_state, accept_state]) <;> (simp (config := {maxDischargeDepth := 60}) [noticesOk_mk, h, (noticesOk_def s).symm.trans (eq_true h)])
@[simp] theorem noticesOk_kilnEmptied (s : State) (k : Kiln) (h : NoticesOk s) : NoticesOk (State.kilnEmptied s k) := by simpa [noticesOk_def] using h
@[simp] theorem noticesOk_stepEnd (s : State) (k : Kiln) (h : NoticesOk s) : NoticesOk (State.stepEnd s k) := by
  generalize e : (State.stepEnd s k) = t
  unfold State.stepEnd at e
  (try dsimp only at e)
  (repeat' split at e) <;> subst e <;> (try simp only [refuse_state, accept_state]) <;> (simp (config := {maxDischargeDepth := 60}) [noticesOk_mk, h, (noticesOk_def s).symm.trans (eq_true h)])
@[simp] theorem noticesOk_rampMinute (s : State) (k : Kiln) (h : NoticesOk s) : NoticesOk (State.rampMinute s k) := by
  generalize e : (State.rampMinute s k) = t
  unfold State.rampMinute at e
  (try dsimp only at e)
  (repeat' split at e) <;> subst e <;> (try simp only [refuse_state, accept_state]) <;> (simp (config := {maxDischargeDepth := 60}) [noticesOk_mk, h, (noticesOk_def s).symm.trans (eq_true h)])
@[simp] theorem noticesOk_dryToOvertime (s : State) (k : Kiln) (h : NoticesOk s) : NoticesOk (State.dryToOvertime s k) := by
  generalize e : (State.dryToOvertime s k) = t
  unfold State.dryToOvertime at e
  (try dsimp only at e)
  (repeat' split at e) <;> subst e <;> (try simp only [refuse_state, accept_state]) <;> (simp (config := {maxDischargeDepth := 60}) [noticesOk_mk, h, (noticesOk_def s).symm.trans (eq_true h)])
@[simp] theorem noticesOk_abortCoolingEnd (s : State) (k : Kiln) (h : NoticesOk s) : NoticesOk (State.abortCoolingEnd s k) := by
  generalize e : (State.abortCoolingEnd s k) = t
  unfold State.abortCoolingEnd at e
  (try dsimp only at e)
  (repeat' split at e) <;> subst e <;> (try simp only [refuse_state, accept_state]) <;> (simp (config := {maxDischargeDepth := 60}) [noticesOk_mk, h, (noticesOk_def s).symm.trans (eq_true h)])
@[simp] theorem noticesOk_refreshExpiry (s : State) (k : Kiln) (h : NoticesOk s) : NoticesOk (State.refreshExpiry s k) := by simpa [noticesOk_def] using h
@[simp] theorem noticesOk_performKilnStart (kiln : Byte) (s : State) (h : NoticesOk s) : NoticesOk (performKilnStart kiln s).state := by
  generalize e : (performKilnStart kiln s) = t
  unfold performKilnStart at e
  (try dsimp only at e)
  (repeat' split at e) <;> subst e <;> (try simp only [refuse_state, accept_state]) <;> (simp (config := {maxDischargeDepth := 60}) [noticesOk_mk, h, (noticesOk_def s).symm.trans (eq_true h)])
@[simp] theorem noticesOk_performKilnHold (kiln : Byte) (s : State) (h : NoticesOk s) : NoticesOk (performKilnHold kiln s).state := by
  generalize e : (performKilnHold kiln s) = t
  unfold performKilnHold at e
  (try dsimp only at e)
  (repeat' split at e) <;> subst e <;> (try simp only [refuse_state, accept_state]) <;> (simp (config := {maxDischargeDepth := 60}) [noticesOk_mk, h, (noticesOk_def s).symm.trans (eq_true h)])
@[simp] theorem noticesOk_resume (s : State) (k : Kiln) (m : ResumeMode) (h : NoticesOk s) : NoticesOk (State.resume s k m) := by
  generalize e : (State.resume s k m) = t
  unfold State.resume at e
  (try dsimp only at e)
  (repeat' split at e) <;> subst e <;> (try simp only [refuse_state, accept_state]) <;> (simp (config := {maxDischargeDepth := 60}) [noticesOk_mk, h, (noticesOk_def s).symm.trans (eq_true h)])
@[simp] theorem noticesOk_performKilnResume (kiln mode : Byte) (s : State) (h : NoticesOk s) : NoticesOk (performKilnResume kiln mode s).state := by
  generalize e : (performKilnResume kiln mode s) = t
  unfold performKilnResume at e
  (try dsimp only at e)
  (repeat' split at e) <;> subst e <;> (try simp only [refuse_state, accept_state]) <;> (simp (config := {maxDischargeDepth := 60}) [noticesOk_mk, h, (noticesOk_def s).symm.trans (eq_true h)])
@[simp] theorem noticesOk_abort (s : State) (k : Kiln) (h : NoticesOk s) : NoticesOk (State.abort s k) := by
  generalize e : (State.abort s k) = t
  unfold State.abort at e
  (try dsimp only at e)
  (repeat' split at e) <;> subst e <;> (try simp only [refuse_state, accept_state]) <;> (simp (config := {maxDischargeDepth := 60}) [noticesOk_mk, h, (noticesOk_def s).symm.trans (eq_true h)])
@[simp] theorem noticesOk_performKilnAbort (kiln : Byte) (s : State) (h : NoticesOk s) : NoticesOk (performKilnAbort kiln s).state := by
  generalize e : (performKilnAbort kiln s) = t
  unfold performKilnAbort at e
  (try dsimp only at e)
  (repeat' split at e) <;> subst e <;> (try simp only [refuse_state, accept_state]) <;> (simp (config := {maxDischargeDepth := 60}) [noticesOk_mk, h, (noticesOk_def s).symm.trans (eq_true h)])
@[simp] theorem noticesOk_performKilnRead (kiln : Byte) (s : State) (h : NoticesOk s) : NoticesOk (performKilnRead kiln s).state := by simpa [noticesOk_def] using h
@[simp] theorem noticesOk_setPrint (s : State) (n : Nat) (p : PrintState) (h : NoticesOk s) : NoticesOk (State.setPrint s n p) := by simpa [noticesOk_def] using h
@[simp] theorem noticesOk_setProcess (s : State) (p : PrintProcess) (h : NoticesOk s) : NoticesOk (State.setProcess s p) := by simpa [noticesOk_def] using h
@[simp] theorem noticesOk_printScan (s : State) (h : NoticesOk s) : NoticesOk (State.printScan s) := by simpa [noticesOk_def] using h
@[simp] theorem noticesOk_promptPrint (s : State) (h : NoticesOk s) : NoticesOk (State.promptPrint s) := by simpa [noticesOk_def] using h
@[simp] theorem noticesOk_testComposition (s : State) (r : ChargeRef) (h : NoticesOk s) : NoticesOk (State.testComposition s r) := by simpa [noticesOk_def] using h
@[simp] theorem noticesOk_issueTicket (s : State) (r : ChargeRef) (t : Ticket) (h : NoticesOk s) : NoticesOk (State.issueTicket s r t) := by
  unfold State.issueTicket
  dsimp only
  apply noticesOk_promptPrint; apply noticesOk_raise
  simpa [noticesOk_def] using h
@[simp] theorem noticesOk_compose (s : State) (r : ChargeRef) (h : NoticesOk s) : NoticesOk (State.compose s r) := by
  generalize e : (State.compose s r) = t
  unfold State.compose at e
  (try dsimp only at e)
  (repeat' split at e) <;> subst e <;> (try simp only [refuse_state, accept_state]) <;> (simp (config := {maxDischargeDepth := 60}) [noticesOk_mk, h, (noticesOk_def s).symm.trans (eq_true h)])
@[simp] theorem noticesOk_serveFuel (n : Nat) (s : State) (h : NoticesOk s) : NoticesOk (State.serveFuel n s) := by
  induction n generalizing s with
  | zero => simpa [State.serveFuel]
  | succ n ih =>
    unfold State.serveFuel
    split
    · exact h
    · split
      · apply ih; apply noticesOk_compose; simpa [noticesOk_def] using h
      · exact h
@[simp] theorem noticesOk_serve (s : State) (h : NoticesOk s) : NoticesOk (State.serve s) := by
  generalize e : (State.serve s) = t
  unfold State.serve at e
  (try dsimp only at e)
  (repeat' split at e) <;> subst e <;> (try simp only [refuse_state, accept_state]) <;> (simp (config := {maxDischargeDepth := 60}) [noticesOk_mk, h, (noticesOk_def s).symm.trans (eq_true h)])
@[simp] theorem noticesOk_offerCharge (s : State) (r : ChargeRef) (h : NoticesOk s) : NoticesOk (State.offerCharge s r) := by
  generalize e : (State.offerCharge s r) = t
  unfold State.offerCharge at e
  (try dsimp only at e)
  (repeat' split at e) <;> subst e <;> (try simp only [refuse_state, accept_state]) <;> (simp (config := {maxDischargeDepth := 60}) [noticesOk_mk, h, (noticesOk_def s).symm.trans (eq_true h)])
@[simp] theorem noticesOk_performTicketBase (nextTicket nextBale : Word32) (s : State) (h : NoticesOk s) : NoticesOk (performTicketBase nextTicket nextBale s).state := by simpa [noticesOk_def] using h
@[simp] theorem noticesOk_performTicketRead (ticket : Word32) (s : State) (h : NoticesOk s) : NoticesOk (performTicketRead ticket s).state := by simpa [noticesOk_def] using h
@[simp] theorem noticesOk_takeTicket (s : State) (t : Ticket) (h : NoticesOk s) : NoticesOk (State.takeTicket s t) := by
  generalize e : (State.takeTicket s t) = t
  unfold State.takeTicket at e
  (try dsimp only at e)
  (repeat' split at e) <;> subst e <;> (try simp only [refuse_state, accept_state]) <;> (simp (config := {maxDischargeDepth := 60}) [noticesOk_mk, h, (noticesOk_def s).symm.trans (eq_true h)])
@[simp] theorem noticesOk_performTicketTake (ticket : Word32) (s : State) (h : NoticesOk s) : NoticesOk (performTicketTake ticket s).state := by
  generalize e : (performTicketTake ticket s) = t
  unfold performTicketTake at e
  (try dsimp only at e)
  (repeat' split at e) <;> subst e <;> (try simp only [refuse_state, accept_state]) <;> (simp (config := {maxDischargeDepth := 60}) [noticesOk_mk, h, (noticesOk_def s).symm.trans (eq_true h)])
@[simp] theorem noticesOk_performTicketReprint (ticket : Word32) (s : State) (h : NoticesOk s) : NoticesOk (performTicketReprint ticket s).state := by simpa [noticesOk_def] using h
@[simp] theorem noticesOk_updFeed (s : State) (f : Feed → Feed) (h : NoticesOk s) : NoticesOk (State.updFeed s f) := by simpa [noticesOk_def] using h
@[simp] theorem noticesOk_updHold (s : State) (f : FeedHold → FeedHold) (h : NoticesOk s) : NoticesOk (State.updHold s f) := by simpa [noticesOk_def] using h
@[simp] theorem noticesOk_raiseFeedHeld (s : State) (reason : Nat) (h : NoticesOk s) : NoticesOk (State.raiseFeedHeld s reason) := by
  generalize e : (State.raiseFeedHeld s reason) = t
  unfold State.raiseFeedHeld at e
  (try dsimp only at e)
  (repeat' split at e) <;> subst e <;> (try simp only [refuse_state, accept_state]) <;> (simp (config := {maxDischargeDepth := 60}) [noticesOk_mk, h, (noticesOk_def s).symm.trans (eq_true h)])
@[simp] theorem noticesOk_judgeHeld (s : State) (before : FeedHold) (h : NoticesOk s) : NoticesOk (State.judgeHeld s before) := by
  generalize e : (State.judgeHeld s before) = t
  unfold State.judgeHeld at e
  (try dsimp only at e)
  (repeat' split at e) <;> subst e <;> (try simp only [refuse_state, accept_state]) <;> (simp (config := {maxDischargeDepth := 60}) [noticesOk_mk, h, (noticesOk_def s).symm.trans (eq_true h)])
@[simp] theorem noticesOk_judgePicker (s : State) (h : NoticesOk s) : NoticesOk (State.judgePicker s) := by simpa [noticesOk_def] using h
@[simp] theorem noticesOk_feedEvent (f : State → State) (s : State) (h : NoticesOk (f s)) : NoticesOk (feedEvent f s) := by
  simp [feedEvent, h]
@[simp] theorem noticesOk_startDivertWatch (s : State) (h : NoticesOk s) : NoticesOk (State.startDivertWatch s) := by
  generalize e : (State.startDivertWatch s) = t
  unfold State.startDivertWatch at e
  (try dsimp only at e)
  (repeat' split at e) <;> subst e <;> (try simp only [refuse_state, accept_state]) <;> (simp (config := {maxDischargeDepth := 60}) [noticesOk_mk, h, (noticesOk_def s).symm.trans (eq_true h)])
@[simp] theorem noticesOk_takeKiln (s : State) (b : Nat) (k : Kiln) (h : NoticesOk s) : NoticesOk (State.takeKiln s b k) := by
  generalize e : (State.takeKiln s b k) = t
  unfold State.takeKiln at e
  (try dsimp only at e)
  (repeat' split at e) <;> subst e <;> (try simp only [refuse_state, accept_state]) <;> (simp (config := {maxDischargeDepth := 60}) [noticesOk_mk, h, (noticesOk_def s).symm.trans (eq_true h)])
@[simp] theorem noticesOk_hitChargeLimit (s : State) (b : Nat) (k : Kiln) (h : NoticesOk s) : NoticesOk (State.hitChargeLimit s b k) := by
  generalize e : (State.hitChargeLimit s b k) = t
  unfold State.hitChargeLimit at e
  (try dsimp only at e)
  (repeat' split at e) <;> subst e <;> (try simp only [refuse_state, accept_state]) <;> (simp (config := {maxDischargeDepth := 60}) [noticesOk_mk, h, (noticesOk_def s).symm.trans (eq_true h)])
@[simp] theorem noticesOk_selectKiln (s : State) (b : Nat) (h : NoticesOk s) : NoticesOk (State.selectKiln s b) := by
  generalize e : (State.selectKiln s b) = t
  unfold State.selectKiln at e
  (try dsimp only at e)
  (repeat' split at e) <;> subst e <;> (try simp only [refuse_state, accept_state]) <;> (simp (config := {maxDischargeDepth := 60}) [noticesOk_mk, h, (noticesOk_def s).symm.trans (eq_true h)])
@[simp] theorem noticesOk_attemptSelection (s : State) (h : NoticesOk s) : NoticesOk (State.attemptSelection s) := by
  generalize e : (State.attemptSelection s) = t
  unfold State.attemptSelection at e
  (try dsimp only at e)
  (repeat' split at e) <;> subst e <;> (try simp only [refuse_state, accept_state]) <;> (simp (config := {maxDischargeDepth := 60}) [noticesOk_mk, h, (noticesOk_def s).symm.trans (eq_true h)])
@[simp] theorem noticesOk_closeCharge (s : State) (k : Kiln) (h : NoticesOk s) : NoticesOk (State.closeCharge s k) := by
  generalize e : (State.closeCharge s k) = t
  unfold State.closeCharge at e
  (try dsimp only at e)
  (repeat' split at e) <;> subst e <;> (try simp only [refuse_state, accept_state]) <;> (simp (config := {maxDischargeDepth := 60}) [noticesOk_mk, h, (noticesOk_def s).symm.trans (eq_true h)])
@[simp] theorem noticesOk_closeFill (s : State) (k : Kiln) (h : NoticesOk s) : NoticesOk (State.closeFill s k) := by
  generalize e : (State.closeFill s k) = t
  unfold State.closeFill at e
  (try dsimp only at e)
  (repeat' split at e) <;> subst e <;> (try simp only [refuse_state, accept_state]) <;> (simp (config := {maxDischargeDepth := 60}) [noticesOk_mk, h, (noticesOk_def s).symm.trans (eq_true h)])
@[simp] theorem noticesOk_closeAndSelect (s : State) (k : Kiln) (h : NoticesOk s) : NoticesOk (State.closeAndSelect s k) := by
  generalize e : (State.closeAndSelect s k) = t
  unfold State.closeAndSelect at e
  (try dsimp only at e)
  (repeat' split at e) <;> subst e <;> (try simp only [refuse_state, accept_state]) <;> (simp (config := {maxDischargeDepth := 60}) [noticesOk_mk, h, (noticesOk_def s).symm.trans (eq_true h)])
@[simp] theorem noticesOk_finishOldLot (s : State) (h : NoticesOk s) : NoticesOk (State.finishOldLot s) := by simpa [noticesOk_def] using h
@[simp] theorem noticesOk_completeChangeover (s : State) (h : NoticesOk s) : NoticesOk (State.completeChangeover s) := by
  generalize e : (State.completeChangeover s) = t
  unfold State.completeChangeover at e
  (try dsimp only at e)
  (repeat' split at e) <;> subst e <;> (try simp only [refuse_state, accept_state]) <;> (simp (config := {maxDischargeDepth := 60}) [noticesOk_mk, h, (noticesOk_def s).symm.trans (eq_true h)])
@[simp] theorem noticesOk_changeoverExpiry (s : State) (h : NoticesOk s) : NoticesOk (State.changeoverExpiry s) := by
  generalize e : (State.changeoverExpiry s) = t
  unfold State.changeoverExpiry at e
  (try dsimp only at e)
  (repeat' split at e) <;> subst e <;> (try simp only [refuse_state, accept_state]) <;> (simp (config := {maxDischargeDepth := 60}) [noticesOk_mk, h, (noticesOk_def s).symm.trans (eq_true h)])
@[simp] theorem noticesOk_beltAnswered (s : State) (h : NoticesOk s) : NoticesOk (State.beltAnswered s) := by
  generalize e : (State.beltAnswered s) = t
  unfold State.beltAnswered at e
  (try dsimp only at e)
  (repeat' split at e) <;> subst e <;> (try simp only [refuse_state, accept_state]) <;> (simp (config := {maxDischargeDepth := 60}) [noticesOk_mk, h, (noticesOk_def s).symm.trans (eq_true h)])
@[simp] theorem noticesOk_divertWatchExpiry (s : State) (h : NoticesOk s) : NoticesOk (State.divertWatchExpiry s) := by
  generalize e : (State.divertWatchExpiry s) = t
  unfold State.divertWatchExpiry at e
  (try dsimp only at e)
  (repeat' split at e) <;> subst e <;> (try simp only [refuse_state, accept_state]) <;> (simp (config := {maxDischargeDepth := 60}) [noticesOk_mk, h, (noticesOk_def s).symm.trans (eq_true h)])
@[simp] theorem noticesOk_divertReport (s : State) (target : Option Kiln) (h : NoticesOk s) : NoticesOk (State.divertReport s target) := by simpa [noticesOk_def] using h
@[simp] theorem noticesOk_credit (s : State) (inc : Nat) (h : NoticesOk s) : NoticesOk (State.credit s inc) := by
  generalize e : (State.credit s inc) = t
  unfold State.credit at e
  (try dsimp only at e)
  (repeat' split at e) <;> subst e <;> (try simp only [refuse_state, accept_state]) <;> (simp (config := {maxDischargeDepth := 60}) [noticesOk_mk, h, (noticesOk_def s).symm.trans (eq_true h)])
@[simp] theorem noticesOk_green (s : State) (i : NodeIdx) (value : Word32) (h : NoticesOk s) : NoticesOk (State.green s i value) := by
  generalize e : (State.green s i value) = t
  unfold State.green at e
  (try dsimp only at e)
  (repeat' split at e) <;> subst e <;> (try simp only [refuse_state, accept_state]) <;> (simp (config := {maxDischargeDepth := 60}) [noticesOk_mk, h, (noticesOk_def s).symm.trans (eq_true h)])
@[simp] theorem noticesOk_feedLot (s : State) (new : Option Nat) (h : NoticesOk s) : NoticesOk (State.feedLot s new) := by
  generalize e : (State.feedLot s new) = t
  unfold State.feedLot at e
  (try dsimp only at e)
  (repeat' split at e) <;> subst e <;> (try simp only [refuse_state, accept_state]) <;> (simp (config := {maxDischargeDepth := 60}) [noticesOk_mk, h, (noticesOk_def s).symm.trans (eq_true h)])
@[simp] theorem noticesOk_performLotFeed (lot : Word16) (s : State) (h : NoticesOk s) : NoticesOk (performLotFeed lot s).state := by
  generalize e : (performLotFeed lot s) = t
  unfold performLotFeed at e
  (try dsimp only at e)
  (repeat' split at e) <;> subst e <;> (try simp only [refuse_state, accept_state]) <;> (simp (config := {maxDischargeDepth := 60}) [noticesOk_mk, h, (noticesOk_def s).symm.trans (eq_true h)])
@[simp] theorem noticesOk_performFeedHold (flag : Byte) (s : State) (h : NoticesOk s) : NoticesOk (performFeedHold flag s).state := by
  generalize e : (performFeedHold flag s) = t
  unfold performFeedHold at e
  (try dsimp only at e)
  (repeat' split at e) <;> subst e <;> (try simp only [refuse_state, accept_state]) <;> (simp (config := {maxDischargeDepth := 60}) [noticesOk_mk, h, (noticesOk_def s).symm.trans (eq_true h)])
@[simp] theorem noticesOk_performFillOrder (count : Byte) (kilns : List Byte) (s : State) (h : NoticesOk s) : NoticesOk (performFillOrder count kilns s).state := by
  generalize e : (performFillOrder count kilns s) = t
  unfold performFillOrder at e
  (try dsimp only at e)
  (repeat' split at e) <;> subst e <;> (try simp only [refuse_state, accept_state]) <;> (simp (config := {maxDischargeDepth := 60}) [noticesOk_mk, h, (noticesOk_def s).symm.trans (eq_true h)])
@[simp] theorem noticesOk_performLoadClose (s : State) (h : NoticesOk s) : NoticesOk (performLoadClose s).state := by
  generalize e : (performLoadClose s) = t
  unfold performLoadClose at e
  (try dsimp only at e)
  (repeat' split at e) <;> subst e <;> (try simp only [refuse_state, accept_state]) <;> (simp (config := {maxDischargeDepth := 60}) [noticesOk_mk, h, (noticesOk_def s).symm.trans (eq_true h)])
@[simp] theorem noticesOk_fillBale (s : State) (b : Bale) (gross : Int) (h : NoticesOk s) : NoticesOk (State.fillBale s b gross) := by
  generalize e : (State.fillBale s b gross) = t
  unfold State.fillBale at e
  (try dsimp only at e)
  (repeat' split at e) <;> subst e <;> (try simp only [refuse_state, accept_state]) <;> (simp (config := {maxDischargeDepth := 60}) [noticesOk_mk, h, (noticesOk_def s).symm.trans (eq_true h)])
@[simp] theorem noticesOk_captured (s : State) (weight : Int) (h : NoticesOk s) : NoticesOk (State.captured s weight) := by
  generalize e : (State.captured s weight) = t
  unfold State.captured at e
  (try dsimp only at e)
  (repeat' split at e) <;> subst e <;> (try simp only [refuse_state, accept_state]) <;> (simp (config := {maxDischargeDepth := 60}) [noticesOk_mk, h, (noticesOk_def s).symm.trans (eq_true h)])
@[simp] theorem noticesOk_notCaptured (s : State) (h : NoticesOk s) : NoticesOk (State.notCaptured s) := by
  generalize e : (State.notCaptured s) = t
  unfold State.notCaptured at e
  (try dsimp only at e)
  (repeat' split at e) <;> subst e <;> (try simp only [refuse_state, accept_state]) <;> (simp (config := {maxDischargeDepth := 60}) [noticesOk_mk, h, (noticesOk_def s).symm.trans (eq_true h)])
@[simp] theorem noticesOk_updScale (s : State) (f : Scale → Scale) (h : NoticesOk s) : NoticesOk (State.updScale s f) := by simpa [noticesOk_def] using h
@[simp] theorem noticesOk_judgeBlock (s : State) (h : NoticesOk s) : NoticesOk (State.judgeBlock s) := by
  generalize e : (State.judgeBlock s) = t
  unfold State.judgeBlock at e
  (try dsimp only at e)
  (repeat' split at e) <;> subst e <;> (try simp only [refuse_state, accept_state]) <;> (simp (config := {maxDischargeDepth := 60}) [noticesOk_mk, h, (noticesOk_def s).symm.trans (eq_true h)])
@[simp] theorem noticesOk_enterFault (s : State) (cause : FaultCause) (h : NoticesOk s) : NoticesOk (State.enterFault s cause) := by
  generalize e : (State.enterFault s cause) = t
  unfold State.enterFault at e
  (try dsimp only at e)
  (repeat' split at e) <;> subst e <;> (try simp only [refuse_state, accept_state]) <;> (simp (config := {maxDischargeDepth := 60}) [noticesOk_mk, h, (noticesOk_def s).symm.trans (eq_true h)])
@[simp] theorem noticesOk_faultCause (s : State) (cause : FaultCause) (h : NoticesOk s) : NoticesOk (State.faultCause s cause) := by
  generalize e : (State.faultCause s cause) = t
  unfold State.faultCause at e
  (try dsimp only at e)
  (repeat' split at e) <;> subst e <;> (try simp only [refuse_state, accept_state]) <;> (simp (config := {maxDischargeDepth := 60}) [noticesOk_mk, h, (noticesOk_def s).symm.trans (eq_true h)])
@[simp] theorem noticesOk_takeReading (s : State) (r : Int) (h : NoticesOk s) : NoticesOk (State.takeReading s r) := by
  generalize e : (State.takeReading s r) = t
  unfold State.takeReading at e
  (try dsimp only at e)
  (repeat' split at e) <;> subst e <;> (try simp only [refuse_state, accept_state]) <;> (simp (config := {maxDischargeDepth := 60}) [noticesOk_mk, h, (noticesOk_def s).symm.trans (eq_true h)])
@[simp] theorem noticesOk_takeSample (s : State) (st : Byte) (sample : Int) (h : NoticesOk s) : NoticesOk (State.takeSample s st sample) := by
  generalize e : (State.takeSample s st sample) = t
  unfold State.takeSample at e
  (try dsimp only at e)
  (repeat' split at e) <;> subst e <;> (try simp only [refuse_state, accept_state]) <;> (simp (config := {maxDischargeDepth := 60}) [noticesOk_mk, h, (noticesOk_def s).symm.trans (eq_true h)])
@[simp] theorem noticesOk_frameStart (s : State) (h : NoticesOk s) : NoticesOk (State.frameStart s) := by simpa [noticesOk_def] using h
@[simp] theorem noticesOk_frameComplete (s : State) (st : Byte) (sample : BitVec 24) (h : NoticesOk s) : NoticesOk (State.frameComplete s st sample) := by
  generalize e : (State.frameComplete s st sample) = t
  unfold State.frameComplete at e
  (try dsimp only at e)
  (repeat' split at e) <;> subst e <;> (try simp only [refuse_state, accept_state]) <;> (simp (config := {maxDischargeDepth := 60}) [noticesOk_mk, h, (noticesOk_def s).symm.trans (eq_true h)])
@[simp] theorem noticesOk_frameTorn (s : State) (h : NoticesOk s) : NoticesOk (State.frameTorn s) := by simpa [noticesOk_def] using h
@[simp] theorem noticesOk_watchExpiry (s : State) (h : NoticesOk s) : NoticesOk (State.watchExpiry s) := by
  generalize e : (State.watchExpiry s) = t
  unfold State.watchExpiry at e
  (try dsimp only at e)
  (repeat' split at e) <;> subst e <;> (try simp only [refuse_state, accept_state]) <;> (simp (config := {maxDischargeDepth := 60}) [noticesOk_mk, h, (noticesOk_def s).symm.trans (eq_true h)])
@[simp] theorem noticesOk_settleTimeout (s : State) (h : NoticesOk s) : NoticesOk (State.settleTimeout s) := by
  generalize e : (State.settleTimeout s) = t
  unfold State.settleTimeout at e
  (try dsimp only at e)
  (repeat' split at e) <;> subst e <;> (try simp only [refuse_state, accept_state]) <;> (simp (config := {maxDischargeDepth := 60}) [noticesOk_mk, h, (noticesOk_def s).symm.trans (eq_true h)])
@[simp] theorem noticesOk_scaleOnScale (s : State) (h : NoticesOk s) : NoticesOk (State.scaleOnScale s) := by
  generalize e : (State.scaleOnScale s) = t
  unfold State.scaleOnScale at e
  (try dsimp only at e)
  (repeat' split at e) <;> subst e <;> (try simp only [refuse_state, accept_state]) <;> (simp (config := {maxDischargeDepth := 60}) [noticesOk_mk, h, (noticesOk_def s).symm.trans (eq_true h)])
@[simp] theorem noticesOk_createBale (s : State) (k : Kiln) (r : ChargeRef) (value : Word32) (weighing : Bool) (h : NoticesOk s) : NoticesOk (State.createBale s k r value weighing) := by
  generalize e : (State.createBale s k r value weighing) = t
  unfold State.createBale at e
  (try dsimp only at e)
  (repeat' split at e) <;> subst e <;> (try simp only [refuse_state, accept_state]) <;> (simp (config := {maxDischargeDepth := 60}) [noticesOk_mk, h, (noticesOk_def s).symm.trans (eq_true h)])
@[simp] theorem noticesOk_newCycle (s : State) (value : Word32) (weighing : Bool) (h : NoticesOk s) : NoticesOk (State.newCycle s value weighing) := by
  generalize e : (State.newCycle s value weighing) = t
  unfold State.newCycle at e
  (try dsimp only at e)
  (repeat' split at e) <;> subst e <;> (try simp only [refuse_state, accept_state]) <;> (simp (config := {maxDischargeDepth := 60}) [noticesOk_mk, h, (noticesOk_def s).symm.trans (eq_true h)])
@[simp] theorem noticesOk_onScale (s : State) (value : Word32) (h : NoticesOk s) : NoticesOk (State.onScale s value) := by
  generalize e : (State.onScale s value) = t
  unfold State.onScale at e
  (try dsimp only at e)
  (repeat' split at e) <;> subst e <;> (try simp only [refuse_state, accept_state]) <;> (simp (config := {maxDischargeDepth := 60}) [noticesOk_mk, h, (noticesOk_def s).symm.trans (eq_true h)])
@[simp] theorem noticesOk_offScale (s : State) (h : NoticesOk s) : NoticesOk (State.offScale s) := by
  unfold State.offScale
  dsimp only
  rw [noticesOk_mk]
  show NoticesOk _
  split <;> simp (config := {maxDischargeDepth := 60}) only [noticesOk_raise, noticesOk_updScale, noticesOk_notCaptured, h]
@[simp] theorem noticesOk_moisture (s : State) (value : Word32) (h : NoticesOk s) : NoticesOk (State.moisture s value) := by simpa [noticesOk_def] using h
@[simp] theorem noticesOk_advanceHead (s : State) (h : NoticesOk s) : NoticesOk (State.advanceHead s) := by simpa [noticesOk_def] using h
@[simp] theorem noticesOk_unloadHead (s : State) (k : Kiln) (h : NoticesOk s) : NoticesOk (State.unloadHead s k) := by
  generalize e : (State.unloadHead s k) = t
  unfold State.unloadHead at e
  (try dsimp only at e)
  (repeat' split at e) <;> subst e <;> (try simp only [refuse_state, accept_state]) <;> (simp (config := {maxDischargeDepth := 60}) [noticesOk_mk, h, (noticesOk_def s).symm.trans (eq_true h)])
@[simp] theorem noticesOk_unloadDone (s : State) (h : NoticesOk s) : NoticesOk (State.unloadDone s) := by
  generalize e : (State.unloadDone s) = t
  unfold State.unloadDone at e
  (try dsimp only at e)
  (repeat' split at e) <;> subst e <;> (try simp only [refuse_state, accept_state]) <;> (simp (config := {maxDischargeDepth := 60}) [noticesOk_mk, h, (noticesOk_def s).symm.trans (eq_true h)])
@[simp] theorem noticesOk_performUnloadDone (kiln : Byte) (s : State) (h : NoticesOk s) : NoticesOk (performUnloadDone kiln s).state := by
  generalize e : (performUnloadDone kiln s) = t
  unfold performUnloadDone at e
  (try dsimp only at e)
  (repeat' split at e) <;> subst e <;> (try simp only [refuse_state, accept_state]) <;> (simp (config := {maxDischargeDepth := 60}) [noticesOk_mk, h, (noticesOk_def s).symm.trans (eq_true h)])
@[simp] theorem noticesOk_performPressHold (flag : Byte) (s : State) (h : NoticesOk s) : NoticesOk (performPressHold flag s).state := by simpa [noticesOk_def] using h
@[simp] theorem noticesOk_performBaleWeight (bale gross : Word32) (s : State) (h : NoticesOk s) : NoticesOk (performBaleWeight bale gross s).state := by
  generalize e : (performBaleWeight bale gross s) = t
  unfold performBaleWeight at e
  (try dsimp only at e)
  (repeat' split at e) <;> subst e <;> (try simp only [refuse_state, accept_state]) <;> (simp (config := {maxDischargeDepth := 60}) [noticesOk_mk, h, (noticesOk_def s).symm.trans (eq_true h)])
@[simp] theorem noticesOk_performBaleRead (bale : Word32) (s : State) (h : NoticesOk s) : NoticesOk (performBaleRead bale s).state := by simpa [noticesOk_def] using h
@[simp] theorem noticesOk_performScaleRead (s : State) (h : NoticesOk s) : NoticesOk (performScaleRead s).state := by simpa [noticesOk_def] using h
@[simp] theorem noticesOk_performScaleZero (s : State) (h : NoticesOk s) : NoticesOk (performScaleZero s).state := by simpa [noticesOk_def] using h
@[simp] theorem noticesOk_performScaleCommand (word : Byte) (s : State) (h : NoticesOk s) : NoticesOk (performScaleCommand word s).state := by simpa [noticesOk_def] using h
@[simp] theorem noticesOk_nodeAnswered (s : State) (i : NodeIdx) (h : NoticesOk s) : NoticesOk (State.nodeAnswered s i) := by
  generalize e : (State.nodeAnswered s i) = t
  unfold State.nodeAnswered at e
  (try dsimp only at e)
  (repeat' split at e) <;> subst e <;> (try simp only [refuse_state, accept_state]) <;> (simp (config := {maxDischargeDepth := 60}) [noticesOk_mk, h, (noticesOk_def s).symm.trans (eq_true h)])
@[simp] theorem noticesOk_reportAnswer (s : State) (i : NodeIdx) (h : NoticesOk s) : NoticesOk (State.reportAnswer s i) := by
  generalize e : (State.reportAnswer s i) = t
  unfold State.reportAnswer at e
  (try dsimp only at e)
  (repeat' split at e) <;> subst e <;> (try simp only [refuse_state, accept_state]) <;> (simp (config := {maxDischargeDepth := 60}) [noticesOk_mk, h, (noticesOk_def s).symm.trans (eq_true h)])
@[simp] theorem noticesOk_holdBound (s : State) (n : Node) (reason : HoldReason) (h : NoticesOk s) : NoticesOk (State.holdBound s n reason) := by
  generalize e : (State.holdBound s n reason) = t
  unfold State.holdBound at e
  (try dsimp only at e)
  (repeat' split at e) <;> subst e <;> (try simp only [refuse_state, accept_state]) <;> (simp (config := {maxDischargeDepth := 60}) [noticesOk_mk, h, (noticesOk_def s).symm.trans (eq_true h)])
@[simp] theorem noticesOk_reportLost (s : State) (n : Node) (h : NoticesOk s) : NoticesOk (State.reportLost s n) := by
  generalize e : (State.reportLost s n) = t
  unfold State.reportLost at e
  (try dsimp only at e)
  (repeat' split at e) <;> subst e <;> (try simp only [refuse_state, accept_state]) <;> (simp (config := {maxDischargeDepth := 60}) [noticesOk_mk, h, (noticesOk_def s).symm.trans (eq_true h)])
@[simp] theorem noticesOk_nodeMissed (s : State) (i : NodeIdx) (h : NoticesOk s) : NoticesOk (State.nodeMissed s i) := by
  generalize e : (State.nodeMissed s i) = t
  unfold State.nodeMissed at e
  (try dsimp only at e)
  (repeat' split at e) <;> subst e <;> (try simp only [refuse_state, accept_state]) <;> (simp (config := {maxDischargeDepth := 60}) [noticesOk_mk, h, (noticesOk_def s).symm.trans (eq_true h)])
@[simp] theorem noticesOk_missOn (s : State) (t : Transaction) (h : NoticesOk s) : NoticesOk (State.missOn s t) := by
  generalize e : (State.missOn s t) = t
  unfold State.missOn at e
  (try dsimp only at e)
  (repeat' split at e) <;> subst e <;> (try simp only [refuse_state, accept_state]) <;> (simp (config := {maxDischargeDepth := 60}) [noticesOk_mk, h, (noticesOk_def s).symm.trans (eq_true h)])
@[simp] theorem noticesOk_forward (s : State) (f : Frame) (h : NoticesOk s) : NoticesOk (State.forward s f) := by simpa [noticesOk_def] using h
@[simp] theorem noticesOk_applyRoute (s : State) (r : Route) (i : NodeIdx) (f : Frame) (h : NoticesOk s) : NoticesOk (State.applyRoute s r i f) := by
  generalize e : (State.applyRoute s r i f) = t
  unfold State.applyRoute at e
  (try dsimp only at e)
  (repeat' split at e) <;> subst e <;> (try simp only [refuse_state, accept_state]) <;> (simp (config := {maxDischargeDepth := 60}) [noticesOk_mk, h, (noticesOk_def s).symm.trans (eq_true h)])
@[simp] theorem noticesOk_jobAction (s : State) (r : Route) (x : RouteIdx) (i : NodeIdx) (f : Frame) (h : NoticesOk s) : NoticesOk (State.jobAction s r x i f) := by
  generalize e : (State.jobAction s r x i f) = t
  unfold State.jobAction at e
  (try dsimp only at e)
  (repeat' split at e) <;> subst e <;> (try simp only [refuse_state, accept_state]) <;> (simp (config := {maxDischargeDepth := 60}) [noticesOk_mk, h, (noticesOk_def s).symm.trans (eq_true h)])
@[simp] theorem noticesOk_copyIf (s : State) (c : Bool) (f : Frame) (h : NoticesOk s) : NoticesOk (State.copyIf s c f) := by simpa [noticesOk_def] using h
@[simp] theorem noticesOk_classify (s : State) (i : NodeIdx) (f : Frame) (h : NoticesOk s) : NoticesOk (State.classify s i f) := by
  generalize e : (State.classify s i f) = t
  unfold State.classify at e
  (try dsimp only at e)
  (repeat' split at e) <;> subst e <;> (try simp only [refuse_state, accept_state]) <;> (simp (config := {maxDischargeDepth := 60}) [noticesOk_mk, h, (noticesOk_def s).symm.trans (eq_true h)])
@[simp] theorem noticesOk_endTransaction (s : State) (h : NoticesOk s) : NoticesOk (State.endTransaction s) := by simpa [noticesOk_def] using h
@[simp] theorem noticesOk_countUnsolicited (s : State) (h : NoticesOk s) : NoticesOk (State.countUnsolicited s) := by simpa [noticesOk_def] using h
@[simp] theorem noticesOk_pollAnswered (s : State) (i : NodeIdx) (f : Frame) (h : NoticesOk s) : NoticesOk (State.pollAnswered s i f) := by
  generalize e : (State.pollAnswered s i f) = t
  unfold State.pollAnswered at e
  (try dsimp only at e)
  (repeat' split at e) <;> subst e <;> (try simp only [refuse_state, accept_state]) <;> (simp (config := {maxDischargeDepth := 60}) [noticesOk_mk, h, (noticesOk_def s).symm.trans (eq_true h)])
@[simp] theorem noticesOk_reportConfirmed (s : State) (c : Commanded) (h : NoticesOk s) : NoticesOk (State.reportConfirmed s c) := by simpa [noticesOk_def] using h
@[simp] theorem noticesOk_commandAnswered (s : State) (i : NodeIdx) (code : Byte) (f : Frame) (h : NoticesOk s) : NoticesOk (State.commandAnswered s i code f) := by
  generalize e : (State.commandAnswered s i code f) = t
  unfold State.commandAnswered at e
  (try dsimp only at e)
  (repeat' split at e) <;> subst e <;> (try simp only [refuse_state, accept_state]) <;> (simp (config := {maxDischargeDepth := 60}) [noticesOk_mk, h, (noticesOk_def s).symm.trans (eq_true h)])
@[simp] theorem noticesOk_blockAnswered (s : State) (i : NodeIdx) (ticket : Nat) (f : Frame) (h : NoticesOk s) : NoticesOk (State.blockAnswered s i ticket f) := by
  generalize e : (State.blockAnswered s i ticket f) = t
  unfold State.blockAnswered at e
  (try dsimp only at e)
  (repeat' split at e) <;> subst e <;> (try simp only [refuse_state, accept_state]) <;> (simp (config := {maxDischargeDepth := 60}) [noticesOk_mk, h, (noticesOk_def s).symm.trans (eq_true h)])
@[simp] theorem noticesOk_answerBody (s : State) (t : Transaction) (i : NodeIdx) (f : Frame) (h : NoticesOk s) : NoticesOk (State.answerBody s t i f) := by
  generalize e : (State.answerBody s t i f) = t
  unfold State.answerBody at e
  (try dsimp only at e)
  (repeat' split at e) <;> subst e <;> (try simp only [refuse_state, accept_state]) <;> (simp (config := {maxDischargeDepth := 60}) [noticesOk_mk, h, (noticesOk_def s).symm.trans (eq_true h)])
@[simp] theorem noticesOk_answered (s : State) (t : Transaction) (f : Frame) (h : NoticesOk s) : NoticesOk (State.answered s t f) := by
  generalize e : (State.answered s t f) = t
  unfold State.answered at e
  (try dsimp only at e)
  (repeat' split at e) <;> subst e <;> (try simp only [refuse_state, accept_state]) <;> (simp (config := {maxDischargeDepth := 60}) [noticesOk_mk, h, (noticesOk_def s).symm.trans (eq_true h)])
@[simp] theorem noticesOk_expired (s : State) (t : Transaction) (h : NoticesOk s) : NoticesOk (State.expired s t) := by
  generalize e : (State.expired s t) = t
  unfold State.expired at e
  (try dsimp only at e)
  (repeat' split at e) <;> subst e <;> (try simp only [refuse_state, accept_state]) <;> (simp (config := {maxDischargeDepth := 60}) [noticesOk_mk, h, (noticesOk_def s).symm.trans (eq_true h)])
@[simp] theorem noticesOk_afterOther (s : State) (h : NoticesOk s) : NoticesOk (State.afterOther s) := by
  generalize e : (State.afterOther s) = t
  unfold State.afterOther at e
  (try dsimp only at e)
  (repeat' split at e) <;> subst e <;> (try simp only [refuse_state, accept_state]) <;> (simp (config := {maxDischargeDepth := 60}) [noticesOk_mk, h, (noticesOk_def s).symm.trans (eq_true h)])
@[simp] theorem noticesOk_offerFrame (s : State) (f : Frame) (h : NoticesOk s) : NoticesOk (State.offerFrame s f) := by
  generalize e : (State.offerFrame s f) = t
  unfold State.offerFrame at e
  (try dsimp only at e)
  (repeat' split at e) <;> subst e <;> (try simp only [refuse_state, accept_state]) <;> (simp (config := {maxDischargeDepth := 60}) [noticesOk_mk, h, (noticesOk_def s).symm.trans (eq_true h)])
@[simp] theorem noticesOk_fieldArrival (s : State) (chars : List Byte) (h : NoticesOk s) : NoticesOk (State.fieldArrival s chars) := by
  unfold State.fieldArrival
  dsimp only
  have h' : QueueOk s.mgmt.notices := h
  split
  · split <;> simp (config := {maxDischargeDepth := 60}) [noticesOk_mk, h']
  · exact h
@[simp] theorem noticesOk_receptionStart (s : State) (h : NoticesOk s) : NoticesOk (State.receptionStart s) := by simpa [noticesOk_def] using h
@[simp] theorem noticesOk_windowExpiry (s : State) (h : NoticesOk s) : NoticesOk (State.windowExpiry s) := by
  generalize e : (State.windowExpiry s) = t
  unfold State.windowExpiry at e
  (try dsimp only at e)
  (repeat' split at e) <;> subst e <;> (try simp only [refuse_state, accept_state]) <;> (simp (config := {maxDischargeDepth := 60}) [noticesOk_mk, h, (noticesOk_def s).symm.trans (eq_true h)])
@[simp] theorem noticesOk_guardEnd (s : State) (h : NoticesOk s) : NoticesOk (State.guardEnd s) := by simpa [noticesOk_def] using h
@[simp] theorem noticesOk_transmitDone (s : State) (h : NoticesOk s) : NoticesOk (State.transmitDone s) := by simpa [noticesOk_def] using h
@[simp] theorem noticesOk_openTransaction (s : State) (kind : TransactionKind) (address : Byte) (node : Option NodeIdx) (frames : List Frame) (window : Nat) (h : NoticesOk s) : NoticesOk (State.openTransaction s kind address node frames window) := by simpa [noticesOk_def] using h
@[simp] theorem noticesOk_startCommand (s : State) (c : Command) (rest : List Command) (h : NoticesOk s) : NoticesOk (State.startCommand s c rest) := by simpa [noticesOk_def] using h
@[simp] theorem noticesOk_startBlock (s : State) (ticket : Nat) (h : NoticesOk s) : NoticesOk (State.startBlock s ticket) := by simpa [noticesOk_def] using h
@[simp] theorem noticesOk_startPass (s : State) (f : Frame) (rest : List Frame) (h : NoticesOk s) : NoticesOk (State.startPass s f rest) := by simpa [noticesOk_def] using h
@[simp] theorem noticesOk_startPoll (s : State) (i : NodeIdx) (rest : List NodeIdx) (h : NoticesOk s) : NoticesOk (State.startPoll s i rest) := by simpa [noticesOk_def] using h
@[simp] theorem noticesOk_startSource (s : State) (c : FieldSource) (h : NoticesOk s) : NoticesOk (State.startSource s c) := by simpa [noticesOk_def] using h
@[simp] theorem noticesOk_startTransaction (s : State) (h : NoticesOk s) : NoticesOk (State.startTransaction s) := by simpa [noticesOk_def] using h
@[simp] theorem noticesOk_choosing (s : State) (c : Option FieldSource) (h : NoticesOk s) : NoticesOk (s.choosing c) := by simpa [noticesOk_def] using h
@[simp] theorem noticesOk_scheduleNode (c : CadenceId) (s : State) (i : NodeIdx) (h : NoticesOk s) : NoticesOk (State.scheduleNode c s i) := by
  generalize e : (State.scheduleNode c s i) = t
  unfold State.scheduleNode at e
  (try dsimp only at e)
  (repeat' split at e) <;> subst e <;> (try simp only [refuse_state, accept_state]) <;> (simp (config := {maxDischargeDepth := 60}) [noticesOk_mk, h, (noticesOk_def s).symm.trans (eq_true h)])
@[simp] theorem noticesOk_updCadence (s : State) (c : CadenceId) (f : Cadence → Cadence) (h : NoticesOk s) : NoticesOk (State.updCadence s c f) := by simpa [noticesOk_def] using h
@[simp] theorem noticesOk_cadenceExpiry (s : State) (c : CadenceId) (h : NoticesOk s) : NoticesOk (State.cadenceExpiry s c) := by
  have fold : ∀ (is : List NodeIdx) (s : State), NoticesOk s → NoticesOk (is.foldl (State.scheduleNode c) s) := by
    intro is
    induction is with
    | nil => intro s h; simpa
    | cons i is ih => intro s h; exact ih _ (noticesOk_scheduleNode c s i h)
  unfold State.cadenceExpiry
  split
  · exact fold _ _ (noticesOk_updCadence _ _ _ h)
  · exact h
@[simp] theorem noticesOk_restartField (s : State) (h : NoticesOk s) : NoticesOk (State.restartField s) := by simpa [noticesOk_def] using h
@[simp] theorem noticesOk_printerWritten (s : State) (before after : Option Role) (h : NoticesOk s) : NoticesOk (State.printerWritten s before after) := by simpa [noticesOk_def] using h
@[simp] theorem noticesOk_writeNode (s : State) (i : NodeIdx) (g : NodeImage) (h : NoticesOk s) : NoticesOk (State.writeNode s i g) := by simpa [noticesOk_def] using h
@[simp] theorem noticesOk_performNodeWrite (index : Byte) (image : List Byte) (s : State) (h : NoticesOk s) : NoticesOk (performNodeWrite index image s).state := by simpa [noticesOk_def] using h
@[simp] theorem noticesOk_performRouteWrite (index : Byte) (image : List Byte) (s : State) (h : NoticesOk s) : NoticesOk (performRouteWrite index image s).state := by simpa [noticesOk_def] using h
@[simp] theorem noticesOk_performCadenceWrite (index : Byte) (image : List Byte) (s : State) (h : NoticesOk s) : NoticesOk (performCadenceWrite index image s).state := by simpa [noticesOk_def] using h
@[simp] theorem noticesOk_setKilnEntry (s : State) (k : Kiln) (e : KilnEntry) (h : NoticesOk s) : NoticesOk (State.setKilnEntry s k e) := by simpa [noticesOk_def] using h
@[simp] theorem noticesOk_performKilnWrite (index : Byte) (image : List Byte) (s : State) (h : NoticesOk s) : NoticesOk (performKilnWrite index image s).state := by
  generalize e : (performKilnWrite index image s) = t
  unfold performKilnWrite at e
  (try dsimp only at e)
  (repeat' split at e) <;> subst e <;> (try simp only [refuse_state, accept_state]) <;> (simp (config := {maxDischargeDepth := 60}) [noticesOk_mk, h, (noticesOk_def s).symm.trans (eq_true h)])
@[simp] theorem noticesOk_performScheduleWrite (index : Byte) (image : List Byte) (s : State) (h : NoticesOk s) : NoticesOk (performScheduleWrite index image s).state := by simpa [noticesOk_def] using h
@[simp] theorem noticesOk_performStepWrite (index : Byte) (image : List Byte) (s : State) (h : NoticesOk s) : NoticesOk (performStepWrite index image s).state := by simpa [noticesOk_def] using h
@[simp] theorem noticesOk_performVarietyWrite (index : Byte) (image : List Byte) (s : State) (h : NoticesOk s) : NoticesOk (performVarietyWrite index image s).state := by simpa [noticesOk_def] using h
@[simp] theorem noticesOk_performTareWrite (index : Byte) (image : List Byte) (s : State) (h : NoticesOk s) : NoticesOk (performTareWrite index image s).state := by simpa [noticesOk_def] using h
@[simp] theorem noticesOk_performScaleSetupWrite (index : Byte) (image : List Byte) (s : State) (h : NoticesOk s) : NoticesOk (performScaleSetupWrite index image s).state := by simpa [noticesOk_def] using h
@[simp] theorem noticesOk_performStationWrite (index : Byte) (image : List Byte) (s : State) (h : NoticesOk s) : NoticesOk (performStationWrite index image s).state := by
  generalize e : (performStationWrite index image s) = t
  unfold performStationWrite at e
  (try dsimp only at e)
  (repeat' split at e) <;> subst e <;> (try simp only [refuse_state, accept_state]) <;> (simp (config := {maxDischargeDepth := 60}) [noticesOk_mk, h, (noticesOk_def s).symm.trans (eq_true h)])
@[simp] theorem noticesOk_performTableRead (table index part : Byte) (s : State) (h : NoticesOk s) : NoticesOk (performTableRead table index part s).state := by simpa [noticesOk_def] using h
@[simp] theorem noticesOk_performTableWrite (table index : Byte) (image : List Byte) (s : State) (h : NoticesOk s) : NoticesOk (performTableWrite table index image s).state := by
  generalize e : (performTableWrite table index image s) = t
  unfold performTableWrite at e
  (try dsimp only at e)
  (repeat' split at e) <;> subst e <;> (try simp only [refuse_state, accept_state]) <;> (simp (config := {maxDischargeDepth := 60}) [noticesOk_mk, h, (noticesOk_def s).symm.trans (eq_true h)])
@[simp] theorem noticesOk_addLot (s : State) (l : Lot) (h : NoticesOk s) : NoticesOk (State.addLot s l) := by simpa [noticesOk_def] using h
@[simp] theorem noticesOk_performLotOpen (lot grower : Word16) (variety : Byte) (s : State) (h : NoticesOk s) : NoticesOk (performLotOpen lot grower variety s).state := by simpa [noticesOk_def] using h
@[simp] theorem noticesOk_performLotRead (lot : Word16) (item : Byte) (s : State) (h : NoticesOk s) : NoticesOk (performLotRead lot item s).state := by simpa [noticesOk_def] using h
@[simp] theorem noticesOk_performLotVoid (lot : Word16) (s : State) (h : NoticesOk s) : NoticesOk (performLotVoid lot s).state := by simpa [noticesOk_def] using h
@[simp] theorem noticesOk_performLotClose (lot : Word16) (s : State) (h : NoticesOk s) : NoticesOk (performLotClose lot s).state := by simpa [noticesOk_def] using h
@[simp] theorem noticesOk_clearCounts (s : State) (h : NoticesOk s) : NoticesOk (State.clearCounts s) := by simpa [noticesOk_def] using h
@[simp] theorem noticesOk_performStatus (clear page : Byte) (s : State) (h : NoticesOk s) : NoticesOk (performStatus clear page s).state := by simpa [noticesOk_def] using h
@[simp] theorem noticesOk_performTimeSet (time : Word32) (s : State) (h : NoticesOk s) : NoticesOk (performTimeSet time s).state := by simpa [noticesOk_def] using h
@[simp] theorem noticesOk_secondPassed (s : State) (h : NoticesOk s) : NoticesOk (State.secondPassed s) := by simpa [noticesOk_def] using h
@[simp] theorem noticesOk_restartStation (s : State) (h : NoticesOk s) : NoticesOk (State.restartStation s) := by simpa [noticesOk_def] using h
@[simp] theorem noticesOk_performRestart (scope : Byte) (s : State) (h : NoticesOk s) : NoticesOk (performRestart scope s).state := by simpa [noticesOk_def] using h
@[simp] theorem noticesOk_performRequest (r : Request) (s : State) (h : NoticesOk s) : NoticesOk (performRequest r s).state := by
  generalize e : (performRequest r s) = t
  unfold performRequest at e
  (try dsimp only at e)
  (repeat' split at e) <;> subst e <;> (try simp only [refuse_state, accept_state]) <;> (simp (config := {maxDischargeDepth := 60}) [noticesOk_mk, h, (noticesOk_def s).symm.trans (eq_true h)])
@[simp] theorem noticesOk_setReply (s : State) (payload : List Byte) (h : NoticesOk s) : NoticesOk (State.setReply s payload) := by simpa [noticesOk_def] using h
@[simp] theorem noticesOk_performPayload (payload : List Byte) (s : State) (h : NoticesOk s) : NoticesOk (performPayload payload s).2.2.state := by
  unfold performPayload
  repeat' split
  all_goals simp [h]
@[simp] theorem noticesOk_executeFrame (s : State) (f : Frame) (h : NoticesOk s) : NoticesOk (State.executeFrame s f) := by
  generalize e : (State.executeFrame s f) = t
  unfold State.executeFrame at e
  (try dsimp only at e)
  (repeat' split at e) <;> subst e <;> (try simp only [refuse_state, accept_state]) <;> (simp (config := {maxDischargeDepth := 60}) [noticesOk_mk, h, (noticesOk_def s).symm.trans (eq_true h)])
@[simp] theorem noticesOk_executeHead (s : State) (h : NoticesOk s) : NoticesOk (State.executeHead s) := by
  generalize e : (State.executeHead s) = t
  unfold State.executeHead at e
  (try dsimp only at e)
  (repeat' split at e) <;> subst e <;> (try simp only [refuse_state, accept_state]) <;> (simp (config := {maxDischargeDepth := 60}) [noticesOk_mk, h, (noticesOk_def s).symm.trans (eq_true h)])
@[simp] theorem noticesOk_admitRequest (s : State) (f : Frame) (h : NoticesOk s) : NoticesOk (State.admitRequest s f) := by
  generalize e : (State.admitRequest s f) = t
  unfold State.admitRequest at e
  (try dsimp only at e)
  (repeat' split at e) <;> subst e <;> (try simp only [refuse_state, accept_state]) <;> (simp (config := {maxDischargeDepth := 60}) [noticesOk_mk, h, (noticesOk_def s).symm.trans (eq_true h)])
@[simp] theorem noticesOk_completeRequest (s : State) (h : NoticesOk s) : NoticesOk (State.completeRequest s) := by
  generalize e : (State.completeRequest s) = t
  unfold State.completeRequest at e
  (try dsimp only at e)
  (repeat' split at e) <;> subst e <;> (try simp only [refuse_state, accept_state]) <;> (simp (config := {maxDischargeDepth := 60}) [noticesOk_mk, h, (noticesOk_def s).symm.trans (eq_true h)])
@[simp] theorem noticesOk_submit (tag : Byte) (r : Request) (s : State) (h : NoticesOk s) : NoticesOk (State.submit tag r s) := by
  generalize e : (State.submit tag r s) = t
  unfold State.submit at e
  (try dsimp only at e)
  (repeat' split at e) <;> subst e <;> (try simp only [refuse_state, accept_state]) <;> (simp (config := {maxDischargeDepth := 60}) [noticesOk_mk, h, (noticesOk_def s).symm.trans (eq_true h)])
@[simp] theorem noticesOk_updLink (s : State) (f : Link → Link) (h : NoticesOk s) : NoticesOk (State.updLink s f) := by simpa [noticesOk_def] using h
@[simp] theorem noticesOk_validArrival (s : State) (h : NoticesOk s) : NoticesOk (State.validArrival s) := by
  generalize e : (State.validArrival s) = t
  unfold State.validArrival at e
  (try dsimp only at e)
  (repeat' split at e) <;> subst e <;> (try simp only [refuse_state, accept_state]) <;> (simp (config := {maxDischargeDepth := 60}) [noticesOk_mk, h, (noticesOk_def s).symm.trans (eq_true h)])
@[simp] theorem noticesOk_linkSilent (s : State) (h : NoticesOk s) : NoticesOk (State.linkSilent s) := by simpa [noticesOk_def] using h
@[simp] theorem noticesOk_offerPass (s : State) (f : Frame) (h : NoticesOk s) : NoticesOk (State.offerPass s f) := by
  generalize e : (State.offerPass s f) = t
  unfold State.offerPass at e
  (try dsimp only at e)
  (repeat' split at e) <;> subst e <;> (try simp only [refuse_state, accept_state]) <;> (simp (config := {maxDischargeDepth := 60}) [noticesOk_mk, h, (noticesOk_def s).symm.trans (eq_true h)])
@[simp] theorem noticesOk_classifyUpstream (s : State) (f : Frame) (h : NoticesOk s) : NoticesOk (State.classifyUpstream s f) := by
  generalize e : (State.classifyUpstream s f) = t
  unfold State.classifyUpstream at e
  (try dsimp only at e)
  (repeat' split at e) <;> subst e <;> (try simp only [refuse_state, accept_state]) <;> (simp (config := {maxDischargeDepth := 60}) [noticesOk_mk, h, (noticesOk_def s).symm.trans (eq_true h)])
@[simp] theorem noticesOk_upstreamArrival (s : State) (chars : List Byte) (h : NoticesOk s) : NoticesOk (State.upstreamArrival s chars) := by
  generalize e : (State.upstreamArrival s chars) = t
  unfold State.upstreamArrival at e
  (try dsimp only at e)
  (repeat' split at e) <;> subst e <;> (try simp only [refuse_state, accept_state]) <;> (simp (config := {maxDischargeDepth := 60}) [noticesOk_mk, h, (noticesOk_def s).symm.trans (eq_true h)])
@[simp] theorem noticesOk_idleGap (s : State) (port : Port) (h : NoticesOk s) : NoticesOk (State.idleGap s port) := by simpa [noticesOk_def] using h
@[simp] theorem noticesOk_startUpstream (s : State) (t : UpTransmit) (h : NoticesOk s) : NoticesOk (State.startUpstream s t) := by
  unfold State.startUpstream
  dsimp only
  split <;> simp_all [noticesOk_def]
  unfold markHead
  cases hq : s.mgmt.notices <;> simp_all [QueueOk]
@[simp] theorem noticesOk_upstreamTransmit (s : State) (h : NoticesOk s) : NoticesOk (State.upstreamTransmit s) := by
  generalize e : (State.upstreamTransmit s) = t
  unfold State.upstreamTransmit at e
  (try dsimp only at e)
  (repeat' split at e) <;> subst e <;> (try simp only [refuse_state, accept_state]) <;> (simp (config := {maxDischargeDepth := 60}) [noticesOk_mk, h, (noticesOk_def s).symm.trans (eq_true h)])
@[simp] theorem noticesOk_replySent (s : State) (h : NoticesOk s) : NoticesOk (State.replySent s) := by
  generalize e : (State.replySent s) = t
  unfold State.replySent at e
  (try dsimp only at e)
  (repeat' split at e) <;> subst e <;> (try simp only [refuse_state, accept_state]) <;> (simp (config := {maxDischargeDepth := 60}) [noticesOk_mk, h, (noticesOk_def s).symm.trans (eq_true h)])
@[simp] theorem noticesOk_segmentSent (s : State) (h : NoticesOk s) : NoticesOk (State.segmentSent s) := by
  generalize e : (State.segmentSent s) = t
  unfold State.segmentSent at e
  (try dsimp only at e)
  (repeat' split at e) <;> subst e <;> (try simp only [refuse_state, accept_state]) <;> (simp (config := {maxDischargeDepth := 60}) [noticesOk_mk, h, (noticesOk_def s).symm.trans (eq_true h)])
@[simp] theorem noticesOk_upstreamFrameSent (s : State) (h : NoticesOk s) : NoticesOk (State.upstreamFrameSent s) := by
  unfold State.upstreamFrameSent
  split
  · exact h
  · dsimp only
    split
    · apply noticesOk_replySent; simpa [noticesOk_def] using h
    · apply noticesOk_segmentSent; simpa [noticesOk_def] using h
    · simp [noticesOk_def] at *
      cases hq : s.mgmt.notices with
      | nil => simp [noticeSent, QueueOk]
      | cons n rest =>
        simp [hq, QueueOk] at h
        simp only [noticeSent, Notice.afterSent]
        split
        · exact ⟨by omega, h.2.2⟩
        · rename_i m hm
          split at hm
          · simp at hm
          · simp at hm; subst hm; simpa [QueueOk] using h
    · simpa [noticesOk_def] using h
theorem noticesOk_pend (s : State) (p) (h : NoticesOk s) : NoticesOk { s with pending := p } := by rw [noticesOk_mk]; rw [noticesOk_def] at h; exact h
theorem noticesOk_started (s : State) (a b c) : NoticesOk (s.started a b c) := by
  unfold State.started; rw [noticesOk_mk]; simp [State.reset, QueueOk]
theorem noticesOk_inactive (s : State) (p) : NoticesOk (s.inactive p) := by
  unfold State.inactive; rw [noticesOk_mk]; simp [State.reset, QueueOk]
theorem noticesOk_powerOn (s : State) (a b c) (h : NoticesOk s) : NoticesOk (s.powerOn a b c) := by
  unfold State.powerOn; split
  · exact noticesOk_inactive _ _
  · exact noticesOk_started _ _ _ _
theorem noticesOk_resetRelease (s : State) (a b c) (h : NoticesOk s) : NoticesOk (s.resetRelease a b c) := by
  unfold State.resetRelease; split
  · exact noticesOk_started _ _ _ _
  · rw [noticesOk_mk]; rw [noticesOk_def] at h; exact h
theorem noticesOk_powerFail (s : State) (h : NoticesOk s) : NoticesOk s.powerFail := noticesOk_inactive _ _
theorem noticesOk_resetAssert (s : State) (h : NoticesOk s) : NoticesOk s.resetAssert := by
  unfold State.resetAssert; rw [noticesOk_mk]; rw [noticesOk_def] at h; exact h
theorem noticesOk_ticked (s : State) (h : NoticesOk s) : NoticesOk s.ticked := by
  unfold State.ticked; rw [noticesOk_mk]; rw [noticesOk_def] at h; exact h


/-- What the statements ask of the Notice Queue. -/
theorem noticesOk_iff (s : State) :
    NoticesOk s ↔ s.mgmt.notices.length ≤ Config.noticeCapacity ∧ s.NoticeKeysUnique := Iff.rfl

end Sys2Proof.Laws.Notices
end

