-- ==== Sys2Proof/Laws/KeptStores.lean ====
section
/-! SUPPORT. Every operation keeps lot numbers unique, and the charge lists, the Bale Store and the Sample FIFO within their bounds (R1, R4,
R110, R127). -/

namespace Sys2Proof.Laws.Stores

set_option linter.all false
set_option maxHeartbeats 1000000

open Sys2Proof Sys2Proof.Machine

/-- Lot numbers once, charge lists, Bale Store and Sample FIFO within their bounds. -/
structure StoresAre (ls : List Lot) (bs : List Bale) (sc : Scale) : Prop where
  lotsOnce : (ls.map (fun l => l.number)).Nodup
  charges : ∀ l ∈ ls, l.charges.length ≤ 6
  bales : bs.length ≤ 256
  samples : sc.samples.length < sc.setup.watermark
  watermark : sc.setup.watermark ≤ 16
/-- The same of a state. -/
@[irreducible] def StoresOk (s : State) : Prop := StoresAre s.table.lots s.press.bales s.scale
theorem storesOk_def (s : State) : StoresOk s = StoresAre s.table.lots s.press.bales s.scale := by unfold StoresOk; rfl
theorem storesOk_mk (a b c d e f g h i j k l) : StoresOk (State.mk a b c d e f g h i j k l) = StoresAre f.lots j.bales i := by unfold StoresOk; rfl
theorem insertLot_perm (l : Lot) (ls : List Lot) : (insertLot l ls).Perm (l :: ls) := by
  induction ls with
  | nil => exact List.Perm.refl _
  | cons a ls ih =>
    unfold insertLot
    split
    · exact List.Perm.refl _
    · exact (List.Perm.cons a ih).trans (List.Perm.swap l a ls)
/-- A change of a lot that keeps its number and the length of its charge list. -/
theorem storesOk_updLotOf (s : State) (n : Nat) (f : Lot → Lot) (h : StoresOk s) (hn : ∀ l, (f l).number = l.number)
    (hc : ∀ l, (f l).charges.length = l.charges.length) : StoresOk (s.updLot n f) := by
  simp only [storesOk_def] at *
  obtain ⟨a, b, c, d, e⟩ := h
  simp only [updLot_lots, updLot_frame]
  refine ⟨?_, ?_, c, d, e⟩
  · rw [List.map_map]
    have : ((fun l : Lot => l.number) ∘ fun l => if l.number = n then f l else l) = (fun l => l.number) := by
      funext l; simp only [Function.comp]; split <;> simp [hn]
    rw [this]; exact a
  · intro l hl
    obtain ⟨l0, h0, rfl⟩ := List.mem_map.mp hl
    split
    · rw [hc]; exact b _ h0
    · exact b _ h0
/-- A change of the Scale Engine that leaves the FIFO below its watermark. -/
def FifoOk (c c' : Scale) : Prop :=
  c.samples.length < c.setup.watermark → c.setup.watermark ≤ 16 →
    c'.samples.length < c'.setup.watermark ∧ c'.setup.watermark ≤ 16
theorem storesOk_updScaleOf (s : State) (f : Scale → Scale) (h : StoresOk s) (hf : FifoOk s.scale (f s.scale)) : StoresOk (s.updScale f) := by
  simp only [storesOk_def] at *
  obtain ⟨a, b, c, d, e⟩ := h
  exact ⟨a, b, c, (hf d e).1, (hf d e).2⟩
theorem fifoOk_id (c : Scale) : FifoOk c c := fun a b => ⟨a, b⟩
theorem fifoOk_empty (c c' : Scale) (h1 : c'.samples = []) (h2 : c'.setup.watermark = c.setup.watermark) : FifoOk c c' := by
  intro a b; rw [h1, h2]; simp; omega
theorem fifoOk_same (c c' : Scale) (h1 : c'.samples = c.samples) (h2 : c'.setup.watermark = c.setup.watermark) : FifoOk c c' := by
  intro a b; rw [h1, h2]; exact ⟨a, b⟩
theorem fifoOk_track (c : Scale) : FifoOk c c.track := by
  unfold Scale.track; split
  · exact fifoOk_id _
  · split
    · exact fifoOk_same _ _ rfl rfl
    · exact fifoOk_id _
theorem fifoOk_enterFault (c : Scale) : FifoOk c c.enterFault := fifoOk_empty _ _ rfl rfl
theorem fifoOk_endCycle (c : Scale) : FifoOk c c.endCycle := fifoOk_same _ _ rfl rfl
theorem fifoOk_withSetup (c : Scale) (u) (h1 : 0 < u.watermark) (h2 : u.watermark ≤ 16) : FifoOk c (c.withSetup u) := by
  intro a b
  unfold Scale.withSetup; dsimp only; repeat' split
  all_goals exact ⟨h1, h2⟩
/-- The record of a number that a member of the table has. -/
theorem lot?_of_mem {s : State} (a : (s.table.lots.map (fun l => l.number)).Nodup) {l : Lot} {n : Nat}
    (hl : l ∈ s.table.lots) (hn : l.number = n) : s.lot? n = some l := by
  unfold State.lot?
  subst hn
  generalize s.table.lots = ls at a hl
  induction ls with
  | nil => simp at hl
  | cons x xs ih =>
    simp only [List.map_cons, List.nodup_cons] at a
    rw [List.find?_cons]
    rcases List.mem_cons.mp hl with rfl | hm
    · simp
    · have : x.number ≠ l.number := fun e => a.1 (e ▸ List.mem_map_of_mem (f := fun l : Lot => l.number) hm)
      simp only [this, decide_false]
      exact ih a.2 hm
@[simp] theorem storesOk_raiseOpt (s : State) (k : NoticeKind) (o : Nat) (v : Option Word32) (h : StoresOk s) : StoresOk (State.raiseOpt s k o v) := by simpa [storesOk_def] using h
@[simp] theorem storesOk_raise (s : State) (k : NoticeKind) (o : Nat) (v : Int) (h : StoresOk s) : StoresOk (State.raise s k o v) := by simpa [storesOk_def] using h
@[simp] theorem storesOk_updCharge (s : State) (r : ChargeRef) (f : Charge → Charge) (h : StoresOk s) : StoresOk (State.updCharge s r f) := by
  unfold State.updCharge
  exact storesOk_updLotOf _ _ _ h (fun _ => rfl) (fun l => by simp [Lot.updCharge])
@[simp] theorem storesOk_removeLot (s : State) (n : Nat) (h : StoresOk s) : StoresOk (State.removeLot s n) := by
  simp only [storesOk_def] at *
  obtain ⟨a,b,c,d,e⟩ := h
  refine ⟨?_, ?_, c, d, e⟩
  · exact List.Nodup.sublist (List.Sublist.map _ List.filter_sublist) a
  · intro l hl; exact b l (List.mem_of_mem_filter hl)
@[simp] theorem storesOk_setNode (s : State) (i : NodeIdx) (n : Node) (h : StoresOk s) : StoresOk (State.setNode s i n) := by simpa [storesOk_def] using h
@[simp] theorem storesOk_placeCommand (s : State) (i : NodeIdx) (c : Commanded) (h : StoresOk s) : StoresOk (State.placeCommand s i c) := by simpa [storesOk_def] using h
@[simp] theorem storesOk_writeCommanded (s : State) (i : Option NodeIdx) (c : Commanded) (h : StoresOk s) : StoresOk (State.writeCommanded s i c) := by simpa [storesOk_def] using h
@[simp] theorem storesOk_clearCommanded (s : State) (i : Option NodeIdx) (h : StoresOk s) : StoresOk (State.clearCommanded s i) := by simpa [storesOk_def] using h
@[simp] theorem storesOk_updKiln (s : State) (k : Kiln) (f : KilnRun → KilnRun) (h : StoresOk s) : StoresOk (State.updKiln s k f) := by simpa [storesOk_def] using h
@[simp] theorem storesOk_updKilnCharge (s : State) (k : Kiln) (f : Charge → Charge) (h : StoresOk s) : StoresOk (State.updKilnCharge s k f) := by
  generalize e : (State.updKilnCharge s k f) = t
  unfold State.updKilnCharge at e
  (try dsimp only at e)
  (repeat' split at e) <;> subst e <;> (try simp only [refuse_state, accept_state]) <;> (simp (config := {maxDischargeDepth := 60}) [storesOk_mk, h, (storesOk_def s).symm.trans (eq_true h)])
@[simp] theorem storesOk_updBale (s : State) (n : Nat) (f : Bale → Bale) (h : StoresOk s) : StoresOk (State.updBale s n f) := by
  simp only [storesOk_def] at *
  obtain ⟨a,b,c,d,e⟩ := h
  constructor <;> simp_all
@[simp] theorem storesOk_judgePress (s : State) (h : StoresOk s) : StoresOk (State.judgePress s) := by simpa [storesOk_def] using h
@[simp] theorem storesOk_judgeStore (s : State) (h : StoresOk s) : StoresOk (State.judgeStore s) := by simpa [storesOk_def] using h
@[simp] theorem storesOk_becomeHead (s : State) (k : Kiln) (h : StoresOk s) : StoresOk (State.becomeHead s k) := by
  generalize e : (State.becomeHead s k) = t
  unfold State.becomeHead at e
  (try dsimp only at e)
  (repeat' split at e) <;> subst e <;> (try simp only [refuse_state, accept_state]) <;> (simp (config := {maxDischargeDepth := 60}) [storesOk_mk, h, (storesOk_def s).symm.trans (eq_true h)])
@[simp] theorem storesOk_joinPressQueue (s : State) (k : Kiln) (h : StoresOk s) : StoresOk (State.joinPressQueue s k) := by
  generalize e : (State.joinPressQueue s k) = t
  unfold State.joinPressQueue at e
  (try dsimp only at e)
  (repeat' split at e) <;> subst e <;> (try simp only [refuse_state, accept_state]) <;> (simp (config := {maxDischargeDepth := 60}) [storesOk_mk, h, (storesOk_def s).symm.trans (eq_true h)])
@[simp] theorem storesOk_writeBurner (s : State) (k : Kiln) (h : StoresOk s) : StoresOk (State.writeBurner s k) := by simpa [storesOk_def] using h
@[simp] theorem storesOk_kilnDried (s : State) (k : Kiln) (h : StoresOk s) : StoresOk (State.kilnDried s k) := by
  generalize e : (State.kilnDried s k) = t
  unfold State.kilnDried at e
  (try dsimp only at e)
  (repeat' split at e) <;> subst e <;> (try simp only [refuse_state, accept_state]) <;> (simp (config := {maxDischargeDepth := 60}) [storesOk_mk, h, (storesOk_def s).symm.trans (eq_true h)])
@[simp] theorem storesOk_enterStep (s : State) (k : Kiln) (h : StoresOk s) : StoresOk (State.enterStep s k) := by
  generalize e : (State.enterStep s k) = t
  unfold State.enterStep at e
  (try dsimp only at e)
  (repeat' split at e) <;> subst e <;> (try simp only [refuse_state, accept_state]) <;> (simp (config := {maxDischargeDepth := 60}) [storesOk_mk, h, (storesOk_def s).symm.trans (eq_true h)])
@[simp] theorem storesOk_nextStep (s : State) (k : Kiln) (h : StoresOk s) : StoresOk (State.nextStep s k) := by
  generalize e : (State.nextStep s k) = t
  unfold State.nextStep at e
  (try dsimp only at e)
  (repeat' split at e) <;> subst e <;> (try simp only [refuse_state, accept_state]) <;> (simp (config := {maxDischargeDepth := 60}) [storesOk_mk, h, (storesOk_def s).symm.trans (eq_true h)])
@[simp] theorem storesOk_holdKiln (s : State) (k : Kiln) (reason : HoldReason) (h : StoresOk s) : StoresOk (State.holdKiln s k reason) := by simpa [storesOk_def] using h
@[simp] theorem storesOk_kilnAir (s : State) (k : Kiln) (value : Int) (h : StoresOk s) : StoresOk (State.kilnAir s k value) := by simpa [storesOk_def] using h
@[simp] theorem storesOk_kilnExhaust (s : State) (k : Kiln) (value : Int) (h : StoresOk s) : StoresOk (State.kilnExhaust s k value) := by
  generalize e : (State.kilnExhaust s k value) = t
  unfold State.kilnExhaust at e
  (try dsimp only at e)
  (repeat' split at e) <;> subst e <;> (try simp only [refuse_state, accept_state]) <;> (simp (config := {maxDischargeDepth := 60}) [storesOk_mk, h, (storesOk_def s).symm.trans (eq_true h)])
@[simp] theorem storesOk_startRun (s : State) (k : Kiln) (d : Fin 8) (h : StoresOk s) : StoresOk (State.startRun s k d) := by
  generalize e : (State.startRun s k d) = t
  unfold State.startRun at e
  (try dsimp only at e)
  (repeat' split at e) <;> subst e <;> (try simp only [refuse_state, accept_state]) <;> (simp (config := {maxDischargeDepth := 60}) [storesOk_mk, h, (storesOk_def s).symm.trans (eq_true h)])
@[simp] theorem storesOk_autoStart (s : State) (k : Kiln) (h : StoresOk s) : StoresOk (State.autoStart s k) := by
  generalize e : (State.autoStart s k) = t
  unfold State.autoStart at e
  (try dsimp only at e)
  (repeat' split at e) <;> subst e <;> (try simp only [refuse_state, accept_state]) <;> (simp (config := {maxDischargeDepth := 60}) [storesOk_mk, h, (storesOk_def s).symm.trans (eq_true h)])
@[simp] theorem storesOk_kilnLoaded (s : State) (k : Kiln) (h : StoresOk s) : StoresOk (State.kilnLoaded s k) := by
  generalize e : (State.kilnLoaded s k) = t
  unfold State.kilnLoaded at e
  (try dsimp only at e)
  (repeat' split at e) <;> subst e <;> (try simp only [refuse_state, accept_state]) <;> (simp (config := {maxDischargeDepth := 60}) [storesOk_mk, h, (storesOk_def s).symm.trans (eq_true h)])
@[simp] theorem storesOk_kilnEmptied (s : State) (k : Kiln) (h : StoresOk s) : StoresOk (State.kilnEmptied s k) := by simpa [storesOk_def] using h
@[simp] theorem storesOk_stepEnd (s : State) (k : Kiln) (h : StoresOk s) : StoresOk (State.stepEnd s k) := by
  generalize e : (State.stepEnd s k) = t
  unfold State.stepEnd at e
  (try dsimp only at e)
  (repeat' split at e) <;> subst e <;> (try simp only [refuse_state, accept_state]) <;> (simp (config := {maxDischargeDepth := 60}) [storesOk_mk, h, (storesOk_def s).symm.trans (eq_true h)])
@[simp] theorem storesOk_rampMinute (s : State) (k : Kiln) (h : StoresOk s) : StoresOk (State.rampMinute s k) := by
  generalize e : (State.rampMinute s k) = t
  unfold State.rampMinute at e
  (try dsimp only at e)
  (repeat' split at e) <;> subst e <;> (try simp only [refuse_state, accept_state]) <;> (simp (config := {maxDischargeDepth := 60}) [storesOk_mk, h, (storesOk_def s).symm.trans (eq_true h)])
@[simp] theorem storesOk_dryToOvertime (s : State) (k : Kiln) (h : StoresOk s) : StoresOk (State.dryToOvertime s k) := by simpa [storesOk_def] using h
@[simp] theorem storesOk_abortCoolingEnd (s : State) (k : Kiln) (h : StoresOk s) : StoresOk (State.abortCoolingEnd s k) := by
  generalize e : (State.abortCoolingEnd s k) = t
  unfold State.abortCoolingEnd at e
  (try dsimp only at e)
  (repeat' split at e) <;> subst e <;> (try simp only [refuse_state, accept_state]) <;> (simp (config := {maxDischargeDepth := 60}) [storesOk_mk, h, (storesOk_def s).symm.trans (eq_true h)])
@[simp] theorem storesOk_refreshExpiry (s : State) (k : Kiln) (h : StoresOk s) : StoresOk (State.refreshExpiry s k) := by simpa [storesOk_def] using h
@[simp] theorem storesOk_performKilnStart (kiln : Byte) (s : State) (h : StoresOk s) : StoresOk (performKilnStart kiln s).state := by
  generalize e : (performKilnStart kiln s) = t
  unfold performKilnStart at e
  (try dsimp only at e)
  (repeat' split at e) <;> subst e <;> (try simp only [refuse_state, accept_state]) <;> (simp (config := {maxDischargeDepth := 60}) [storesOk_mk, h, (storesOk_def s).symm.trans (eq_true h)])
@[simp] theorem storesOk_performKilnHold (kiln : Byte) (s : State) (h : StoresOk s) : StoresOk (performKilnHold kiln s).state := by simpa [storesOk_def] using h
@[simp] theorem storesOk_resume (s : State) (k : Kiln) (m : ResumeMode) (h : StoresOk s) : StoresOk (State.resume s k m) := by
  generalize e : (State.resume s k m) = t
  unfold State.resume at e
  (try dsimp only at e)
  (repeat' split at e) <;> subst e <;> (try simp only [refuse_state, accept_state]) <;> (simp (config := {maxDischargeDepth := 60}) [storesOk_mk, h, (storesOk_def s).symm.trans (eq_true h)])
@[simp] theorem storesOk_performKilnResume (kiln mode : Byte) (s : State) (h : StoresOk s) : StoresOk (performKilnResume kiln mode s).state := by
  generalize e : (performKilnResume kiln mode s) = t
  unfold performKilnResume at e
  (try dsimp only at e)
  (repeat' split at e) <;> subst e <;> (try simp only [refuse_state, accept_state]) <;> (simp (config := {maxDischargeDepth := 60}) [storesOk_mk, h, (storesOk_def s).symm.trans (eq_true h)])
@[simp] theorem storesOk_abort (s : State) (k : Kiln) (h : StoresOk s) : StoresOk (State.abort s k) := by
  generalize e : (State.abort s k) = t
  unfold State.abort at e
  (try dsimp only at e)
  (repeat' split at e) <;> subst e <;> (try simp only [refuse_state, accept_state]) <;> (simp (config := {maxDischargeDepth := 60}) [storesOk_mk, h, (storesOk_def s).symm.trans (eq_true h)])
@[simp] theorem storesOk_performKilnAbort (kiln : Byte) (s : State) (h : StoresOk s) : StoresOk (performKilnAbort kiln s).state := by
  generalize e : (performKilnAbort kiln s) = t
  unfold performKilnAbort at e
  (try dsimp only at e)
  (repeat' split at e) <;> subst e <;> (try simp only [refuse_state, accept_state]) <;> (simp (config := {maxDischargeDepth := 60}) [storesOk_mk, h, (storesOk_def s).symm.trans (eq_true h)])
@[simp] theorem storesOk_performKilnRead (kiln : Byte) (s : State) (h : StoresOk s) : StoresOk (performKilnRead kiln s).state := by simpa [storesOk_def] using h
@[simp] theorem storesOk_setPrint (s : State) (n : Nat) (p : PrintState) (h : StoresOk s) : StoresOk (State.setPrint s n p) := by simpa [storesOk_def] using h
@[simp] theorem storesOk_setProcess (s : State) (p : PrintProcess) (h : StoresOk s) : StoresOk (State.setProcess s p) := by simpa [storesOk_def] using h
@[simp] theorem storesOk_printScan (s : State) (h : StoresOk s) : StoresOk (State.printScan s) := by simpa [storesOk_def] using h
@[simp] theorem storesOk_promptPrint (s : State) (h : StoresOk s) : StoresOk (State.promptPrint s) := by simpa [storesOk_def] using h
@[simp] theorem storesOk_testComposition (s : State) (r : ChargeRef) (h : StoresOk s) : StoresOk (State.testComposition s r) := by simpa [storesOk_def] using h
@[simp] theorem storesOk_issueTicket (s : State) (r : ChargeRef) (t : Ticket) (h : StoresOk s) : StoresOk (State.issueTicket s r t) := by
  unfold State.issueTicket
  dsimp only
  apply storesOk_promptPrint
  apply storesOk_raise
  apply storesOk_updCharge
  refine storesOk_updLotOf _ _ _ ?_ (fun _ => rfl) (fun _ => rfl)
  simp only [storesOk_mk]
  simp only [storesOk_def] at h
  obtain ⟨a,b,c,d,e⟩ := h
  constructor <;> simp_all
@[simp] theorem storesOk_compose (s : State) (r : ChargeRef) (h : StoresOk s) : StoresOk (State.compose s r) := by
  unfold State.compose
  (repeat' split) <;> (try exact h)
  dsimp only
  split
  · exact h
  · exact storesOk_testComposition _ _ (storesOk_issueTicket _ _ _ h)
@[simp] theorem storesOk_serveFuel (n : Nat) (s : State) (h : StoresOk s) : StoresOk (State.serveFuel n s) := by
  induction n generalizing s with
  | zero => simpa [State.serveFuel]
  | succ n ih =>
    unfold State.serveFuel
    split
    · exact h
    · split
      · apply ih; apply storesOk_compose
        simpa [storesOk_def] using h
      · exact h
@[simp] theorem storesOk_serve (s : State) (h : StoresOk s) : StoresOk (State.serve s) := by
  generalize e : (State.serve s) = t
  unfold State.serve at e
  (try dsimp only at e)
  (repeat' split at e) <;> subst e <;> (try simp only [refuse_state, accept_state]) <;> (simp (config := {maxDischargeDepth := 60}) [storesOk_mk, h, (storesOk_def s).symm.trans (eq_true h)])
@[simp] theorem storesOk_offerCharge (s : State) (r : ChargeRef) (h : StoresOk s) : StoresOk (State.offerCharge s r) := by
  generalize e : (State.offerCharge s r) = t
  unfold State.offerCharge at e
  (try dsimp only at e)
  (repeat' split at e) <;> subst e <;> (try simp only [refuse_state, accept_state]) <;> (simp (config := {maxDischargeDepth := 60}) [storesOk_mk, h, (storesOk_def s).symm.trans (eq_true h)])
@[simp] theorem storesOk_performTicketBase (nextTicket nextBale : Word32) (s : State) (h : StoresOk s) : StoresOk (performTicketBase nextTicket nextBale s).state := by simpa [storesOk_def] using h
@[simp] theorem storesOk_performTicketRead (ticket : Word32) (s : State) (h : StoresOk s) : StoresOk (performTicketRead ticket s).state := by simpa [storesOk_def] using h
@[simp] theorem storesOk_takeTicket (s : State) (t : Ticket) (h : StoresOk s) : StoresOk (State.takeTicket s t) := by
  have h0 : StoresOk { s with
      tickets := { s.tickets with queue := s.tickets.queue.tail }
      press := { s.press with bales := s.press.bales.filter (fun (b : Bale) => !t.lists b.number) } } := by
    simp only [storesOk_def] at *
    obtain ⟨a,b,c,d,e⟩ := h
    exact ⟨a, b, Nat.le_trans (List.length_filter_le _ _) c, d, e⟩
  unfold State.takeTicket
  dsimp only
  apply storesOk_serve; apply storesOk_judgeStore
  split
  · apply storesOk_updCharge; refine storesOk_updLotOf _ _ _ ?_ (fun _ => rfl) (fun _ => rfl); exact h0
  · refine storesOk_updLotOf _ _ _ ?_ (fun _ => rfl) (fun _ => rfl); exact h0
@[simp] theorem storesOk_performTicketTake (ticket : Word32) (s : State) (h : StoresOk s) : StoresOk (performTicketTake ticket s).state := by
  generalize e : (performTicketTake ticket s) = t
  unfold performTicketTake at e
  (try dsimp only at e)
  (repeat' split at e) <;> subst e <;> (try simp only [refuse_state, accept_state]) <;> (simp (config := {maxDischargeDepth := 60}) [storesOk_mk, h, (storesOk_def s).symm.trans (eq_true h)])
@[simp] theorem storesOk_performTicketReprint (ticket : Word32) (s : State) (h : StoresOk s) : StoresOk (performTicketReprint ticket s).state := by simpa [storesOk_def] using h
@[simp] theorem storesOk_updHold (s : State) (f : FeedHold → FeedHold) (h : StoresOk s) : StoresOk (State.updHold s f) := by simp only [storesOk_def] at *; simpa using h
@[simp] theorem storesOk_raiseFeedHeld (s : State) (reason : Nat) (h : StoresOk s) : StoresOk (State.raiseFeedHeld s reason) := by simpa [storesOk_def] using h
@[simp] theorem storesOk_judgeHeld (s : State) (before : FeedHold) (h : StoresOk s) : StoresOk (State.judgeHeld s before) := by simpa [storesOk_def] using h
@[simp] theorem storesOk_judgePicker (s : State) (h : StoresOk s) : StoresOk (State.judgePicker s) := by simpa [storesOk_def] using h
@[simp] theorem storesOk_feedEvent (f : State → State) (s : State) (h : StoresOk (f s)) : StoresOk (feedEvent f s) := by
  simp [feedEvent, h]
@[simp] theorem storesOk_startDivertWatch (s : State) (h : StoresOk s) : StoresOk (State.startDivertWatch s) := by simpa [storesOk_def] using h
@[simp] theorem storesOk_takeKiln (s : State) (b : Nat) (k : Kiln) (hb : ∀ l, s.lot? b = some l → l.charges.length < 6) (h : StoresOk s) : StoresOk (State.takeKiln s b k) := by
  have h0 : StoresOk (s.updLot b (fun l => { l with charges := l.charges ++ [newCharge k s.now] })) := by
    simp only [storesOk_def] at *
    obtain ⟨a,b1,c,d,e⟩ := h
    simp only [updLot_lots, updLot_frame]
    refine ⟨?_, ?_, c, d, e⟩
    · rw [List.map_map]
      have : ((fun l : Lot => l.number) ∘ fun l => if l.number = b then { l with charges := l.charges ++ [newCharge k s.now] } else l)
          = (fun l => l.number) := by funext l; simp only [Function.comp]; split <;> rfl
      rw [this]; exact a
    · intro l hl
      obtain ⟨l0, hm, rfl⟩ := List.mem_map.mp hl
      split
      · rename_i hn
        have := hb l0 (lot?_of_mem a hm hn)
        simp; omega
      · exact b1 _ hm
  simp only [State.takeKiln]
  apply storesOk_startDivertWatch; apply storesOk_updHold; apply storesOk_writeCommanded
  simpa [storesOk_def] using h0
@[simp] theorem storesOk_hitChargeLimit (s : State) (b : Nat) (k : Kiln) (h : StoresOk s) : StoresOk (State.hitChargeLimit s b k) := by simpa [storesOk_def] using h
@[simp] theorem storesOk_selectKiln (s : State) (b : Nat) (h : StoresOk s) : StoresOk (State.selectKiln s b) := by
  unfold State.selectKiln
  split
  · exact storesOk_updHold _ _ h
  · split
    · rename_i hc
      apply storesOk_takeKiln
      · intro l hl
        have hl' : s.lot? b = some l := hl
        rw [hl'] at hc; simpa [Config.chargeCapacity] using hc
      · exact storesOk_updHold _ _ h
    · exact storesOk_hitChargeLimit _ _ _ h
@[simp] theorem storesOk_attemptSelection (s : State) (h : StoresOk s) : StoresOk (State.attemptSelection s) := by
  generalize e : (State.attemptSelection s) = t
  unfold State.attemptSelection at e
  (try dsimp only at e)
  (repeat' split at e) <;> subst e <;> (try simp only [refuse_state, accept_state]) <;> (simp (config := {maxDischargeDepth := 60}) [storesOk_mk, h, (storesOk_def s).symm.trans (eq_true h)])
@[simp] theorem storesOk_closeCharge (s : State) (k : Kiln) (h : StoresOk s) : StoresOk (State.closeCharge s k) := by
  generalize e : (State.closeCharge s k) = t
  unfold State.closeCharge at e
  (try dsimp only at e)
  (repeat' split at e) <;> subst e <;> (try simp only [refuse_state, accept_state]) <;> (simp (config := {maxDischargeDepth := 60}) [storesOk_mk, h, (storesOk_def s).symm.trans (eq_true h)])
@[simp] theorem storesOk_closeFill (s : State) (k : Kiln) (h : StoresOk s) : StoresOk (State.closeFill s k) := by
  simp only [State.closeFill]
  have := storesOk_kilnLoaded _ k (storesOk_closeCharge s k h)
  simpa [storesOk_def] using this
@[simp] theorem storesOk_closeAndSelect (s : State) (k : Kiln) (h : StoresOk s) : StoresOk (State.closeAndSelect s k) := by
  generalize e : (State.closeAndSelect s k) = t
  unfold State.closeAndSelect at e
  (try dsimp only at e)
  (repeat' split at e) <;> subst e <;> (try simp only [refuse_state, accept_state]) <;> (simp (config := {maxDischargeDepth := 60}) [storesOk_mk, h, (storesOk_def s).symm.trans (eq_true h)])
@[simp] theorem storesOk_finishOldLot (s : State) (h : StoresOk s) : StoresOk (State.finishOldLot s) := by
  unfold State.finishOldLot
  (repeat' split) <;> (try exact h)
  refine storesOk_updLotOf _ _ _ ?_ (fun _ => rfl) (fun _ => rfl); exact h
@[simp] theorem storesOk_completeChangeover (s : State) (h : StoresOk s) : StoresOk (State.completeChangeover s) := by
  unfold State.completeChangeover
  dsimp only
  apply storesOk_attemptSelection
  have key : ∀ t, StoresOk t → StoresOk (t.finishOldLot.updFeed (fun u => { u with
    beltLot := u.changeover.pending, changeover := .steady
    hold := { u.hold with changeover := false, noKiln := false, chargeLimit := false } })) := by
    intro t ht
    have := storesOk_finishOldLot t ht
    simpa [storesOk_def] using this
  split
  · exact key _ h
  · exact key _ (storesOk_closeFill _ _ h)
@[simp] theorem storesOk_changeoverExpiry (s : State) (h : StoresOk s) : StoresOk (State.changeoverExpiry s) := by
  unfold State.changeoverExpiry
  dsimp only
  split
  · have : StoresOk (s.updFeed fun u => { u with timer := 0 }) := by simpa [storesOk_def] using h
    split
    · exact storesOk_completeChangeover _ this
    · simpa [storesOk_def] using h
  · exact h
  · exact h
@[simp] theorem storesOk_beltAnswered (s : State) (h : StoresOk s) : StoresOk (State.beltAnswered s) := by
  generalize e : (State.beltAnswered s) = t
  unfold State.beltAnswered at e
  (try dsimp only at e)
  (repeat' split at e) <;> subst e <;> (try simp only [refuse_state, accept_state]) <;> (simp (config := {maxDischargeDepth := 60}) [storesOk_mk, h, (storesOk_def s).symm.trans (eq_true h)])
@[simp] theorem storesOk_divertWatchExpiry (s : State) (h : StoresOk s) : StoresOk (State.divertWatchExpiry s) := by simpa [storesOk_def] using h
@[simp] theorem storesOk_divertReport (s : State) (target : Option Kiln) (h : StoresOk s) : StoresOk (State.divertReport s target) := by simpa [storesOk_def] using h
@[simp] theorem storesOk_credit (s : State) (inc : Nat) (h : StoresOk s) : StoresOk (State.credit s inc) := by
  unfold State.credit
  (try dsimp only)
  split
  · simpa [storesOk_def] using h
  · split
    · have h0 : ∀ b k, StoresOk ((s.updLot b (fun l => { l with greenTotal := l.greenTotal + inc })).updKilnCharge k
          (fun c => { c with green := c.green + inc })) := by
        intro b k; apply storesOk_updKilnCharge; refine storesOk_updLotOf _ _ _ ?_ (fun _ => rfl) (fun _ => rfl); exact h
      split
      · exact h0 _ _
      · split
        · exact storesOk_closeAndSelect _ _ (h0 _ _)
        · exact h0 _ _
    · apply storesOk_raise; refine storesOk_updLotOf _ _ _ ?_ (fun _ => rfl) (fun _ => rfl); exact h
@[simp] theorem storesOk_green (s : State) (i : NodeIdx) (value : Word32) (h : StoresOk s) : StoresOk (State.green s i value) := by
  generalize e : (State.green s i value) = t
  unfold State.green at e
  (try dsimp only at e)
  (repeat' split at e) <;> subst e <;> (try simp only [refuse_state, accept_state]) <;> (simp (config := {maxDischargeDepth := 60}) [storesOk_mk, h, (storesOk_def s).symm.trans (eq_true h)])
@[simp] theorem storesOk_feedLot (s : State) (new : Option Nat) (h : StoresOk s) : StoresOk (State.feedLot s new) := by
  unfold State.feedLot
  dsimp only
  have key : ∀ g : Feed → Feed, StoresOk (s.updFeed g) := by
    intro g; simp only [storesOk_def] at *; simpa using h
  split
  · apply storesOk_changeoverExpiry
    split
    · exact key _
    · refine storesOk_updLotOf _ _ _ ?_ (fun _ => rfl) (fun _ => rfl); exact key _
  · split
    · exact key _
    · refine storesOk_updLotOf _ _ _ ?_ (fun _ => rfl) (fun _ => rfl); exact key _
@[simp] theorem storesOk_performLotFeed (lot : Word16) (s : State) (h : StoresOk s) : StoresOk (performLotFeed lot s).state := by
  generalize e : (performLotFeed lot s) = t
  unfold performLotFeed at e
  (try dsimp only at e)
  (repeat' split at e) <;> subst e <;> (try simp only [refuse_state, accept_state]) <;> (simp (config := {maxDischargeDepth := 60}) [storesOk_mk, h, (storesOk_def s).symm.trans (eq_true h)])
@[simp] theorem storesOk_performFeedHold (flag : Byte) (s : State) (h : StoresOk s) : StoresOk (performFeedHold flag s).state := by simpa [storesOk_def] using h
@[simp] theorem storesOk_performFillOrder (count : Byte) (kilns : List Byte) (s : State) (h : StoresOk s) : StoresOk (performFillOrder count kilns s).state := by
  unfold performFillOrder
  (repeat' split) <;> try exact h
  apply storesOk_feedEvent; apply storesOk_attemptSelection
  simpa [storesOk_def] using h
@[simp] theorem storesOk_performLoadClose (s : State) (h : StoresOk s) : StoresOk (performLoadClose s).state := by
  generalize e : (performLoadClose s) = t
  unfold performLoadClose at e
  (try dsimp only at e)
  (repeat' split at e) <;> subst e <;> (try simp only [refuse_state, accept_state]) <;> (simp (config := {maxDischargeDepth := 60}) [storesOk_mk, h, (storesOk_def s).symm.trans (eq_true h)])
@[simp] theorem storesOk_fillBale (s : State) (b : Bale) (gross : Int) (h : StoresOk s) : StoresOk (State.fillBale s b gross) := by
  unfold State.fillBale
  dsimp only
  have h0 : StoresOk (((s.updBale b.number (fun x => { (x.judged (s.baleVariety b) (gross - b.tare)) with
      gross := some gross, net := some (gross - b.tare), status := .weighed })).updLot b.lot
      (fun l => { l with netTotal := wrap32 (l.netTotal + (gross - b.tare)) })).updCharge { lot := b.lot, index := b.index }
      (fun c => { c with net := wrap32 (c.net + (gross - b.tare)) })) := by
    apply storesOk_updCharge; refine storesOk_updLotOf _ _ _ ?_ (fun _ => rfl) (fun _ => rfl); exact storesOk_updBale _ _ _ h
  split
  · exact storesOk_raise _ _ _ _ h0
  · exact h0
@[simp] theorem storesOk_captured (s : State) (weight : Int) (h : StoresOk s) : StoresOk (State.captured s weight) := by
  generalize e : (State.captured s weight) = t
  unfold State.captured at e
  (try dsimp only at e)
  (repeat' split at e) <;> subst e <;> (try simp only [refuse_state, accept_state]) <;> (simp (config := {maxDischargeDepth := 60}) [storesOk_mk, h, (storesOk_def s).symm.trans (eq_true h)])
@[simp] theorem storesOk_notCaptured (s : State) (h : StoresOk s) : StoresOk (State.notCaptured s) := by
  generalize e : (State.notCaptured s) = t
  unfold State.notCaptured at e
  (try dsimp only at e)
  (repeat' split at e) <;> subst e <;> (try simp only [refuse_state, accept_state]) <;> (simp (config := {maxDischargeDepth := 60}) [storesOk_mk, h, (storesOk_def s).symm.trans (eq_true h)])
@[simp] theorem storesOk_judgeBlock (s : State) (h : StoresOk s) : StoresOk (State.judgeBlock s) := by
  unfold State.judgeBlock
  (try dsimp only)
  (repeat' split)
  all_goals repeat' (first | with_reducible exact h | apply storesOk_raise | apply storesOk_notCaptured | apply storesOk_captured | refine storesOk_updScaleOf _ _ ?_ (by first | exact fifoOk_track _ | exact fifoOk_enterFault _ | exact fifoOk_endCycle _ | exact fifoOk_same _ _ rfl rfl | exact fifoOk_empty _ _ rfl rfl))
@[simp] theorem storesOk_enterFault (s : State) (cause : FaultCause) (h : StoresOk s) : StoresOk (State.enterFault s cause) := by
  unfold State.enterFault
  (try dsimp only)
  (repeat' split)
  all_goals repeat' (first | with_reducible exact h | apply storesOk_raise | apply storesOk_notCaptured | apply storesOk_captured | refine storesOk_updScaleOf _ _ ?_ (by first | exact fifoOk_track _ | exact fifoOk_enterFault _ | exact fifoOk_endCycle _ | exact fifoOk_same _ _ rfl rfl | exact fifoOk_empty _ _ rfl rfl))
@[simp] theorem storesOk_faultCause (s : State) (cause : FaultCause) (h : StoresOk s) : StoresOk (State.faultCause s cause) := by
  unfold State.faultCause
  (try dsimp only)
  (repeat' split)
  all_goals repeat' (first | with_reducible exact h | apply storesOk_raise | apply storesOk_notCaptured | apply storesOk_captured | apply storesOk_enterFault | refine storesOk_updScaleOf _ _ ?_ (by first | exact fifoOk_track _ | exact fifoOk_enterFault _ | exact fifoOk_endCycle _ | exact fifoOk_same _ _ rfl rfl | exact fifoOk_empty _ _ rfl rfl))
@[simp] theorem storesOk_takeReading (s : State) (r : Int) (h : StoresOk s) : StoresOk (State.takeReading s r) := by
  have hd := h
  rw [storesOk_def] at hd
  unfold State.takeReading
  dsimp only
  split
  · split
    · exact storesOk_updScaleOf _ _ h (fifoOk_same _ _ rfl rfl)
    · exact storesOk_updScaleOf _ _ h (fifoOk_same _ _ rfl rfl)
  · split
    · apply storesOk_judgeBlock
      rw [show (s.updScale fun c => { c with samples := c.samples ++ [r] }).updScale Scale.formBlock
        = s.updScale (fun c => Scale.formBlock { c with samples := c.samples ++ [r] }) from rfl]
      exact storesOk_updScaleOf _ _ h (fifoOk_empty _ _ rfl rfl)
    · rename_i hw
      apply storesOk_updScaleOf _ _ h
      intro a b
      simp; omega
@[simp] theorem storesOk_takeSample (s : State) (st : Byte) (sample : Int) (h : StoresOk s) : StoresOk (State.takeSample s st sample) := by
  unfold State.takeSample
  (try dsimp only)
  (repeat' split)
  all_goals repeat' (first | with_reducible exact h | apply storesOk_raise | apply storesOk_notCaptured | apply storesOk_captured | apply storesOk_faultCause | apply storesOk_takeReading | apply storesOk_enterFault | refine storesOk_updScaleOf _ _ ?_ (by first | exact fifoOk_track _ | exact fifoOk_enterFault _ | exact fifoOk_endCycle _ | exact fifoOk_same _ _ rfl rfl | exact fifoOk_empty _ _ rfl rfl))
@[simp] theorem storesOk_frameStart (s : State) (h : StoresOk s) : StoresOk (State.frameStart s) := by
  unfold State.frameStart
  (try dsimp only)
  (repeat' split)
  all_goals repeat' (first | with_reducible exact h | apply storesOk_raise | apply storesOk_notCaptured | apply storesOk_captured | apply storesOk_faultCause | apply storesOk_takeReading | apply storesOk_enterFault | refine storesOk_updScaleOf _ _ ?_ (by first | exact fifoOk_track _ | exact fifoOk_enterFault _ | exact fifoOk_endCycle _ | exact fifoOk_same _ _ rfl rfl | exact fifoOk_empty _ _ rfl rfl))
@[simp] theorem storesOk_frameComplete (s : State) (st : Byte) (sample : BitVec 24) (h : StoresOk s) : StoresOk (State.frameComplete s st sample) := by
  unfold State.frameComplete
  split
  · exact h
  · apply storesOk_takeSample; exact storesOk_updScaleOf _ _ h (fifoOk_same _ _ rfl rfl)
@[simp] theorem storesOk_frameTorn (s : State) (h : StoresOk s) : StoresOk (State.frameTorn s) := by
  unfold State.frameTorn
  (try dsimp only)
  (repeat' split)
  all_goals repeat' (first | with_reducible exact h | apply storesOk_raise | apply storesOk_notCaptured | apply storesOk_captured | apply storesOk_faultCause | apply storesOk_takeReading | apply storesOk_enterFault | refine storesOk_updScaleOf _ _ ?_ (by first | exact fifoOk_track _ | exact fifoOk_enterFault _ | exact fifoOk_endCycle _ | exact fifoOk_same _ _ rfl rfl | exact fifoOk_empty _ _ rfl rfl))
@[simp] theorem storesOk_watchExpiry (s : State) (h : StoresOk s) : StoresOk (State.watchExpiry s) := by
  unfold State.watchExpiry
  (try dsimp only)
  (repeat' split)
  all_goals repeat' (first | with_reducible exact h | apply storesOk_raise | apply storesOk_notCaptured | apply storesOk_captured | apply storesOk_faultCause | apply storesOk_takeReading | apply storesOk_enterFault | refine storesOk_updScaleOf _ _ ?_ (by first | exact fifoOk_track _ | exact fifoOk_enterFault _ | exact fifoOk_endCycle _ | exact fifoOk_same _ _ rfl rfl | exact fifoOk_empty _ _ rfl rfl))
@[simp] theorem storesOk_settleTimeout (s : State) (h : StoresOk s) : StoresOk (State.settleTimeout s) := by
  unfold State.settleTimeout
  (try dsimp only)
  (repeat' split)
  all_goals repeat' (first | with_reducible exact h | apply storesOk_raise | apply storesOk_notCaptured | apply storesOk_captured | apply storesOk_faultCause | apply storesOk_takeReading | apply storesOk_enterFault | refine storesOk_updScaleOf _ _ ?_ (by first | exact fifoOk_track _ | exact fifoOk_enterFault _ | exact fifoOk_endCycle _ | exact fifoOk_same _ _ rfl rfl | exact fifoOk_empty _ _ rfl rfl))
@[simp] theorem storesOk_scaleOnScale (s : State) (h : StoresOk s) : StoresOk (State.scaleOnScale s) := by
  unfold State.scaleOnScale
  (try dsimp only)
  (repeat' split)
  all_goals repeat' (first | with_reducible exact h | apply storesOk_raise | apply storesOk_notCaptured | apply storesOk_captured | apply storesOk_faultCause | apply storesOk_takeReading | apply storesOk_enterFault | refine storesOk_updScaleOf _ _ ?_ (by first | exact fifoOk_track _ | exact fifoOk_enterFault _ | exact fifoOk_endCycle _ | exact fifoOk_same _ _ rfl rfl | exact fifoOk_empty _ _ rfl rfl))
@[simp] theorem storesOk_createBale (s : State) (k : Kiln) (r : ChargeRef) (value : Word32) (weighing : Bool) (hb : s.press.bales.length < 256) (h : StoresOk s) : StoresOk (State.createBale s k r value weighing) := by
  unfold State.createBale
  dsimp only
  have h0 : ∀ (b : Bale) (cy : CycleBale) (ti : Tickets), StoresOk { s with
      press := { s.press with bales := s.press.bales ++ [b], cycle := cy }, tickets := ti } := by
    intro b cy ti
    simp only [storesOk_def] at *
    obtain ⟨a,b,c,d,e⟩ := h
    exact ⟨a, b, by simp; omega, d, e⟩
  split
  · apply storesOk_judgeStore; apply storesOk_updCharge; refine storesOk_updLotOf _ _ _ ?_ (fun _ => rfl) (fun _ => rfl); exact h0 _ _ _
  · apply storesOk_offerCharge; apply storesOk_judgeStore; apply storesOk_updCharge; refine storesOk_updLotOf _ _ _ ?_ (fun _ => rfl) (fun _ => rfl); exact h0 _ _ _
@[simp] theorem storesOk_newCycle (s : State) (value : Word32) (weighing : Bool) (h : StoresOk s) : StoresOk (State.newCycle s value weighing) := by
  unfold State.newCycle
  split
  · rename_i k r hk
    apply storesOk_createBale _ _ _ _ _ _ h
    unfold State.baleCharge at hk
    repeat' split at hk
    all_goals simp at hk
    rename_i hc
    simp [State.freeCount, Config.baleCapacity] at hc
    omega
  · dsimp only
    split
    · simpa [storesOk_def] using h
    · apply storesOk_raiseOpt; simpa [storesOk_def] using h
@[simp] theorem storesOk_onScale (s : State) (value : Word32) (h : StoresOk s) : StoresOk (State.onScale s value) := by
  generalize e : (State.onScale s value) = t
  unfold State.onScale at e
  (try dsimp only at e)
  (repeat' split at e) <;> subst e <;> (try simp only [refuse_state, accept_state]) <;> (simp (config := {maxDischargeDepth := 60}) [storesOk_mk, h, (storesOk_def s).symm.trans (eq_true h)])
@[simp] theorem storesOk_offScale (s : State) (h : StoresOk s) : StoresOk (State.offScale s) := by
  unfold State.offScale
  dsimp only
  rw [storesOk_mk]
  rw [← storesOk_def]
  split
  all_goals repeat' (first | with_reducible exact h | apply storesOk_raise | apply storesOk_notCaptured | apply storesOk_captured | apply storesOk_faultCause | apply storesOk_takeReading | apply storesOk_enterFault | refine storesOk_updScaleOf _ _ ?_ (by first | exact fifoOk_track _ | exact fifoOk_enterFault _ | exact fifoOk_endCycle _ | exact fifoOk_same _ _ rfl rfl | exact fifoOk_empty _ _ rfl rfl))
@[simp] theorem storesOk_moisture (s : State) (value : Word32) (h : StoresOk s) : StoresOk (State.moisture s value) := by
  generalize e : (State.moisture s value) = t
  unfold State.moisture at e
  (try dsimp only at e)
  (repeat' split at e) <;> subst e <;> (try simp only [refuse_state, accept_state]) <;> (simp (config := {maxDischargeDepth := 60}) [storesOk_mk, h, (storesOk_def s).symm.trans (eq_true h)])
@[simp] theorem storesOk_advanceHead (s : State) (h : StoresOk s) : StoresOk (State.advanceHead s) := by
  generalize e : (State.advanceHead s) = t
  unfold State.advanceHead at e
  (try dsimp only at e)
  (repeat' split at e) <;> subst e <;> (try simp only [refuse_state, accept_state]) <;> (simp (config := {maxDischargeDepth := 60}) [storesOk_mk, h, (storesOk_def s).symm.trans (eq_true h)])
@[simp] theorem storesOk_unloadHead (s : State) (k : Kiln) (h : StoresOk s) : StoresOk (State.unloadHead s k) := by
  generalize e : (State.unloadHead s k) = t
  unfold State.unloadHead at e
  (try dsimp only at e)
  (repeat' split at e) <;> subst e <;> (try simp only [refuse_state, accept_state]) <;> (simp (config := {maxDischargeDepth := 60}) [storesOk_mk, h, (storesOk_def s).symm.trans (eq_true h)])
@[simp] theorem storesOk_unloadDone (s : State) (h : StoresOk s) : StoresOk (State.unloadDone s) := by
  generalize e : (State.unloadDone s) = t
  unfold State.unloadDone at e
  (try dsimp only at e)
  (repeat' split at e) <;> subst e <;> (try simp only [refuse_state, accept_state]) <;> (simp (config := {maxDischargeDepth := 60}) [storesOk_mk, h, (storesOk_def s).symm.trans (eq_true h)])
@[simp] theorem storesOk_performUnloadDone (kiln : Byte) (s : State) (h : StoresOk s) : StoresOk (performUnloadDone kiln s).state := by
  generalize e : (performUnloadDone kiln s) = t
  unfold performUnloadDone at e
  (try dsimp only at e)
  (repeat' split at e) <;> subst e <;> (try simp only [refuse_state, accept_state]) <;> (simp (config := {maxDischargeDepth := 60}) [storesOk_mk, h, (storesOk_def s).symm.trans (eq_true h)])
@[simp] theorem storesOk_performPressHold (flag : Byte) (s : State) (h : StoresOk s) : StoresOk (performPressHold flag s).state := by simpa [storesOk_def] using h
@[simp] theorem storesOk_performBaleWeight (bale gross : Word32) (s : State) (h : StoresOk s) : StoresOk (performBaleWeight bale gross s).state := by
  generalize e : (performBaleWeight bale gross s) = t
  unfold performBaleWeight at e
  (try dsimp only at e)
  (repeat' split at e) <;> subst e <;> (try simp only [refuse_state, accept_state]) <;> (simp (config := {maxDischargeDepth := 60}) [storesOk_mk, h, (storesOk_def s).symm.trans (eq_true h)])
@[simp] theorem storesOk_performBaleRead (bale : Word32) (s : State) (h : StoresOk s) : StoresOk (performBaleRead bale s).state := by simpa [storesOk_def] using h
@[simp] theorem storesOk_performScaleRead (s : State) (h : StoresOk s) : StoresOk (performScaleRead s).state := by simpa [storesOk_def] using h
@[simp] theorem storesOk_performScaleZero (s : State) (h : StoresOk s) : StoresOk (performScaleZero s).state := by
  unfold performScaleZero
  (repeat' split) <;> try exact h
  simp only [accept_state]
  exact storesOk_updScaleOf _ _ h (fifoOk_empty _ _ rfl rfl)
@[simp] theorem storesOk_performScaleCommand (word : Byte) (s : State) (h : StoresOk s) : StoresOk (performScaleCommand word s).state := by
  unfold performScaleCommand
  split
  · exact h
  · simp only [accept_state]
    exact storesOk_updScaleOf _ _ h (fifoOk_same _ _ rfl rfl)
@[simp] theorem storesOk_nodeAnswered (s : State) (i : NodeIdx) (h : StoresOk s) : StoresOk (State.nodeAnswered s i) := by simpa [storesOk_def] using h
@[simp] theorem storesOk_reportAnswer (s : State) (i : NodeIdx) (h : StoresOk s) : StoresOk (State.reportAnswer s i) := by
  generalize e : (State.reportAnswer s i) = t
  unfold State.reportAnswer at e
  (try dsimp only at e)
  (repeat' split at e) <;> subst e <;> (try simp only [refuse_state, accept_state]) <;> (simp (config := {maxDischargeDepth := 60}) [storesOk_mk, h, (storesOk_def s).symm.trans (eq_true h)])
@[simp] theorem storesOk_holdBound (s : State) (n : Node) (reason : HoldReason) (h : StoresOk s) : StoresOk (State.holdBound s n reason) := by simpa [storesOk_def] using h
@[simp] theorem storesOk_reportLost (s : State) (n : Node) (h : StoresOk s) : StoresOk (State.reportLost s n) := by simpa [storesOk_def] using h
@[simp] theorem storesOk_nodeMissed (s : State) (i : NodeIdx) (h : StoresOk s) : StoresOk (State.nodeMissed s i) := by simpa [storesOk_def] using h
@[simp] theorem storesOk_missOn (s : State) (t : Transaction) (h : StoresOk s) : StoresOk (State.missOn s t) := by simpa [storesOk_def] using h
@[simp] theorem storesOk_forward (s : State) (f : Frame) (h : StoresOk s) : StoresOk (State.forward s f) := by simpa [storesOk_def] using h
@[simp] theorem storesOk_applyRoute (s : State) (r : Route) (i : NodeIdx) (f : Frame) (h : StoresOk s) : StoresOk (State.applyRoute s r i f) := by
  generalize e : (State.applyRoute s r i f) = t
  unfold State.applyRoute at e
  (try dsimp only at e)
  (repeat' split at e) <;> subst e <;> (try simp only [refuse_state, accept_state]) <;> (simp (config := {maxDischargeDepth := 60}) [storesOk_mk, h, (storesOk_def s).symm.trans (eq_true h)])
@[simp] theorem storesOk_jobAction (s : State) (r : Route) (x : RouteIdx) (i : NodeIdx) (f : Frame) (h : StoresOk s) : StoresOk (State.jobAction s r x i f) := by
  generalize e : (State.jobAction s r x i f) = t
  unfold State.jobAction at e
  (try dsimp only at e)
  (repeat' split at e) <;> subst e <;> (try simp only [refuse_state, accept_state]) <;> (simp (config := {maxDischargeDepth := 60}) [storesOk_mk, h, (storesOk_def s).symm.trans (eq_true h)])
@[simp] theorem storesOk_copyIf (s : State) (c : Bool) (f : Frame) (h : StoresOk s) : StoresOk (State.copyIf s c f) := by simpa [storesOk_def] using h
@[simp] theorem storesOk_classify (s : State) (i : NodeIdx) (f : Frame) (h : StoresOk s) : StoresOk (State.classify s i f) := by
  generalize e : (State.classify s i f) = t
  unfold State.classify at e
  (try dsimp only at e)
  (repeat' split at e) <;> subst e <;> (try simp only [refuse_state, accept_state]) <;> (simp (config := {maxDischargeDepth := 60}) [storesOk_mk, h, (storesOk_def s).symm.trans (eq_true h)])
@[simp] theorem storesOk_endTransaction (s : State) (h : StoresOk s) : StoresOk (State.endTransaction s) := by simpa [storesOk_def] using h
@[simp] theorem storesOk_countUnsolicited (s : State) (h : StoresOk s) : StoresOk (State.countUnsolicited s) := by simpa [storesOk_def] using h
@[simp] theorem storesOk_pollAnswered (s : State) (i : NodeIdx) (f : Frame) (h : StoresOk s) : StoresOk (State.pollAnswered s i f) := by
  generalize e : (State.pollAnswered s i f) = t
  unfold State.pollAnswered at e
  (try dsimp only at e)
  (repeat' split at e) <;> subst e <;> (try simp only [refuse_state, accept_state]) <;> (simp (config := {maxDischargeDepth := 60}) [storesOk_mk, h, (storesOk_def s).symm.trans (eq_true h)])
@[simp] theorem storesOk_reportConfirmed (s : State) (c : Commanded) (h : StoresOk s) : StoresOk (State.reportConfirmed s c) := by simpa [storesOk_def] using h
@[simp] theorem storesOk_commandAnswered (s : State) (i : NodeIdx) (code : Byte) (f : Frame) (h : StoresOk s) : StoresOk (State.commandAnswered s i code f) := by simpa [storesOk_def] using h
@[simp] theorem storesOk_blockAnswered (s : State) (i : NodeIdx) (ticket : Nat) (f : Frame) (h : StoresOk s) : StoresOk (State.blockAnswered s i ticket f) := by simpa [storesOk_def] using h
@[simp] theorem storesOk_answerBody (s : State) (t : Transaction) (i : NodeIdx) (f : Frame) (h : StoresOk s) : StoresOk (State.answerBody s t i f) := by
  generalize e : (State.answerBody s t i f) = t
  unfold State.answerBody at e
  (try dsimp only at e)
  (repeat' split at e) <;> subst e <;> (try simp only [refuse_state, accept_state]) <;> (simp (config := {maxDischargeDepth := 60}) [storesOk_mk, h, (storesOk_def s).symm.trans (eq_true h)])
@[simp] theorem storesOk_answered (s : State) (t : Transaction) (f : Frame) (h : StoresOk s) : StoresOk (State.answered s t f) := by
  generalize e : (State.answered s t f) = t
  unfold State.answered at e
  (try dsimp only at e)
  (repeat' split at e) <;> subst e <;> (try simp only [refuse_state, accept_state]) <;> (simp (config := {maxDischargeDepth := 60}) [storesOk_mk, h, (storesOk_def s).symm.trans (eq_true h)])
@[simp] theorem storesOk_expired (s : State) (t : Transaction) (h : StoresOk s) : StoresOk (State.expired s t) := by simpa [storesOk_def] using h
@[simp] theorem storesOk_afterOther (s : State) (h : StoresOk s) : StoresOk (State.afterOther s) := by simpa [storesOk_def] using h
@[simp] theorem storesOk_offerFrame (s : State) (f : Frame) (h : StoresOk s) : StoresOk (State.offerFrame s f) := by
  generalize e : (State.offerFrame s f) = t
  unfold State.offerFrame at e
  (try dsimp only at e)
  (repeat' split at e) <;> subst e <;> (try simp only [refuse_state, accept_state]) <;> (simp (config := {maxDischargeDepth := 60}) [storesOk_mk, h, (storesOk_def s).symm.trans (eq_true h)])
@[simp] theorem storesOk_fieldArrival (s : State) (chars : List Byte) (h : StoresOk s) : StoresOk (State.fieldArrival s chars) := by
  unfold State.fieldArrival
  dsimp only
  have h' : StoresAre s.table.lots s.press.bales s.scale := (storesOk_def s) ▸ h
  split
  · split <;> simp (config := {maxDischargeDepth := 60}) [storesOk_mk, h']
  · exact h
@[simp] theorem storesOk_receptionStart (s : State) (h : StoresOk s) : StoresOk (State.receptionStart s) := by simpa [storesOk_def] using h
@[simp] theorem storesOk_windowExpiry (s : State) (h : StoresOk s) : StoresOk (State.windowExpiry s) := by simpa [storesOk_def] using h
@[simp] theorem storesOk_guardEnd (s : State) (h : StoresOk s) : StoresOk (State.guardEnd s) := by simpa [storesOk_def] using h
@[simp] theorem storesOk_transmitDone (s : State) (h : StoresOk s) : StoresOk (State.transmitDone s) := by simpa [storesOk_def] using h
@[simp] theorem storesOk_openTransaction (s : State) (kind : TransactionKind) (address : Byte) (node : Option NodeIdx) (frames : List Frame) (window : Nat) (h : StoresOk s) : StoresOk (State.openTransaction s kind address node frames window) := by simpa [storesOk_def] using h
@[simp] theorem storesOk_startCommand (s : State) (c : Command) (rest : List Command) (h : StoresOk s) : StoresOk (State.startCommand s c rest) := by simpa [storesOk_def] using h
@[simp] theorem storesOk_startBlock (s : State) (ticket : Nat) (h : StoresOk s) : StoresOk (State.startBlock s ticket) := by simpa [storesOk_def] using h
@[simp] theorem storesOk_startPass (s : State) (f : Frame) (rest : List Frame) (h : StoresOk s) : StoresOk (State.startPass s f rest) := by simpa [storesOk_def] using h
@[simp] theorem storesOk_startPoll (s : State) (i : NodeIdx) (rest : List NodeIdx) (h : StoresOk s) : StoresOk (State.startPoll s i rest) := by simpa [storesOk_def] using h
@[simp] theorem storesOk_startSource (s : State) (c : FieldSource) (h : StoresOk s) : StoresOk (State.startSource s c) := by simpa [storesOk_def] using h
@[simp] theorem storesOk_startTransaction (s : State) (h : StoresOk s) : StoresOk (State.startTransaction s) := by simpa [storesOk_def] using h
@[simp] theorem storesOk_choosing (s : State) (c : Option FieldSource) (h : StoresOk s) : StoresOk (s.choosing c) := by simpa [storesOk_def] using h
@[simp] theorem storesOk_scheduleNode (c : CadenceId) (s : State) (i : NodeIdx) (h : StoresOk s) : StoresOk (State.scheduleNode c s i) := by simpa [storesOk_def] using h
@[simp] theorem storesOk_updCadence (s : State) (c : CadenceId) (f : Cadence → Cadence) (h : StoresOk s) : StoresOk (State.updCadence s c f) := by simpa [storesOk_def] using h
@[simp] theorem storesOk_cadenceExpiry (s : State) (c : CadenceId) (h : StoresOk s) : StoresOk (State.cadenceExpiry s c) := by simpa [storesOk_def] using h
@[simp] theorem storesOk_restartField (s : State) (h : StoresOk s) : StoresOk (State.restartField s) := by simpa [storesOk_def] using h
@[simp] theorem storesOk_printerWritten (s : State) (before after : Option Role) (h : StoresOk s) : StoresOk (State.printerWritten s before after) := by simpa [storesOk_def] using h
@[simp] theorem storesOk_writeNode (s : State) (i : NodeIdx) (g : NodeImage) (h : StoresOk s) : StoresOk (State.writeNode s i g) := by simpa [storesOk_def] using h
@[simp] theorem storesOk_performNodeWrite (index : Byte) (image : List Byte) (s : State) (h : StoresOk s) : StoresOk (performNodeWrite index image s).state := by simpa [storesOk_def] using h
@[simp] theorem storesOk_performRouteWrite (index : Byte) (image : List Byte) (s : State) (h : StoresOk s) : StoresOk (performRouteWrite index image s).state := by simpa [storesOk_def] using h
@[simp] theorem storesOk_performCadenceWrite (index : Byte) (image : List Byte) (s : State) (h : StoresOk s) : StoresOk (performCadenceWrite index image s).state := by simpa [storesOk_def] using h
@[simp] theorem storesOk_setKilnEntry (s : State) (k : Kiln) (e : KilnEntry) (h : StoresOk s) : StoresOk (State.setKilnEntry s k e) := by simpa [storesOk_def] using h
@[simp] theorem storesOk_performKilnWrite (index : Byte) (image : List Byte) (s : State) (h : StoresOk s) : StoresOk (performKilnWrite index image s).state := by
  generalize e : (performKilnWrite index image s) = t
  unfold performKilnWrite at e
  (try dsimp only at e)
  (repeat' split at e) <;> subst e <;> (try simp only [refuse_state, accept_state]) <;> (simp (config := {maxDischargeDepth := 60}) [storesOk_mk, h, (storesOk_def s).symm.trans (eq_true h)])
@[simp] theorem storesOk_performScheduleWrite (index : Byte) (image : List Byte) (s : State) (h : StoresOk s) : StoresOk (performScheduleWrite index image s).state := by simpa [storesOk_def] using h
@[simp] theorem storesOk_performStepWrite (index : Byte) (image : List Byte) (s : State) (h : StoresOk s) : StoresOk (performStepWrite index image s).state := by simpa [storesOk_def] using h
@[simp] theorem storesOk_performVarietyWrite (index : Byte) (image : List Byte) (s : State) (h : StoresOk s) : StoresOk (performVarietyWrite index image s).state := by simpa [storesOk_def] using h
@[simp] theorem storesOk_performTareWrite (index : Byte) (image : List Byte) (s : State) (h : StoresOk s) : StoresOk (performTareWrite index image s).state := by simpa [storesOk_def] using h
@[simp] theorem storesOk_performScaleSetupWrite (index : Byte) (image : List Byte) (s : State) (h : StoresOk s) : StoresOk (performScaleSetupWrite index image s).state := by
  unfold performScaleSetupWrite
  split
  · dsimp only
    repeat' split
    all_goals (try exact h)
    simp only [accept_state]
    apply storesOk_updScaleOf _ _ h
    rename_i n _ _ _ _ _ _ _ _ _ _ _ _ _ _ hw _
    have hn : n = 2 ∨ n = 4 ∨ n = 8 ∨ n = 16 := by
      simp at hw
      by_cases h2 : n = 2
      · exact Or.inl h2
      by_cases h4 : n = 4
      · exact Or.inr (Or.inl h4)
      by_cases h8 : n = 8
      · exact Or.inr (Or.inr (Or.inl h8))
      · exact Or.inr (Or.inr (Or.inr (hw.1.1.1.1.1 h2 h4 h8)))
    rcases hn with rfl | rfl | rfl | rfl
    all_goals exact fifoOk_withSetup _ _ (show 0 < (BitVec.toNat (w := 8) _) by decide) (show (BitVec.toNat (w := 8) _) ≤ 16 by decide)
  · exact h
@[simp] theorem storesOk_performStationWrite (index : Byte) (image : List Byte) (s : State) (h : StoresOk s) : StoresOk (performStationWrite index image s).state := by simpa [storesOk_def] using h
@[simp] theorem storesOk_performTableRead (table index part : Byte) (s : State) (h : StoresOk s) : StoresOk (performTableRead table index part s).state := by simpa [storesOk_def] using h
@[simp] theorem storesOk_performTableWrite (table index : Byte) (image : List Byte) (s : State) (h : StoresOk s) : StoresOk (performTableWrite table index image s).state := by
  generalize e : (performTableWrite table index image s) = t
  unfold performTableWrite at e
  (try dsimp only at e)
  (repeat' split at e) <;> subst e <;> (try simp only [refuse_state, accept_state]) <;> (simp (config := {maxDischargeDepth := 60}) [storesOk_mk, h, (storesOk_def s).symm.trans (eq_true h)])
@[simp] theorem storesOk_performLotOpen (lot grower : Word16) (variety : Byte) (s : State) (h : StoresOk s) : StoresOk (performLotOpen lot grower variety s).state := by
  unfold performLotOpen
  split
  · exact h
  · split
    · exact h
    · split
      · exact h
      · split
        · exact h
        · split
          · exact h
          · rename_i hn hl
            simp only [storesOk_def] at *
            obtain ⟨a,b,c,d,e⟩ := h
            have p := insertLot_perm (newLot lot.toNat grower.toNat ‹Fin 16› s.now) s.table.lots
            refine ⟨?_, ?_, c, d, e⟩
            · refine ((p.map (fun l => l.number)).nodup_iff).mpr ?_
              simp only [List.map_cons, List.nodup_cons]
              refine ⟨?_, a⟩
              intro hm
              obtain ⟨l, hl1, hl2⟩ := List.mem_map.mp hm
              have : s.lot? lot.toNat = some l := lot?_of_mem a hl1 hl2
              simp [this] at hn
            · intro l hl
              rcases List.mem_cons.mp (p.mem_iff.mp hl) with rfl | hm
              · simp [newLot]
              · exact b l hm
@[simp] theorem storesOk_performLotRead (lot : Word16) (item : Byte) (s : State) (h : StoresOk s) : StoresOk (performLotRead lot item s).state := by simpa [storesOk_def] using h
@[simp] theorem storesOk_performLotVoid (lot : Word16) (s : State) (h : StoresOk s) : StoresOk (performLotVoid lot s).state := by
  generalize e : (performLotVoid lot s) = t
  unfold performLotVoid at e
  (try dsimp only at e)
  (repeat' split at e) <;> subst e <;> (try simp only [refuse_state, accept_state]) <;> (simp (config := {maxDischargeDepth := 60}) [storesOk_mk, h, (storesOk_def s).symm.trans (eq_true h)])
@[simp] theorem storesOk_performLotClose (lot : Word16) (s : State) (h : StoresOk s) : StoresOk (performLotClose lot s).state := by
  generalize e : (performLotClose lot s) = t
  unfold performLotClose at e
  (try dsimp only at e)
  (repeat' split at e) <;> subst e <;> (try simp only [refuse_state, accept_state]) <;> (simp (config := {maxDischargeDepth := 60}) [storesOk_mk, h, (storesOk_def s).symm.trans (eq_true h)])
@[simp] theorem storesOk_clearCounts (s : State) (h : StoresOk s) : StoresOk (State.clearCounts s) := by simpa [storesOk_def] using h
@[simp] theorem storesOk_performStatus (clear page : Byte) (s : State) (h : StoresOk s) : StoresOk (performStatus clear page s).state := by simpa [storesOk_def] using h
@[simp] theorem storesOk_performTimeSet (time : Word32) (s : State) (h : StoresOk s) : StoresOk (performTimeSet time s).state := by simpa [storesOk_def] using h
@[simp] theorem storesOk_secondPassed (s : State) (h : StoresOk s) : StoresOk (State.secondPassed s) := by simpa [storesOk_def] using h
@[simp] theorem storesOk_restartStation (s : State) (h : StoresOk s) : StoresOk (State.restartStation s) := by
  unfold State.restartStation
  simp only [storesOk_def, Classifier.stationRestarted, Tickets.stationRestarted] at *
  constructor <;> simp
@[simp] theorem storesOk_performRestart (scope : Byte) (s : State) (h : StoresOk s) : StoresOk (performRestart scope s).state := by
  generalize e : (performRestart scope s) = t
  unfold performRestart at e
  (try dsimp only at e)
  (repeat' split at e) <;> subst e <;> (try simp only [refuse_state, accept_state]) <;> (simp (config := {maxDischargeDepth := 60}) [storesOk_mk, h, (storesOk_def s).symm.trans (eq_true h)])
@[simp] theorem storesOk_performRequest (r : Request) (s : State) (h : StoresOk s) : StoresOk (performRequest r s).state := by
  generalize e : (performRequest r s) = t
  unfold performRequest at e
  (try dsimp only at e)
  (repeat' split at e) <;> subst e <;> (try simp only [refuse_state, accept_state]) <;> (simp (config := {maxDischargeDepth := 60}) [storesOk_mk, h, (storesOk_def s).symm.trans (eq_true h)])
@[simp] theorem storesOk_setReply (s : State) (payload : List Byte) (h : StoresOk s) : StoresOk (State.setReply s payload) := by simpa [storesOk_def] using h
@[simp] theorem storesOk_performPayload (payload : List Byte) (s : State) (h : StoresOk s) : StoresOk (performPayload payload s).2.2.state := by
  unfold performPayload
  repeat' split
  all_goals simp [h]
@[simp] theorem storesOk_executeFrame (s : State) (f : Frame) (h : StoresOk s) : StoresOk (State.executeFrame s f) := by
  generalize e : (State.executeFrame s f) = t
  unfold State.executeFrame at e
  (try dsimp only at e)
  (repeat' split at e) <;> subst e <;> (try simp only [refuse_state, accept_state]) <;> (simp (config := {maxDischargeDepth := 60}) [storesOk_mk, h, (storesOk_def s).symm.trans (eq_true h)])
@[simp] theorem storesOk_executeHead (s : State) (h : StoresOk s) : StoresOk (State.executeHead s) := by
  generalize e : (State.executeHead s) = t
  unfold State.executeHead at e
  (try dsimp only at e)
  (repeat' split at e) <;> subst e <;> (try simp only [refuse_state, accept_state]) <;> (simp (config := {maxDischargeDepth := 60}) [storesOk_mk, h, (storesOk_def s).symm.trans (eq_true h)])
@[simp] theorem storesOk_admitRequest (s : State) (f : Frame) (h : StoresOk s) : StoresOk (State.admitRequest s f) := by
  generalize e : (State.admitRequest s f) = t
  unfold State.admitRequest at e
  (try dsimp only at e)
  (repeat' split at e) <;> subst e <;> (try simp only [refuse_state, accept_state]) <;> (simp (config := {maxDischargeDepth := 60}) [storesOk_mk, h, (storesOk_def s).symm.trans (eq_true h)])
@[simp] theorem storesOk_completeRequest (s : State) (h : StoresOk s) : StoresOk (State.completeRequest s) := by
  generalize e : (State.completeRequest s) = t
  unfold State.completeRequest at e
  (try dsimp only at e)
  (repeat' split at e) <;> subst e <;> (try simp only [refuse_state, accept_state]) <;> (simp (config := {maxDischargeDepth := 60}) [storesOk_mk, h, (storesOk_def s).symm.trans (eq_true h)])
@[simp] theorem storesOk_submit (tag : Byte) (r : Request) (s : State) (h : StoresOk s) : StoresOk (State.submit tag r s) := by
  generalize e : (State.submit tag r s) = t
  unfold State.submit at e
  (try dsimp only at e)
  (repeat' split at e) <;> subst e <;> (try simp only [refuse_state, accept_state]) <;> (simp (config := {maxDischargeDepth := 60}) [storesOk_mk, h, (storesOk_def s).symm.trans (eq_true h)])
@[simp] theorem storesOk_updLink (s : State) (f : Link → Link) (h : StoresOk s) : StoresOk (State.updLink s f) := by simpa [storesOk_def] using h
@[simp] theorem storesOk_validArrival (s : State) (h : StoresOk s) : StoresOk (State.validArrival s) := by simpa [storesOk_def] using h
@[simp] theorem storesOk_linkSilent (s : State) (h : StoresOk s) : StoresOk (State.linkSilent s) := by simpa [storesOk_def] using h
@[simp] theorem storesOk_offerPass (s : State) (f : Frame) (h : StoresOk s) : StoresOk (State.offerPass s f) := by simpa [storesOk_def] using h
@[simp] theorem storesOk_classifyUpstream (s : State) (f : Frame) (h : StoresOk s) : StoresOk (State.classifyUpstream s f) := by
  generalize e : (State.classifyUpstream s f) = t
  unfold State.classifyUpstream at e
  (try dsimp only at e)
  (repeat' split at e) <;> subst e <;> (try simp only [refuse_state, accept_state]) <;> (simp (config := {maxDischargeDepth := 60}) [storesOk_mk, h, (storesOk_def s).symm.trans (eq_true h)])
@[simp] theorem storesOk_upstreamArrival (s : State) (chars : List Byte) (h : StoresOk s) : StoresOk (State.upstreamArrival s chars) := by
  generalize e : (State.upstreamArrival s chars) = t
  unfold State.upstreamArrival at e
  (try dsimp only at e)
  (repeat' split at e) <;> subst e <;> (try simp only [refuse_state, accept_state]) <;> (simp (config := {maxDischargeDepth := 60}) [storesOk_mk, h, (storesOk_def s).symm.trans (eq_true h)])
@[simp] theorem storesOk_idleGap (s : State) (port : Port) (h : StoresOk s) : StoresOk (State.idleGap s port) := by simpa [storesOk_def] using h
@[simp] theorem storesOk_startUpstream (s : State) (t : UpTransmit) (h : StoresOk s) : StoresOk (State.startUpstream s t) := by simpa [storesOk_def] using h
@[simp] theorem storesOk_upstreamTransmit (s : State) (h : StoresOk s) : StoresOk (State.upstreamTransmit s) := by simpa [storesOk_def] using h
@[simp] theorem storesOk_replySent (s : State) (h : StoresOk s) : StoresOk (State.replySent s) := by
  generalize e : (State.replySent s) = t
  unfold State.replySent at e
  (try dsimp only at e)
  (repeat' split at e) <;> subst e <;> (try simp only [refuse_state, accept_state]) <;> (simp (config := {maxDischargeDepth := 60}) [storesOk_mk, h, (storesOk_def s).symm.trans (eq_true h)])
@[simp] theorem storesOk_segmentSent (s : State) (h : StoresOk s) : StoresOk (State.segmentSent s) := by
  generalize e : (State.segmentSent s) = t
  unfold State.segmentSent at e
  (try dsimp only at e)
  (repeat' split at e) <;> subst e <;> (try simp only [refuse_state, accept_state]) <;> (simp (config := {maxDischargeDepth := 60}) [storesOk_mk, h, (storesOk_def s).symm.trans (eq_true h)])
@[simp] theorem storesOk_upstreamFrameSent (s : State) (h : StoresOk s) : StoresOk (State.upstreamFrameSent s) := by
  generalize e : (State.upstreamFrameSent s) = t
  unfold State.upstreamFrameSent at e
  (try dsimp only at e)
  (repeat' split at e) <;> subst e <;> (try simp only [refuse_state, accept_state]) <;> (simp (config := {maxDischargeDepth := 60}) [storesOk_mk, h, (storesOk_def s).symm.trans (eq_true h)])
theorem storesOk_pend (s : State) (p) (h : StoresOk s) : StoresOk { s with pending := p } := by rw [storesOk_mk]; rw [storesOk_def] at h; exact h
theorem storesOk_started (s : State) (a b c) : StoresOk (s.started a b c) := by
  unfold State.started; rw [storesOk_mk]; constructor <;> simp [State.reset]
theorem storesOk_inactive (s : State) (p) : StoresOk (s.inactive p) := by
  unfold State.inactive; rw [storesOk_mk]; constructor <;> simp [State.reset]
theorem storesOk_powerOn (s : State) (a b c) (h : StoresOk s) : StoresOk (s.powerOn a b c) := by
  unfold State.powerOn; split
  · exact storesOk_inactive _ _
  · exact storesOk_started _ _ _ _
theorem storesOk_resetRelease (s : State) (a b c) (h : StoresOk s) : StoresOk (s.resetRelease a b c) := by
  unfold State.resetRelease; split
  · exact storesOk_started _ _ _ _
  · rw [storesOk_mk]; rw [storesOk_def] at h; exact h
theorem storesOk_powerFail (s : State) (h : StoresOk s) : StoresOk s.powerFail := storesOk_inactive _ _
theorem storesOk_resetAssert (s : State) (h : StoresOk s) : StoresOk s.resetAssert := by
  unfold State.resetAssert; rw [storesOk_mk]; rw [storesOk_def] at h; exact ⟨h.lotsOnce, h.charges, h.bales, h.samples, h.watermark⟩
theorem storesOk_ticked (s : State) (h : StoresOk s) : StoresOk s.ticked := by
  unfold State.ticked; rw [storesOk_mk]; rw [storesOk_def] at h; exact ⟨h.lotsOnce, h.charges, h.bales, h.samples, h.watermark⟩

/-- What the statements ask of the capacities. -/
theorem withinCapacity_iff (s : State) :
    s.WithinCapacity ↔ Capacity.CapacityOk s ∧ StoresOk s ∧ s.mgmt.notices.length ≤ Config.noticeCapacity := by
  rw [Capacity.capacityOk_def, storesOk_def]
  constructor
  · intro h
    exact ⟨⟨h.requests, h.passQueue, h.forwardQueue, h.tickets, h.lots, h.scaleCommands, h.history, h.passStreak,
      h.pollQueue, h.fillOrder⟩, ⟨h.lotsOnce, h.charges, h.bales, h.samples, h.watermark⟩, h.notices⟩
  · intro ⟨a, b, c⟩
    exact ⟨a.requests, a.passQueue, a.forwardQueue, c, a.tickets, a.lots, b.lotsOnce, b.charges, b.bales,
      a.scaleCommands, a.history, b.samples, b.watermark, a.passStreak, a.pollQueue, a.fillOrder⟩

end Sys2Proof.Laws.Stores
end

