-- ==== Sys2Proof/Laws/Kilns.lean ====
section
/-! SUPPORT. What two changes of one kiln record come to, and how a kiln number byte reads. -/

namespace Sys2Proof.Machine

theorem kiln_updKiln_self (s : State) (k : Kiln) (f : KilnRun → KilnRun) : (s.updKiln k f).kiln k = f (s.kiln k) := by
  rw [kiln_updKiln, if_pos rfl]

theorem updKiln_updKiln (s : State) (k : Kiln) (f g : KilnRun → KilnRun) :
    (s.updKiln k f).updKiln k g = s.updKiln k (fun r => g (f r)) := by
  simp [State.updKiln]

theorem updKiln_congr (s : State) (k : Kiln) (f g : KilnRun → KilnRun) (h : f (s.kiln k) = g (s.kiln k)) :
    s.updKiln k f = s.updKiln k g := by
  have : f s.kilns.run[k] = g s.kilns.run[k] := h
  simp only [State.updKiln, this]

theorem feedEvent_congr {f g : State → State} {s : State} (h : f s = g s) : feedEvent f s = feedEvent g s := by
  unfold feedEvent; rw [h]

theorem kilnOf_none {b : Byte} (h : 6 ≤ b.toNat) : kilnOf b = none := by simp [kilnOf]; omega

end Sys2Proof.Machine
end

