-- ==== Sys2Proof/Laws/Nodes.lean ====
section
/-! SUPPORT. What the lookups of a node find, and that a commanded write changes no lookup. -/

namespace Sys2Proof.Machine

theorem findNode_congr {s t : State} (p : Node → Bool) (h : ∀ i, p (t.node i) = p (s.node i)) :
    t.findNode p = s.findNode p := by
  unfold State.findNode
  congr 1
  funext i
  exact h i

theorem node_writeCommanded (s : State) (i : Option NodeIdx) (c : Commanded) (j : NodeIdx) :
    (s.writeCommanded i c).node j =
      if i = some j then { s.node j with commanded := some c, confirmed := false } else s.node j := by
  cases i with
  | none => simp [State.writeCommanded]
  | some i =>
    show (s.setNode i _).node j = _
    rw [node_setNode]
    by_cases h : i = j
    · subst h; simp
    · simp [h]

theorem findNode_writeCommanded (s : State) (i : Option NodeIdx) (c : Commanded) (p : Node → Bool)
    (hp : ∀ n c, p { n with commanded := c, confirmed := false } = p n) :
    (s.writeCommanded i c).findNode p = s.findNode p := by
  apply findNode_congr
  intro j
  rw [node_writeCommanded]
  split
  · exact hp _ _
  · rfl

theorem roleNode_writeCommanded (s : State) (i : Option NodeIdx) (c : Commanded) (r : Role) :
    (s.writeCommanded i c).roleNode r = s.roleNode r := findNode_writeCommanded s i c _ (fun _ _ => rfl)

theorem boundNode_writeCommanded (s : State) (i : Option NodeIdx) (c : Commanded) (r : Role) (k : Kiln) :
    (s.writeCommanded i c).boundNode r k = s.boundNode r k := findNode_writeCommanded s i c _ (fun _ _ => rfl)

theorem cadence_writeCommanded (s : State) (i : Option NodeIdx) (c : Commanded) (j : NodeIdx) :
    ((s.writeCommanded i c).node j).cadence = (s.node j).cadence := by
  rw [node_writeCommanded]; split <;> rfl

theorem nodeState_writeCommanded (s : State) (i : Option NodeIdx) (c : Commanded) (j : NodeIdx) :
    ((s.writeCommanded i c).node j).state = (s.node j).state := by
  rw [node_writeCommanded]; split <;> rfl

end Sys2Proof.Machine
end

