-- ==== Sys2Proof/Laws/Step.lean ====
section
/-! SUPPORT. What is kept by the commands and by the tick is kept by a step. -/

namespace Sys2Proof.Laws

open Sys2Proof Sys2Proof.Machine

/-- A property that does not read the queue, that every command keeps and that the tick keeps, is kept by a step. -/
theorem step_keeps (Q : State → Prop) (queue : ∀ s p, Q s → Q { s with pending := p })
    (command : ∀ i s s', Q s → exec i s = .next s' → Q s') (tick : ∀ s, Q s → Q s.ticked) :
    ∀ s s', Q s → step s = .next s' → Q s' := by
  intro s s' h e
  unfold step at e
  split at e
  · exact command _ _ _ (queue _ _ h) e
  · split at e
    · exact command _ _ _ h e
    · simp only [Host.Outcome.next.injEq] at e
      subst e
      unfold State.tick
      split
      · exact tick _ h
      · exact h

/-- A property that the four commands of the supply and the RESET pin keep, and that the effect of every other command on an
active part and the arbiter's choice at its end keep, is kept by every command. -/
theorem exec_keeps (Q : State → Prop) (powerOn : ∀ s a b c, Q s → Q (s.powerOn a b c))
    (resetAssert : ∀ s, Q s → Q s.resetAssert) (resetRelease : ∀ s a b c, Q s → Q (s.resetRelease a b c))
    (powerFail : ∀ s, Q s → Q s.powerFail) (choosing : ∀ s c, Q s → Q (s.choosing c))
    (event : ∀ (i : Instr) (f : State → State), (∀ s, exec i s = whileActive f s) → ∀ s, s.active = true → Q s → Q (f s)) :
    ∀ i s s', Q s → exec i s = .next s' → Q s' := by
  intro i s s' h e
  have active : ∀ f : State → State, (∀ s, exec i s = whileActive f s) → Q s' := by
    intro f hf
    rw [hf s] at e
    simp only [whileActive, Host.Outcome.next.injEq] at e
    subst e
    split
    · exact choosing _ _ (event i f hf s (by assumption) h)
    · exact h
  cases i <;> first
    | (simp only [exec, execPowerOn, Host.Outcome.next.injEq] at e; subst e; exact powerOn _ _ _ _ h)
    | (simp only [exec, execResetPinAssert, Host.Outcome.next.injEq] at e; subst e; exact resetAssert _ h)
    | (simp only [exec, execResetPinRelease, Host.Outcome.next.injEq] at e; subst e; exact resetRelease _ _ _ _ h)
    | (simp only [exec, execPowerFail, Host.Outcome.next.injEq] at e; subst e; exact powerFail _ h)
    | exact active _ (fun s => rfl)

end Sys2Proof.Laws
end

