-- ==== Sys2Proof/WellFormed.lean ====
section
/-! DEFINITION. Which commands can be given: the bounds that the operand types do not already hold. -/

namespace Sys2Proof

/-- A reception holds at least the character it begins with and ends at its 55th (R161). -/
def receptionWellFormed (chars : List Byte) : Bool :=
  1 ≤ chars.length && chars.length ≤ Config.overlong

/-- A table image rides in a payload of at most 48 bytes behind kind, tag, table and index (11.3). -/
def imageWellFormed (image : List Byte) : Bool := image.length ≤ Config.maxPayload - 4

/-- A kiln list rides in a payload behind kind, tag and count (11.3). -/
def kilnListWellFormed (kilns : List Byte) : Bool := kilns.length ≤ Config.maxPayload - 3

/-- The check of a command. Whatever else its operands hold, the part can be given it. -/
def Instr.wellFormed : Instr → Bool
  | .powerOn _ _ _ => true
  | .resetPinAssert => true
  | .resetPinRelease _ _ _ => true
  | .upstreamArrival chars => receptionWellFormed chars
  | .linkSilent => true
  | .upstreamTransmit => true
  | .upstreamFrameSent => true
  | .timeSecond => true
  | .fieldTransactionStart => true
  | .fieldTransmitDone => true
  | .fieldReceptionStart => true
  | .fieldArrival chars => receptionWellFormed chars
  | .transactionWindowExpiry => true
  | .broadcastGuardEnd => true
  | .cadenceExpiry _ => true
  | .changeoverTimerExpiry => true
  | .divertWatchExpiry => true
  | .stepEnd _ => true
  | .rampMinute _ => true
  | .dryToOvertime _ => true
  | .abortCoolingEnd _ => true
  | .refreshTimerExpiry _ => true
  | .converterFrameStart => true
  | .converterFrameComplete _ _ => true
  | .converterFrameTorn => true
  | .settleTimeout => true
  | .converterWatchExpiry => true
  | .status _ _ _ => true
  | .tableRead _ _ _ _ => true
  | .nodeWrite _ _ image => imageWellFormed image
  | .routeWrite _ _ image => imageWellFormed image
  | .cadenceWrite _ _ image => imageWellFormed image
  | .kilnWrite _ _ image => imageWellFormed image
  | .scheduleWrite _ _ image => imageWellFormed image
  | .stepWrite _ _ image => imageWellFormed image
  | .varietyWrite _ _ image => imageWellFormed image
  | .tareWrite _ _ image => imageWellFormed image
  | .scaleSetupWrite _ _ image => imageWellFormed image
  | .stationWrite _ _ image => imageWellFormed image
  | .timeSet _ _ => true
  | .restartField _ => true
  | .restartStation _ => true
  | .lotOpen _ _ _ _ => true
  | .lotRead _ _ _ => true
  | .lotVoid _ _ => true
  | .lotClose _ _ => true
  | .lotFeed _ _ => true
  | .feedHold _ _ => true
  | .fillOrder _ _ kilns => kilnListWellFormed kilns
  | .loadClose _ => true
  | .kilnStart _ _ => true
  | .kilnHold _ _ => true
  | .kilnResume _ _ _ => true
  | .kilnAbort _ _ => true
  | .kilnRead _ _ => true
  | .scaleRead _ => true
  | .scaleZero _ => true
  | .scaleCommand _ _ => true
  | .baleRead _ _ => true
  | .baleWeight _ _ _ => true
  | .unloadDone _ _ => true
  | .pressHold _ _ => true
  | .ticketBase _ _ _ => true
  | .ticketRead _ _ => true
  | .ticketTake _ _ => true
  | .ticketReprint _ _ => true
  | .powerFail => true
  | .overlongIdleGap _ => true

end Sys2Proof
end

