-- ==== Sys2Proof/Tests/Slice0.lean ====
section
/-! SUPPORT. Tests: what the well-formedness check refuses, one-step checks on a small state, and for every statement with
hypotheses a state and operands that meet them, clause by clause. -/

namespace Sys2Proof.Tests

set_option linter.all false
set_option Elab.async false

open Sys2Proof Sys2Proof.Machine

/-! ## The small state -/

/-- An ONLINE node. -/
def nodeOf (a : Byte) (r : Role) (b : Option Kiln) (c : Option CadenceId) : Node :=
  { address := a, role := some r, binding := b, cadence := c, window := 5, missLimit := 3, state := .online }

/-- A charge. -/
def chargeOf (k : Kiln) (state : ChargeState) (green : Nat) : Charge :=
  { kiln := k, state := state, green := green, fillStart := 0, fillEnd := none, dried := none, short := false
    aborted := false, held := false, overtime := false, bales := 0, net := 0, partTickets := 0, finalTicket := none }

/-- A lot that balances. -/
def lotOf (n : Nat) (state : LotState) (cs : List Charge) : Lot :=
  { number := n, grower := 1, variety := 0, state := state, openTime := 0, charges := cs
    greenTotal := (cs.map (fun c => c.green)).sum, spill := 0, baleCount := 0, netTotal := 0, releasedBales := 0
    releasedNet := 0, ticketsIssued := 0, ticketsTaken := 0 }

/-- A bale of charge 4 of lot 5. -/
def baleOf (n : Nat) (status : BaleStatus) : Bale :=
  { number := n, lot := 5, index := 4, kiln := 5, status := status, gross := none, tareCode := some 0, tare := 0
    net := if status = .weighed then some 500 else none, moisture := none, time := 0, manual := false, low := false
    high := false, wet := false, ticket := none }

/-- A ticket of charge 4 of lot 5. -/
def ticketOf (n : Nat) (print : PrintState) : Ticket :=
  { number := n, lot := 5, grower := 1, variety := 0, kiln := 5, index := 4, part := 0, final := false, green := 0
    lines := [], totalNet := 0, yield := none, short := false, aborted := false, held := false, overtime := false
    manual := false, tolerance := false, wet := false, issued := 0, print := print }

/-- A notice. -/
def noticeOf (k : NoticeKind) (o : Nat) : Notice :=
  { kind := k, object := o, value := none, first := 0, last := 0, count := 1, sending := false, renewals := 0
    renewalTime := 0 }

/-- A route for every source. -/
def routeOf (code : Byte) (action : RouteAction) : Route :=
  { used := true, source := 0, code := code, action := action, offset := 0, width := 4 }

/-- A frame to the own address of strap 0. -/
def toSelf (code : Byte) : Frame := mkFrame 0xE0 0 code []

/-- The part at work: lot 5 is fed to kiln K1, K2 is LOADED, K3 DRYING, K4 on HOLD, K5 at the press; lot 7 is open and
lot 9 finished. -/
def rig : State :=
  { State.reset with
    link := { live := true }
    field := { State.reset.field with
      nodes := Vector.ofFn (fun i => [
        { nodeOf 0x10 .belt none (some 0) with baseline := true, lastTotalizer := 100 },
        { nodeOf 0x11 .picker none (some 1) with commanded := some (.feed .run) },
        { nodeOf 0x12 .diverter none (some 1) with commanded := some (.divert (some 1)) },
        { nodeOf 0x13 .press none none with commanded := some (.press .run) },
        nodeOf 0x14 .probe (some 3) (some 0), nodeOf 0x15 .burner (some 3) (some 1),
        nodeOf 0x16 .probe (some 2) none, nodeOf 0x17 .burner (some 2) none, nodeOf 0x18 .printer none (some 0),
        nodeOf 0x19 .probe (some 4) none, nodeOf 0x1A .burner (some 4) none].getD i.val {})
      cadences := State.reset.field.cadences.set 1 { enabled := true, period := 20, countdown := 20 } }
    table := {
      lots := [
        { lotOf 5 .feeding [chargeOf 1 .filling 100, chargeOf 2 .kilning 200, chargeOf 3 .kilning 300,
            chargeOf 4 .kilning 400, { chargeOf 5 .pressing 500 with bales := 3, net := 500 }] with
          baleCount := 3, netTotal := 500, ticketsIssued := 2 },
        lotOf 7 .opened [], lotOf 9 .finished [chargeOf 0 .ticketed 50]]
      varieties := State.reset.table.varieties.set 0 { valid := true, endHumidity := 500, qualify := 2, targetMin := 400
                                                       targetMax := 600, maxMoisture := 120 } }
    feed := { feedLot := some 5, beltLot := some 5, hold := { stopped := false }, picker := .run, fillOrder := [1, 0]
              loading := some 1, divertConfirmed := true }
    kilns := {
      entries := Vector.replicate 6 { capacity := 1000, minLoad := 50 }
      run := #v[{}, { state := .loading, charge := some { lot := 5, index := 0 } },
        { state := .loaded, charge := some { lot := 5, index := 1 } },
        { state := .drying, charge := some { lot := 5, index := 2 }, schedule := some 0, setpoint := 400
          refresh := some 300 },
        { state := .hold, charge := some { lot := 5, index := 3 }, schedule := some 0, hold := { operator := true }
          refresh := some 300 },
        { state := .unloading, charge := some { lot := 5, index := 4 } }]
      schedules := State.reset.kilns.schedules.set 0 { first := 0, count := 5, startTemp := 400, abortCoolMinutes := 5 }
      steps := Vector.ofFn (fun i => [
        { kind := .ramp, duration := 10, target := 500, limit := 600 },
        { kind := .soak, duration := 10, target := 500, limit := 600 },
        { kind := .dryTo, duration := 10, target := 500, limit := 600 }, { kind := .cool, duration := 10 }].getD i.val {}) }
    scale := { State.reset.scale with setup := { span := 1000 }, state := .idle }
    press := { queue := [5], bales := [baleOf 97 .weighed, baleOf 98 .awaitingWeight, baleOf 99 .weighing]
               cycle := .bale 99, command := some .run }
    tickets := { baseSet := true, nextTicket := 10, lastTicket := some 9, nextBale := 100, lastBale := some 99
                 queue := [ticketOf 8 .printed, ticketOf 9 .unprinted] }
    mgmt := { State.reset.mgmt with time := 1000, timeSet := true } }

/-- The part at work, kiln K3 in another step. -/
def rigStep (i : Nat) : State := rig.updKiln 3 (fun r => { r with stepIndex := i })

/-- The part at work, cooling K3. -/
def rigCooling (i : Nat) (aborted : Bool) : State :=
  rig.updKiln 3 (fun r => { r with state := .cooling, stepIndex := i, aborted := aborted })

/-- The part at work with another Scale Engine. -/
def rigScale (f : Scale → Scale) : State := { rig with scale := f rig.scale }

/-- The part at work with another Feed and Loading Unit. -/
def rigFeed (f : Feed → Feed) : State := { rig with feed := f rig.feed }

/-- The part at work with another Press Unit. -/
def rigPress (f : Press → Press) : State := { rig with press := f rig.press }

/-- The part at work with another Ticket Unit. -/
def rigTickets (f : Tickets → Tickets) : State := { rig with tickets := f rig.tickets }

/-- The part at work with another Field Master. -/
def rigField (f : FieldMaster → FieldMaster) : State := { rig with field := f rig.field }

/-- The part at work with another Frame Classifier. -/
def rigClass (f : Classifier → Classifier) : State := { rig with classifier := f rig.classifier }

/-- The part at work with another link. -/
def rigLink (f : Link → Link) : State := { rig with link := f rig.link }

/-- The part at work with another Management Unit. -/
def rigMgmt (f : Management → Management) : State := { rig with mgmt := f rig.mgmt }

theorem test_small_state_is_active_and_ready : rig.Ready := by decide +kernel

/-! ## The check of a command -/

theorem test_empty_reception_refused :
    (Instr.upstreamArrival []).wellFormed = false ∧ (Instr.fieldArrival []).wellFormed = false := by decide +kernel

theorem test_reception_of_56_refused :
    (Instr.upstreamArrival (List.replicate 56 0)).wellFormed = false ∧
    (Instr.fieldArrival (List.replicate 56 0)).wellFormed = false ∧
    (Instr.upstreamArrival (List.replicate 55 0)).wellFormed = true ∧
    (Instr.fieldArrival (List.replicate 55 0)).wellFormed = true := by decide +kernel

theorem test_image_of_45_refused :
    (∀ w ∈ [Instr.nodeWrite, Instr.routeWrite, Instr.cadenceWrite, Instr.kilnWrite, Instr.scheduleWrite, Instr.stepWrite,
      Instr.varietyWrite, Instr.tareWrite, Instr.scaleSetupWrite, Instr.stationWrite],
      (w 0 0 (List.replicate 45 0)).wellFormed = false ∧ (w 0 0 (List.replicate 44 0)).wellFormed = true) := by decide +kernel

theorem test_kiln_list_of_46_refused :
    (Instr.fillOrder 0 46 (List.replicate 46 0)).wellFormed = false ∧
    (Instr.fillOrder 0 45 (List.replicate 45 0)).wellFormed = true := by decide +kernel

theorem test_no_table_word_spells_a_command (n w : Nat) : decodeTableWord n w = none := rfl

theorem test_withFetchWord_changes_nothing (n w : Nat) : rig.withFetchWord n w = rig := rfl

/-! ## States and operands that meet the hypotheses: the machine as a whole and the ports -/

theorem witness_StepRunsTheFrontCommand :
    ({ rig with pending := [.loadClose 0] } : State).pending = .loadClose 0 :: [] := rfl

/-- A due second; an inactive part; no event due, with a kiln that counts at the last tenth of its second, one on hold, and one
in no run. -/
theorem witness_StepOnAnEmptyQueue :
    (rigMgmt (fun m => { m with ticks := 10 })).pending = [] ∧
    (rigMgmt (fun m => { m with ticks := 10 })).ownEvent = some .timeSecond ∧
    ({ State.reset with power := { powered := false } } : State).ownEvent = none ∧
    ({ State.reset with power := { powered := false } } : State).active = false ∧
    rig.pending = [] ∧ rig.ownEvent = none ∧ rig.active = true ∧
    ((rig.updKiln 3 (fun r => { r with stepFraction := 9, totalFraction := 9, totalElapsed := 4294967295 })).ownEvent = none ∧
      (true = true ↔ (rig.kiln 3).state = .drying ∨ (rig.kiln 3).state = .cooling) ∧
      (true = true ↔ (rig.kiln 3).state = .drying ∨ (rig.kiln 3).state = .cooling ∨ (rig.kiln 3).state = .hold)) ∧
    ((false = true ↔ (rig.kiln 4).state = .drying ∨ (rig.kiln 4).state = .cooling) ∧
      (true = true ↔ (rig.kiln 4).state = .drying ∨ (rig.kiln 4).state = .cooling ∨ (rig.kiln 4).state = .hold)) ∧
    ((false = true ↔ (rig.kiln 0).state = .drying ∨ (rig.kiln 0).state = .cooling) ∧
      (false = true ↔ (rig.kiln 0).state = .drying ∨ (rig.kiln 0).state = .cooling ∨ (rig.kiln 0).state = .hold)) := by
  decide +kernel

/-- The three truths and the abort minutes that stand before the list of the own events, for the small state. -/
theorem witness_StepOnAnEmptyQueue_conditions :
    rig.active = true ∧
    (false = true ↔ rig.classifier.sending = none ∧ (rig.classifier.reply ≠ none ∨
      (∃ b, rig.classifier.block = some b ∧ b.inProgress = true ∧ b.frames ≠ []) ∨
      (rig.link.live = true ∧ rig.mgmt.notices ≠ []) ∨ rig.classifier.forwardQueue ≠ [])) ∧
    (false = true ↔ rig.field.transaction = none ∧ rig.link.driver = false ∧ rig.link.fpReceiving = false ∧
      (rig.field.commandQueue ≠ [] ∨ rig.field.printRequest ≠ none ∨ rig.classifier.passQueue ≠ [] ∨
        rig.field.pollQueue ≠ [])) ∧
    (false = true ↔ ∃ p, rig.feed.changeover = .draining p) ∧
    (∀ k d, (rig.kiln k).schedule = some d → rig.abortMinutes k = rig.kilns.schedules[d].abortCoolMinutes) ∧
    (∀ k, (rig.kiln k).schedule = none → rig.abortMinutes k = 0) := by
  refine ⟨by decide +kernel, ?_, by decide +kernel, ?_, ?_, ?_⟩
  · refine ⟨fun h => absurd h (by decide), ?_⟩
    rintro ⟨_, h | ⟨_, h, _⟩ | h | h⟩
    · exact absurd rfl h
    · cases h
    · exact absurd rfl h.2
    · exact absurd rfl h
  · refine ⟨fun h => absurd h (by decide), ?_⟩
    rintro ⟨_, h⟩
    cases h
  · intro k d h
    simp [State.abortMinutes, h]
  · intro k h
    simp [State.abortMinutes, h]

/-- For each own event a state in which it is the first that is due, at the least value that makes it so, and the state with one
less for the counts. -/
theorem witness_StepOnAnEmptyQueue_events :
    (rigClass (fun c => { c with reply := some (toSelf 1) })).ownEvent = some .upstreamTransmit ∧
    (rigField (fun f => { f with pollQueue := [0] })).ownEvent = some .fieldTransactionStart ∧
    (∀ n, n = 50 ∨ n = 49 → (rigLink (fun l => { l with silence := n })).ownEvent = if n = 50 then some .linkSilent else none) ∧
    (rigField (fun f => { f with cadences := f.cadences.set 1 { enabled := true, period := 20, countdown := 0 } })).ownEvent
      = some (.cadenceExpiry 1) ∧
    (rigFeed (fun f => { f with changeover := .draining none, timer := 0 })).ownEvent = some .changeoverTimerExpiry ∧
    (rigFeed (fun f => { f with divertWatch := some 0, hold := { divert := true } })).ownEvent = some .divertWatchExpiry ∧
    (∀ n ∈ [59, 60], (rig.updKiln 3 (fun r => { r with stepElapsed := n })).ownEvent
      = if n = 60 then some (.rampMinute 3) else none) ∧
    (∀ n ∈ [599, 600], ((rigStep 1).updKiln 3 (fun r => { r with stepElapsed := n })).ownEvent
      = if n = 600 then some (.stepEnd 3) else none) ∧
    (∀ n ∈ [599, 600], ((rigStep 2).updKiln 3 (fun r => { r with stepElapsed := n })).ownEvent
      = if n = 600 then some (.dryToOvertime 3) else none) ∧
    (∀ n ∈ [299, 300], ((rigCooling 3 true).updKiln 3 (fun r => { r with stepElapsed := n })).ownEvent
      = if n = 300 then some (.abortCoolingEnd 3) else none) ∧
    (rig.updKiln 3 (fun r => { r with refresh := some 0 })).ownEvent = some (.refreshTimerExpiry 3) ∧
    (rigScale (fun c => { c with state := .settling, settle := some 0 })).ownEvent = some .settleTimeout ∧
    (rigScale (fun c => { c with watch := 0 })).ownEvent = some .converterWatchExpiry := by
  refine ⟨by decide +kernel, by decide +kernel, ?_, by decide +kernel, ?_⟩
  · rintro n (rfl | rfl) <;> decide +kernel
  · decide +kernel

theorem witness_PowerAndResetPin :
    ({ State.reset with power := { powered := false } } : State).power.resetAsserted = false ∧
    ({ State.reset with power := { powered := false, resetAsserted := true } } : State).power.resetAsserted = true ∧
    ({ rig with power := { resetAsserted := true } } : State).power.powered = true ∧
    ({ State.reset with power := { powered := false, resetAsserted := true } } : State).power.powered = false ∧
    ({ rig with power := { resetAsserted := true } } : State).active = false ∧
    isPowerCommand (.loadClose 0) = false := by decide +kernel

theorem witness_CheckWordRule :
    (0xFFFF : Word16).getLsbD 15 ≠ false ∧ (0x7FFF : Word16).getLsbD 15 ≠ true ∧
    (0xFFFF : Word16).getLsbD 15 = true ∧ (0x7FFF : Word16).getLsbD 15 = false := by decide +kernel

theorem witness_JudgementOrder :
    ([] : List Byte).length < 4 ∧ ([0, 0, 0] : List Byte).length < 4 ∧
    48 < (0x31 : Byte).toNat ∧ 48 < (0xFF : Byte).toNat ∧
    ((0x30 : Byte).toNat ≤ 48 ∧ (List.replicate 49 (0 : Byte)).length < (0x30 : Byte).toNat + 2) ∧
    ((0x00 : Byte).toNat ≤ 48 ∧ ([0] : List Byte).length < (0x00 : Byte).toNat + 2) ∧
    ((0x00 : Byte).toNat ≤ 48 ∧ (0x00 : Byte).toNat + 2 < ([0, 0, 0] : List Byte).length) ∧
    ((0x30 : Byte).toNat ≤ 48 ∧ (0x30 : Byte).toNat + 2 < (List.replicate 51 (0 : Byte)).length) ∧
    ((List.replicate 48 (0 : Byte)).length = (0x30 : Byte).toNat ∧
      crc (0 :: 0 :: 0 :: 0x30 :: List.replicate 48 0) ≠ (0x00 : Byte) ++ (0x00 : Byte)) ∧
    (([] : List Byte).length = (0x00 : Byte).toNat ∧ crc [0xE0, 0x00, 0x60, 0x00] ≠ (0x00 : Byte) ++ (0x00 : Byte)) ∧
    (([] : List Byte).length = (0x00 : Byte).toNat ∧ crc [0xE0, 0x00, 0x60, 0x00]
      = ((crc [0xE0, 0x00, 0x60, 0x00]).extractLsb 15 8 : Byte) ++ ((crc [0xE0, 0x00, 0x60, 0x00]).extractLsb 7 0 : Byte)) := by
  decide +kernel

/-- A torn, an over-long and a damaged reception, on each port, and a closed receiver. -/
theorem witness_DamagedReceptionOnlyCounts :
    rig.active = true ∧ rig.link.upOverlong = false ∧ rig.link.fpOverlong = false ∧ rig.link.driver = false ∧
    rig.feed.picker = rig.pickerWanted ∧ (∀ t ∈ rig.field.transaction, t.waitRunOut = false) ∧
    (judge [0] = .torn ∧ ([0] : List Byte) ≠ []) ∧
    (judge (0 :: 0 :: 0 :: 0x30 :: List.replicate 51 0) = .badLength ∧
      (0 :: 0 :: 0 :: 0x30 :: List.replicate 51 (0 : Byte)).length = 55) ∧
    judge [0, 0, 0, 0, 0, 0] = .badCheck ∧
    (rigLink (fun l => { l with upOverlong := true })).link.upOverlong = true ∧
    (rigLink (fun l => { l with fpOverlong := true })).link.fpOverlong = true ∧
    (rigLink (fun l => { l with driver := true })).link.driver = true := by decide +kernel

/-- Frames for no one, to the first and the last such address, on a live and on a silent port; and a count at its limit. -/
theorem witness_LinkLiveness :
    rig.active = true ∧ rig.link.upOverlong = false ∧ rig.link.live = true ∧ State.reset.link.live = false ∧
    State.reset.link.upOverlong = false ∧ State.reset.active = true ∧ rig.ownAddress = 0xE0 ∧ State.reset.ownAddress = 0xE0 ∧
    (∀ d ∈ [(0xE1 : Byte), 0xFE], judge (mkFrame d 0 0x61 []).bytes = .valid (mkFrame d 0 0x61 []) ∧
      (mkFrame d 0 0x61 []).bytes.length ≤ 54 ∧ 0xE0 ≤ d.toNat ∧ d ≠ 0xFF ∧ d ≠ 0xE0) ∧
    (judge (mkFrame 0xE0 0 0x61 []).bytes = .valid (mkFrame 0xE0 0 0x61 []) ∧
      (0xE0 : Byte) ≠ (rigLink (fun l => { l with addr := 15 })).ownAddress) ∧
    (rigLink (fun l => { l with silence := 50 })).link.live = true ∧
    (rigLink (fun l => { l with silence := 50 })).link.silence = 50 := by decide +kernel

/-- The frames of the clauses are valid arrivals that no over-long reception carries. -/
theorem witness_UpstreamClassification_arrivals :
    rig.active = true ∧ rig.link.upOverlong = false ∧ rig.ownAddress = 0xE0 ∧ codeRequest = 0x60 ∧
    (∀ d ∈ [(0xE0 : Byte), 0x00, 0x01, 0x11, 0xDF, 0xE1, 0xFE, 0xFF], ∀ c ∈ [(0x60 : Byte), 0x61, 0x44, 0x70],
      (mkFrame d 0 c []).bytes.length ≤ 54 ∧ judge (mkFrame d 0 c []).bytes = .valid (mkFrame d 0 c [])) := by
  decide +kernel

/-- A request finding 4, 1 and 3 waiting; passes owned and not, to the ends of the address range and to all, with 7 and 8
queued. -/
theorem witness_UpstreamClassification_states :
    (∀ n ∈ [1, 3, 4], (rigClass (fun c => { c with requests := List.replicate n (toSelf 0x60) })).classifier.requests.length
      = n) ∧
    rig.passOwned (mkFrame 0x11 0 0x44 []) = true ∧ rig.passOwned (mkFrame 0xFF 0 0x44 []) = true ∧
    rig.passOwned (mkFrame 0x01 0 0x70 []) = false ∧ rig.passOwned (mkFrame 0xDF 0 0x70 []) = false ∧
    rig.passOwned (mkFrame 0xFF 0 0x70 []) = false ∧
    (∀ n ∈ [7, 8],
      (rigClass (fun c => { c with passQueue := List.replicate n (toSelf 0x70) })).passOwned (mkFrame 0x01 0 0x70 []) = false ∧
      (rigClass (fun c => { c with passQueue := List.replicate n (toSelf 0x70) })).classifier.passQueue.length = n) := by
  decide +kernel

/-- For each source a state in which it is the first that has a frame. -/
theorem witness_UpstreamTransmitOrder :
    rig.active = true ∧
    (rigClass (fun c => { c with sending := some { source := .reply, frame := toSelf 1 } })).classifier.sending
      = some { source := .reply, frame := toSelf 1 } ∧
    ((rigClass (fun c => { c with reply := some (toSelf 1) })).classifier.sending = none ∧
      (rigClass (fun c => { c with reply := some (toSelf 1) })).classifier.reply = some (toSelf 1)) ∧
    ((rigClass (fun c => { c with block := some { frames := [toSelf 1], inProgress := true } })).classifier.reply = none ∧
      (rigClass (fun c => { c with block := some { frames := [toSelf 1], inProgress := true } })).classifier.block
        = some { frames := toSelf 1 :: [], inProgress := true }) ∧
    (rig.classifier.sending = none ∧ rig.classifier.reply = none ∧
      (∀ b ∈ rig.classifier.block, b.inProgress = false ∨ b.frames = []) ∧
      (rigMgmt (fun m => { m with notices := [noticeOf .spill 5] })).link.live = true ∧
      (rigMgmt (fun m => { m with notices := [noticeOf .spill 5] })).mgmt.notices = noticeOf .spill 5 :: []) ∧
    ((rigClass (fun c => { c with forwardQueue := [toSelf 1] })).mgmt.notices = [] ∧
      (rigClass (fun c => { c with forwardQueue := [toSelf 1] })).classifier.forwardQueue = toSelf 1 :: []) ∧
    ((rigLink (fun l => { l with live := false })).link.live = false ∧
      (rigLink (fun l => { l with live := false })).classifier.forwardQueue = []) ∧
    (rig.mgmt.notices = [] ∧ rig.classifier.forwardQueue = []) := by decide +kernel

theorem witness_UpstreamFrameSent :
    (performPayload (toSelf 0x60).payload rig).1 = 0 ∧ rig.active = true ∧ rig.classifier.sending = none ∧
    (∀ rs ∈ [[toSelf 0x60], [toSelf 0x60, toSelf 0x60]],
      (rigClass (fun c => { c with requests := rs, sending := some { source := .reply, frame := toSelf 1 } })).classifier.block
        = none ∧
      (rigClass (fun c => { c with requests := rs, sending := some { source := .reply, frame := toSelf 1 } })).classifier.sending
        = some { source := .reply, frame := toSelf 1 } ∧
      (rigClass (fun c => { c with requests := rs, sending := some { source := .reply, frame := toSelf 1 } })).classifier.requests
        = rs) ∧
    (∀ source ∈ [UpSource.reply, .segment], ∀ fs ∈ [[toSelf 1], [toSelf 1, toSelf 2]],
      ∀ rs ∈ [[toSelf 0x60], [toSelf 0x60, toSelf 0x60]],
      (rigClass (fun c => { c with
        requests := rs, sending := some { source := source, frame := toSelf 1 }
        block := some { frames := fs, inProgress := true } })).classifier.requests = rs ∧
      (rigClass (fun c => { c with
        requests := rs, sending := some { source := source, frame := toSelf 1 }
        block := some { frames := fs, inProgress := true } })).classifier.sending
          = some { source := source, frame := toSelf 1 } ∧
      (rigClass (fun c => { c with
        requests := rs, sending := some { source := source, frame := toSelf 1 }
        block := some { frames := fs, inProgress := true } })).classifier.block = some { frames := fs, inProgress := true }) ∧
    (∀ r ∈ [0, 1],
      ({ rigMgmt (fun m => { m with notices := [{ noticeOf .spill 5 with renewals := r }] }) with
        classifier := { sending := some { source := .notice, frame := toSelf 1 } } } : State).mgmt.notices
          = { noticeOf .spill 5 with renewals := r } :: []) ∧
    (rigClass (fun c => { c with sending := some { source := .forward, frame := toSelf 1 } })).classifier.sending
      = some { source := .forward, frame := toSelf 1 } := by decide +kernel

theorem witness_StationTime : rig.active = true ∧ rig.Ready := by decide +kernel

/-! ## Requests -/

/-- The ends of every range that a field's bytes have a hypothesis on. -/
theorem witness_FieldCodes :
    ((-8388608 : Int) ≤ -8388608 ∧ (8388607 : Int) ≤ 8388607 ∧ (-8388609 : Int) < -8388608 ∧ (8388607 : Int) < 8388608) ∧
    (65535 ≤ 65535 ∧ (-32768 : Int) ≤ 32767 ∧ 4294967295 ≤ 4294967295 ∧ (-2147483648 : Int) ≤ 2147483647) ∧
    (4294967281 ≠ 0 ∧ 2 < 3) := by decide

/-- A weight at an absent code, and its neighbours, in the bytes sent. -/
theorem test_field_bytes :
    optI32 (some 0x7FFFFFFF) = [0x7F, 0xFF, 0xFF, 0xFE] ∧ optI32 (some 0x7FFFFFFE) = [0x7F, 0xFF, 0xFF, 0xFE] ∧
    optI16 (some (-1)) = [0xFF, 0xFF] ∧ be16 0x1234 = [0x12, 0x34] ∧ int32 (-2) = [0xFF, 0xFF, 0xFF, 0xFE] := by decide

theorem witness_RequestDecodesAsEncoded :
    Request.payload (.loadClose) 7 = Request.payload (.loadClose) 7 ∧
    Request.payload (.ticketBase 0xFFFFFFF0 1) 0xFF = Request.payload (.ticketBase 0xFFFFFFF0 1) 0xFF := ⟨rfl, rfl⟩

/-- Kinds at the ends and in the gaps of 11.3; lengths one short and one long; a first reserved byte of each table's image. -/
theorem witness_MalformedRequestIsRefusedFormat :
    (∀ k ∈ [(0x00 : Byte), 0x06, 0x0F, 0x14, 0x3C, 0xFF], ∀ r : Request, r.kind ≠ k) ∧
    (∀ (t i : Byte) (im : List Byte), Request.loadClose ≠ .tableWrite t i im) ∧
    (∀ (c : Byte) (ks : List Byte), Request.loadClose ≠ .fillOrder c ks) ∧
    ([0] : List Byte).length ≠ (Request.loadClose).args.length ∧
    ([] : List Byte).length ≠ (Request.feedHold 0).args.length ∧
    ([0, 0] : List Byte).length ≠ (Request.feedHold 0).args.length ∧
    ([0] : List Byte).length < 2 ∧
    ([0] : List Byte).length ≠ (0 : Byte).toNat ∧ ([0, 1] : List Byte).length ≠ (1 : Byte).toNat ∧
    9 < (10 : Byte).toNat ∧
    (∀ t ∈ List.range 10, ∃ n, [8, 8, 4, 12, 8, 10, 18, 4, 20, 8][t]? = some n ∧
      (List.replicate (n + 1) (0 : Byte)).length ≠ n ∧ (List.replicate (n - 1) (0 : Byte)).length ≠ n ∧
      (List.replicate n (1 : Byte)).length = n) ∧
    (∀ t ∈ [0, 1, 2, 3, 4, 5, 6, 7, 9],
      ∃ reserved, [[6, 7], [7], [1], [10, 11], [7], [1, 9], [5, 16, 17], [2, 3], [], [6, 7]][t]? = some reserved ∧
        ∃ i ∈ reserved, (List.replicate 20 (1 : Byte))[i]? = some 1 ∧ (1 : Byte) ≠ 0) ∧
    (List.replicate 7 (0 : Byte)).length = 7 ∧ 8 ≤ (8 : Byte).toNat := by
  and_intros
  any_goals decide +kernel
  · intro k hk r
    fin_cases hk <;> cases r <;> simp [Request.kind]
  · simp
  · simp

/-- A request to an empty buffer, to one that holds 1, 3 and 4, and one that is refused. -/
theorem witness_RequestBufferAdmission :
    ((performRequest (.lotVoid 6) rig).result ≠ .ok ∧ requestOf (.lotVoid 1 6) = some (1, .lotVoid 6) ∧ rig.Ready ∧
      (performRequest (.lotVoid 6) (rig.admitted 1 (.lotVoid 6))).result ≠ .ok) ∧
    requestOf (.feedHold 1 1) = some (1, .feedHold 1) ∧ rig.active = true ∧ rig.classifier.requests = [] ∧
    (∀ n ∈ [1, 3, 4], (rigClass (fun c => { c with requests := List.replicate n (toSelf 0x60) })).active = true ∧
      (rigClass (fun c => { c with requests := List.replicate n (toSelf 0x60) })).classifier.requests.length = n) := by
  decide +kernel

/-- The longest payload, and the longest request, that fit a frame. -/
theorem witness_RequestOverTheWire :
    (List.replicate 48 (0xFF : Byte)).length ≤ 48 ∧
    requestOf (.nodeWrite 1 0 (List.replicate 44 0)) = some (1, .tableWrite 0 0 (List.replicate 44 0)) ∧
    (Request.tableWrite 0 0 (List.replicate 44 0)).args.length = 46 ∧ rig.active = true ∧ rig.link.upOverlong = false := by
  decide +kernel

/-! ## Tables -/

theorem witness_ReadsChangeNothing :
    rig.Ready ∧ kilnOf 0 = some 0 ∧ kilnOf 5 = some 5 ∧ 6 ≤ (6 : Byte).toNat ∧ 9 < (10 : Byte).toNat ∧
    (∀ t ∈ List.range 10, (rig.entryImage t 0).isSome = true) ∧
    (∀ t ∈ [0, 2, 3], (rig.entryRuntime t 0).isSome = true) ∧ 1 < (2 : Byte).toNat ∧
    rig.entryImage 0 48 = none ∧ rig.entryRuntime 1 0 = none ∧ rig.entryRuntime 9 0 = none ∧
    (0 : Byte).toNat ≤ 1 ∧ (1 : Byte).toNat ≤ 1 := by decide +kernel

/-- A kiln with a charge, a schedule and its two nodes, one without any of them, and nodes with and without a role and a
cadence. -/
theorem witness_ReadsChangeNothing_images :
    ((rig.kiln 3).charge = some { lot := 5, index := 2 } ∧ (rig.kiln 3).state = .drying ∧ (rig.kiln 3).schedule ≠ none ∧
      rig.boundNode .probe 3 = some 4 ∧ rig.boundNode .burner 3 = some 5) ∧
    ((rig.kiln 0).charge = none ∧ ¬((rig.kiln 0).state = .drying ∨ (rig.kiln 0).state = .hold ∨ (rig.kiln 0).state = .cooling) ∧
      rig.boundNode .probe 0 = none ∧ rig.boundNode .burner 0 = none) ∧
    ((rig.node 4).role = some .probe ∧ (rig.node 4).cadence = some 0 ∧ (rig.node 20).role = none ∧
      (rig.node 20).cadence = none) := by decide +kernel

theorem witness_LotAndBaleReads :
    rig.Ready ∧ (rig.table.lots.map (fun l => l.number)).Pairwise (· < ·) ∧
    (∃ pre l post, rig.table.lots = pre ++ l :: post ∧ pre = []) ∧
    (∃ pre l post, rig.table.lots = pre ++ l :: post ∧ (9 : Word16) ≠ 0 ∧ l.number = (9 : Word16).toNat ∧ post = []) ∧
    (∃ pre l post, rig.table.lots = pre ++ l :: post ∧ l.number = (5 : Word16).toNat ∧
      (l.charges[(0 : Byte).toNat]?).isSome = true ∧ (l.charges[(4 : Byte).toNat]?).isSome = true ∧
      (5 : Byte).toNat ≤ 5 ∧ l.charges.length ≤ (5 : Byte).toNat) ∧
    (5 < (6 : Byte).toNat ∧ (6 : Byte) ≠ 0xFF ∧ 5 < (0xFE : Byte).toNat ∧ (0xFE : Byte) ≠ 0xFF) ∧
    State.reset.table.lots = [] ∧ (∀ l ∈ rig.table.lots, l.number ≠ (6 : Word16).toNat) ∧
    (rig.press.bales.map (fun b => b.number)).Pairwise (· < ·) ∧
    (∃ pre b post, rig.press.bales = pre ++ b :: post ∧ pre = []) ∧
    (∃ pre b post, rig.press.bales = pre ++ b :: post ∧ (99 : Word32) ≠ 0 ∧ b.number = (99 : Word32).toNat ∧ post = []) ∧
    State.reset.press.bales = [] ∧ (∀ b ∈ rig.press.bales, b.number ≠ (96 : Word32).toNat) := by
  and_intros
  any_goals decide +kernel
  · exact ⟨[], _, _, rfl, rfl⟩
  · exact ⟨[_, _], _, [], rfl, by decide, by decide, rfl⟩
  · refine ⟨[], _, _, rfl, ?_⟩
    decide
  · exact ⟨[], _, _, rfl, rfl⟩
  · exact ⟨[_, _], _, [], rfl, by decide, by decide, rfl⟩

/-- An image of each table that no entry in range has: a code, a period and a count one above their ranges. -/
theorem test_images_of_no_entry_in_range :
    (∀ r : Route, r.InRange → r.image ≠ [1, 0, 0x40, 2, 0, 1, 0, 0]) ∧
    (∀ e : KilnEntry, e.InRange → e.image ≠ [0, 0, 0, 0, 101, 0, 0, 30, 0, 3, 0, 0]) ∧
    (∀ d : Schedule, d.InRange → d.image ≠ [0, 33, 1, 0, 0, 0, 0, 0]) ∧
    (∀ e : Machine.Step, e.InRange → e.image ≠ [5, 0, 0, 1, 1, 0x2C, 1, 0x2C, 0, 0]) ∧
    (∀ v : Variety, v.InRange → v.image ≠ [1, 0, 0, 0, 16, 0, 0, 0, 0, 0, 0, 0, 0, 0, 0, 0, 0, 0]) ∧
    (∀ g : NodeImage, g.InRange → g.bytes ≠ [0xE0, 1, 0xFF, 0xFF, 1, 1, 0, 0]) := by
  refine ⟨?_, ?_, ?_, ?_, ?_, ?_⟩
  · intro r h e
    obtain ⟨f, s, c, a, o, w, x, hi, _, hr⟩ := routeImageOf_image h
    rw [e] at hi
    simp only [List.cons.injEq, true_and, and_true] at hi
    obtain ⟨rfl, rfl, rfl, rfl, rfl, rfl, rfl⟩ := hi
    exact absurd hr (by rw [show routeImageOf 1 0 0x40 2 0 1 0 = none by decide +kernel]; simp)
  · intro r h e
    obtain ⟨c1, c2, c3, c4, l, a, r1, r2, f, s, hi, hr⟩ := kilnImageOf_image h
    rw [e] at hi
    simp only [List.cons.injEq, true_and, and_true] at hi
    obtain ⟨rfl, rfl, rfl, rfl, rfl, rfl, rfl, rfl, rfl, rfl⟩ := hi
    exact absurd hr (by
      rw [show kilnImageOf (word32 0 0 0 0).toNat 101 0 (word16 0 30).toNat 0 3 = none by decide +kernel]; simp)
  · intro r h e
    obtain ⟨a, b, c, d, f, g, x, hi, hr⟩ := scheduleImageOf_image h
    rw [e] at hi
    simp only [List.cons.injEq, true_and, and_true] at hi
    obtain ⟨rfl, rfl, rfl, rfl, rfl, rfl, rfl⟩ := hi
    exact absurd hr (by
      rw [show scheduleImageOf 0 33 (word16 1 0).toNat (word16 0 0).toNat 0 = none by decide +kernel]; simp)
  · intro r h e
    obtain ⟨a, b, c, d, f, g, x, y, hi, hr⟩ := stepImageOf_image h
    rw [e] at hi
    simp only [List.cons.injEq, true_and, and_true] at hi
    obtain ⟨rfl, rfl, rfl, rfl, rfl, rfl, rfl, rfl⟩ := hi
    exact absurd hr (by
      rw [show stepImageOf 5 (word16 0 1).toNat (word16 1 0x2C).toNat (word16 1 0x2C).toNat 0 = none by decide +kernel]
      simp)
  · intro r h e
    obtain ⟨a, b, c, d, f, a1, a2, a3, a4, b1, b2, b3, b4, m, n, hi, hr⟩ := varietyImageOf_image h
    rw [e] at hi
    simp only [List.cons.injEq, true_and, and_true] at hi
    obtain ⟨rfl, rfl, rfl, rfl, rfl, rfl, rfl, rfl, rfl, rfl, rfl, rfl, rfl, rfl, rfl⟩ := hi
    exact absurd hr (by
      rw [show varietyImageOf 1 0 (word16 0 0).toNat 16 (word32 0 0 0 0).toNat (word32 0 0 0 0).toNat (word16 0 0).toNat
        = none by decide +kernel]
      simp)
  · intro g h e
    obtain ⟨a, b, c, d, f, x, hi, hr⟩ := nodeImageOf_bytes h
    rw [e] at hi
    simp only [List.cons.injEq, true_and, and_true] at hi
    obtain ⟨rfl, rfl, rfl, rfl, rfl, rfl⟩ := hi
    exact absurd hr (by rw [show nodeImageOf 0xE0 1 0xFF 0xFF 1 1 = none by decide +kernel]; simp)

/-- The first and the last index, the empty and a full entry, the least and the greatest period; an index and a period one
beyond. -/
theorem witness_PlainTableWrites :
    rig.Ready ∧ (0 : Byte).toNat < 64 ∧ (63 : Byte).toNat < 64 ∧ 64 ≤ (64 : Byte).toNat ∧
    Route.InRange {} ∧ Route.InRange { routeOf 0x3F .green with source := 0xDF, offset := 44 } ∧
    Route.InRange { routeOf 0x01 .baleEvent with width := 1, selector := .onScale } ∧ (7 : Byte).toNat < 8 ∧
    (8 : Byte).toNat < 64 ∧ 8 ≤ (8 : Byte).toNat ∧ Cadence.InRange { period := 1 } ∧
    Cadence.InRange { enabled := true, period := 6000 } ∧
    (∀ c : Cadence, c.InRange → c.image ≠ [1, 0, 0, 0]) ∧ (∀ c : Cadence, c.InRange → c.image ≠ [1, 0, 0x17, 0x71]) ∧
    0 ≤ 65535 ∧ 65535 ≤ 65535 := by
  and_intros
  any_goals decide +kernel
  all_goals
    intro c h e
    have h1 : be16 c.period = _ := (List.cons.inj (List.cons.inj e).2).2
    obtain ⟨a, b, hb, hp⟩ := be16_read (n := c.period) (by have := h.2; omega)
    rw [hb] at h1
    simp only [List.cons.injEq, and_true] at h1
    obtain ⟨rfl, rfl⟩ := h1
    have := h.1
    have := h.2
    simp [word16] at hp
    omega

/-- In the small state every kiln that references a descriptor references descriptor 0. -/
theorem test_references (k : Kiln) (d : Fin 8) (h : rig.References k d) : d = 0 := by
  rcases h with ⟨hl, ⟨w, hw, hd⟩, _⟩ | ⟨_, hs⟩
  · have key : ∀ k, (rig.kiln k).state = .loaded → (rig.kilnVariety k).map (fun w => w.schedule) = some 0 := by
      decide +kernel
    have := key k hl
    rw [hw] at this
    rw [← hd]
    simpa using this
  · have key : ∀ k, ∀ d : Fin 8, (rig.kiln k).schedule = some d → d = 0 := by decide +kernel
    exact key k d hs

/-- The first and the last index, in use and not, and one beyond. -/
theorem witness_GuardedTableWrites :
    rig.Ready ∧ Schedule.InRange {} ∧
    Schedule.InRange { first := 96, count := 32, startTemp := 900, abortCoolMinutes := 1440, abortCoolFan := 100 } ∧
    Schedule.InRange { first := 0, count := 1, startTemp := 200 } ∧
    (∀ k, ¬ rig.References k ⟨(7 : Byte).toNat, by decide⟩) ∧ (∃ k, rig.References k ⟨(0 : Byte).toNat, by decide⟩) ∧
    (∃ k, rig.References k 0 ∧ (rig.kiln k).state = .loaded) ∧ 8 ≤ (8 : Byte).toNat ∧
    Machine.Step.InRange {} ∧ Machine.Step.InRange { kind := .ramp, duration := 1440, target := 900, limit := 1000, fan := 100 } ∧
    Machine.Step.InRange { kind := .cool, duration := 1 } ∧
    (∀ k d, rig.References k d → ¬(rig.kilns.schedules[d].first ≤ (5 : Byte).toNat ∧
      (5 : Byte).toNat < rig.kilns.schedules[d].first + rig.kilns.schedules[d].count)) ∧
    (∃ k d, rig.References k d ∧ rig.kilns.schedules[d].first ≤ (4 : Byte).toNat ∧
      (4 : Byte).toNat < rig.kilns.schedules[d].first + rig.kilns.schedules[d].count) ∧
    (127 : Byte).toNat < 128 ∧ 128 ≤ (128 : Byte).toNat ∧
    Variety.InRange {} ∧ Variety.InRange { valid := true, endHumidity := 1000, qualify := 15, targetMin := 2147483646
                                           targetMax := 2147483646, maxMoisture := 1000 } ∧
    (∀ l ∈ rig.table.lots, l.variety.val ≠ (15 : Byte).toNat) ∧
    (∃ l ∈ rig.table.lots, l.variety.val = (0 : Byte).toNat) ∧ 16 ≤ (16 : Byte).toNat := by
  have ref : rig.References 3 0 := Or.inr ⟨Or.inl (by decide +kernel), by decide +kernel⟩
  and_intros
  any_goals decide +kernel
  · intro k h
    exact absurd (test_references k _ h) (by decide)
  · exact ⟨3, ref⟩
  · exact ⟨2, Or.inl ⟨by decide +kernel, ⟨rig.table.varieties[0], by decide +kernel, by decide +kernel⟩, 4,
      by decide +kernel, by decide +kernel⟩, by decide +kernel⟩
  · intro k d h
    rw [test_references k d h]
    decide +kernel
  · exact ⟨3, 0, ref, by decide +kernel, by decide +kernel⟩

theorem witness_UnitTableWrites_entries :
    KilnEntry.InRange { capacity := 2147483646, minLoad := 100, autoStart := true, refresh := 600, holdFan := 100
                        limitStreak := 5 } ∧
    KilnEntry.InRange { refresh := 10, limitStreak := 1 } ∧ ScaleSetup.InRange {} ∧
    ScaleSetup.InRange { zeroOffset := -2147483648, span := 65535, watermark := 16, stability := 8, band := 65535
                         zeroTrackBand := 65535, zeroLimit := 65535, minGross := 2147483646, settleTimeout := 60 } ∧
    (List.replicate 20 (0xFF : Byte)).length = 20 ∧ (1 : Byte) ≠ 0 ∧
    Station.InRange { transit := 600, maxIncrement := 65535, threshold := 32 } ∧
    Station.InRange { transit := 0, maxIncrement := 1, threshold := 1 } := by
  decide

theorem witness_UnitTableWrites_states :
    rig.Ready ∧ kilnOf 0 = some 0 ∧ kilnOf 5 = some 5 ∧ (rig.kiln 0).state = .empty ∧ (rig.kiln 5).state ≠ .empty ∧
    6 ≤ (6 : Byte).toNat ∧ rig.scale.state ≠ .settling ∧ rig.scale.state ≠ .clearing ∧
    (rigScale (fun c => { c with state := .settling })).scale.state = .settling ∧
    (rigScale (fun c => { c with state := .clearing })).scale.state = .clearing ∧ rig.feed.changeover = .steady ∧
    (rigFeed (fun f => { f with changeover := .draining none })).mgmt.station.transit = 90 ∧
    (rigFeed (fun f => { f with changeover := .draining none })).feed.changeover ≠ .steady := by decide +kernel

/-- A second picker, an emptied printer that sends, a light write, a heavy write of an unused entry, and an emptying write. -/
theorem witness_NodeTableWrite :
    rig.Ready ∧ (0 : Byte).toNat < 48 ∧ (47 : Byte).toNat < 48 ∧ 48 ≤ (48 : Byte).toNat ∧
    (NodeImage.entry 0xDF .picker none none 1 1).InRange ∧ (NodeImage.entry 0x01 .other none (some 7) 255 15).InRange ∧
    (NodeImage.entry 0x14 .probe (some 3) none 9 9).InRange ∧ NodeImage.empty.InRange ∧
    rig.nodeConflict 47 (.entry 0xDF .picker none none 1 1) = true ∧
    (rig.nodeConflict 4 (.entry 0x30 .probe (some 3) none 9 9) = false ∧
      (NodeImage.entry 0x30 .probe (some 3) none 9 9).isLight (rig.node 4) = false ∧ rig.nodeInUse (rig.node 4) = true) ∧
    (rig.nodeConflict 4 (.entry 0x14 .probe (some 3) none 9 9) = false ∧ (rig.node 4).address = 0x14 ∧
      (rig.node 4).role = some .probe ∧ (rig.node 4).binding = some 3) ∧
    (rig.nodeConflict 47 (.entry 0x01 .other none (some 7) 255 15) = false ∧
      (NodeImage.entry 0x01 .other none (some 7) 255 15).isLight (rig.node 47) = false ∧
      rig.nodeInUse (rig.node 47) = false) ∧
    (rig.nodeInUse (rig.node 8) = false ∧ rig.nodeInUse (rig.node 1) = true) ∧
    (∀ p ∈ [PrintProcess.idle, .sending, .halted], (rigTickets (fun t => { t with process := p })).tickets.process = p) := by
  and_intros
  any_goals decide +kernel
  all_goals simp [NodeImage.InRange]

theorem witness_RestartScopes :
    rig.Ready ∧ rig.table.lots ≠ [] ∧ (∃ k, (rig.kiln k).state ≠ .empty) ∧ rig.tickets.queue ≠ [] ∧ rig.press.bales ≠ [] ∧
    State.reset.Ready ∧ State.reset.table.lots = [] ∧ (∀ k, (State.reset.kiln k).state = .empty) ∧
    State.reset.tickets.queue = [] ∧ State.reset.press.bales = [] ∧ 1 < (2 : Byte).toNat := by decide +kernel

/-- Lot 7 is OPEN, lot 9 finished with every charge ticketed, lot 5 neither; a table of 23 and of 24 lots. -/
theorem witness_LotRequests :
    rig.Ready ∧ State.reset.Ready ∧ State.reset.mgmt.timeSet = false ∧ rig.mgmt.timeSet = true ∧ rig.tickets.baseSet = true ∧
    (rigTickets (fun t => { t with baseSet := false })).tickets.baseSet = false ∧
    (∀ v : Fin 16, v.val = (16 : Byte).toNat → (rig.table.varieties[v]).valid = false) ∧
    (∀ v : Fin 16, v.val = (1 : Byte).toNat → (rig.table.varieties[v]).valid = false) ∧
    ((0 : Fin 16).val = (0 : Byte).toNat ∧ (rig.table.varieties[(0 : Fin 16)]).valid = true) ∧
    (∃ l ∈ rig.table.lots, l.number = (5 : Word16).toNat) ∧ (∀ l ∈ rig.table.lots, l.number ≠ (6 : Word16).toNat) ∧
    rig.table.lots.length < 24 ∧
    (∀ n ∈ [23, 24], ({ rig with table := { rig.table with lots := (List.range n).map (fun i => lotOf (i + 7) .opened []) } } :
      State).table.lots.length = n ∧
      ∀ l ∈ ({ rig with table := { rig.table with lots := (List.range n).map (fun i => lotOf (i + 7) .opened []) } } :
        State).table.lots, l.number ≠ (6 : Word16).toNat) ∧
    rig.lot? (6 : Word16).toNat = none ∧
    (∃ l, rig.lot? (7 : Word16).toNat = some l ∧ l.state = .opened ∧ l.state ≠ .finished) ∧
    (∃ l, rig.lot? (9 : Word16).toNat = some l ∧ l.state = .finished ∧ ∀ c ∈ l.charges, c.state = .ticketed) ∧
    (∃ l, rig.lot? (5 : Word16).toNat = some l ∧ l.state ≠ .opened ∧ ∃ c ∈ l.charges, c.state ≠ .ticketed) := by
  and_intros <;> decide +kernel

/-! ## The field segment -/

/-- A transaction with the belt, in its wait. -/
def txOf (kind : TransactionKind) : Transaction :=
  { kind := kind, address := 0x10, node := some 0, detached := false, frames := [], window := 5, sending := false
    waitRunOut := false }

/-- The part at work with an outstanding transaction. -/
def rigTx (t : Transaction) : State := rigField (fun f => { f with transaction := some t })

/-- A wait that has run out, when a torn, an over-long or a damaged reception ends. -/
theorem witness_DamagedReceptionOnlyCounts_runOut :
    (rigTx { txOf .poll with waitRunOut := true }).field.transaction = some { txOf .poll with waitRunOut := true } ∧
    (rigTx { txOf .poll with waitRunOut := true }).feed.picker = (rigTx { txOf .poll with waitRunOut := true }).pickerWanted ∧
    (txOf .poll).sending = false ∧ (txOf .poll).kind ≠ .broadcast ∧ judge [0] = .torn := by decide +kernel

/-- The part at work with all four sources of the arbiter holding work, and this choice. -/
def rigFour (c : Option FieldSource) : State :=
  { rig with
    classifier := { rig.classifier with passQueue := [mkFrame 0x01 0 0x70 []] }
    field := { rig.field with
      commandQueue := [{ node := 1, payload := .feed .run }], printRequest := some 9, pollQueue := [0], chosen := c } }

theorem witness_FieldTransactionStart :
    rig.active = true ∧ (rigTx (txOf .poll)).field.transaction ≠ none ∧
    (rigLink (fun l => { l with driver := true })).link.driver = true ∧
    (rigLink (fun l => { l with fpReceiving := true })).link.fpReceiving = true ∧
    (rig.field.transaction = none ∧ rig.link.driver = false ∧ rig.link.fpReceiving = false) ∧
    (rigField (fun f => { f with commandQueue := [{ node := 1, payload := .feed .run }] })).field.commandQueue
      = { node := 1, payload := .feed .run } :: [] ∧
    ((rigField (fun f => { f with printRequest := some 9 })).field.commandQueue = [] ∧
      (rigField (fun f => { f with printRequest := some 9 })).field.printRequest = some 9 ∧
      (rigField (fun f => { f with printRequest := some 9 })).roleNode .printer = some 8 ∧
      (rigField (fun f => { f with printRequest := some 9 })).ticket? 9 = some (ticketOf 9 .unprinted)) ∧
    (∀ d ∈ [(0x01 : Byte), 0xFF],
      (rigClass (fun c => { c with passQueue := [mkFrame d 0 0x70 []] })).classifier.passQueue = mkFrame d 0 0x70 [] :: [] ∧
      (rigClass (fun c => { c with passQueue := [mkFrame d 0 0x70 []] })).field.pollQueue = []) ∧
    (∀ n ∈ [3, 4],
      ({ rigClass (fun c => { c with passQueue := [mkFrame 1 0 0x70 []] }) with
        field := { rig.field with pollQueue := [0], passStreak := n } } : State).field.passStreak = n) ∧
    ((rigField (fun f => { f with pollQueue := [0] })).field.pollQueue = 0 :: [] ∧
      (rigField (fun f => { f with pollQueue := [0] })).classifier.passQueue = []) ∧
    (rig.classifier.passQueue = [] ∧ rig.field.pollQueue = [] ∧ rig.field.commandQueue = [] ∧
      rig.field.printRequest = none) ∧ rig.field.chosen = none := by decide +kernel

/-- Each source with work and chosen, with work before it in the order; and a choice whose work has gone. -/
theorem witness_FieldTransactionStart_chosen :
    (rigFour (some .command)).field.commandQueue = [{ node := 1, payload := .feed .run }] ∧
    ((rigFour (some .print)).field.printRequest = some 9 ∧ (rigFour (some .print)).roleNode .printer = some 8 ∧
      (rigFour (some .print)).ticket? 9 = some (ticketOf 9 .unprinted)) ∧
    (rigFour (some .pass)).classifier.passQueue = [mkFrame 0x01 0 0x70 []] ∧
    (rigFour (some .poll)).field.pollQueue = [0] ∧
    (∀ c : FieldSource, (rigFour (some c)).field.chosen = some c ∧ (rigFour (some c)).holdsWork c = true) ∧
    (rigField (fun f => { f with chosen := some .poll })).holdsWork .poll = false := by
  refine ⟨by decide +kernel, by decide +kernel, by decide +kernel, by decide +kernel, ?_, by decide +kernel⟩
  intro c; cases c <;> decide +kernel

/-- A wait that has not begun, that runs, that runs while a frame arrives; a pass, a poll, a block and a broadcast; a node
bound, none, and one detached. -/
theorem witness_FieldSegmentTiming :
    rig.active = true ∧ rig.link.driver = false ∧ rig.link.fpOverlong = false ∧
    (rigLink (fun l => { l with driver := true })).link.driver = true ∧
    (rigLink (fun l => { l with fpOverlong := true })).link.fpOverlong = true ∧ rig.field.transaction = none ∧
    (∀ k ∈ [TransactionKind.poll, .command 0x45, .pass, .broadcast, .block 9],
      (rigTx (txOf k)).field.transaction = some (txOf k) ∧ (txOf k).sending = false ∧ (txOf k).node = some 0 ∧
      (txOf k).detached = false) ∧
    ({ txOf .poll with sending := true } : Transaction).sending = true ∧ (txOf .broadcast).kind = .broadcast ∧
    (txOf .poll).kind ≠ .broadcast ∧
    ({ rigTx (txOf .poll) with link := { rig.link with fpReceiving := true } } : State).link.fpReceiving = true ∧
    (rigTx (txOf .pass)).link.fpReceiving = false ∧ (∀ n, (txOf .pass).kind ≠ .block n) ∧ (∀ n, (txOf .poll).kind ≠ .block n) ∧
    (txOf (.block 9)).kind = .block 9 ∧ ({ txOf .pass with node := none } : Transaction).node = none ∧
    ({ txOf .poll with detached := true } : Transaction).detached = true := by
  and_intros
  any_goals decide +kernel
  all_goals simp [txOf]

/-- An answer for each kind, the belt's address with a code that the kind does not accept, another address, and a wait that has
run out. -/
theorem witness_FieldAnswers :
    rig.active = true ∧ rig.link.fpOverlong = false ∧ rig.link.driver = false ∧ rig.feed.picker = rig.pickerWanted ∧
    rig.field.transaction = none ∧
    (∀ c ∈ [(0x01 : Byte), 0x3F, 0x40, 0x41, 0x4E, 0x4F, 0x51, 0x52], ∀ a ∈ [(0x10 : Byte), 0x11],
      (mkFrame 0xE0 a c []).bytes.length ≤ 54 ∧ judge (mkFrame 0xE0 a c []).bytes = .valid (mkFrame 0xE0 a c [])) ∧
    (∀ k ∈ [TransactionKind.poll, .command 0x45, .pass, .broadcast, .block 9],
      (rigTx (txOf k)).field.transaction = some (txOf k) ∧ (rigTx (txOf k)).feed.picker = (rigTx (txOf k)).pickerWanted) ∧
    (TransactionKind.poll.accepts 0x01 = true ∧ TransactionKind.poll.accepts 0x3F = true ∧
      TransactionKind.poll.accepts 0x41 = true ∧ TransactionKind.poll.accepts 0x40 = false ∧
      (TransactionKind.command 0x45).accepts 0x4E = true ∧ (TransactionKind.command 0x45).accepts 0x4F = true ∧
      TransactionKind.pass.accepts 0x01 = true ∧ TransactionKind.broadcast.accepts 0x01 = false ∧
      (TransactionKind.block 9).accepts 0x51 = true ∧ (TransactionKind.block 9).accepts 0x52 = true) ∧
    (mkFrame 0xE0 0x10 0x01 []).src = (txOf .poll).address ∧ (mkFrame 0xE0 0x11 0x01 []).src ≠ (txOf .poll).address ∧
    ({ txOf .poll with waitRunOut := true } : Transaction).waitRunOut = true ∧ (txOf .poll).waitRunOut = false ∧
    ({ txOf .pass with node := none } : Transaction).kind = .pass := by decide +kernel

theorem witness_NodeAnswersAndMisses :
    rig.feed.loading = some 1 ∧ some (2 : Kiln) ≠ rig.feed.loading ∧ (none : Option Kiln) = none ∧
    (rig.node 0).state ≠ .lost ∧ (rig.setNode 0 { rig.node 0 with state := .lost }).node 0 = { rig.node 0 with state := .lost } ∧
    min 15 ((rig.node 0).misses + 1) < (rig.node 0).missLimit ∧
    (((rig.setNode 0 { rig.node 0 with misses := 2 }).node 0).state = .online ∧
      ((rig.setNode 0 { rig.node 0 with misses := 2 }).node 0).missLimit
        ≤ min 15 (((rig.setNode 0 { rig.node 0 with misses := 2 }).node 0).misses + 1)) ∧
    ((rig.setNode 0 { rig.node 0 with misses := 1 }).node 0).misses + 1 < (rig.node 0).missLimit ∧
    ((rig.node 4).binding = some 3 ∧ (rig.node 4).role = some .probe) ∧
    ((rig.node 5).binding = some 3 ∧ (rig.node 5).role = some .burner) ∧
    ((rig.node 8).role = some .printer ∧ rig.tickets.process = .idle ∧
      (rigTickets (fun t => { t with process := .halted })).tickets.process = .halted) ∧
    ((rig.node 1).role ≠ some .probe ∧ (rig.node 1).role ≠ some .burner ∧ (rig.node 1).role ≠ some .printer ∧
      (rig.node 1).role ≠ some .belt) ∧
    ((rig.node 0).role = some .belt ∧ (rigFeed (fun f => { f with changeover := .waiting none })).feed.changeover
      = .waiting none) ∧ (∀ p, rig.feed.changeover ≠ .waiting p) := by
  and_intros
  any_goals decide +kernel
  intro p
  simp [rig]

/-- The part at work with routes for the belt, a probe and the press, and a dropped and a forwarded code. -/
def rigRoutes : State :=
  rigClass (fun c => { c with routes := Vector.ofFn (fun i => [
    { routeOf 0x01 .green with source := 0x10 }, routeOf 0x01 .kilnAir, { routeOf 0x02 .kilnExhaust with signed := true, width := 2 },
    { routeOf 0x03 .baleEvent with selector := .onScale, copy := true }, routeOf 0x04 .drop, routeOf 0x05 .forward,
    { routeOf 0x06 .baleEvent with selector := .offScale }, { routeOf 0x07 .baleEvent with selector := .unloadDone },
    routeOf 0x08 .moisture].getD i.val {}) })

theorem witness_RouteLookupAndActions :
    rigRoutes.lookupRoute 0x10 0x01 = some 0 ∧ rigRoutes.lookupRoute 0x14 0x01 = some 1 ∧
    rigRoutes.lookupRoute 0x14 0x09 = none ∧
    ((rigRoutes.route 5).action = .forward ∧ rigRoutes.lookupRoute 0x10 0x05 = some 5) ∧
    ((rigRoutes.route 4).action = .drop ∧ rigRoutes.lookupRoute 0x10 0x04 = some 4) ∧
    ((rigRoutes.route 0).action ≠ .forward ∧ (rigRoutes.route 0).action ≠ .drop ∧ (rigRoutes.route 0).action ≠ .none) ∧
    ((rigRoutes.route 2).width ≤ 4 ∧ (rigRoutes.route 2).signed = true ∧ 1 ≤ (rigRoutes.route 2).width ∧
      (rigRoutes.route 2).offset + (rigRoutes.route 2).width ≤ (mkFrame 0xE0 0x14 2 [0xFF, 0xFE]).payload.length) ∧
    (rigRoutes.route 0).signed = false ∧ (rigRoutes.route 0).action = .green ∧
    ((rigRoutes.route 1).action = .kilnAir ∧ (rigRoutes.node 4).binding = some 3) ∧
    (rigRoutes.route 2).action = .kilnExhaust ∧
    ((rigRoutes.route 3).action = .baleEvent ∧ (rigRoutes.route 3).selector = .onScale ∧
      (rigRoutes.route 6).selector = .offScale ∧ (rigRoutes.route 7).selector = .unloadDone) ∧
    (rigRoutes.route 8).action = .moisture ∧
    (rigLink (fun l => { l with live := false })).link.live = false ∧ rig.link.live = true ∧
    (∀ n ∈ [15, 16],
      (rigClass (fun c => { c with forwardQueue := List.replicate n (toSelf 1) })).classifier.forwardQueue.length = n ∧
      (rigClass (fun c => { c with forwardQueue := List.replicate n (toSelf 1) })).classifier.forwardQueue
        = toSelf 1 :: List.replicate (n - 1) (toSelf 1)) := by decide +kernel

theorem witness_CadenceExpiry :
    rig.active = true ∧ rig.field.cadences[(0 : CadenceId)].enabled = false ∧
    rig.field.cadences[(1 : CadenceId)].enabled = true := by decide +kernel

/-! ## Feed and loading -/

/-- The part at work in DRAINING. -/
def rigDrain (p : Option Nat) : State :=
  rigFeed (fun f => { f with
    changeover := .draining p, hold := { stopped := false, changeover := true }, picker := .hold })

/-- The same with the belt LOST. -/
def rigDrainLost (p : Option Nat) : State := (rigDrain p).setNode 0 { rig.node 0 with state := .lost }

theorem witness_ChangeoverAndDivertWatch :
    rig.active = true ∧ rig.feed.picker = rig.pickerWanted ∧ (∀ p, rig.feed.changeover ≠ .draining p) ∧
    (∀ p ∈ [none, some 5, some 7], (rigDrain p).active = true ∧ (rigDrain p).feed.picker = (rigDrain p).pickerWanted ∧
      (rigDrain p).feed.changeover = .draining p ∧ (rigDrain p).isOnline ((rigDrain p).roleNode .belt) = true ∧
      (rigDrainLost p).feed.picker = (rigDrainLost p).pickerWanted ∧ (rigDrainLost p).feed.changeover = .draining p ∧
      (rigDrainLost p).feed.beltLot ≠ none ∧ (rigDrainLost p).isOnline ((rigDrainLost p).roleNode .belt) = false) ∧
    ((rigFeed (fun f => { f with divertWatch := some 0, hold := { stopped := false, divert := true }, picker := .hold })).feed.picker
        = .hold ∧
      (rigFeed (fun f => { f with divertWatch := some 0, hold := { stopped := false, divert := true }, picker := .hold })).pickerWanted
        = .hold ∧
      (rigFeed (fun f => { f with divertWatch := some 0, hold := { stopped := false, divert := true }, picker := .hold })).feed.hold.divert
        = true) ∧
    rig.feed.divertWatch = none ∧ rig.feed.hold.divert = false ∧
    ((rigDrain (some 7)).feed.loading = some 1 ∧ (rigDrain none).feed.beltLot = some 5) ∧
    (∃ b, (rigFeed (fun f => { f with changeover := .waiting (some 7), feedLot := some 7 })).feed.beltLot = some b ∧
      (rigFeed (fun f => { f with changeover := .waiting (some 7), feedLot := some 7 })).feed.feedLot ≠ some b ∧
      (some 7 : Option Nat) ≠ some b) ∧
    (rigDrain none).feed.beltLot = (rigDrain none).feed.feedLot := by
  and_intros
  any_goals decide +kernel
  intro p
  simp [rig]

/-- The part at work whose lot 7 holds this many charges. -/
def rigCharges (n : Nat) : State :=
  rig.updLot 7 (fun l => { l with charges := List.replicate n (chargeOf 0 .ticketed 0) })

theorem witness_FeedRequests :
    rig.Ready ∧ (rigDrain none).Ready ∧ (rigDrain none).feed.changeover ≠ .steady ∧ rig.feed.changeover = .steady ∧
    (rig.lot? (6 : Word16).toNat = none ∧ (6 : Word16) ≠ 0) ∧
    (rig.lot? (5 : Word16).toNat ≠ none ∧ rig.feed.feedLot = some (5 : Word16).toNat) ∧
    (State.reset.feed.feedLot = none ∧ State.reset.Ready) ∧
    ((rigCharges 6).Ready ∧ (rigCharges 6).lot? (7 : Word16).toNat = some (lotOf 7 .opened (List.replicate 6 (chargeOf 0 .ticketed 0))) ∧
      6 ≤ (List.replicate 6 (chargeOf 0 .ticketed 0)).length) ∧
    (rig.feed.feedLot ≠ some (7 : Word16).toNat ∧
      (∀ l ∈ (rigCharges 5).lot? (7 : Word16).toNat, (7 : Word16) ≠ 0 → l.charges.length < 6)) ∧
    rig.feed.feedLot ≠ none ∧
    ((0 : Byte).toNat ≤ 1 ∧ (1 : Byte).toNat ≤ 1 ∧ 1 < (2 : Byte).toNat) ∧
    (([] : List Kiln).Nodup ∧ ([5, 4, 3, 2, 1, 0] : List Kiln).Nodup ∧ ([5, 4, 3, 2, 1, 0] : List Kiln).length ≤ 6 ∧
      ¬([0, 0] : List Kiln).Nodup) ∧
    (([] : List Byte).length ≠ (1 : Byte).toNat ∧ ([0, 0] : List Byte).length ≠ (1 : Byte).toNat) ∧
    ((List.replicate 7 (0 : Byte)).length = (7 : Byte).toNat ∧ 6 < (7 : Byte).toNat) ∧
    (([6] : List Byte).length = (1 : Byte).toNat ∧ ∃ b ∈ ([6] : List Byte), 5 < b.toNat) := by decide +kernel

/-- No kiln loading, and a fill of 100 below its least load of 500. -/
theorem witness_FillClose :
    rig.Ready ∧ State.reset.Ready ∧ State.reset.feed.loading = none ∧ rig.feed.loading = some 1 ∧
    (rig.kiln 1).charge = some { lot := 5, index := 0 } ∧ rig.charge? { lot := 5, index := 0 } = some (chargeOf 1 .filling 100) ∧
    100 * 100 < (rig.kilnEntry 1).minLoad * (rig.kilnEntry 1).capacity := by decide +kernel

/-- The part at work with the belt's lot on no kiln. -/
def rigFree (order : List Kiln) : State :=
  { rigFeed (fun f => { f with loading := none, fillOrder := order }) with
    kilns := { rig.kilns with run := rig.kilns.run.set 1 {} } }

theorem witness_KilnSelectionAndPicker :
    State.reset.feed.beltLot = none ∧ rig.feed.loading ≠ none ∧
    (∃ p, (rigFeed (fun f => { f with changeover := .waiting none })).feed.changeover = .waiting p) ∧
    ((rigFree [2]).feed.beltLot = some 5 ∧ (rigFree [2]).feed.loading = none ∧
      (∀ p, (rigFree [2]).feed.changeover ≠ .waiting p) ∧
      (∀ k ∈ (rigFree [2]).feed.fillOrder, ¬(((rigFree [2]).kiln k).state = .empty ∧ 0 < ((rigFree [2]).kilnEntry k).capacity))) ∧
    ((rigFree [2, 1]).feed.fillOrder = [2] ++ 1 :: [] ∧ ((rigFree [2, 1]).kiln 1).state = .empty ∧
      0 < ((rigFree [2, 1]).kilnEntry 1).capacity ∧
      (∀ j ∈ [(2 : Kiln)], ¬(((rigFree [2, 1]).kiln j).state = .empty ∧ 0 < ((rigFree [2, 1]).kilnEntry j).capacity)) ∧
      (∃ l, (rigFree [2, 1]).lot? 5 = some l ∧ l.charges.length = 5)) ∧
    (∃ l, ((rigFree [2, 1]).updLot 5 (fun l => { l with charges := l.charges ++ [chargeOf 0 .ticketed 0] })).lot? 5 = some l ∧
      6 ≤ l.charges.length) ∧
    ((rigFree [1]).roleNode .diverter = some 2 ∧ ((rigFree [1]).node 2).cadence = some 1) ∧
    (State.reset.roleNode .diverter = none) ∧
    (rig.feed.picker = .run ∧ rig.feed.hold = { stopped := false }) ∧ (rigDrain none).feed.hold ≠ { stopped := false } ∧
    (rigFeed (fun f => { f with hold := { stopped := true } })).feed.picker ≠ .hold := by
  and_intros
  any_goals decide +kernel
  · exact ⟨none, rfl⟩
  · intro p
    simp [rigFree, rigFeed, rig]

/-- The first reading, none, one at the increment's limit and one above it, one that the lot cannot take; and the four
destinations, with a fill one short of its capacity and at it. -/
theorem witness_BeltCrediting :
    ((rig.setNode 0 { rig.node 0 with baseline := false }).node 0).baseline = false ∧
    ((rig.node 0).baseline = true ∧ (rig.node 0).lastTotalizer = 100 ∧ (100 : Word32) - 100 = 0) ∧
    ((5101 : Word32) - 100 ≠ 0 ∧ rig.mgmt.station.maxIncrement < ((5101 : Word32) - 100).toNat) ∧
    (((5100 : Word32) - 100).toNat ≤ rig.mgmt.station.maxIncrement ∧
      (∀ l ∈ rig.lot? 5, l.greenTotal + ((5100 : Word32) - 100).toNat ≤ 2147483646)) ∧
    (∃ l, (rig.updLot 5 (fun l => { l with greenTotal := 2147483646, spill := 2147482146 })).lot? 5 = some l ∧
      2147483646 < l.greenTotal + ((101 : Word32) - 100).toNat) ∧
    State.reset.feed.beltLot = none ∧
    (rig.feed.beltLot = some 5 ∧ (rig.lot? 5).isSome = true ∧ (rigFree []).feed.loading = none ∧
      (rigFeed (fun f => { f with divertConfirmed := false })).feed.divertConfirmed = false) ∧
    (rig.feed.loading = some 1 ∧ rig.feed.divertConfirmed = true ∧ (rig.kiln 1).charge = some { lot := 5, index := 0 } ∧
      rig.charge? { lot := 5, index := 0 } = some (chargeOf 1 .filling 100)) ∧
    100 + 899 < (rig.kilnEntry 1).capacity ∧ (rig.kilnEntry 1).capacity ≤ 100 + 900 := by
  and_intros <;> decide +kernel

/-! ## Kilns -/

theorem witness_BurnerAndStepEntry :
    rig.active = true ∧ (rig.kiln 0).state = .empty ∧ (rig.kiln 3).state = .drying ∧ (rig.kiln 4).state = .hold ∧
    (((rigCooling 3 false).kiln 3).state = .cooling ∧ ((rigCooling 3 false).kiln 3).aborted = false) ∧
    (((rigCooling 3 true).kiln 3).state = .cooling ∧ ((rigCooling 3 true).kiln 3).aborted = true ∧
      ((rigCooling 3 true).kiln 3).schedule = some 0) ∧
    (rig.kiln 3).refresh = some 300 ∧ (rig.kiln 0).refresh = none ∧
    ((rigStep 0).currentStep 3).kind = .ramp ∧ ((rigStep 1).currentStep 3).kind = .soak ∧
    ((rigStep 2).currentStep 3).kind = .dryTo ∧ ((rigStep 3).currentStep 3).kind = .cool ∧
    ((rigStep 4).currentStep 3).kind = .fin ∧ (rig.kiln 3).charge = some { lot := 5, index := 2 } := by decide +kernel

/-- A ramp at its minutes 0, 8 and 9 of 10, with a setpoint that changes and one that does not; the other kinds; a kiln that
does not dry. -/
theorem witness_StepEnds :
    rig.active = true ∧ (rig.kiln 3).state = .drying ∧ ((rigStep 0).currentStep 3).kind = .ramp ∧
    ((rig.currentStep 3).duration ≤ ((rig.updKiln 3 (fun r => { r with rampMinute := 9 })).kiln 3).rampMinute + 1) ∧
    (((rig.updKiln 3 (fun r => { r with rampMinute := 8 })).kiln 3).rampMinute + 1 < (rig.currentStep 3).duration) ∧
    (rig.kiln 3).entrySetpoint + Int.tdiv (((rig.currentStep 3).target - (rig.kiln 3).entrySetpoint) * 1) 10
      ≠ (rig.kiln 3).setpoint ∧
    (rig.kiln 3).entrySetpoint + Int.tdiv (((rig.currentStep 3).target - (rig.kiln 3).entrySetpoint) * 8) 10
      = (rig.kiln 3).setpoint ∧
    (((rigStep 1).kiln 3).state = .drying ∧ ((rigStep 1).currentStep 3).kind = .soak) ∧
    (((rigCooling 3 false).kiln 3).state = .cooling ∧ ((rigCooling 3 false).kiln 3).aborted = false ∧
      ((rigCooling 3 false).currentStep 3).kind = .cool) ∧
    (¬((rig.kiln 0).state = .drying ∧ ((rig.currentStep 0).kind = .ramp ∨ (rig.currentStep 0).kind = .soak)) ∧
      ¬((rig.kiln 0).state = .cooling ∧ (rig.kiln 0).aborted = false ∧ (rig.currentStep 0).kind = .cool)) ∧
    (((rigStep 2).kiln 3).state = .drying ∧ ((rigStep 2).currentStep 3).kind = .dryTo) ∧
    ¬((rig.kiln 3).state = .drying ∧ (rig.currentStep 3).kind = .dryTo) ∧
    (((rigCooling 3 true).kiln 3).state = .cooling ∧ ((rigCooling 3 true).kiln 3).aborted = true ∧
      ((rigCooling 3 true).kiln 3).schedule = some 0) ∧
    ¬((rig.kiln 3).state = .cooling ∧ (rig.kiln 3).aborted = true) := by decide +kernel

/-- The part at work with this count of steps in descriptor 0. -/
def rigSteps (count : Nat) : State :=
  { rig with kilns := { rig.kilns with schedules := rig.kilns.schedules.set 0 { rig.kilns.schedules[0] with count := count } } }

/-- The part at work with auto-start at K2. -/
def rigAuto (s : State) : State :=
  { s with kilns := { s.kilns with entries := s.kilns.entries.set 2 { s.kilnEntry 2 with autoStart := true } } }

theorem witness_KilnStart :
    rig.Ready ∧ 6 ≤ (6 : Byte).toNat ∧ kilnOf 0 = some 0 ∧ kilnOf 2 = some 2 ∧ kilnOf 5 = some 5 ∧ (rig.kiln 0).state ≠ .loaded ∧
    ((rig.kiln 2).state = .loaded ∧ rig.kilnVariety 2 = some rig.table.varieties[0] ∧ rig.table.varieties[0].schedule = 0) ∧
    ((rigSteps 0).kilnVariety 2 = some rig.table.varieties[0] ∧ ((rigSteps 0).kilns.schedules[0]).count = 0) ∧
    (((rigSteps 4).kilns.schedules[0]).count ≠ 0 ∧
      ∀ i < ((rigSteps 4).kilns.schedules[0]).count, ((rigSteps 4).stepAt (((rigSteps 4).kilns.schedules[0]).first + i)).kind ≠ .fin) ∧
    (4 < (rig.kilns.schedules[0]).count ∧ (rig.stepAt ((rig.kilns.schedules[0]).first + 4)).kind = .fin) ∧
    (rig.isOnline (rig.boundNode .probe 2) = true ∧ rig.isOnline (rig.boundNode .burner 2) = true) ∧
    (rig.setNode 7 { rig.node 7 with state := .lost }).isOnline
      ((rig.setNode 7 { rig.node 7 with state := .lost }).boundNode .burner 2) = false ∧
    (rig.kilnEntry 2).autoStart = false ∧ ((rigAuto rig).kilnEntry 2).autoStart = true ∧
    ((rigAuto rig).kilnVariety 2 = some rig.table.varieties[0] ∧
      (rigAuto rig).isOnline ((rigAuto rig).boundNode .probe 2) = true ∧
      (rigAuto rig).isOnline ((rigAuto rig).boundNode .burner 2) = true ∧
      ((rigAuto rig).stepAt (((rigAuto rig).kilns.schedules[0]).first + 4)).kind = .fin) ∧
    ((rigAuto (rigSteps 4)).kilnEntry 2).autoStart = true := by decide +kernel

theorem witness_KilnHoldAndSamples :
    rig.Ready ∧ (rig.kiln 3).state = .drying ∧
    ((rig.kiln 4).state = .hold ∧ (rig.kiln 4).hold.has .operator = true ∧ (rig.kiln 4).hold.has .limit = false) ∧
    ((rig.kiln 0).state ≠ .drying ∧ (rig.kiln 0).state ≠ .hold) ∧ 6 ≤ (6 : Byte).toNat ∧ kilnOf 0 = some 0 ∧ kilnOf 4 = some 4 ∧
    ((600 : Int) ≤ (rig.currentStep 3).limit ∧ (rig.currentStep 3).limit < 601) ∧
    ((rig.kiln 3).overLimit + 1 < (rig.kilnEntry 3).limitStreak ∧
      (rig.kilnEntry 3).limitStreak ≤ ((rig.updKiln 3 (fun r => { r with overLimit := 2 })).kiln 3).overLimit + 1) ∧
    (rig.currentStep 3).kind ≠ .dryTo ∧
    (((rigStep 2).kiln 3).state = .drying ∧ ((rigStep 2).currentStep 3).kind = .dryTo ∧
      (rigStep 2).kilnVariety 3 = some rig.table.varieties[0] ∧ rig.table.varieties[0].endHumidity < 501 ∧
      500 ≤ rig.table.varieties[0].endHumidity ∧ ((rigStep 2).kiln 3).dryQualify + 1 < rig.table.varieties[0].qualify ∧
      rig.table.varieties[0].qualify ≤ (((rigStep 2).updKiln 3 (fun r => { r with dryQualify := 1 })).kiln 3).dryQualify + 1) := by
  decide +kernel

theorem witness_KilnResumeAndAbort :
    rig.Ready ∧ 6 ≤ (6 : Byte).toNat ∧ 3 ≤ (3 : Byte).toNat ∧ kilnOf 4 = some 4 ∧
    (ResumeMode.ofCode (0 : Byte).toNat = some .continue ∧ ResumeMode.ofCode (2 : Byte).toNat = some .next ∧
      ResumeMode.ofCode (1 : Byte).toNat = some .extend) ∧
    (rig.kiln 3).state ≠ .hold ∧ ((rig.kiln 4).hold.overtime = false ∧ ResumeMode.extend ≠ .continue) ∧
    ((rig.updKiln 4 (fun r => { r with hold := { overtime := true } })).kiln 4).hold.overtime = true ∧
    (∃ a, ((rig.updKiln 4 (fun r => { r with lastAir := some 601 })).kiln 4).lastAir = some a ∧ (rig.currentStep 4).limit < a) ∧
    (∀ hold ∈ [({} : KilnHoldSet), { overtime := true }], ∀ s ∈ [rig.updKiln 4 (fun r => { r with hold := hold, lastAir := some 600 })],
      (s.kiln 4).state = .hold ∧ s.isOnline (s.boundNode .probe 4) = true ∧ s.isOnline (s.boundNode .burner 4) = true ∧
      (∀ a ∈ (s.kiln 4).lastAir, a ≤ (s.currentStep 4).limit) ∧ (s.kiln 4).charge = some { lot := 5, index := 3 }) ∧
    ((rig.kiln 0).state ≠ .loaded ∧ (rig.kiln 0).state ≠ .drying ∧ (rig.kiln 0).state ≠ .hold) ∧
    ((rig.kiln 2).charge = some { lot := 5, index := 1 } ∧ (rig.kiln 2).state = .loaded ∧
      (rig.kilnVariety 2).map (fun w => w.schedule) = some 0) ∧
    ((rig.kiln 3).charge = some { lot := 5, index := 2 } ∧ (rig.kiln 3).state = .drying ∧ (rig.kiln 3).schedule = some 0) ∧
    ((rig.kiln 4).state = .hold ∧ (rig.kiln 4).schedule = some 0) := by
  and_intros <;> decide +kernel

/-! ## The scale -/

/-- A converter frame with the idle word in progress. -/
def inFrame : ConverterFrame := { sends := 0, fromFifo := false }

theorem witness_ConverterFrames :
    rig.active = true ∧ (rigScale (fun c => { c with frame := some inFrame })).scale.frame ≠ none ∧
    (rig.scale.frame = none ∧ rig.scale.commands = []) ∧
    (rigScale (fun c => { c with commands := [1] })).scale.commands = 1 :: [] ∧
    (rigScale (fun c => { c with state := .settling })).scale.state = .settling ∧ rig.scale.state ≠ .settling ∧
    (∀ state ∈ [ScaleState.idle, .fault], ∀ a ∈ [none, some 5], ∀ good ∈ [0, 1], ∀ n ∈ [2, 3],
      ∀ c ∈ [{ rig.scale with
        frame := some inFrame, state := state, pendingA := a, good := good, samples := List.replicate n 0 }],
      c.frame = some inFrame ∧ c.state = state ∧ c.pendingA = a ∧ c.good = good ∧ c.samples.length = n) ∧
    ([0, 0, 5].length < rig.scale.setup.watermark ∧ rig.scale.setup.watermark ≤ [0, 0, 0, 5].length) ∧
    ((0x20 : Byte).getLsbD 5 = true ∧ (0x40 : Byte).getLsbD 5 = false ∧ (0x40 : Byte).getLsbD 6 = true ∧
      (0x80 : Byte).getLsbD 5 = false ∧ (0x80 : Byte).getLsbD 6 = false ∧ (0x80 : Byte).getLsbD 7 = true ∧
      (0x00 : Byte).getLsbD 7 = false) := by decide +kernel

/-- A history with one weight too few, with four equal weights, with a spread at the band and one above it; weights at the
capture, tracking and zero limits. -/
theorem witness_BlocksAndFaults :
    1 ≤ rig.scale.setup.stability ∧
    ([ScaleBlock.mk 0 (some 1), .mk 0 (some 1), .mk 0 (some 1)].filterMap (fun b => b.weight)).length < rig.scale.setup.stability ∧
    ([ScaleBlock.mk 0 none, .mk 0 (some 1), .mk 0 (some 6), .mk 0 (some 1), .mk 0 (some 1)].filterMap (fun b => b.weight)
        = [] ++ [1, 6, 1, 1] ∧ ([1, 6, 1, 1] : List Int).length = rig.scale.setup.stability ∧
      ∀ x ∈ ([1, 6, 1, 1] : List Int), ∀ y ∈ ([1, 6, 1, 1] : List Int), x - y ≤ rig.scale.setup.band) ∧
    (∃ x ∈ ([1, 7, 1, 1] : List Int), ∃ y ∈ ([1, 7, 1, 1] : List Int), (rig.scale.setup.band : Int) < x - y) ∧
    (rigScale (fun c => { c with state := .clearing })).scale.state = .clearing ∧ rig.scale.stable = none ∧
    (∀ w ∈ [(99 : Int), 100], (rigScale (fun c => { c with state := .settling, stable := some w })).scale.stable = some w) ∧
    (99 < (rig.scale.setup.minGross : Int) ∧ (rig.scale.setup.minGross : Int) ≤ 100) ∧
    rig.scale.setup.zeroTrackBand = 0 ∧
    ((rigScale (fun c => { c with stable := some (-5), setup := { c.setup with zeroTrackBand := 5 } })).scale.state = .idle ∧
      0 < (rigScale (fun c => { c with stable := some (-5), setup := { c.setup with zeroTrackBand := 5 } })).scale.setup.zeroTrackBand ∧
      (-5 : Int).natAbs ≤ 5 ∧ 5 < (-6 : Int).natAbs) ∧
    State.reset.scale.state = .unconfigured ∧
    (∀ state ∈ [ScaleState.idle, .settling, .clearing, .fault],
      (rigScale (fun c => { c with state := state })).scale.state = state) := by decide +kernel

theorem witness_ScaleRequests :
    rig.Ready ∧ State.reset.Ready ∧ State.reset.scale.state ≠ .idle ∧ (rig.scale.state = .idle ∧ rig.scale.stable = none) ∧
    (∀ w ∈ [(-200 : Int), 200, 201], (rigScale (fun c => { c with stable := some w })).Ready ∧
      (rigScale (fun c => { c with stable := some w })).scale.state = .idle ∧
      (rigScale (fun c => { c with stable := some w })).scale.stable = some w) ∧
    ((-200 : Int).natAbs ≤ rig.scale.setup.zeroLimit ∧ rig.scale.setup.zeroLimit < (201 : Int).natAbs) ∧
    (∀ n ∈ [3, 4], (rigScale (fun c => { c with commands := List.replicate n 0 })).Ready ∧
      (rigScale (fun c => { c with commands := List.replicate n 0 })).scale.commands.length = n) := by decide +kernel

/-! ## Bales and the press -/

theorem witness_OnScaleAndMoisture :
    (∀ state ∈ [ScaleState.idle, .settling, .clearing, .fault, .unconfigured],
      (rigScale (fun c => { c with state := state })).scale.state = state) ∧
    (rig.press.queue = 5 :: [] ∧ (rig.kiln 5).charge = some { lot := 5, index := 4 } ∧ (rig.lot? 5).isSome = true ∧
      (∀ l ∈ rig.lot? 5, l.baleCount < 65535) ∧ rig.press.bales.length < 256 ∧ 1 ≤ rig.tickets.nextBale ∧
      rig.tickets.nextBale ≤ 0xFFFFFFF0) ∧
    ((7 : Word32).toNat = (7 : Fin 8).val ∧ 8 ≤ (8 : Word32).toNat) ∧
    State.reset.press.queue = [] ∧
    (∀ n ∈ [255, 256], (rigPress (fun p => { p with bales := (List.range n).map (fun i => baleOf i .weighed) })).press.bales.length
      = n) ∧
    (∀ n ∈ [0, 1, 0xFFFFFFF0, 0xFFFFFFF1], (rigTickets (fun t => { t with nextBale := n })).tickets.nextBale = n) ∧
    (∃ l, (rig.updLot 5 (fun l => { l with baleCount := 65535 })).lot? 5 = some l ∧ 65535 ≤ l.baleCount) ∧
    State.reset.press.cycle = .none ∧ (rigPress (fun p => { p with cycle := .unrecorded })).press.cycle = .unrecorded ∧
    (∃ n, (rigPress (fun p => { p with cycle := .bale 96 })).press.cycle = .bale n ∧
      (rigPress (fun p => { p with cycle := .bale 96 })).bale? n = none) ∧
    (rig.press.cycle = .bale 99 ∧ rig.bale? 99 = some (baleOf 99 .weighing) ∧ (baleOf 99 .weighing).status ≠ .awaitingWeight ∧
      (rig.lot? (baleOf 99 .weighing).lot).isSome = true) ∧
    (rig.bale? 98 = some (baleOf 98 .awaitingWeight)) := by
  and_intros
  any_goals decide +kernel
  exact ⟨96, rfl, by decide +kernel⟩

theorem witness_BaleWeights :
    rig.Ready ∧ State.reset.press.cycle = .none ∧ (rigPress (fun p => { p with cycle := .unrecorded })).press.cycle = .unrecorded ∧
    (rig.press.cycle = .bale 99 ∧ rig.bale? 99 = some (baleOf 99 .weighing) ∧ (baleOf 99 .weighing).status = .weighing) ∧
    (∀ b ∈ (rigPress (fun p => { p with cycle := .bale 97 })).bale? 97, b.status ≠ .weighing) ∧
    (rig.lot? (baleOf 99 .weighing).lot).isSome = true ∧
    (∀ l ∈ rig.lot? 5, (399 < ((rig.varietyOf l).targetMin : Int) ∧ ¬ 400 < ((rig.varietyOf l).targetMin : Int)) ∧
      (((rig.varietyOf l).targetMax : Int) < 601 ∧ ¬ ((rig.varietyOf l).targetMax : Int) < 600)) ∧
    (2147483646 < (2147483647 : Word32).toNat ∧ (2147483646 : Word32).toNat ≤ 2147483646) ∧ rig.bale? (96 : Word32).toNat = none ∧
    (rig.bale? (97 : Word32).toNat = some (baleOf 97 .weighed) ∧ (baleOf 97 .weighed).status ≠ .awaitingWeight) ∧
    (rig.bale? (98 : Word32).toNat = some (baleOf 98 .awaitingWeight) ∧ (baleOf 98 .awaitingWeight).status = .awaitingWeight) := by
  decide +kernel

theorem witness_UnloadDone :
    rig.Ready ∧ State.reset.press.queue = [] ∧ (rig.press.queue = 5 :: [] ∧ (rig.kiln 5).charge = some { lot := 5, index := 4 }) ∧
    (rigPress (fun p => { p with queue := [5, 4] })).press.queue = 5 :: [4] ∧ rig.press.queue ≠ [] ∧ 6 ≤ (6 : Byte).toNat ∧
    kilnOf 5 = some 5 ∧ kilnOf 0 = some 0 ∧ rig.press.queue.head? = some 5 ∧ rig.press.queue.head? ≠ some 0 := by decide +kernel

/-- The free count at, above and below the threshold of 4. -/
theorem witness_PressHoldAndCommand :
    rig.Ready ∧ State.reset.press.queue = [] ∧
    (rig.press.queue ≠ [] ∧ rig.press.hold.store = false ∧ rig.press.hold.operator = false) ∧
    ((rigPress (fun p => { p with hold := { operator := true } })).press.hold.operator = true ∧
      (rigPress (fun p => { p with hold := { operator := true } })).press.command ≠ some .hold ∧
      (rigPress (fun p => { p with hold := { operator := true } })).pressWanted = some .hold) ∧
    rig.press.command = rig.pressWanted ∧
    ((rigPress (fun p => { p with queue := [] })).press.command ≠ none ∧
      (rigPress (fun p => { p with queue := [] })).pressWanted = none ∧
      (rigPress (fun p => { p with queue := [] })).roleNode .press = some 3 ∧
      ((rigPress (fun p => { p with queue := [] })).setNode 3 {}).roleNode .press = none) ∧
    rig.mgmt.station.threshold < 256 - rig.press.bales.length ∧
    (∀ n ∈ [251, 252, 256], ∀ held ∈ [false, true],
      (rigPress (fun p => { p with hold := { store := held }, bales := (List.range n).map (fun i => baleOf i .weighed) })).press.hold.store
        = held ∧
      (rigPress (fun p => { p with hold := { store := held }, bales := (List.range n).map (fun i => baleOf i .weighed) })).press.bales.length
        = n) ∧
    (rig.mgmt.station.threshold < 256 - 251 ∧ 256 - 252 ≤ rig.mgmt.station.threshold) ∧
    (1 < (2 : Byte).toNat ∧ (0 : Byte).toNat ≤ 1 ∧ (1 : Byte).toNat ≤ 1) := by decide +kernel

/-! ## Tickets -/

theorem witness_TicketBaseAndRead :
    rig.Ready ∧ State.reset.Ready ∧
    ((0 : Word32).toNat = 0 ∧ 0xFFFFFFF0 < (0xFFFFFFF1 : Word32).toNat ∧ 1 ≤ (1 : Word32).toNat ∧
      (0xFFFFFFF0 : Word32).toNat ≤ 0xFFFFFFF0) ∧
    rig.tickets.queue ≠ [] ∧ State.reset.tickets.queue = [] ∧ State.reset.tickets.wait = [] ∧
    (∀ s ∈ [rigTickets (fun t => { t with queue := [] })], s.Ready ∧ s.tickets.queue = [] ∧ s.tickets.wait = [] ∧
      (∃ n ∈ s.tickets.lastTicket, (9 : Word32).toNat ≤ n) ∧ (∃ n ∈ s.tickets.lastBale, (99 : Word32).toNat ≤ n) ∧
      (∀ n ∈ s.tickets.lastTicket, n < (10 : Word32).toNat) ∧ (∀ n ∈ s.tickets.lastBale, n < (100 : Word32).toNat)) ∧
    (∀ t ∈ rig.tickets.queue, (7 : Word32).toNat ≠ 0 ∧ t.number ≠ (7 : Word32).toNat) ∧
    (∀ t ∈ State.reset.tickets.queue, (0 : Word32).toNat ≠ 0 ∧ t.number ≠ (0 : Word32).toNat) ∧
    (rig.tickets.queue = [] ++ ticketOf 8 .printed :: [ticketOf 9 .unprinted] ∧ (0 : Word32).toNat = 0) ∧
    (rig.tickets.queue = [ticketOf 8 .printed] ++ ticketOf 9 .unprinted :: [] ∧ (9 : Word32).toNat ≠ 0 ∧
      (ticketOf 9 .unprinted).number = (9 : Word32).toNat ∧
      ∀ x ∈ [ticketOf 8 .printed], x.number ≠ (9 : Word32).toNat) := by
  and_intros <;> decide +kernel

/-- A run of 31 and one of 32 weighed bales in a charge that is being pressed; a pressed charge; the ends of the numbering. -/
theorem witness_TicketReadiness :
    rig.chargeReady { lot := 5, index := 4 } = false ∧
    (rigPress (fun p => { p with bales := (List.range 31).map (fun i => baleOf i .weighed) })).chargeReady { lot := 5, index := 4 }
      = false ∧
    ((rigPress (fun p => { p with bales := (List.range 32).map (fun i => baleOf i .weighed) })).chargeReady { lot := 5, index := 4 }
        = true ∧ (⟨5, 4⟩ : ChargeRef) ∉
      (rigPress (fun p => { p with bales := (List.range 32).map (fun i => baleOf i .weighed) })).tickets.wait) ∧
    ((rigPress (fun p => { p with bales := [] })).updCharge { lot := 5, index := 4 } (fun c => { c with state := .pressed })).chargeReady
      { lot := 5, index := 4 } = true ∧
    (⟨5, 4⟩ : ChargeRef) ∈ (rigTickets (fun t => { t with wait := [{ lot := 5, index := 4 }] })).tickets.wait ∧
    rig.tickets.wait = [] ∧
    (∀ n ∈ [1, 0xFFFFFFF0, 0, 0xFFFFFFF1], ∀ q ∈ [15, 16],
      (rigTickets (fun t => { t with
        nextTicket := n, wait := [{ lot := 5, index := 4 }], queue := List.replicate q (ticketOf 8 .printed) })).tickets.wait
          = { lot := 5, index := 4 } :: [] ∧
      (rigTickets (fun t => { t with
        nextTicket := n, wait := [{ lot := 5, index := 4 }], queue := List.replicate q (ticketOf 8 .printed) })).tickets.queue.length
          = q) := by decide +kernel

/-- A charge with a run, one with none that is not finished, and one that is pressed; every state of the print process; a printer
that is there, LOST and absent; a queue with an unprinted ticket and one without. -/
theorem witness_TicketComposition :
    ((rig.lot? 5).isSome = true ∧ (rig.charge? { lot := 5, index := 4 }).isSome = true ∧
      ((rig.press.bales.filter (fun b => decide (b.lot = 5 ∧ b.index = 4 ∧ b.ticket = none))).takeWhile
        (fun b => decide (b.status = .weighed))).take 32 = [baleOf 97 .weighed]) ∧
    (((rig.press.bales.filter (fun b => decide (b.lot = 5 ∧ b.index = 3 ∧ b.ticket = none))).takeWhile
        (fun b => decide (b.status = .weighed))).take 32 = [] ∧
      ∀ c ∈ rig.charge? { lot := 5, index := 3 }, decide (c.state = .pressed) = false) ∧
    (∀ c ∈ (rig.updCharge { lot := 5, index := 3 } (fun c => { c with state := .pressed })).charge? { lot := 5, index := 3 },
      decide (c.state = .pressed) = true) ∧
    (∀ p ∈ [PrintProcess.idle, .sending, .halted], (rigTickets (fun t => { t with process := p })).tickets.process = p) ∧
    State.reset.roleNode .printer = none ∧ rig.roleNode .printer = some 8 ∧ (rig.node 8).state ≠ .lost ∧
    ((rig.setNode 8 { rig.node 8 with state := .lost }).roleNode .printer = some 8 ∧
      ((rig.setNode 8 { rig.node 8 with state := .lost }).node 8).state = .lost) ∧
    (∀ t ∈ (rigTickets (fun t => { t with queue := [ticketOf 8 .printed] })).tickets.queue, t.print ≠ .unprinted) ∧
    (rig.tickets.queue = [ticketOf 8 .printed] ++ ticketOf 9 .unprinted :: [] ∧ (ticketOf 9 .unprinted).print = .unprinted ∧
      ∀ x ∈ [ticketOf 8 .printed], x.print ≠ .unprinted) := by decide +kernel

theorem witness_TicketTakeAndReprint :
    rig.Ready ∧ (∀ t ∈ rig.tickets.queue, t.number ≠ (7 : Word32).toNat) ∧
    (rig.tickets.queue = [] ++ ticketOf 8 .printed :: [ticketOf 9 .unprinted] ∧
      (ticketOf 8 .printed).number = (8 : Word32).toNat ∧ (ticketOf 8 .printed).print ≠ .printing) ∧
    (rig.tickets.queue = [ticketOf 8 .printed] ++ ticketOf 9 .unprinted :: [] ∧
      (ticketOf 9 .unprinted).number = (9 : Word32).toNat ∧ (∀ x ∈ [ticketOf 8 .printed], x.number ≠ (9 : Word32).toNat) ∧
      [ticketOf 8 .printed] ≠ [] ∧ (ticketOf 9 .unprinted).print = .unprinted) ∧
    (∀ p ∈ [PrintState.printing, .printed, .failed],
      (rigTickets (fun t => { t with queue := [ticketOf 8 p] })).tickets.queue = [] ++ ticketOf 8 p :: [] ∧
      (ticketOf 8 p).print = p) := by decide +kernel

/-! ## Shared operations, and what every step keeps -/

/-- A Notice Queue of 31, of 32 with an INFO that can give way, and of 32 ALARMs. -/
theorem witness_CommandedWritesAndNotices :
    (∀ e ∈ rig.field.commandQueue, ¬(e.node = 1 ∧ e.payload.code = (Commanded.feed .run).code)) ∧
    (∃ e ∈ (rigField (fun f => { f with commandQueue := [{ node := 1, payload := .feed .hold }] })).field.commandQueue,
      e.node = 1 ∧ e.payload.code = (Commanded.feed .run).code) ∧
    (∃ n ∈ (rigMgmt (fun m => { m with notices := [noticeOf .spill 5] })).mgmt.notices, n.kind = .spill ∧ n.object = 5) ∧
    (∀ n ∈ (rigMgmt (fun m => { m with notices := [noticeOf .spill 5] })).mgmt.notices, ¬(n.kind = .spill ∧ n.object = 6)) ∧
    ((List.range 31).map (noticeOf .spill)).length < 32 ∧ 32 ≤ ((List.range 32).map (noticeOf .spill)).length ∧
    (NoticeKind.kilnHold.isAlarm = true ∧
      (rigMgmt (fun m => { m with
        notices := (List.range 31).map (noticeOf .nodeLost) ++ noticeOf .spill 5 :: [] })).mgmt.notices
          = (List.range 31).map (noticeOf .nodeLost) ++ noticeOf .spill 5 :: [] ∧
      (noticeOf .spill 5).kind.isAlarm = false ∧ (noticeOf .spill 5).sending = false ∧
      ∀ x ∈ (List.range 31).map (noticeOf .nodeLost), ¬(x.kind.isAlarm = false ∧ x.sending = false)) ∧
    NoticeKind.spill.isAlarm = false ∧
    (∀ n ∈ (List.range 32).map (noticeOf .nodeLost), ¬(n.kind.isAlarm = false ∧ n.sending = false)) := by decide +kernel

/-- The small state with a command waiting. -/
def rigWaiting : State := { rig with pending := [.loadClose 0] }

theorem witness_step : ∃ t, step rigWaiting = .next t := ⟨_, rfl⟩

theorem witness_CapacitiesKept : rigWaiting.WithinCapacity ∧ rigWaiting.NoticeKeysUnique := by
  constructor
  · constructor <;> decide +kernel
  · unfold State.NoticeKeysUnique
    decide +kernel

theorem witness_GreenLawKept : rigWaiting.GreenLaw := by
  refine ⟨by decide +kernel, ?_, ?_, ?_, by decide +kernel, ?_, by decide +kernel⟩
  · have h : ∀ l ∈ rigWaiting.table.lots, l.greenTotal = (l.charges.map (fun c => c.green)).sum + l.spill := by decide +kernel
    exact h
  · intro n h
    have key : ∃ l ∈ rigWaiting.table.lots, l.number = 5 ∧ l.state = .feeding := by decide +kernel
    rcases h with h | h | h
    · obtain rfl : 5 = n := Option.some.inj h
      exact key
    · obtain rfl : 5 = n := Option.some.inj h
      exact key
    · cases h
  · intro k h
    obtain rfl : 1 = k := Option.some.inj h
    exact ⟨by decide +kernel, { lot := 5, index := 0 }, by decide +kernel, by decide +kernel, by decide +kernel⟩
  · have h : ∀ k ∈ rigWaiting.press.queue, (rigWaiting.kiln k).state = .dried ∨ (rigWaiting.kiln k).state = .unloading := by
      decide +kernel
    exact h

theorem witness_NumberingLawKept : rigWaiting.NumberingLaw := by
  refine ⟨by decide +kernel, ?_, ?_, by decide +kernel, ?_⟩
  · have h : ∀ b ∈ rigWaiting.press.bales, b.number ≤ 99 := by decide +kernel
    exact fun b hb => ⟨99, rfl, h b hb⟩
  · intro m h
    obtain rfl : 99 = m := Option.some.inj h
    decide +kernel
  · intro m h
    obtain rfl : 9 = m := Option.some.inj h
    decide +kernel

theorem witness_CommandsFollowKept : rigWaiting.CommandsFollow := ⟨by decide +kernel, by decide +kernel, by decide +kernel⟩

/-- Lot 5 with three bales and two tickets in hand, lot 9 with every charge TICKETED, and no lot 6. -/
theorem witness_AccountLawKept :
    rigWaiting.AccountLaw ∧ (∃ l ∈ rigWaiting.table.lots, l.charges ≠ [] ∧ ∀ c ∈ l.charges, c.state = .ticketed) ∧
    (∀ l ∈ rigWaiting.table.lots, l.number ≠ 6) := by
  refine ⟨?_, by decide +kernel, by decide +kernel⟩
  constructor
  case kilnCharge =>
    have key : ∀ k, ∀ r ∈ (rigWaiting.kiln k).charge, ∃ c ∈ rigWaiting.charge? r,
        c.kiln = k ∧ (rigWaiting.kiln k).state.chargeState = some c.state := by decide +kernel
    exact fun k r h => key k r h
  case bales =>
    have key : ∀ b ∈ rigWaiting.press.bales, ∃ c ∈ rigWaiting.charge? b.charge,
        (c.state = .pressing ∨ c.state = .pressed) ∧ (b.ticket = none → c.finalTicket = none) := by decide +kernel
    exact key
  case waits =>
    intro r h
    cases h
  case tickets =>
    have key : ∀ t ∈ rigWaiting.tickets.queue, ∃ c ∈ rigWaiting.charge? t.charge,
        (c.state = .pressing ∨ c.state = .pressed) ∧ (t.final = true → c.finalTicket = some t.number) := by decide +kernel
    exact key
  case listed =>
    have key : ∀ b ∈ rigWaiting.press.bales, b.ticket = none := by decide +kernel
    intro b hb n h
    rw [key b hb] at h
    cases h
  case accounted =>
    intro l h
    have key : ∀ l ∈ rigWaiting.table.lots,
        (l.baleCount = (rigWaiting.lotBales l.number).length + l.releasedBales ∧
          l.netTotal = wrap32 (netSum (rigWaiting.lotBales l.number) + l.releasedNet) ∧ wrap32 l.releasedNet = l.releasedNet) ∧
        l.baleCount = (l.charges.map (fun c => c.bales)).sum ∧ l.netTotal = wrap32 (l.charges.map (fun c => c.net)).sum ∧
        l.ticketsIssued = l.ticketsTaken + (rigWaiting.lotTickets l.number).length := by decide +kernel
    obtain ⟨⟨a, b, c⟩, d, e, f⟩ := key l h
    exact ⟨a, b, c, d, e, f⟩
  all_goals decide +kernel

theorem witness_NodeLawKept_choice : rig.ChoiceLaw ∧ (rigField (fun f => { f with pollQueue := [0], chosen := some .poll })).ChoiceLaw :=
  ⟨⟨fun _ c h => (by cases h), fun _ _ c h => (by cases c <;> cases h)⟩,
   ⟨fun _ c h => (by cases h; decide +kernel), fun _ _ _ _ => rfl⟩⟩

theorem witness_NodeLawKept : rigWaiting.NodeLaw := by
  constructor
  case singles =>
    have key : ∀ i j, (rigWaiting.node i).role = (rigWaiting.node j).role → (rigWaiting.node i).role ≠ none →
        (rigWaiting.node i).role ≠ some .probe → (rigWaiting.node i).role ≠ some .burner → i = j := by decide +kernel
    intro i j r hi hj hr
    refine key i j (by rw [hi, hj]) (by rw [hi]; simp) ?_ ?_
    all_goals
      rw [hi]
      rintro h
      cases h
      simp [Role.Single] at hr
  case commanded =>
    have key : ∀ i, (rigWaiting.node i).commanded = none ∨
        (i = 1 ∧ (rigWaiting.node i).commanded = some (.feed .run) ∧ (rigWaiting.node i).role = some .picker) ∨
        (i = 2 ∧ (rigWaiting.node i).commanded = some (.divert (some 1)) ∧ (rigWaiting.node i).role = some .diverter) ∨
        (i = 3 ∧ (rigWaiting.node i).commanded = some (.press .run) ∧ (rigWaiting.node i).role = some .press) := by
      decide +kernel
    intro i c h
    rcases key i with e | ⟨_, e, hr⟩ | ⟨_, e, hr⟩ | ⟨_, e, hr⟩
    all_goals
      rw [e] at h
      cases h
      try exact ⟨_, hr, rfl⟩
  case polled =>
    intro i h
    cases h
  case queued =>
    intro i h
    cases h
  all_goals decide +kernel
/-! ## One step on the small state -/

/-- The state after a command. -/
def after (c : Instr) (s : State) : State :=
  match exec c s with
  | .next t => t
  | _ => s

/-- The payload of the pending REPLY. -/
def replyOf (s : State) : List Byte := (s.classifier.reply.map (fun f => f.payload)).getD []

theorem test_check_word : crc [0x31, 0x32, 0x33, 0x34, 0x35, 0x36, 0x37, 0x38, 0x39] = 0x29B1 := by decide +kernel

theorem test_power_on : (after (.powerOn 5 1 2) State.reset).ownAddress = 0xE5 ∧
    (after (.powerOn 5 1 2) State.reset).link.upRate = 1 ∧ (after (.powerOn 5 1 2) State.reset).link.fpRate = 2 := by
  decide +kernel

theorem test_status : (replyOf (after (.status 9 0 0) rig)).take 8 = [0x01, 9, 0, 0, 0xB4, 0x16, 0x01, 0xE0] ∧
    (replyOf (after (.status 9 0 0) rig)).length = 38 ∧ (replyOf (after (.status 9 0 1) rig)).length = 39 := by decide +kernel

theorem test_time_set : replyOf (after (.timeSet 7 100) rig) = [0x04, 7, 0, 0, 0, 3, 0xE8, 0, 0, 0, 100] ∧
    (after (.timeSet 7 100) rig).mgmt.time = 100 := by decide +kernel

theorem test_request_over_the_wire :
    replyOf (after (.upstreamArrival (mkFrame 0xE0 0 0x60 [0x04, 7, 0, 0, 0, 100]).bytes) rig)
      = [0x04, 7, 0, 0, 0, 3, 0xE8, 0, 0, 0, 100] := by decide +kernel

theorem test_lot_open : replyOf (after (.lotOpen 1 6 2 0) rig) = [0x10, 1, 0, 0, 6, 0, 0, 3, 0xE8] ∧
    (after (.lotOpen 1 6 2 0) rig).table.lots.map (fun l => l.number) = [5, 6, 7, 9] := by decide +kernel

theorem test_lot_close : (after (.lotClose 1 9) rig).table.lots.map (fun l => l.number) = [5, 7] := by decide +kernel

theorem test_lot_feed : (after (.lotFeed 1 7) rig).feed.changeover = .draining (some 7) ∧
    (after (.lotFeed 1 7) rig).feed.timer = 900 ∧ (after (.lotFeed 1 7) rig).feed.picker = .hold := by decide +kernel

theorem test_changeover : (after .changeoverTimerExpiry (rigDrain (some 7))).feed.beltLot = some 7 ∧
    ((after .changeoverTimerExpiry (rigDrain (some 7))).kiln 1).state = .loaded := by decide +kernel

theorem test_green_reading : ((rig.green 0 1000).charge? { lot := 5, index := 0 }).map (fun c => c.green) = some 1000 ∧
    ((rig.green 0 1000).kiln 1).state = .loaded ∧ (rig.green 0 1000).feed.loading = some 0 := by
  decide +kernel

theorem test_kiln_start : replyOf (after (.kilnStart 1 2) rig) = [0x20, 1, 0, 2, 0, 3, 0, 1, 0x90] ∧
    ((after (.kilnStart 1 2) rig).kiln 2).state = .drying := by decide +kernel

theorem test_ramp_minute : ((after (.rampMinute 3) rig).kiln 3).setpoint = 50 ∧
    (after (.rampMinute 3) rig).field.commandQueue.map (fun e => e.node) = [5] := by decide +kernel

theorem test_step_end : ((after (.stepEnd 3) rig).kiln 3).stepIndex = 1 ∧ ((after (.stepEnd 3) rig).kiln 3).setpoint = 500 := by
  decide +kernel

theorem test_kiln_hold_and_abort : ((after (.kilnHold 1 3) rig).kiln 3).state = .hold ∧
    ((after (.kilnAbort 1 3) rig).kiln 3).state = .cooling ∧ ((after (.kilnResume 1 4 0) rig).kiln 4).state = .drying := by
  decide +kernel

theorem test_poll : ((after .fieldTransactionStart (rigField (fun f => { f with pollQueue := [0] }))).field.transaction.map
    (fun t => t.frames)) = some [mkFrame 0x10 0xE0 0x40 []] := by decide +kernel

/-- A command placed on the free segment does not displace the poll chosen before it: the poll is sent first (R38). -/
theorem test_choice_stands :
    (after (.cadenceExpiry 1) (rigField (fun f => { f with pollQueue := [0], chosen := some .poll }))).field.chosen = some .poll ∧
    (after .fieldTransactionStart
      (after (.cadenceExpiry 1) (rigField (fun f => { f with pollQueue := [0], chosen := some .poll })))).field.transaction.map
        (fun t => t.kind) = some .poll := by decide +kernel

/-- The states after an event: a busy segment, a standing choice, and the first source of each kind. -/
theorem witness_FieldTransactionStart_choice :
    ((after .fieldTransactionStart (rigFour none)).field.transaction ≠ none ∧
      (after .fieldTransactionStart (rigFour none)).field.chosen = none) ∧
    (after .linkSilent (rigFour (some .pass))).field.chosen = some .pass ∧
    (after .linkSilent (rigFour none)).field.chosen = some .command ∧
    (after .linkSilent (rigField (fun f => { f with printRequest := some 9 }))).field.chosen = some .print ∧
    (after .linkSilent (rigClass (fun c => { c with passQueue := [mkFrame 0x01 0 0x70 []] }))).field.chosen = some .pass ∧
    (after .linkSilent (rigField (fun f => { f with pollQueue := [0], chosen := some .command }))).field.chosen = some .poll ∧
    (after .linkSilent { rigFour none with
      field := { rig.field with pollQueue := [0], passStreak := 4 } }).field.chosen = some .poll ∧
    (after .linkSilent rig).field.chosen = none := by
  and_intros
  any_goals decide +kernel

theorem test_miss : ((after .transactionWindowExpiry (rigTx (txOf .poll))).node 0).misses = 1 ∧
    (after .transactionWindowExpiry (rigTx (txOf .poll))).field.transaction = none := by decide +kernel

theorem test_cadence : (after (.cadenceExpiry 1) rig).field.commandQueue.map (fun e => e.node) = [1, 2] ∧
    (after (.cadenceExpiry 1) rig).field.pollQueue = [5] := by decide +kernel

theorem test_converter_frame_sends_word_and_zeros :
    (after .converterFrameStart (rigScale (fun c => { c with commands := [0xA5] }))).scale.frame.map (fun f => f.sends)
      = some 0xA5000000 := by decide +kernel

theorem test_converter_block : (after (.converterFrameComplete 0x80 4) (rigScale (fun c => { c with
      frame := some inFrame, pendingA := some 4, samples := [8, 8, 8] }))).scale.lastBlock.map (fun b => b.raw) = some 8 := by
  decide +kernel

theorem test_bale_weight : ((after (.baleWeight 1 98 500) rig).bale? 98).map (fun b => (b.status, b.net)) = some (.weighed, some 500) := by
  decide +kernel

theorem test_unload_done : ((after (.unloadDone 1 5) rig).kiln 5).state = .empty ∧
    (after (.unloadDone 1 5) rig).press.command = none := by decide +kernel

theorem test_ticket_take : (after (.ticketTake 1 8) rig).tickets.queue = [ticketOf 9 .unprinted] := by decide +kernel

theorem test_ticket_read : (after (.ticketRead 1 9) rig).classifier.block.map (fun b => b.frames.length) = some 1 := by
  decide +kernel

theorem test_restart_station_in_use : replyOf (after (.restartStation 1) rig) = [0x05, 1, 4] := by decide +kernel

theorem test_ten_ticks_make_a_second : (rigMgmt (fun m => { m with ticks := 9 })).ownEvent = none ∧
    (rigMgmt (fun m => { m with ticks := 9 })).ticked.ownEvent = some .timeSecond := by decide +kernel

end Sys2Proof.Tests
end

section
/-! SUPPORT. A request row on a ready part, from what its request answers: the form in which the statements of the requests ask
for it, with the arbiter's choice left open. -/

namespace Sys2Proof.Proofs

open Sys2Proof.Machine

/-- A refused request row leaves all but the Request Buffer, the pending REPLY and the arbiter's choice as it was (R172). -/
theorem exec_eq_replied {c : Instr} {tag : Byte} {r : Request} (row : requestOf c = some (tag, r)) {s : State} (ready : s.Ready)
    {res : Result} (answer : performRequest r (s.admitted tag r) = refuse (s.admitted tag r) res) :
    ∃ ch, exec c s = .next (State.choosing ch (s.replied tag r res [])) := by
  rw [exec_request row, request_refused ready tag r answer]
  exact ⟨_, rfl⟩

/-- An accepted request row makes its effects on the state at its execution and its REPLY carries the data (R171, R172). -/
theorem exec_eq_performed {c : Instr} {tag : Byte} {r : Request} (row : requestOf c = some (tag, r)) {s : State}
    (ready : s.Ready) {f : State → State} {data : State → List Byte}
    (answer : performRequest r (s.admitted tag r) = accept (f (s.admitted tag r)) (data (f (s.admitted tag r)))) :
    ∃ ch, exec c s = .next (State.choosing ch (s.performed tag r f data)) := by
  rw [exec_request row, request_performed ready tag r answer]
  exact ⟨_, rfl⟩

end Sys2Proof.Proofs
end

section
/-! PROOF. The lot requests (R13, R15, R16): what each request answers, case by case in the order of its checks, and from that
the request rows. -/

namespace Sys2Proof.Proofs.Lots

open Sys2Proof.Machine

section Answers
variable {s : State} {lot grower : Word16} {variety : Byte} {v : Fin 16} {l : Lot}

/-! ## Lookups -/

theorem lot?_eq_none_iff {n : Nat} : s.lot? n = none ↔ ∀ l ∈ s.table.lots, l.number ≠ n := by
  simp [State.lot?]

theorem lot?_isSome_iff {n : Nat} : (s.lot? n).isSome ↔ ∃ l ∈ s.table.lots, l.number = n := by
  simp [State.lot?]

theorem openVariety_eq_some (named : v.val = variety.toNat) (valid : (s.table.varieties[v]).valid = true) :
    s.openVariety variety = some v := by
  have bound : variety.toNat < 16 := named ▸ v.isLt
  obtain rfl : v = ⟨variety.toNat, bound⟩ := Fin.ext named
  rw [State.openVariety, dif_pos bound]
  exact if_pos valid

theorem openVariety_eq_none (invalid : ∀ v : Fin 16, v.val = variety.toNat → (s.table.varieties[v]).valid = false) :
    s.openVariety variety = none := by
  unfold State.openVariety
  split
  · next bound =>
    have flag : (s.table.varieties[variety.toNat]).valid = false := invalid ⟨variety.toNat, bound⟩ rfl
    simp [flag]
  · rfl

theorem allTicketed_iff : l.allTicketed = true ↔ ∀ c ∈ l.charges, c.state = .ticketed := by
  simp [Lot.allTicketed]

/-! ## LOT-OPEN (R13) -/

theorem performLotOpen_notReady (h : s.mgmt.timeSet = false ∨ s.tickets.baseSet = false) :
    performLotOpen lot grower variety s = refuse s .notReady := by
  rcases h with h | h <;> simp [performLotOpen, h]

section TimeAndBaseSet
variable (time : s.mgmt.timeSet = true) (base : s.tickets.baseSet = true)
include time base

theorem performLotOpen_range (h : lot = 0 ∨ grower = 0 ∨ s.openVariety variety = none) :
    performLotOpen lot grower variety s = refuse s .range := by
  rcases h with h | h | h <;> simp [performLotOpen, time, base, h]

variable (hlot : lot ≠ 0) (hgrower : grower ≠ 0) (entry : s.openVariety variety = some v)
include hlot hgrower entry

/-- Past the checks for NOT-READY and RANGE, the Lot Table decides (R13, checks 3 and 4). -/
theorem performLotOpen_inRange :
    performLotOpen lot grower variety s =
      if (s.lot? lot.toNat).isSome then refuse s .conflict
      else if 24 ≤ s.table.lots.length then refuse s .full
      else accept (s.addLot (newLot lot.toNat grower.toNat v s.now)) (bytes16 lot ++ bytes32 s.now) := by
  have isReady : ¬ (!s.mgmt.timeSet || !s.tickets.baseSet) = true := by simp [time, base]
  have nonzero : ¬ (decide (lot = 0) || decide (grower = 0)) = true := by simpa using ⟨hlot, hgrower⟩
  rw [performLotOpen, if_neg isReady, if_neg nonzero, entry]
  rfl

theorem performLotOpen_conflict (taken : (s.lot? lot.toNat).isSome) :
    performLotOpen lot grower variety s = refuse s .conflict := by
  rw [performLotOpen_inRange time base hlot hgrower entry, if_pos taken]

theorem performLotOpen_full (free : s.lot? lot.toNat = none) (full : 24 ≤ s.table.lots.length) :
    performLotOpen lot grower variety s = refuse s .full := by
  rw [performLotOpen_inRange time base hlot hgrower entry, if_neg (by simp [free]), if_pos full]

theorem performLotOpen_accept (free : s.lot? lot.toNat = none) (room : s.table.lots.length < 24) :
    performLotOpen lot grower variety s =
      accept (s.addLot (newLot lot.toNat grower.toNat v s.now)) (bytes16 lot ++ bytes32 s.now) := by
  rw [performLotOpen_inRange time base hlot hgrower entry, if_neg (by simp [free]), if_neg room.not_ge]

end TimeAndBaseSet

/-! ## LOT-VOID and LOT-CLOSE (R15, R16) -/

theorem performLotVoid_unknown (h : s.lot? lot.toNat = none) : performLotVoid lot s = refuse s .unknown := by
  simp [performLotVoid, h]

theorem performLotVoid_state (h : s.lot? lot.toNat = some l) (notOpen : l.state ≠ .opened) :
    performLotVoid lot s = refuse s .state := by
  simp [performLotVoid, h, notOpen]

theorem performLotVoid_accept (h : s.lot? lot.toNat = some l) (opened : l.state = .opened) :
    performLotVoid lot s = accept (s.removeLot lot.toNat) (bytes16 lot) := by
  simp [performLotVoid, h, opened]

theorem performLotClose_unknown (h : s.lot? lot.toNat = none) : performLotClose lot s = refuse s .unknown := by
  simp [performLotClose, h]

theorem performLotClose_state (h : s.lot? lot.toNat = some l)
    (unfit : l.state ≠ .finished ∨ ∃ c ∈ l.charges, c.state ≠ .ticketed) :
    performLotClose lot s = refuse s .state := by
  have refused : ¬ (l.state = .finished ∧ l.allTicketed = true) := by
    rintro ⟨finished, ticketed⟩
    rcases unfit with notFinished | ⟨c, mem, notTicketed⟩
    · exact notFinished finished
    · exact notTicketed (allTicketed_iff.mp ticketed c mem)
  simp [performLotClose, h, refused]

theorem performLotClose_accept (h : s.lot? lot.toNat = some l) (finished : l.state = .finished)
    (ticketed : ∀ c ∈ l.charges, c.state = .ticketed) :
    performLotClose lot s = accept (s.removeLot lot.toNat) l.summary := by
  simp [performLotClose, h, finished, allTicketed_iff.mpr ticketed]

end Answers

/-! ## The request rows -/

/-- Settles O25: each row is the row of a ready part whose request answers as above. -/
theorem lotRequests : Obligations.LotRequests := by
  refine ⟨fun s tag lot grower variety ready => ⟨fun h => ?notReady, fun time base h => ?range,
      fun v named valid time base hlot hgrower =>
        ⟨fun taken => ?conflict, fun free full => ?full, fun free room => ?opened⟩⟩,
    Laws.Stores.insertLot_perm,
    fun s tag lot ready => ⟨fun absent => ⟨?voidUnknown, ?closeUnknown⟩,
      fun l found => ⟨fun h => ?voidState, fun h => ?voided, fun h => ?closeState, fun finished ticketed => ?closed⟩⟩⟩
  case notReady => exact exec_eq_replied rfl ready (performLotOpen_notReady h)
  case range =>
    exact exec_eq_replied rfl ready (performLotOpen_range time base (h.imp_right (Or.imp_right openVariety_eq_none)))
  case conflict =>
    exact exec_eq_replied rfl ready
      (performLotOpen_conflict time base hlot hgrower (openVariety_eq_some named valid) (lot?_isSome_iff.mpr taken))
  case full =>
    exact exec_eq_replied rfl ready
      (performLotOpen_full time base hlot hgrower (openVariety_eq_some named valid) (lot?_eq_none_iff.mpr free) full)
  case opened =>
    exact exec_eq_performed rfl ready
      (performLotOpen_accept time base hlot hgrower (openVariety_eq_some named valid) (lot?_eq_none_iff.mpr free) room)
  case voidUnknown => exact exec_eq_replied rfl ready (performLotVoid_unknown absent)
  case closeUnknown => exact exec_eq_replied rfl ready (performLotClose_unknown absent)
  case voidState => exact exec_eq_replied rfl ready (performLotVoid_state found h)
  case voided => exact exec_eq_performed rfl ready (performLotVoid_accept found h)
  case closeState => exact exec_eq_replied rfl ready (performLotClose_state found h)
  case closed => exact exec_eq_performed rfl ready (performLotClose_accept found finished ticketed)

end Sys2Proof.Proofs.Lots
end

section
/-! PROOF. The expiry of a cadence (R26, R27): what R27 does to one node, case by case, and from that the whole row. -/

namespace Sys2Proof.Proofs.Cadences

open Sys2Proof.Machine

/-! ## One node at the expiry (R27) -/

section OneNode
variable {c : CadenceId} {u : State} {i : NodeIdx}

theorem scheduleNode_eq_self (off : ¬ ((u.node i).address ≠ 0 ∧ (u.node i).cadence = some c)) :
    State.scheduleNode c u i = u := by
  simp only [State.scheduleNode, Bool.and_eq_true, decide_eq_true_eq, if_neg off]

section OnTheCadence
variable (on : (u.node i).address ≠ 0 ∧ (u.node i).cadence = some c)
include on

theorem scheduleNode_eq_placeCommand {v : Commanded} (commanded : (u.node i).commanded = some v)
    (unconfirmed : (u.node i).confirmed = false) : State.scheduleNode c u i = u.placeCommand i v := by
  simp only [State.scheduleNode, Bool.and_eq_true, decide_eq_true_eq, if_pos on, commanded, unconfirmed]

/-- A node without a command to repeat is polled: it joins the Poll Queue, or is found there still. -/
theorem scheduleNode_eq_poll (settled : (u.node i).commanded = none ∨ (u.node i).confirmed = true) :
    State.scheduleNode c u i =
      if i ∈ u.field.pollQueue then u.raise .pollOverrun c.val (u.node i).address.toNat
      else { u with field := { u.field with pollQueue := u.field.pollQueue ++ [i] } } := by
  simp only [State.scheduleNode, Bool.and_eq_true, decide_eq_true_eq, if_pos on, List.contains_iff_mem]
  rcases settled with idle | confirmed
  · rw [idle]
  · cases (u.node i).commanded <;> rw [confirmed]

end OnTheCadence
end OneNode

/-! ## The whole expiry (R26, R27) -/

theorem cadenceExpiry_disabled {s : State} {c : CadenceId} (disabled : s.field.cadences[c].enabled = false) :
    s.cadenceExpiry c = s := by
  rw [State.cadenceExpiry, if_neg (Bool.eq_false_iff.mp disabled)]

theorem cadenceExpiry_enabled {s : State} {c : CadenceId} (enabled : s.field.cadences[c].enabled = true) :
    s.cadenceExpiry c = (List.finRange 48).foldl (State.scheduleNode c)
      (s.updCadence c (fun d => { d with countdown := d.period })) := by
  rw [State.cadenceExpiry, if_pos enabled]

/-- Taking one node leaves the Node Table as it is, so a loop over the nodes may as well read the table as it stood before. -/
theorem foldl_scheduleNode_eq {c : CadenceId} {g : State → NodeIdx → State} {s : State}
    (agree : ∀ u i, u.node i = s.node i → State.scheduleNode c u i = g u i)
    (is : List NodeIdx) {u : State} (table : u.field.nodes = s.field.nodes) :
    is.foldl (State.scheduleNode c) u = is.foldl g u := by
  induction is generalizing u with
  | nil => rfl
  | cons i is ih =>
    have taken : State.scheduleNode c u i = g u i := agree u i (by simp only [State.node, table])
    have kept : (g u i).field.nodes = s.field.nodes := by rw [← taken, ← table]; simp
    rw [List.foldl_cons, List.foldl_cons, taken, ih kept]

theorem exec_cadenceExpiry {s : State} (active : s.active = true) (c : CadenceId) :
    ∃ ch, exec (.cadenceExpiry c) s = .next (State.choosing ch (s.cadenceExpiry c)) :=
  ⟨_, whileActive_active active⟩

/-- Settles O31: the nodes are taken in R27's cases, each from its entry as it stood before the expiry. -/
theorem cadenceExpiry : Obligations.CadenceExpiry := by
  intro s c active
  obtain ⟨ch, row⟩ := exec_cadenceExpiry active c
  refine ⟨fun disabled => ⟨ch, ?unchanged⟩, fun enabled => ⟨ch, ?taken⟩⟩
  case unchanged => rw [row, cadenceExpiry_disabled disabled]
  case taken =>
    rw [row, cadenceExpiry_enabled enabled]
    refine congrArg (fun t => Host.Outcome.next (State.choosing ch t))
      (foldl_scheduleNode_eq (s := s) (fun u i same => ?node) _ rfl)
    rw [← same]
    split
    next on =>
      split
      next v commanded unconfirmed => exact scheduleNode_eq_placeCommand on commanded unconfirmed
      next other =>
        have settled : (u.node i).commanded = none ∨ (u.node i).confirmed = true := by
          cases commanded : (u.node i).commanded with
          | none => exact .inl rfl
          | some v => exact .inr (Bool.eq_true_of_not_eq_false (other v commanded))
        exact scheduleNode_eq_poll on settled
    next off => exact scheduleNode_eq_self off

end Sys2Proof.Proofs.Cadences
end

section
/-! PROOF. The requests of the Feed and Loading Unit (R61, R69, R76): what each request answers, case by case in the order of its
checks, what an accepted LOT-FEED does, and from that the request rows. -/

namespace Sys2Proof.Proofs.FeedUnit

open Sys2Proof.Machine

/-! ## LOT-FEED (R61) -/

section LotFeed
variable {s : State} {lot : Word16} {new : Option Nat} (target : new = if lot = 0 then none else some lot.toNat)
include target

/-- The feed lot that the argument names, read from its value: 0 names none. -/
theorem target_of_toNat : (if lot.toNat = 0 then none else some lot.toNat) = new := by
  have zero_iff : lot.toNat = 0 ↔ lot = 0 := BitVec.toNat_inj (y := (0 : Word16))
  simp only [target, zero_iff]

theorem target_unknown_iff :
    new.any (fun n => (s.lot? n).isNone) = true ↔ lot ≠ 0 ∧ s.lot? lot.toNat = none := by
  by_cases zero : lot = 0
  · simp [target, zero]
  · rw [target, if_neg zero, and_iff_right zero]
    simp

theorem target_full_iff :
    (new.bind s.lot?).any (fun l => Config.chargeCapacity ≤ l.charges.length) = true ↔
      lot ≠ 0 ∧ ∃ l, s.lot? lot.toNat = some l ∧ Config.chargeCapacity ≤ l.charges.length := by
  by_cases zero : lot = 0
  · simp [target, zero]
  · rw [target, if_neg zero, and_iff_right zero]
    simp [Option.any_eq_true]

section SteadyAndKnown
variable (steady : s.feed.changeover = .steady) (known : lot = 0 ∨ s.lot? lot.toNat ≠ none)
include steady known

/-- With the changeover STEADY and the lot known, the current feed lot and the lot's charges decide (R61, checks 3 and 4). -/
theorem performLotFeed_known :
    performLotFeed lot s =
      if s.feed.feedLot = new then refuse s .state
      else if (new.bind s.lot?).any (fun l => Config.chargeCapacity ≤ l.charges.length) then refuse s .state
      else accept (feedEvent (fun t => t.feedLot new) s)
        (bytes16 lot ++ be16 s.mgmt.station.transit ++ [(feedEvent (fun t => t.feedLot new) s).feed.hold.byte]) := by
  have notUnknown : ¬ new.any (fun n => (s.lot? n).isNone) = true := by
    rw [target_unknown_iff target]
    rintro ⟨nonzero, absent⟩
    exact known.elim nonzero (· absent)
  simp only [performLotFeed, target_of_toNat target]
  rw [if_neg (not_not.mpr steady), if_neg notUnknown]

theorem performLotFeed_current (current : s.feed.feedLot = new) : performLotFeed lot s = refuse s .state := by
  rw [performLotFeed_known target steady known, if_pos current]

theorem performLotFeed_full {l : Lot} (found : s.lot? lot.toNat = some l) (nonzero : lot ≠ 0)
    (full : 6 ≤ l.charges.length) : performLotFeed lot s = refuse s .state := by
  rw [performLotFeed_known target steady known, if_pos ((target_full_iff target).mpr ⟨nonzero, l, found, full⟩), ite_self]

/-- Past the checks the request does what R61 says, in whatever form `f` gives that effect. -/
theorem performLotFeed_accept (other : s.feed.feedLot ≠ new)
    (room : ∀ l, s.lot? lot.toNat = some l → lot ≠ 0 → l.charges.length < 6)
    {f : State → State} (effect : s.feedLot new = f s) :
    performLotFeed lot s = accept (feedEvent f s)
      (bytes16 lot ++ be16 s.mgmt.station.transit ++ [(feedEvent f s).feed.hold.byte]) := by
  have notFull : ¬ (new.bind s.lot?).any (fun l => Config.chargeCapacity ≤ l.charges.length) = true := by
    rw [target_full_iff target]
    rintro ⟨nonzero, l, found, full⟩
    exact (room l found nonzero).not_ge full
  rw [performLotFeed_known target steady known, if_neg other, if_neg notFull, feedEvent_congr effect]

end SteadyAndKnown

/-- An accepted LOT-FEED: the feed lot, the changeover with its timer, CHANGEOVER and STOPPED, and the named lot go together;
a transit time of 0 expires at once (R61, R62). -/
theorem feedLot_eq :
    s.feedLot new =
      let u : State := { s with feed := { s.feed with
        feedLot := new, changeover := .draining new, timer := 10 * s.mgmt.station.transit
        hold := { s.feed.hold with changeover := true, stopped := decide (lot = 0) } } }
      let v := if lot = 0 then u else u.updLot lot.toNat (fun l => { l with state := .feeding })
      if s.mgmt.station.transit = 0 then v.changeoverExpiry else v := by
  by_cases zero : lot = 0
  · obtain rfl : new = none := target.trans (if_pos zero)
    simp only [zero, decide_true, if_true]
    rfl
  · obtain rfl : new = some lot.toNat := target.trans (if_neg zero)
    simp only [zero, decide_false, if_false]
    rfl

end LotFeed

section Answers
variable {s : State} {lot : Word16} {flag count : Byte} {kilns : List Byte} {ks : List Kiln}

theorem performLotFeed_changing (changing : s.feed.changeover ≠ .steady) : performLotFeed lot s = refuse s .state := by
  rw [performLotFeed, if_pos changing]

theorem performLotFeed_unknown (steady : s.feed.changeover = .steady) (nonzero : lot ≠ 0)
    (absent : s.lot? lot.toNat = none) : performLotFeed lot s = refuse s .unknown := by
  simp only [performLotFeed, target_of_toNat rfl]
  rw [if_neg (not_not.mpr steady), if_pos ((target_unknown_iff rfl).mpr ⟨nonzero, absent⟩)]

/-! ## FEED-HOLD (R76) -/

theorem performFeedHold_range (above : 1 < flag.toNat) : performFeedHold flag s = refuse s .range := by
  rw [performFeedHold, if_pos above]

theorem performFeedHold_accept (inRange : flag.toNat ≤ 1) :
    performFeedHold flag s =
      accept (feedEvent (fun t => t.updHold (fun h => { h with operator := decide (flag = 1) })) s)
        [(feedEvent (fun t => t.updHold (fun h => { h with operator := decide (flag = 1) })) s).feed.hold.byte] := by
  have set_iff : flag.toNat = 1 ↔ flag = 1 := BitVec.toNat_inj (y := (1 : Byte))
  simp only [performFeedHold, if_neg inRange.not_gt, set_iff]

/-! ## FILL-ORDER (R69) -/

theorem kilnsOf_map_byte (ks : List Kiln) : kilnsOf (ks.map (fun k => byte k.val)) = some ks := by
  induction ks with
  | nil => rfl
  | cons k ks ih => rw [List.map_cons, kilnsOf, kilnOf_byte, ih]

/-- One kiln number above 5 and the list names no kilns. -/
theorem kilnsOf_eq_none (above : ∃ b ∈ kilns, 5 < b.toNat) : kilnsOf kilns = none := by
  obtain ⟨b, mem, above⟩ := above
  induction mem with
  | head bs => rw [kilnsOf, kilnOf_none above]
  | tail a _ ih =>
    rw [kilnsOf, ih]
    cases kilnOf a <;> rfl

theorem performFillOrder_format (length : kilns.length ≠ count.toNat) :
    performFillOrder count kilns s = refuse s .format := by
  rw [performFillOrder, if_pos length]

theorem performFillOrder_range (length : kilns.length = count.toNat) (out : 6 < count.toNat ∨ ∃ b ∈ kilns, 5 < b.toNat) :
    performFillOrder count kilns s = refuse s .range := by
  rw [performFillOrder, if_neg (not_not.mpr length)]
  rcases out with many | above
  · rw [if_pos many]
  · rw [kilnsOf_eq_none above, ite_self]

section NamedKilns
variable (length : ks.length ≤ 6)
include length

/-- A list of at most 6 kilns passes the checks for FORMAT and RANGE. -/
theorem performFillOrder_named :
    performFillOrder (byte ks.length) (ks.map (fun k => byte k.val)) s =
      if !ks.Nodup then refuse s .conflict
      else accept (feedEvent (fun t => (t.updFeed (fun u => { u with fillOrder := ks })).attemptSelection) s)
        (byte ks.length :: ks.map (fun k => byte k.val)) := by
  have count_toNat : (byte ks.length).toNat = ks.length := byte_toNat (by omega)
  have counted : (ks.map (fun k => byte k.val)).length = (byte ks.length).toNat := by rw [List.length_map, count_toNat]
  rw [performFillOrder, if_neg (not_not.mpr counted), if_neg (by omega), kilnsOf_map_byte]

theorem performFillOrder_conflict (repeated : ¬ ks.Nodup) :
    performFillOrder (byte ks.length) (ks.map (fun k => byte k.val)) s = refuse s .conflict := by
  rw [performFillOrder_named length, if_pos (by simp [repeated])]

theorem performFillOrder_accept (distinct : ks.Nodup) :
    performFillOrder (byte ks.length) (ks.map (fun k => byte k.val)) s =
      accept (feedEvent (fun t => (t.updFeed (fun u => { u with fillOrder := ks })).attemptSelection) s)
        (byte ks.length :: ks.map (fun k => byte k.val)) := by
  rw [performFillOrder_named length, if_neg (by simp [distinct])]

end NamedKilns
end Answers

/-! ## The request rows -/

/-- Settles O33: each row is the row of a ready part whose request answers as above. -/
theorem feedRequests : Obligations.FeedRequests := by
  refine ⟨fun s tag lot ready new target => ⟨fun changing => ?changing, fun steady => ⟨fun nonzero absent => ?unknown,
      fun known => ⟨fun current => ?current, fun l found nonzero full => ?full, fun other room => ?fed⟩⟩⟩,
    fun s tag flag ready => ⟨fun inRange => ?held, fun above => ?flagRange⟩,
    fun s tag ks ready length count kilns hcount hkilns => ⟨fun distinct => ?ordered, fun repeated => ?conflict⟩,
    fun s tag count kilns ready => ⟨fun length => ?format, fun length out => ?orderRange⟩⟩
  case changing => exact exec_eq_replied rfl ready (performLotFeed_changing changing)
  case unknown => exact exec_eq_replied rfl ready (performLotFeed_unknown steady nonzero absent)
  case current => exact exec_eq_replied rfl ready (performLotFeed_current target steady known current)
  case full => exact exec_eq_replied rfl ready (performLotFeed_full target steady known found nonzero full)
  case fed =>
    exact exec_eq_performed rfl ready
      (performLotFeed_accept (s := s.admitted tag (.lotFeed lot)) target steady known other room (feedLot_eq target))
  case held => exact exec_eq_performed rfl ready (performFeedHold_accept inRange)
  case flagRange => exact exec_eq_replied rfl ready (performFeedHold_range above)
  case ordered =>
    subst hcount hkilns
    exact exec_eq_performed rfl ready (performFillOrder_accept length distinct)
  case conflict =>
    subst hcount hkilns
    exact exec_eq_replied rfl ready (performFillOrder_conflict length repeated)
  case format => exact exec_eq_replied rfl ready (performFillOrder_format length)
  case orderRange => exact exec_eq_replied rfl ready (performFillOrder_range length out)

end Sys2Proof.Proofs.FeedUnit
end

section
/-! PROOF. KILN-START, the start and auto-start (R95, R96, R97): the checks 3 to 6 that both share, what each of the two does with
them, and from that the request row. -/

namespace Sys2Proof.Proofs.KilnStarts

open Sys2Proof.Machine

/-! ## Checks 3 to 6 (R84, R96) -/

section Checks
variable {s : State} {k : Kiln} {d : Fin 8}

theorem hasEnd_iff {e : Schedule} :
    s.hasEnd e = true ↔ ∃ i, i < e.count ∧ (s.stepAt (e.first + i)).kind = .fin := by
  simp [State.hasEnd]

theorem hasEnd_eq_false_iff {e : Schedule} :
    s.hasEnd e = false ↔ ∀ i, i < e.count → (s.stepAt (e.first + i)).kind ≠ .fin := by
  simp [State.hasEnd]

theorem startRefusal_empty (empty : s.kilns.schedules[d].count = 0) : s.startRefusal k d = some .state := by
  rw [State.startRefusal, if_pos empty]

theorem startRefusal_format (nonempty : s.kilns.schedules[d].count ≠ 0)
    (endless : s.hasEnd s.kilns.schedules[d] = false) : s.startRefusal k d = some .format := by
  rw [State.startRefusal, if_neg nonempty, endless]
  rfl

/-- A descriptor with an END within its count is not empty, so the two nodes decide. -/
theorem startRefusal_runnable (ended : s.hasEnd s.kilns.schedules[d] = true) :
    s.startRefusal k d =
      if !s.isOnline (s.boundNode .probe k) then some .state
      else if !s.isOnline (s.boundNode .burner k) then some .state
      else none := by
  have nonempty : s.kilns.schedules[d].count ≠ 0 := by
    obtain ⟨i, inCount, -⟩ := hasEnd_iff.mp ended
    exact Nat.ne_zero_of_lt inCount
  rw [State.startRefusal, if_neg nonempty, ended]
  rfl

theorem startRefusal_offline (ended : s.hasEnd s.kilns.schedules[d] = true)
    (offline : s.isOnline (s.boundNode .probe k) = false ∨ s.isOnline (s.boundNode .burner k) = false) :
    s.startRefusal k d = some .state := by
  rw [startRefusal_runnable ended]
  rcases offline with probe | burner
  · simp [probe]
  · simp [burner]

theorem startRefusal_none (ended : s.hasEnd s.kilns.schedules[d] = true)
    (probe : s.isOnline (s.boundNode .probe k) = true) (burner : s.isOnline (s.boundNode .burner k) = true) :
    s.startRefusal k d = none := by
  simp [startRefusal_runnable ended, probe, burner]

theorem startRefusal_ne_none
    (unfit : s.hasEnd s.kilns.schedules[d] = false ∨ s.isOnline (s.boundNode .probe k) = false ∨
      s.isOnline (s.boundNode .burner k) = false) :
    s.startRefusal k d ≠ none := by
  cases ended : s.hasEnd s.kilns.schedules[d] with
  | true =>
    rw [startRefusal_offline ended (unfit.resolve_left (ne_false_of_eq_true ended))]
    exact Option.some_ne_none _
  | false =>
    by_cases empty : s.kilns.schedules[d].count = 0
    · simp [startRefusal_empty empty]
    · simp [startRefusal_format empty ended]

end Checks

/-! ## KILN-START (R96) -/

section KilnStart
variable {s : State} {b : Byte} {k : Kiln} {w : Variety}

theorem performKilnStart_range (out : 6 ≤ b.toNat) : performKilnStart b s = refuse s .range := by
  rw [performKilnStart, kilnOf_none out]

variable (named : kilnOf b = some k)
include named

theorem performKilnStart_notLoaded (other : (s.kiln k).state ≠ .loaded) : performKilnStart b s = refuse s .state := by
  simp only [performKilnStart, named, if_pos other]

variable (loaded : (s.kiln k).state = .loaded) (variety : s.kilnVariety k = some w)
include loaded variety

theorem performKilnStart_refused {r : Result} (refused : s.startRefusal k w.schedule = some r) :
    performKilnStart b s = refuse s r := by
  simp only [performKilnStart, named, if_neg (not_not.mpr loaded), variety, refused]

theorem performKilnStart_accept (fit : s.startRefusal k w.schedule = none) :
    performKilnStart b s =
      accept (s.startRun k w.schedule)
        ([b, byte w.schedule.val, byte ((s.startRun k w.schedule).kiln k).state.code,
          byte ((s.startRun k w.schedule).kiln k).stepIndex] ++ int16 ((s.startRun k w.schedule).kiln k).setpoint) := by
  simp only [performKilnStart, named, if_neg (not_not.mpr loaded), variety, fit]

/-- A check of 3 to 6 that fails refuses the request row (R96). -/
theorem exec_kilnStart_refused {tag : Byte} (ready : s.Ready) {r : Result}
    (refused : s.startRefusal k w.schedule = some r) :
    ∃ ch, exec (.kilnStart tag b) s = .next (State.choosing ch (s.replied tag (.kilnStart b) r [])) :=
  exec_eq_replied rfl ready
    (performKilnStart_refused (s := s.admitted tag (.kilnStart b)) named loaded variety refused)

end KilnStart

/-! ## Auto-start (R97) -/

section AutoStart
variable {s : State} {k : Kiln} {w : Variety}

theorem autoStart_off (off : (s.kilnEntry k).autoStart = false) : s.autoStart k = s := by
  rw [State.autoStart, if_neg (by simp [off])]

theorem autoStart_on (on : (s.kilnEntry k).autoStart = true) (variety : s.kilnVariety k = some w) :
    s.autoStart k = if s.startRefusal k w.schedule = none then s.startRun k w.schedule else s := by
  simp only [State.autoStart, if_pos on, variety]

end AutoStart

/-- Settles O39: KILN-START and auto-start both decide by checks 3 to 6, and a start is the one that R95 says. -/
theorem kilnStart : Obligations.KilnStart := by
  refine ⟨fun s tag b ready => ⟨fun out => ?range, fun k named => ⟨fun other => ?notLoaded, ?loaded⟩⟩,
    fun s k => ⟨autoStart_off, ?auto⟩⟩
  case range => exact exec_eq_replied rfl ready (performKilnStart_range out)
  case notLoaded => exact exec_eq_replied rfl ready (performKilnStart_notLoaded named other)
  case loaded =>
    rintro w loaded variety d rfl
    refine ⟨fun empty => ?empty, fun nonempty endless => ?format, fun ended => ⟨fun offline => ?offline,
      fun probe burner => ?started⟩⟩
    case empty => exact exec_kilnStart_refused named loaded variety ready (startRefusal_empty empty)
    case format =>
      exact exec_kilnStart_refused named loaded variety ready
        (startRefusal_format nonempty (hasEnd_eq_false_iff.mpr endless))
    case offline =>
      exact exec_kilnStart_refused named loaded variety ready (startRefusal_offline (hasEnd_iff.mpr ended) offline)
    case started =>
      exact exec_eq_performed rfl ready (performKilnStart_accept named loaded variety
        (startRefusal_none (hasEnd_iff.mpr ended) probe burner))
  case auto =>
    rintro w d on variety rfl
    rw [autoStart_on on variety]
    refine ⟨fun ended probe burner => ?started, fun unfit => ?unchanged⟩
    case started => exact if_pos (startRefusal_none (hasEnd_iff.mpr ended) probe burner)
    case unchanged => exact if_neg (startRefusal_ne_none (unfit.imp_left hasEnd_eq_false_iff.mpr))

end Sys2Proof.Proofs.KilnStarts
end

section
/-! PROOF. Holding a kiln and the samples with their streaks (R93, R94, R98 to R100): what a hold cause does by the kiln's state,
what KILN-HOLD answers, and each sample by the streak it meets. -/

namespace Sys2Proof.Proofs.KilnHolds

open Sys2Proof.Machine

/-! ## A hold cause (R98, R99) -/

section HoldCause
variable {s : State} {k : Kiln} {reason : HoldReason}

theorem holdKiln_drying (drying : (s.kiln k).state = .drying) :
    s.holdKiln k reason =
      ((s.updKiln k (fun r => { r with
        state := .hold, hold := r.hold.add reason, overLimit := 0, dryQualify := 0 })).writeBurner k).raise
          .kilnHold k.val reason.code := by
  simp only [State.holdKiln, drying]

theorem holdKiln_held (held : (s.kiln k).state = .hold) :
    s.holdKiln k reason =
      if (s.kiln k).hold.has reason then s
      else (s.updKiln k (fun r => { r with hold := r.hold.add reason })).raise .kilnHold k.val reason.code := by
  simp only [State.holdKiln, held]

theorem holdKiln_other (notDrying : (s.kiln k).state ≠ .drying) (notHeld : (s.kiln k).state ≠ .hold) :
    s.holdKiln k reason = s := by
  cases state : (s.kiln k).state with
  | drying => exact absurd state notDrying
  | hold => exact absurd state notHeld
  | empty | loading | loaded | cooling | dried | unloading => simp only [State.holdKiln, state]

/-- A reason added is in the set, and the others are as they were. -/
theorem has_add (h : KilnHoldSet) (r q : HoldReason) : (h.add r).has q = (h.has q || decide (q = r)) := by
  cases r <;> cases q <;> simp [KilnHoldSet.add, KilnHoldSet.has]

end HoldCause

/-! ## KILN-HOLD (R100) -/

section KilnHold
variable {s : State} {b : Byte} {k : Kiln}

theorem performKilnHold_range (out : 6 ≤ b.toNat) : performKilnHold b s = refuse s .range := by
  rw [performKilnHold, kilnOf_none out]

theorem performKilnHold_state (named : kilnOf b = some k) (notDrying : (s.kiln k).state ≠ .drying)
    (notHeld : (s.kiln k).state ≠ .hold) : performKilnHold b s = refuse s .state := by
  simp [performKilnHold, named, notDrying, notHeld]

theorem performKilnHold_accept (named : kilnOf b = some k)
    (running : (s.kiln k).state = .drying ∨ (s.kiln k).state = .hold) :
    performKilnHold b s = accept (s.holdKiln k .operator) [((s.holdKiln k .operator).kiln k).hold.byte] := by
  simp [performKilnHold, named, running]

end KilnHold

/-! ## A KILN-AIR reading (R93) -/

section Air
variable {s t u : State} {k : Kiln} {value v : Int} (reading : v = max (-32768) (min 32767 value))
  (stored : t = s.updKiln k (fun r => { r with lastAir := some v, lastAirTime := some s.mgmt.time }))
include reading stored

theorem kilnAir_stored (other : (s.kiln k).state ≠ .drying) : s.kilnAir k value = t := by
  subst reading stored
  rw [State.kilnAir, if_neg other]
  rfl

variable (drying : (s.kiln k).state = .drying)
include drying

theorem kilnAir_within (within : v ≤ (s.currentStep k).limit) :
    s.kilnAir k value = t.updKiln k (fun r => { r with overLimit := 0 }) := by
  subst reading stored
  rw [State.kilnAir, if_pos drying]
  exact if_neg within.not_gt

theorem kilnAir_above (above : (s.currentStep k).limit < v)
    (counted : u = t.updKiln k (fun r => { r with overLimit := r.overLimit + 1 })) :
    s.kilnAir k value = if (s.kilnEntry k).limitStreak ≤ (s.kiln k).overLimit + 1 then u.holdKiln k .limit else u := by
  subst reading stored counted
  rw [State.kilnAir, if_pos drying]
  exact if_pos above

end Air

/-! ## A KILN-EXHAUST reading (R94) -/

section Exhaust
variable {s t u : State} {k : Kiln} {value : Int} {v : Nat} {w : Variety} (reading : v = (max 0 (min 65535 value)).toNat)
  (stored : t = s.updKiln k (fun r => { r with lastExhaust := some v, lastExhaustTime := some s.mgmt.time }))
include reading stored

theorem kilnExhaust_stored (other : (s.kiln k).state ≠ .drying ∨ (s.currentStep k).kind ≠ .dryTo) :
    s.kilnExhaust k value = t := by
  have notDryTo : ¬ (decide ((s.kiln k).state = .drying) && decide ((s.currentStep k).kind = .dryTo)) = true := by
    rw [Bool.and_eq_true, decide_eq_true_eq, decide_eq_true_eq]
    exact not_and_or.mpr other
  subst reading stored
  rw [State.kilnExhaust, if_neg notDryTo]
  rfl

variable (drying : (s.kiln k).state = .drying) (dryTo : (s.currentStep k).kind = .dryTo)
  (variety : s.kilnVariety k = some w)
include drying dryTo variety

/-- In a DRY-TO step the variety's end humidity and its Q decide (R94). -/
theorem kilnExhaust_dryTo :
    s.kilnExhaust k value =
      if v ≤ w.endHumidity then
        if w.qualify ≤ (s.kiln k).dryQualify + 1 then
          (t.updKiln k (fun r => { r with dryQualify := r.dryQualify + 1 })).nextStep k
        else t.updKiln k (fun r => { r with dryQualify := r.dryQualify + 1 })
      else t.updKiln k (fun r => { r with dryQualify := 0 }) := by
  subst reading stored
  rw [State.kilnExhaust, if_pos (by simp [drying, dryTo]), variety]
  rfl

theorem kilnExhaust_moist (moist : w.endHumidity < v) :
    s.kilnExhaust k value = t.updKiln k (fun r => { r with dryQualify := 0 }) := by
  rw [kilnExhaust_dryTo reading stored drying dryTo variety, if_neg moist.not_ge]

theorem kilnExhaust_dry (dry : v ≤ w.endHumidity)
    (counted : u = t.updKiln k (fun r => { r with dryQualify := r.dryQualify + 1 })) :
    s.kilnExhaust k value = if w.qualify ≤ (s.kiln k).dryQualify + 1 then u.nextStep k else u := by
  rw [kilnExhaust_dryTo reading stored drying dryTo variety, if_pos dry, counted]

end Exhaust

/-- Settles O40: a hold cause, KILN-HOLD and the two samples, each by the kiln's state and its streak. -/
theorem kilnHoldAndSamples : Obligations.KilnHoldAndSamples := by
  refine ⟨fun s k reason => ⟨holdKiln_drying, fun held old => ?old, fun held new => ?new, holdKiln_other⟩, has_add,
    fun s tag b ready => ⟨fun out => ?range, fun k named => ⟨fun notDrying notHeld => ?state, fun running => ?held⟩⟩,
    fun s k value v reading t stored => ⟨kilnAir_stored reading stored, kilnAir_within reading stored,
      fun drying above u counted => ?air⟩,
    fun s k value v reading t stored => ⟨kilnExhaust_stored reading stored, fun w drying dryTo variety =>
      ⟨kilnExhaust_moist reading stored drying dryTo variety, fun dry u counted => ?exhaust⟩⟩⟩
  case old => rw [holdKiln_held held, if_pos old]
  case new => rw [holdKiln_held held, if_neg (by simp [new])]
  case range => exact exec_eq_replied rfl ready (performKilnHold_range out)
  case state => exact exec_eq_replied rfl ready (performKilnHold_state named notDrying notHeld)
  case held => exact exec_eq_performed rfl ready (performKilnHold_accept named running)
  case air =>
    rw [kilnAir_above reading stored drying above counted]
    exact ⟨fun short => if_neg short.not_ge, fun reached => if_pos reached⟩
  case exhaust =>
    rw [kilnExhaust_dry reading stored drying dryTo variety dry counted]
    exact ⟨fun short => if_neg short.not_ge, fun reached => if_pos reached⟩

end Sys2Proof.Proofs.KilnHolds
end

section
/-! PROOF. KILN-RESUME and KILN-ABORT (R101, R102): the checks as the rules say them, what each accepted request does, and from
that the request rows. -/

namespace Sys2Proof.Proofs.KilnResumes

open Sys2Proof.Machine

/-! ## The kiln record and its charge -/

section Records
variable {s : State} {k : Kiln} {r : ChargeRef}

theorem updKilnCharge_eq (charged : (s.kiln k).charge = some r) (f : Charge → Charge) :
    s.updKilnCharge k f = s.updCharge r f := by
  simp only [State.updKilnCharge, charged]

/-- A change of a kiln record to what it is already changes nothing. -/
theorem updKiln_eq_self {f : KilnRun → KilnRun} (same : f (s.kiln k) = s.kiln k) : s.updKiln k f = s := by
  rw [updKiln_congr s k f id same]
  simp [State.updKiln]

theorem updCharge_updKiln (f : KilnRun → KilnRun) (g : Charge → Charge) :
    (s.updKiln k f).updCharge r g = (s.updCharge r g).updKiln k f := rfl

theorem abortMinutes_eq {d : Fin 8} (scheduled : (s.kiln k).schedule = some d) :
    s.abortMinutes k = s.kilns.schedules[d].abortCoolMinutes := by
  simp only [State.abortMinutes, scheduled]

end Records

/-! ## KILN-RESUME (R101) -/

section Resume
variable {s t : State} {b mode : Byte} {k : Kiln} {m : ResumeMode}

theorem ofCode_eq_none {n : Nat} (above : 3 ≤ n) : ResumeMode.ofCode n = none := by
  match n, above with
  | _ + 3, _ => rfl

/-- Checks 3 to 6 pass: OVERTIME calls for EXTEND or NEXT, its absence for CONTINUE, both nodes are ONLINE, and the last air
sample, if there is one, is within the step's limit. -/
theorem resumable_iff :
    s.resumable k m = true ↔
      ((s.kiln k).hold.overtime = true ↔ m ≠ .continue) ∧ s.isOnline (s.boundNode .probe k) = true ∧
        s.isOnline (s.boundNode .burner k) = true ∧
        ∀ a, (s.kiln k).lastAir = some a → a ≤ (s.currentStep k).limit := by
  have modeFits : ((s.kiln k).hold.overtime == decide (m ≠ .continue)) = true ↔
      ((s.kiln k).hold.overtime = true ↔ m ≠ .continue) := by
    rw [beq_iff_eq, Bool.eq_iff_iff, decide_eq_true_eq]
  rw [State.resumable, Bool.and_eq_true, Bool.and_eq_true, Bool.and_eq_true, modeFits, and_assoc, and_assoc]
  cases (s.kiln k).lastAir <;> simp

/-- One of checks 3 to 6 that fails is enough. -/
theorem not_resumable
    (unfit : ((s.kiln k).hold.overtime = true ∧ m = .continue) ∨ ((s.kiln k).hold.overtime = false ∧ m ≠ .continue) ∨
      s.isOnline (s.boundNode .probe k) = false ∨ s.isOnline (s.boundNode .burner k) = false ∨
      ∃ a, (s.kiln k).lastAir = some a ∧ (s.currentStep k).limit < a) :
    ¬ s.resumable k m = true := by
  rw [resumable_iff]
  rintro ⟨modeFits, probe, burner, air⟩
  rcases unfit with ⟨overtime, continues⟩ | ⟨inTime, other⟩ | offline | offline | ⟨a, last, above⟩
  · exact modeFits.mp overtime continues
  · simp [modeFits.mpr other] at inTime
  · simp [probe] at offline
  · simp [burner] at offline
  · exact (air a last).not_gt above

theorem performKilnResume_range (out : 6 ≤ b.toNat ∨ 3 ≤ mode.toNat) : performKilnResume b mode s = refuse s .range := by
  rcases out with noKiln | noMode
  · simp only [performKilnResume, kilnOf_none noKiln]
  · rw [performKilnResume, ofCode_eq_none noMode]
    cases kilnOf b <;> rfl

section InRange
variable (named : kilnOf b = some k) (known : ResumeMode.ofCode mode.toNat = some m)
include named known

theorem performKilnResume_named :
    performKilnResume b mode s =
      if (s.kiln k).state = .hold ∧ s.resumable k m = true then
        accept (s.resume k m) [byte ((s.resume k m).kiln k).state.code, byte ((s.resume k m).kiln k).stepIndex]
      else refuse s .state := by
  simp only [performKilnResume, named, known, Bool.and_eq_true, decide_eq_true_eq]

theorem performKilnResume_state (unfit : (s.kiln k).state ≠ .hold ∨ ¬ s.resumable k m = true) :
    performKilnResume b mode s = refuse s .state := by
  rw [performKilnResume_named named known, if_neg (not_and_or.mpr unfit)]

/-- Past the checks the request does what R101 says, in whatever form `t` gives that effect. -/
theorem performKilnResume_accept (held : (s.kiln k).state = .hold) (fit : s.resumable k m = true)
    (effect : s.resume k m = t) :
    performKilnResume b mode s = accept t [byte (t.kiln k).state.code, byte (t.kiln k).stepIndex] := by
  rw [performKilnResume_named named known, if_pos ⟨held, fit⟩, effect]

end InRange

/-- An accepted KILN-RESUME: the charge's flags, the emptied set and the streaks, then the mode (R101). -/
theorem resume_eq {r : ChargeRef} (charged : (s.kiln k).charge = some r) :
    s.resume k m =
      let u := (s.updCharge r (fun c => { c with
          held := true, overtime := c.overtime || (s.kiln k).hold.overtime })).updKiln k
        (fun x => { x with hold := {}, overLimit := 0, dryQualify := 0 })
      match m with
      | .continue => (u.updKiln k (fun x => { x with state := .drying })).writeBurner k
      | .extend => (u.updKiln k (fun x => { x with
          state := .drying, stepElapsed := 0, stepFraction := 0 })).writeBurner k
      | .next => (u.updKiln k (fun x => { x with stepIndex := x.stepIndex + 1 })).enterStep k := by
  cases m with
  | next => rw [State.resume, updKilnCharge_eq charged, State.nextStep]
  | _ => rw [State.resume, updKilnCharge_eq charged]

end Resume

/-! ## KILN-ABORT (R102) -/

section Abort
variable {s t : State} {b : Byte} {k : Kiln} {d : Fin 8}

/-- What R102 gives the schedule and total elapsed, in one change of the record: a LOADED kiln takes its variety's schedule and
total elapsed 0, and a kiln that has started keeps both. -/
theorem takeSchedule_eq
    (scheduled : (s.kiln k).state = .loaded ∧ (s.kilnVariety k).map (fun w => w.schedule) = some d ∨
      ((s.kiln k).state = .drying ∨ (s.kiln k).state = .hold) ∧ (s.kiln k).schedule = some d) :
    (if (s.kiln k).state = .loaded then
      s.updKiln k (fun r => { r with
        schedule := (s.kilnVariety k).map (fun w => w.schedule), totalElapsed := 0, totalFraction := 0 })
    else s) =
      s.updKiln k (fun x => { x with
        schedule := some d
        totalElapsed := if x.state = .loaded then 0 else x.totalElapsed
        totalFraction := if x.state = .loaded then 0 else x.totalFraction }) := by
  rcases scheduled with ⟨loaded, variety⟩ | ⟨started, own⟩
  · rw [if_pos loaded, variety]
    exact updKiln_congr _ _ _ _ (by simp only [loaded, if_true])
  · have notLoaded : (s.kiln k).state ≠ .loaded := by rcases started with state | state <;> simp [state]
    rw [if_neg notLoaded, updKiln_eq_self]
    simp only [if_neg notLoaded, ← own]

/-- An accepted KILN-ABORT: the flags, the cleared fields and the schedule, then DRIED or COOLING by the abort cool minutes
(R102). -/
theorem abort_eq {r : ChargeRef} (charged : (s.kiln k).charge = some r)
    (scheduled : (s.kiln k).state = .loaded ∧ (s.kilnVariety k).map (fun w => w.schedule) = some d ∨
      ((s.kiln k).state = .drying ∨ (s.kiln k).state = .hold) ∧ (s.kiln k).schedule = some d) :
    s.abort k =
      let u := (s.updCharge r (fun c => { c with aborted := true })).updKiln k (fun x => { x with
        schedule := some d, aborted := true, hold := {}, overLimit := 0, dryQualify := 0
        stepElapsed := 0, stepFraction := 0
        totalElapsed := if x.state = .loaded then 0 else x.totalElapsed
        totalFraction := if x.state = .loaded then 0 else x.totalFraction })
      if (s.kilns.schedules[d]).abortCoolMinutes = 0 then u.kilnDried k
      else (u.updKiln k (fun x => { x with state := .cooling })).writeBurner k := by
  simp only [State.abort, takeSchedule_eq scheduled]
  rw [updKilnCharge_eq (r := r) (by rw [kiln_updKiln_self, charged]), updCharge_updKiln, updKiln_updKiln,
    abortMinutes_eq (d := d) (by rw [kiln_updKiln_self])]
  rfl

theorem performKilnAbort_range (out : 6 ≤ b.toNat) : performKilnAbort b s = refuse s .range := by
  rw [performKilnAbort, kilnOf_none out]

section InRange
variable (named : kilnOf b = some k)
include named

theorem performKilnAbort_state (notLoaded : (s.kiln k).state ≠ .loaded) (notDrying : (s.kiln k).state ≠ .drying)
    (notHeld : (s.kiln k).state ≠ .hold) : performKilnAbort b s = refuse s .state := by
  simp [performKilnAbort, named, notLoaded, notDrying, notHeld]

/-- A LOADED, DRYING or held kiln is aborted as R102 says, in whatever form `t` gives that effect. -/
theorem performKilnAbort_accept
    (running : (s.kiln k).state = .loaded ∨ (s.kiln k).state = .drying ∨ (s.kiln k).state = .hold)
    (effect : s.abort k = t) : performKilnAbort b s = accept t [byte (t.kiln k).state.code] := by
  simp [performKilnAbort, named, or_assoc, running, effect]

end InRange
end Abort

/-! ## The request rows -/

/-- Settles O41: each row is the row of a ready part whose request answers as above. -/
theorem kilnResumeAndAbort : Obligations.KilnResumeAndAbort := by
  refine ⟨fun s tag b mode ready => ⟨fun out => ?resumeRange, fun k m named known => ⟨fun unfit => ?resumeState,
      fun r held modeFits probe burner air charged => ?resumed⟩⟩,
    fun s tag b ready => ⟨fun out => ?abortRange, fun k named => ⟨fun notLoaded notDrying notHeld => ?abortState,
      fun r d charged scheduled => ?aborted⟩⟩⟩
  case resumeRange => exact exec_eq_replied rfl ready (performKilnResume_range out)
  case resumeState =>
    exact exec_eq_replied rfl ready (performKilnResume_state named known (unfit.imp_right not_resumable))
  case resumed =>
    exact exec_eq_performed rfl ready (performKilnResume_accept (s := s.admitted tag (.kilnResume b mode)) named known held
      (resumable_iff.mpr ⟨modeFits, probe, burner, air⟩) (resume_eq (s := s.admitted tag (.kilnResume b mode)) charged))
  case abortRange => exact exec_eq_replied rfl ready (performKilnAbort_range out)
  case abortState => exact exec_eq_replied rfl ready (performKilnAbort_state named notLoaded notDrying notHeld)
  case aborted =>
    exact exec_eq_performed rfl ready (performKilnAbort_accept (s := s.admitted tag (.kilnAbort b)) named
      (scheduled.imp And.left And.left) (abort_eq (s := s.admitted tag (.kilnAbort b)) charged scheduled))

end Sys2Proof.Proofs.KilnResumes
end

section
/-! PROOF. SCALE-ZERO and SCALE-COMMAND (R119, R121): what each request answers, case by case in the order of its checks, and
from that the request rows. -/

namespace Sys2Proof.Proofs.ScaleRequests

open Sys2Proof.Machine

section Answers
variable {s : State} {w z : Int} {word : Byte}

/-! ## SCALE-ZERO (R119) -/

theorem meanOf_eq_tdiv_sum (n : Nat) (l : List Int) : meanOf n l = Int.tdiv l.sum n := by
  rw [meanOf, List.sum_eq_foldl]

/-- The new zero offset: the mean of the raw averages of the last M blocks, truncated toward zero (R118, R119). -/
theorem newZero_eq (c : Scale) :
    c.newZero = Int.tdiv ((c.history.drop (c.history.length - c.setup.stability)).map (fun b => b.raw)).sum
      c.setup.stability :=
  meanOf_eq_tdiv_sum _ _

theorem performScaleZero_state (unfit : s.scale.state ≠ .idle ∨ s.scale.stable = none) :
    performScaleZero s = refuse s .state := by
  by_cases idle : s.scale.state = .idle
  · have unstable : s.scale.stable = none := unfit.resolve_left (not_not_intro idle)
    simp [performScaleZero, idle, unstable]
  · rw [performScaleZero, if_pos idle]

section IdleAndStable
variable (idle : s.scale.state = .idle) (stable : s.scale.stable = some w)
include idle stable

/-- In IDLE with a stable weight, the zero limit decides (R119, check 3). -/
theorem performScaleZero_idle :
    performScaleZero s =
      if s.scale.setup.zeroLimit < w.natAbs then refuse s .range
      else
        let t := s.updScale (fun c => { c.absorb with samples := [] })
        accept t (int32 t.scale.setup.zeroOffset ++ int32 w) := by
  rw [performScaleZero, if_neg (not_not_intro idle), stable]

theorem performScaleZero_range (beyond : s.scale.setup.zeroLimit < w.natAbs) : performScaleZero s = refuse s .range := by
  rw [performScaleZero_idle idle stable, if_pos beyond]

theorem performScaleZero_accept (within : w.natAbs ≤ s.scale.setup.zeroLimit) (zero : z = s.scale.newZero) :
    performScaleZero s =
      accept
        { s with scale := { s.scale with
          samples := [], history := [], stable := none, setup := { s.scale.setup with zeroOffset := z } } }
        (int32 z ++ int32 w) := by
  subst zero
  rw [performScaleZero_idle idle stable, if_neg within.not_gt]
  rfl

end IdleAndStable

/-! ## SCALE-COMMAND (R121) -/

theorem performScaleCommand_full (full : 4 ≤ s.scale.commands.length) : performScaleCommand word s = refuse s .full := by
  rw [performScaleCommand]
  exact if_pos full

theorem performScaleCommand_accept (room : s.scale.commands.length < 4) :
    performScaleCommand word s =
      accept { s with scale := { s.scale with commands := s.scale.commands ++ [word] } }
        [byte (s.scale.commands ++ [word]).length] := by
  rw [performScaleCommand]
  exact if_neg room.not_ge

end Answers

/-! ## The request rows -/

/-- Settles O44: each row is the row of a ready part whose request answers as above. -/
theorem scaleRequests : Obligations.ScaleRequests := by
  refine fun s tag ready => ⟨fun unfit => ?zeroState,
    fun w idle stable => ⟨fun beyond => ?zeroRange, fun within z zero => ?zeroed⟩,
    fun word => ⟨fun full => ?commandFull, fun room => ?commandQueued⟩⟩
  case zeroState => exact exec_eq_replied rfl ready (performScaleZero_state unfit)
  case zeroRange => exact exec_eq_replied rfl ready (performScaleZero_range idle stable beyond)
  case zeroed =>
    exact exec_eq_performed rfl ready (performScaleZero_accept (s := s.admitted tag .scaleZero) idle stable within
      (zero.trans (newZero_eq s.scale).symm))
  case commandFull => exact exec_eq_replied rfl ready (performScaleCommand_full full)
  case commandQueued =>
    exact exec_eq_performed rfl ready (performScaleCommand_accept (s := s.admitted tag (.scaleCommand word)) room)

end Sys2Proof.Proofs.ScaleRequests
end

section
/-! PROOF. The press command, STORE and PRESS-HOLD (R135 to R137): what the press-hold reason set calls for, what each judging
writes, and what PRESS-HOLD answers. -/

namespace Sys2Proof.Proofs.PressHolds

open Sys2Proof.Machine

variable {s : State} {v : RunHold} {i : NodeIdx} {flag : Byte}

/-! ## The press command (R136) -/

theorem pressHoldSet_isEmpty_iff {h : PressHoldSet} : h.isEmpty = true ↔ h.store = false ∧ h.operator = false := by
  simp [PressHoldSet.isEmpty]

theorem pressWanted_none (h : s.press.queue = []) : s.pressWanted = none := if_pos h

section QueuedKiln
variable (queued : s.press.queue ≠ [])
include queued

theorem pressWanted_run (store : s.press.hold.store = false) (operator : s.press.hold.operator = false) :
    s.pressWanted = some .run := by
  rw [State.pressWanted, if_neg queued, if_pos (pressHoldSet_isEmpty_iff.mpr ⟨store, operator⟩)]

theorem pressWanted_hold (held : s.press.hold.store = true ∨ s.press.hold.operator = true) :
    s.pressWanted = some .hold := by
  have member : ¬ s.press.hold.isEmpty = true := fun empty => by
    obtain ⟨store, operator⟩ := pressHoldSet_isEmpty_iff.mp empty
    simp [store, operator] at held
  rw [State.pressWanted, if_neg queued, if_neg member]

end QueuedKiln

theorem judgePress_settled (h : s.press.command = s.pressWanted) : s.judgePress = s := if_pos h

theorem judgePress_writes (differs : s.press.command ≠ some v) (wanted : s.pressWanted = some v) :
    s.judgePress =
      State.writeCommanded { s with press := { s.press with command := some v } } (s.roleNode .press) (.press v) := by
  rw [State.judgePress, wanted, if_neg differs]
  rfl

/-- An absent command is queued for no node: it clears the commanded state of the PRESS entry, where there is one (R29). -/
theorem judgePress_clears (differs : s.press.command ≠ none) (wanted : s.pressWanted = none) :
    s.judgePress =
      State.clearCommanded { s with press := { s.press with command := none } } (s.roleNode .press) := by
  rw [State.judgePress, wanted, if_neg differs]
  rfl

theorem clearCommanded_none : s.clearCommanded none = s := rfl

theorem clearCommanded_some :
    s.clearCommanded (some i) = s.setNode i { s.node i with commanded := none, confirmed := false } := rfl

/-! ## STORE (R135) -/

theorem judgeStore_room (room : s.mgmt.station.threshold < 256 - s.press.bales.length) :
    s.judgeStore =
      State.judgePress { s with press := { s.press with hold := { s.press.hold with store := false } } } := by
  have absent : decide (s.freeCount ≤ s.mgmt.station.threshold) = false := decide_eq_false room.not_ge
  simp [State.judgeStore, absent]

section Short
variable (short : 256 - s.press.bales.length ≤ s.mgmt.station.threshold)
include short

/-- STORE that stood already stays, and no PRESS-HELD is raised again. -/
theorem judgeStore_stands (held : s.press.hold.store = true) : s.judgeStore = s.judgePress := by
  have present : decide (s.freeCount ≤ s.mgmt.station.threshold) = true := decide_eq_true short
  have same : ({ s with press := { s.press with hold := { s.press.hold with store := true } } } : State) = s := by
    rw [← held]
  simp [State.judgeStore, present, held, same]

theorem judgeStore_enters (free : s.press.hold.store = false) :
    s.judgeStore =
      (State.raise { s with press := { s.press with hold := { s.press.hold with store := true } } } .pressHeld 0
        (256 - s.press.bales.length : Nat)).judgePress := by
  have present : decide (s.freeCount ≤ s.mgmt.station.threshold) = true := decide_eq_true short
  simp only [State.judgeStore, present, free, Bool.not_false, Bool.and_self, if_true]
  rfl

end Short

/-! ## PRESS-HOLD (R137) -/

theorem performPressHold_range (beyond : 1 < flag.toNat) : performPressHold flag s = refuse s .range := if_pos beyond

theorem performPressHold_accept (within : flag.toNat ≤ 1) :
    performPressHold flag s =
      let t := State.judgePress
        { s with press := { s.press with hold := { s.press.hold with operator := decide (flag = 1) } } }
      accept t [t.press.hold.byte] := by
  have isOne : flag.toNat = 1 ↔ flag = 1 := BitVec.toNat_inj (y := 1)
  rw [performPressHold, if_neg within.not_gt]
  simp only [isOne]

/-! ## The statement -/

/-- Settles O48: the command by what it calls for, STORE by the free count, and the request row by its flag. -/
theorem pressHoldAndCommand : Obligations.PressHoldAndCommand := by
  refine ⟨fun s => ⟨pressWanted_none, pressWanted_run, pressWanted_hold, judgePress_settled, fun v => judgePress_writes,
      fun called absent => ⟨fun noNode => ?noNode, fun i found => ?cleared⟩,
      fun t onRoom onStanding onEntry => ?store⟩,
    fun s tag flag ready => ⟨fun beyond => ?range, fun within => ?performed⟩⟩
  case noNode => rw [judgePress_clears called absent, noNode, clearCommanded_none]
  case cleared =>
    rw [judgePress_clears called absent, found, clearCommanded_some]
    rfl
  case store =>
    rcases lt_or_ge s.mgmt.station.threshold (256 - s.press.bales.length) with room | short
    · rw [judgeStore_room room, onRoom room]
    · rcases Bool.eq_false_or_eq_true s.press.hold.store with held | free
      · rw [judgeStore_stands short held, onStanding short held]
      · rw [judgeStore_enters short free, onEntry short free]
  case range => exact exec_eq_replied rfl ready (performPressHold_range beyond)
  case performed => exact exec_eq_performed rfl ready (performPressHold_accept within)

end Sys2Proof.Proofs.PressHolds
end

section
/-! PROOF. The ticket requests (R142, R151, R152, R157): what each request answers, case by case in the order of its checks, and
from that the request rows; and the bytes of a ticket's image and of its segments (R150, 11.8). -/

namespace Sys2Proof.Proofs.Tickets

open Sys2Proof.Machine

section Answers
variable {s u : State} {ticket bale : Word32} {t : Ticket} {pre post : List Ticket} {n : Nat}

/-! ## Lookups (R149, R151) -/

theorem ticket?_eq_none (absent : ∀ t ∈ s.tickets.queue, t.number ≠ n) : s.ticket? n = none := by
  simpa [State.ticket?] using absent

theorem ticket?_eq_some (split : s.tickets.queue = pre ++ t :: post) (named : t.number = n)
    (first : ∀ x ∈ pre, x.number ≠ n) : s.ticket? n = some t := by
  rw [State.ticket?, List.find?_eq_some_iff_append]
  exact ⟨decide_eq_true named, pre, post, split, fun x mem => by simpa using first x mem⟩

/-- A TICKET-READ names no ticket when the queue is empty, or when its number is not 0 and stands on none. -/
theorem ticketNamed_eq_none (absent : ∀ t ∈ s.tickets.queue, n ≠ 0 ∧ t.number ≠ n) : s.ticketNamed n = none := by
  by_cases zero : n = 0
  · have empty : s.tickets.queue = [] :=
      List.eq_nil_iff_forall_not_mem.mpr fun t mem => (absent t mem).1 zero
    rw [State.ticketNamed, if_pos zero, empty, List.head?_nil]
  · rw [State.ticketNamed, if_neg zero]
    exact ticket?_eq_none fun t mem => (absent t mem).2

theorem ticketNamed_eq_some (split : s.tickets.queue = pre ++ t :: post)
    (named : n = 0 ∧ pre = [] ∨ n ≠ 0 ∧ t.number = n ∧ ∀ x ∈ pre, x.number ≠ n) : s.ticketNamed n = some t := by
  rcases named with ⟨zero, oldest⟩ | ⟨nonzero, number, first⟩
  · rw [State.ticketNamed, if_pos zero, split, oldest, List.nil_append, List.head?_cons]
  · rw [State.ticketNamed, if_neg nonzero]
    exact ticket?_eq_some split number first

theorem lists_eq_decide : t.lists n = decide (∃ x ∈ t.lines, x.bale = n) := by
  rw [Bool.eq_iff_iff, Ticket.lists, List.any_eq_true]
  simp only [decide_eq_true_eq]

/-! ## TICKET-BASE (R142) -/

theorem any_le_iff {o : Option Nat} : o.any (fun m => decide (n ≤ m)) = true ↔ ∃ m, o = some m ∧ n ≤ m := by
  cases o <;> simp

/-- The four checks in their order (R142). -/
theorem performTicketBase_eq :
    performTicketBase ticket bale s =
      if ticket.toNat = 0 ∨ 0xFFFFFFF0 < ticket.toNat ∨ bale.toNat = 0 ∨ 0xFFFFFFF0 < bale.toNat then refuse s .range
      else if s.tickets.queue ≠ [] ∨ s.tickets.wait ≠ [] then refuse s .state
      else if ∃ n, s.tickets.lastTicket = some n ∧ ticket.toNat ≤ n then refuse s .range
      else if ∃ n, s.tickets.lastBale = some n ∧ bale.toNat ≤ n then refuse s .range
      else
        accept { s with tickets := { s.tickets with
            nextTicket := ticket.toNat, nextBale := bale.toNat, baseSet := true } }
          (bytes32 ticket ++ bytes32 bale) := by
  have outOfRange : ((ticket.toNat = 0 ∨ bale.toNat = 0) ∨ Config.maxNumber < ticket.toNat) ∨ Config.maxNumber < bale.toNat ↔
      ticket.toNat = 0 ∨ 0xFFFFFFF0 < ticket.toNat ∨ bale.toNat = 0 ∨ 0xFFFFFFF0 < bale.toNat := by
    rw [Config.maxNumber]
    omega
  simp only [performTicketBase, Bool.or_eq_true, decide_eq_true_eq, any_le_iff, outOfRange]

theorem performTicketBase_outOfRange
    (out : ticket.toNat = 0 ∨ 0xFFFFFFF0 < ticket.toNat ∨ bale.toNat = 0 ∨ 0xFFFFFFF0 < bale.toNat) :
    performTicketBase ticket bale s = refuse s .range := by
  rw [performTicketBase_eq, if_pos out]

section InRange
variable (ticketLow : 1 ≤ ticket.toNat) (ticketHigh : ticket.toNat ≤ 0xFFFFFFF0) (baleLow : 1 ≤ bale.toNat)
  (baleHigh : bale.toNat ≤ 0xFFFFFFF0)
include ticketLow ticketHigh baleLow baleHigh

theorem performTicketBase_state (waiting : s.tickets.queue ≠ [] ∨ s.tickets.wait ≠ []) :
    performTicketBase ticket bale s = refuse s .state := by
  rw [performTicketBase_eq, if_neg (by omega), if_pos waiting]

section Empty
variable (queue : s.tickets.queue = []) (wait : s.tickets.wait = [])
include queue wait

theorem performTicketBase_used
    (used : (∃ n, s.tickets.lastTicket = some n ∧ ticket.toNat ≤ n) ∨ (∃ n, s.tickets.lastBale = some n ∧ bale.toNat ≤ n)) :
    performTicketBase ticket bale s = refuse s .range := by
  rw [performTicketBase_eq, if_neg (by omega), if_neg (by simp [queue, wait])]
  rcases used with ticketUsed | baleUsed
  · rw [if_pos ticketUsed]
  · rw [if_pos baleUsed, ite_self]

theorem performTicketBase_accept (ticketFree : ∀ n, s.tickets.lastTicket = some n → n < ticket.toNat)
    (baleFree : ∀ n, s.tickets.lastBale = some n → n < bale.toNat) :
    performTicketBase ticket bale s =
      accept { s with tickets := { s.tickets with
          nextTicket := ticket.toNat, nextBale := bale.toNat, baseSet := true } }
        (bytes32 ticket ++ bytes32 bale) := by
  rw [performTicketBase_eq, if_neg (by omega), if_neg (by simp [queue, wait]), if_neg, if_neg]
  · rintro ⟨n, last, used⟩
    exact (baleFree n last).not_ge used
  · rintro ⟨n, last, used⟩
    exact (ticketFree n last).not_ge used

end Empty
end InRange

/-! ## The image and its segments (R150, 11.8) -/

theorem line_bytes_length (l : TicketLine) : l.bytes.length = 8 := rfl

theorem image_eq (t : Ticket) :
    t.image = be32 t.number ++ be16 t.lot ++ be16 t.grower ++ [byte t.variety.val, byte t.kiln.val, byte t.index, byte t.part,
        0, t.flags] ++ bytes32 t.issued ++ be32 t.green ++ int32 t.totalNet ++ optU16 t.yield ++
      [byte t.lines.length, 0] ++ (t.lines.map (fun x => be32 x.bale ++ int24 x.net ++ [x.flags])).flatten := by
  have issued : be32 t.issued.toNat = bytes32 t.issued := by rw [be32, BitVec.ofNat_toNat, BitVec.setWidth_eq]
  have lines : t.lines.flatMap TicketLine.bytes =
      (t.lines.map (fun x => be32 x.bale ++ int24 x.net ++ [x.flags])).flatten := List.flatMap_def
  rw [Ticket.image, issued, lines]
  simp only [List.append_assoc, List.cons_append, List.nil_append]

theorem optU16_length (o : Option Nat) : (optU16 o).length = 2 := by cases o <;> rfl

theorem image_length (t : Ticket) : t.image.length = 30 + 8 * t.lines.length := by
  have lines : (t.lines.flatMap TicketLine.bytes).length = t.lines.length * 8 := by
    simp [List.length_flatMap, line_bytes_length]
  simp only [Ticket.image, List.length_append, lines, be32, be16, int32, bytes32_length, bytes16_length, optU16_length,
    List.length_cons, List.length_nil]
  omega

theorem blockSum_eq (image : List Byte) : blockSum image = (image.map (fun b => b.toNat)).sum % 65536 := by
  rw [blockSum, List.sum_eq_foldl, List.foldl_map]

/-- The ticket block, frame by frame: index, count and up to 44 bytes of the image, and the block sum in the last (R150). -/
theorem segments_map (count : n = segmentCount t.image.length) (frame : List Byte → Frame) :
    t.segments.map frame = (List.range n).map (fun i => frame ([byte i, byte n] ++ (t.image.drop (44 * i)).take 44 ++
      (if i + 1 = n then be16 ((t.image.map (fun b => b.toNat)).sum % 65536) else []))) := by
  subst count
  rw [Ticket.segments, List.map_map, ← blockSum_eq]
  rfl

/-! ## TICKET-READ (R151) -/

theorem performTicketRead_unknown (absent : s.ticketNamed ticket.toNat = none) :
    performTicketRead ticket s = refuse s .unknown := by
  rw [performTicketRead, absent]

/-- The named ticket's block is ready behind the REPLY, in whatever form `frames` gives its frames (R55, R151). -/
theorem performTicketRead_accept (named : s.ticketNamed ticket.toNat = some t) (count : n = segmentCount t.image.length)
    {frames : List Frame} (laidOut : t.segments.map (mkFrame 0x00 s.ownAddress 0x63) = frames) :
    performTicketRead ticket s =
      accept { s with classifier := { s.classifier with block := some { inProgress := false, frames } } }
        (be32 t.number ++ [byte n, byte t.lines.length, byte t.print.code]) := by
  subst count laidOut
  rw [performTicketRead, named]
  rfl

/-! ## TICKET-TAKE and TICKET-REPRINT: a number that no ticket has (R152, R157) -/

theorem performTicketTake_unknown (absent : s.ticket? ticket.toNat = none) :
    performTicketTake ticket s = refuse s .unknown := by
  rw [performTicketTake, absent]

theorem performTicketReprint_unknown (absent : s.ticket? ticket.toNat = none) :
    performTicketReprint ticket s = refuse s .unknown := by
  rw [performTicketReprint, absent]

/-! ## TICKET-TAKE (R152) -/

section Named
variable (split : s.tickets.queue = pre ++ t :: post) (named : t.number = ticket.toNat)
  (first : ∀ x ∈ pre, x.number ≠ ticket.toNat)
include split named first

/-- The ticket is the oldest exactly when no ticket stands before it. -/
theorem head_number_eq_iff : s.tickets.queue.head?.map (fun o => o.number) = some t.number ↔ pre = [] := by
  rw [split]
  cases pre with
  | nil => simp
  | cons x xs => simpa [named] using first x List.mem_cons_self

/-- Of a ticket in the queue, its place and its print state decide (R152, checks 2 and 3). -/
theorem performTicketTake_named :
    performTicketTake ticket s =
      if pre ≠ [] then refuse s .state
      else if t.print = .printing then refuse s .state
      else accept (s.takeTicket t)
        (be32 t.number ++ be16 t.lot ++ [byte t.index, flagByte t.final, byte t.lines.length] ++ int32 t.totalNet) := by
  simp only [performTicketTake, ticket?_eq_some split named first, ne_eq, head_number_eq_iff split named first]

theorem performTicketTake_state (unfit : pre ≠ [] ∨ t.print = .printing) :
    performTicketTake ticket s = refuse s .state := by
  rw [performTicketTake_named split named first]
  rcases unfit with notOldest | printing
  · rw [if_pos notOldest]
  · rw [if_pos printing, ite_self]

/-- The oldest ticket is taken as R152 says, in whatever form `u` gives that effect. -/
theorem performTicketTake_accept (oldest : pre = []) (notPrinting : t.print ≠ .printing) (effect : s.takeTicket t = u) :
    performTicketTake ticket s =
      accept u (be32 t.number ++ be16 t.lot ++ [byte t.index, flagByte t.final, byte t.lines.length] ++
        int32 t.totalNet) := by
  rw [performTicketTake_named split named first, if_neg (not_not_intro oldest), if_neg notPrinting, effect]

/-! ## TICKET-REPRINT (R157) -/

theorem performTicketReprint_state (unfit : t.print = .unprinted ∨ t.print = .printing) :
    performTicketReprint ticket s = refuse s .state := by
  simp [performTicketReprint, ticket?_eq_some split named first, unfit]

theorem performTicketReprint_accept (ended : t.print = .printed ∨ t.print = .failed) :
    performTicketReprint ticket s =
      let u := (s.setPrint t.number .unprinted).promptPrint
      accept u (be32 t.number ++ [((u.ticket? t.number).map (fun x => byte x.print.code)).getD 0]) := by
  have fit : ¬ (t.print = .unprinted ∨ t.print = .printing) := by rcases ended with h | h <;> simp [h]
  have code (o : Option Ticket) :
      byte (o.elim PrintState.unprinted.code (fun x => x.print.code)) = (o.map (fun x => byte x.print.code)).getD 0 := by
    cases o <;> rfl
  simp [performTicketReprint, ticket?_eq_some split named first, fit, code]

end Named

/-- The removal of the oldest ticket, in the form of R152: the queue, the bales it lists, the lot's released totals, the charge
of a final ticket, then STORE and the Compose Wait list. -/
theorem takeTicket_eq (oldest : s.tickets.queue = t :: post) :
    s.takeTicket t =
      let v := State.updLot { s with
          tickets := { s.tickets with queue := post }
          press := { s.press with bales := s.press.bales.filter (fun b =>
            decide (¬ ∃ x ∈ t.lines, x.bale = b.number)) } }
        t.lot (fun l => { l with
          releasedBales := l.releasedBales + t.lines.length
          releasedNet := wrap32 (l.releasedNet + t.totalNet)
          ticketsTaken := l.ticketsTaken + 1 })
      let w := if t.final = true
        then v.updCharge { lot := t.lot, index := t.index } (fun c => { c with state := .ticketed }) else v
      w.judgeStore.serve := by
  simp only [State.takeTicket, oldest, List.tail_cons, lists_eq_decide, decide_not]

end Answers

/-! ## The statements -/

/-- Settles O49: the rows are those of a ready part whose requests answer as above, and the image is laid out field by field. -/
theorem ticketBaseAndRead : Obligations.TicketBaseAndRead := by
  refine ⟨fun s tag ticket bale ready => ⟨fun out => ?outOfRange, fun ticketLow ticketHigh baleLow baleHigh =>
      ⟨fun waiting => ?baseState, fun queue wait => ⟨fun used => ?used, fun ticketFree baleFree => ?based⟩⟩⟩,
    fun s tag ticket ready => ⟨fun absent => ?readUnknown, fun pre t post split named n count => ?read⟩,
    fun t => ⟨image_length t, image_eq t⟩⟩
  case outOfRange => exact exec_eq_replied rfl ready (performTicketBase_outOfRange out)
  case baseState =>
    exact exec_eq_replied rfl ready (performTicketBase_state ticketLow ticketHigh baleLow baleHigh waiting)
  case used =>
    exact exec_eq_replied rfl ready (performTicketBase_used ticketLow ticketHigh baleLow baleHigh queue wait used)
  case based =>
    exact exec_eq_performed rfl ready
      (performTicketBase_accept (s := s.admitted tag (.ticketBase ticket bale)) ticketLow ticketHigh baleLow baleHigh
        queue wait ticketFree baleFree)
  case readUnknown => exact exec_eq_replied rfl ready (performTicketRead_unknown (ticketNamed_eq_none absent))
  case read =>
    exact exec_eq_performed rfl ready
      (performTicketRead_accept (s := s.admitted tag (.ticketRead ticket)) (ticketNamed_eq_some split named) count
        (segments_map count _))

/-- Settles O52: each row is the row of a ready part whose request answers as above. -/
theorem ticketTakeAndReprint : Obligations.TicketTakeAndReprint := by
  refine fun s tag ticket ready => ⟨fun absent => ⟨?takeUnknown, ?reprintUnknown⟩,
    fun pre t post split named first => ⟨fun unfit => ?takeState, fun oldest notPrinting => ?taken,
      fun unfit => ?reprintState, fun ended => ?reprinted⟩⟩
  case takeUnknown => exact exec_eq_replied rfl ready (performTicketTake_unknown (ticket?_eq_none absent))
  case reprintUnknown => exact exec_eq_replied rfl ready (performTicketReprint_unknown (ticket?_eq_none absent))
  case takeState => exact exec_eq_replied rfl ready (performTicketTake_state split named first unfit)
  case taken =>
    subst oldest
    exact exec_eq_performed rfl ready
      (performTicketTake_accept (s := s.admitted tag (.ticketTake ticket)) split named first rfl notPrinting
        (takeTicket_eq split))
  case reprintState => exact exec_eq_replied rfl ready (performTicketReprint_state split named first unfit)
  case reprinted => exact exec_eq_performed rfl ready (performTicketReprint_accept split named first ended)

end Sys2Proof.Proofs.Tickets
end

section
/-! PROOF. The check word and the judgement of a reception (R162, R163): the register bit by bit, the bytes of a frame as it is
sent, and the tests on a reception in their order. -/

namespace Sys2Proof.Proofs.YardLink

open Sys2Proof.Machine

/-! ## The check word (R163) -/

theorem crc_nil : crc [] = 0xFFFF := List.foldl_nil

/-- A byte is taken most significant bit first. -/
theorem crcByte_eq_bits (r : Word16) (b : Byte) :
    crcByte r b =
      crcBit (crcBit (crcBit (crcBit (crcBit (crcBit (crcBit (crcBit r
        (b.getLsbD 7)) (b.getLsbD 6)) (b.getLsbD 5)) (b.getLsbD 4)) (b.getLsbD 3)) (b.getLsbD 2)) (b.getLsbD 1))
        (b.getLsbD 0) := rfl

theorem crc_append_pair (bs : List Byte) (b₁ b₂ : Byte) :
    crc (bs ++ [b₁, b₂]) = crcByte (crcByte (crc bs) b₁) b₂ := by
  rw [← crc_append_byte, ← crc_append_byte, List.append_assoc, List.singleton_append]

/-- The receiver's equivalent test: taken on through the two check bytes, the register is 0 exactly when they match. -/
theorem crc_append_check_eq_zero_iff (bs : List Byte) (hi lo : Byte) : crc (bs ++ [hi, lo]) = 0 ↔ crc bs = hi ++ lo := by
  rw [crc_append_pair, crc_residue]

theorem crc_testBytes : crc [0x31, 0x32, 0x33, 0x34, 0x35, 0x36, 0x37, 0x38, 0x39] = 0x29B1 := by
  decide +kernel

/-- The check word covers header and payload. -/
theorem mkFrame_check (dest src code : Byte) (payload : List Byte) :
    (mkFrame dest src code payload).check = crc (dest :: src :: code :: byte payload.length :: payload) := by
  simp only [mkFrame]

/-- The check word is sent high byte first after the payload. -/
theorem mkFrame_bytes (dest src code : Byte) (payload : List Byte) :
    (mkFrame dest src code payload).bytes = dest :: src :: code :: byte payload.length :: payload ++
      [((mkFrame dest src code payload).check >>> 8).setWidth 8, (mkFrame dest src code payload).check.setWidth 8] := by
  simp only [Frame.bytes, Frame.covered, bytes16, mkFrame]

/-- Settles O5: the register by its bits, the bytes of an originated frame as laid out, and the residue after the check bytes. -/
theorem checkWordRule : Obligations.CheckWordRule := by
  refine ⟨crc_nil, fun bs b => ?bytewise, fun _ _ => crcBit_differ, fun _ _ => crcBit_equal,
    fun dest src code payload => ⟨mkFrame_check dest src code payload, mkFrame_bytes dest src code payload⟩,
    crc_append_check_eq_zero_iff, crc_testBytes⟩
  case bytewise => rw [crc_append_byte, crcByte_eq_bits]

/-! ## The judgement of a reception (R162) -/

/-- Test 1: the header is incomplete. -/
theorem judge_headerIncomplete {chars : List Byte} (short : chars.length < 4) : judge chars = .torn := by
  match chars, short with
  | [], _ | [_], _ | [_, _], _ | [_, _, _], _ => rfl
  | _ :: _ :: _ :: _ :: rest, short =>
    have long : 4 ≤ rest.length + 4 := Nat.le_add_left 4 rest.length
    exact absurd short long.not_gt

section Header
variable {d s c l : Byte} {rest payload : List Byte} {hi lo : Byte}

/-- Test 2: the length field is above 48. -/
theorem judge_lengthField (above : 48 < l.toNat) : judge (d :: s :: c :: l :: rest) = .badLength := if_pos above

section LengthField
variable (within : l.toNat ≤ 48)
include within

/-- Test 3: fewer than L + 6 characters. -/
theorem judge_tooFew (few : rest.length < l.toNat + 2) : judge (d :: s :: c :: l :: rest) = .torn := by
  have count : (d :: s :: c :: l :: rest).length < l.toNat + 6 := Nat.add_lt_add_right few 4
  exact (if_neg within.not_gt).trans (if_pos count)

/-- Test 4: more than L + 6 characters. -/
theorem judge_tooMany (many : l.toNat + 2 < rest.length) : judge (d :: s :: c :: l :: rest) = .badLength := by
  have count : l.toNat + 6 < (d :: s :: c :: l :: rest).length := Nat.add_lt_add_right many 4
  exact (if_neg within.not_gt).trans ((if_neg count.not_gt).trans (if_pos count))

/-- Test 5 decides a reception of L + 6 characters. -/
theorem judge_whole (length : payload.length = l.toNat) :
    judge (d :: s :: c :: l :: payload ++ [hi, lo]) =
      if crc (d :: s :: c :: l :: payload) = hi ++ lo then
        .valid { dest := d, src := s, code := c, payload := payload, check := hi ++ lo }
      else .badCheck := by
  have count : (d :: s :: c :: l :: (payload ++ [hi, lo])).length = l.toNat + 6 := by simp [length]
  have data : (payload ++ [hi, lo]).take l.toNat = payload := List.take_left' length
  have check : (payload ++ [hi, lo]).drop l.toNat = [hi, lo] := List.drop_left' length
  have inRange : ¬ Config.maxPayload < l.toNat := within.not_gt
  simp only [List.cons_append, judge, count, data, check, if_neg inRange, lt_irrefl, if_false, word16]

end LengthField
end Header

/-- Settles O6: the tests in their order, the fifth on a reception that is whole. -/
theorem judgementOrder : Obligations.JudgementOrder := by
  refine ⟨fun _ => judge_headerIncomplete, fun _ _ _ _ _ => judge_lengthField, fun _ _ _ _ _ => judge_tooFew,
    fun _ _ _ _ _ => judge_tooMany, fun _ _ _ _ _ _ _ within length mismatch => ?discarded,
    fun _ _ _ _ _ _ _ within length isMatch => ?valid⟩
  case discarded => rw [judge_whole within length, if_neg mismatch]
  case valid => rw [judge_whole within length, if_pos isMatch]

end Sys2Proof.Proofs.YardLink
end

section
/-! PROOF. The form of a request (R173): the decoder reads a kind and its arguments as a request exactly when that request lays
them out, so that what no request lays out is refused FORMAT; and the form that each table calls for in an image (R174, 11.4). -/

namespace Sys2Proof.Proofs.RequestForms

open Sys2Proof.Machine

variable {s : State} {k tag table index : Byte} {args image : List Byte} {r q : Request}

/-! ## The decoder (11.3) -/

/-- The request lays out this kind and these arguments. -/
structure LaysOut (r : Request) (k : Byte) (args : List Byte) : Prop where
  kind : r.kind = k
  args : r.args = args

theorem arg0_laysOut (h : arg0 q args = some r) (lays : LaysOut q k []) : LaysOut r k args := by
  match args, h with
  | [], rfl => exact lays

theorem arg1_laysOut {f : Byte → Request} (h : arg1 f args = some r) (lays : ∀ a, LaysOut (f a) k [a]) :
    LaysOut r k args := by
  match args, h with
  | [a], rfl => exact lays a

theorem arg11_laysOut {f : Byte → Byte → Request} (h : arg11 f args = some r) (lays : ∀ a b, LaysOut (f a b) k [a, b]) :
    LaysOut r k args := by
  match args, h with
  | [a, b], rfl => exact lays a b

theorem arg2_laysOut {f : Word16 → Request} (h : arg2 f args = some r) (lays : ∀ w, LaysOut (f w) k (bytes16 w)) :
    LaysOut r k args := by
  match args, h with
  | [a, b], rfl => exact bytes16_word16 a b ▸ lays (word16 a b)

theorem arg4_laysOut {f : Word32 → Request} (h : arg4 f args = some r) (lays : ∀ w, LaysOut (f w) k (bytes32 w)) :
    LaysOut r k args := by
  match args, h with
  | [a, b, c, d], rfl => exact bytes32_word32 a b c d ▸ lays (word32 a b c d)

theorem arg44_laysOut {f : Word32 → Word32 → Request} (h : arg44 f args = some r)
    (lays : ∀ w x, LaysOut (f w x) k (bytes32 w ++ bytes32 x)) : LaysOut r k args := by
  match args, h with
  | [a, b, c, d, e, g, i, j], rfl =>
    have laid := lays (word32 a b c d) (word32 e g i j)
    rw [bytes32_word32, bytes32_word32] at laid
    exact laid

/-- What the decoder reads as a request is what that request lays out: with `decodeRequest_args`, its only reading. -/
theorem decodeRequest_laysOut (h : decodeRequest k args = some r) : LaysOut r k args := by
  have kind {q : Request} (code : k.toNat = q.kind.toNat) : q.kind = k := BitVec.eq_of_toNat_eq code.symm
  unfold decodeRequest at h
  match code : k.toNat, h with
  | 0x1B, h | 0x28, h | 0x29, h => exact arg0_laysOut h ⟨kind code, rfl⟩
  | 0x05, h | 0x19, h | 0x20, h | 0x21, h | 0x23, h | 0x24, h | 0x2A, h | 0x32, h | 0x33, h =>
    exact arg1_laysOut h (fun _ => ⟨kind code, rfl⟩)
  | 0x01, h | 0x22, h => exact arg11_laysOut h (fun _ _ => ⟨kind code, rfl⟩)
  | 0x12, h | 0x13, h | 0x18, h => exact arg2_laysOut h (fun _ => ⟨kind code, rfl⟩)
  | 0x04, h | 0x30, h | 0x39, h | 0x3A, h | 0x3B, h => exact arg4_laysOut h (fun _ => ⟨kind code, rfl⟩)
  | 0x31, h | 0x38, h => exact arg44_laysOut h (fun _ _ => ⟨kind code, rfl⟩)
  | 0x02, h =>
    match args, h with
    | _ :: _ :: _, rfl => exact ⟨kind code, rfl⟩
  | 0x03, h =>
    match args, h with
    | [_, _, _], rfl => exact ⟨kind code, rfl⟩
  | 0x10, h =>
    match args, h with
    | [_, _, _, _, _], rfl => exact ⟨kind code, by simp [Request.args, bytes16_word16]⟩
  | 0x11, h =>
    match args, h with
    | [_, _, _], rfl => exact ⟨kind code, by simp [Request.args, bytes16_word16]⟩
  | 0x1A, h =>
    match args, h with
    | _ :: _, rfl => exact ⟨kind code, rfl⟩

theorem decodeRequest_unknownKind (unknown : ∀ r : Request, r.kind ≠ k) : decodeRequest k args = none :=
  Option.eq_none_iff_forall_ne_some.mpr fun r h => unknown r (decodeRequest_laysOut h).kind

/-! ## The argument length of a kind (11.3) -/

/-- The argument length that a kind calls for; none for an unknown kind, and for TABLE-WRITE and FILL-ORDER, where the length
follows an argument (R173). -/
def kindLength (k : Byte) : Option Nat :=
  match k.toNat with
  | 0x1B | 0x28 | 0x29 => some 0
  | 0x05 | 0x19 | 0x20 | 0x21 | 0x23 | 0x24 | 0x2A | 0x32 | 0x33 => some 1
  | 0x01 | 0x12 | 0x13 | 0x18 | 0x22 => some 2
  | 0x03 | 0x11 => some 3
  | 0x04 | 0x30 | 0x39 | 0x3A | 0x3B => some 4
  | 0x10 => some 5
  | 0x31 | 0x38 => some 8
  | _ => none

theorem kindLength_kind (notWrite : ∀ t i im, r ≠ .tableWrite t i im) (notOrder : ∀ c ks, r ≠ .fillOrder c ks) :
    kindLength r.kind = some r.args.length := by
  cases r with
  | tableWrite t i im => exact absurd rfl (notWrite t i im)
  | fillOrder c ks => exact absurd rfl (notOrder c ks)
  | _ => rfl

theorem args_length_of_kindLength {n : Nat} (h : kindLength r.kind = some n) : r.args.length = n := by
  cases r with
  | tableWrite | fillOrder => cases h
  | _ => exact Option.some.inj h

theorem decodeRequest_otherLength (notWrite : ∀ t i im, r ≠ .tableWrite t i im) (notOrder : ∀ c ks, r ≠ .fillOrder c ks)
    (length : args.length ≠ r.args.length) : decodeRequest r.kind args = none :=
  Option.eq_none_iff_forall_ne_some.mpr fun q h => by
    obtain ⟨kind, rfl⟩ := decodeRequest_laysOut h
    exact length (args_length_of_kindLength (kind ▸ kindLength_kind notWrite notOrder))

/-- A TABLE-WRITE carries its table and its index. -/
theorem decodeRequest_tableWrite_short (short : args.length < 2) : decodeRequest 0x02 args = none := by
  match args, short with
  | [], _ | [_], _ => rfl
  | _ :: _ :: rest, short => exact absurd (Nat.le_add_left 2 rest.length) short.not_ge

/-! ## Payloads -/

/-- A payload that carries no request is refused FORMAT with its kind and its tag copied. -/
theorem performPayload_undecoded (h : decodeRequest k args = none) :
    performPayload (k :: tag :: args) s = (k, tag, refuse s .format) := by
  rw [performPayload, h]

/-! ## The images of the tables (R174, 11.4) -/

/-- The length of an entry's image, by table id. -/
def imageLengths : List Nat := [8, 8, 4, 12, 8, 10, 18, 4, 20, 8]

/-- The offsets of the reserved bytes of an image, by table id; ROUTE has reserved bits as well. -/
def reservedOffsets : List (List Nat) := [[6, 7], [7], [1], [10, 11], [7], [1, 9], [5, 16, 17], [2, 3], [], [6, 7]]

/-- The image has the length called for, and its reserved bytes are zero. -/
def WellFormed (n : Nat) (reserved : List Nat) (image : List Byte) : Prop :=
  image.length = n ∧ ∀ i ∈ reserved, image[i]? = some 0

theorem not_wellFormed_of_length {n : Nat} {reserved : List Nat} (length : image.length ≠ n) :
    ¬ WellFormed n reserved image := fun ⟨formed, _⟩ => length formed

theorem not_wellFormed_of_reserved {n : Nat} {reserved : List Nat}
    (nonzero : ∃ i ∈ reserved, ∃ b, image[i]? = some b ∧ b ≠ 0) : ¬ WellFormed n reserved image := by
  obtain ⟨i, mem, b, held, nonzero⟩ := nonzero
  exact fun ⟨_, zero⟩ => nonzero (Option.some.inj (held.symm.trans (zero i mem)))

theorem performNodeWrite_format (bad : ¬ WellFormed 8 [6, 7] image) :
    performNodeWrite index image s = refuse s .format := by
  unfold performNodeWrite
  split
  · exact if_pos (by simpa [WellFormed, imp_iff_not_or] using bad)
  · rfl

theorem performRouteWrite_format (bad : ¬ WellFormed 8 [7] image) :
    performRouteWrite index image s = refuse s .format := by
  unfold performRouteWrite
  split
  · exact if_pos (by simpa [WellFormed, imp_iff_not_or] using Or.inr bad)
  · rfl

theorem performCadenceWrite_format (bad : ¬ WellFormed 4 [1] image) :
    performCadenceWrite index image s = refuse s .format := by
  unfold performCadenceWrite
  split
  · exact if_pos (by simpa [WellFormed] using bad)
  · rfl

theorem performKilnWrite_format (bad : ¬ WellFormed 12 [10, 11] image) :
    performKilnWrite index image s = refuse s .format := by
  unfold performKilnWrite
  split
  · exact if_pos (by simpa [WellFormed, imp_iff_not_or] using bad)
  · rfl

theorem performScheduleWrite_format (bad : ¬ WellFormed 8 [7] image) :
    performScheduleWrite index image s = refuse s .format := by
  unfold performScheduleWrite
  split
  · exact if_pos (by simpa [WellFormed] using bad)
  · rfl

theorem performStepWrite_format (bad : ¬ WellFormed 10 [1, 9] image) :
    performStepWrite index image s = refuse s .format := by
  unfold performStepWrite
  split
  · exact if_pos (by simpa [WellFormed, imp_iff_not_or] using bad)
  · rfl

theorem performVarietyWrite_format (bad : ¬ WellFormed 18 [5, 16, 17] image) :
    performVarietyWrite index image s = refuse s .format := by
  unfold performVarietyWrite
  split
  · exact if_pos (by simpa [WellFormed, imp_iff_not_or, or_assoc] using bad)
  · rfl

theorem performTareWrite_format (bad : ¬ WellFormed 4 [2, 3] image) :
    performTareWrite index image s = refuse s .format := by
  unfold performTareWrite
  split
  · exact if_pos (by simpa [WellFormed, imp_iff_not_or] using bad)
  · rfl

/-- The image of the Scale Setup has no reserved byte: a whole one is never refused FORMAT. -/
theorem performScaleSetupWrite_format (bad : ¬ WellFormed 20 [] image) :
    performScaleSetupWrite index image s = refuse s .format := by
  unfold performScaleSetupWrite
  split
  · simp [WellFormed] at bad
  · rfl

theorem performStationWrite_format (bad : ¬ WellFormed 8 [6, 7] image) :
    performStationWrite index image s = refuse s .format := by
  unfold performStationWrite
  split
  · exact if_pos (by simpa [WellFormed, imp_iff_not_or] using bad)
  · rfl

/-- The five high bits of the flags of a ROUTE image are reserved. -/
theorem performRouteWrite_flags {f : Byte} {rest : List Byte} (high : 8 ≤ f.toNat) :
    performRouteWrite index (f :: rest) s = refuse s .format := by
  unfold performRouteWrite
  split
  next whole =>
    obtain ⟨rfl, -⟩ := List.cons.inj whole
    exact if_pos (by simp [high])
  · rfl

/-! ## TABLE-WRITE (R174) -/

theorem performTableWrite_unknown (unknown : 9 < table.toNat) :
    performTableWrite table index image s = refuse s .format := by
  unfold performTableWrite
  match table.toNat, unknown with
  | _ + 10, _ => rfl

theorem performTableWrite_format {n : Nat} {reserved : List Nat} (length : imageLengths[table.toNat]? = some n)
    (offsets : reservedOffsets[table.toNat]? = some reserved) (bad : ¬ WellFormed n reserved image) :
    performTableWrite table index image s = refuse s .format := by
  unfold performTableWrite
  match table.toNat, length, offsets with
  | 0, rfl, rfl => exact performNodeWrite_format bad
  | 1, rfl, rfl => exact performRouteWrite_format bad
  | 2, rfl, rfl => exact performCadenceWrite_format bad
  | 3, rfl, rfl => exact performKilnWrite_format bad
  | 4, rfl, rfl => exact performScheduleWrite_format bad
  | 5, rfl, rfl => exact performStepWrite_format bad
  | 6, rfl, rfl => exact performVarietyWrite_format bad
  | 7, rfl, rfl => exact performTareWrite_format bad
  | 8, rfl, rfl => exact performScaleSetupWrite_format bad
  | 9, rfl, rfl => exact performStationWrite_format bad

/-- An image of another length than the table's. -/
theorem performTableWrite_length {n : Nat} (length : imageLengths[table.toNat]? = some n) (other : image.length ≠ n) :
    performTableWrite table index image s = refuse s .format := by
  obtain ⟨known, -⟩ := List.getElem?_eq_some_iff.mp length
  exact performTableWrite_format length (List.getElem?_eq_getElem (l := reservedOffsets) known)
    (not_wellFormed_of_length other)

/-! ## The statement -/

/-- Settles O15: a payload that no request lays out, then the form checks of FILL-ORDER and of the images. -/
theorem malformedRequestIsRefusedFormat : Obligations.MalformedRequestIsRefusedFormat := by
  refine fun s => ⟨rfl, fun _ => rfl, fun k tag args unknown => ?unknownKind,
    fun r tag args notWrite notOrder length => ?argumentLength, fun tag args short => ?shortWrite, fun _ => rfl,
    fun count kilns length => ?orderLength, fun table index image unknown => ?unknownTable,
    fun table index image n length other => ?imageLength,
    fun table index image n reserved length _ offsets nonzero => ?reservedByte,
    fun index f rest _ high => ?reservedBit⟩
  case unknownKind => exact performPayload_undecoded (decodeRequest_unknownKind unknown)
  case argumentLength => exact performPayload_undecoded (decodeRequest_otherLength notWrite notOrder length)
  case shortWrite => exact performPayload_undecoded (decodeRequest_tableWrite_short short)
  case orderLength => exact FeedUnit.performFillOrder_format length
  case unknownTable => exact performTableWrite_unknown unknown
  case imageLength => exact performTableWrite_length length other
  case reservedByte => exact performTableWrite_format length offsets (not_wellFormed_of_reserved nonzero)
  case reservedBit => exact performRouteWrite_flags high

end Sys2Proof.Proofs.RequestForms
end

section
/-! PROOF. A step keeps every law: an event of an active part is one of a few effects, and what each effect keeps stands in
Laws/Kept*.lean. -/

namespace Sys2Proof.Proofs.Kept

open Sys2Proof Sys2Proof.Machine Sys2Proof.Laws

/-! ## The events of an active part -/

/-- What an event of an active part can do: the effects of the commands other than those of the supply and the RESET pin. A
request row has one of them, the arrival of its request at the Request Buffer (log 9). -/
inductive Event : (State → State) → Prop
  | submit (tag : Byte) (r : Request) : Event (State.submit tag r)
  | upstreamArrival (chars : List Byte) : Event (fun s => s.upstreamArrival chars)
  | linkSilent : Event State.linkSilent
  | upstreamTransmit : Event State.upstreamTransmit
  | upstreamFrameSent : Event State.upstreamFrameSent
  | idleGap (port : Port) : Event (fun s => s.idleGap port)
  | secondPassed : Event State.secondPassed
  | startTransaction : Event State.startTransaction
  | transmitDone : Event State.transmitDone
  | receptionStart : Event State.receptionStart
  | fieldArrival (chars : List Byte) : Event (feedEvent (fun s => s.fieldArrival chars))
  | windowExpiry : Event State.windowExpiry
  | guardEnd : Event State.guardEnd
  | cadenceExpiry (c : CadenceId) : Event (fun s => s.cadenceExpiry c)
  | changeoverExpiry : Event (feedEvent State.changeoverExpiry)
  | divertWatchExpiry : Event (feedEvent State.divertWatchExpiry)
  | stepEnd (k : Kiln) : Event (fun s => s.stepEnd k)
  | rampMinute (k : Kiln) : Event (fun s => s.rampMinute k)
  | dryToOvertime (k : Kiln) : Event (fun s => s.dryToOvertime k)
  | abortCoolingEnd (k : Kiln) : Event (fun s => s.abortCoolingEnd k)
  | refreshExpiry (k : Kiln) : Event (fun s => s.refreshExpiry k)
  | frameStart : Event State.frameStart
  | frameComplete (status : Byte) (sample : BitVec 24) : Event (fun s => s.frameComplete status sample)
  | frameTorn : Event State.frameTorn
  | settleTimeout : Event State.settleTimeout
  | watchExpiry : Event State.watchExpiry

/-- Every command but the four of the supply and the RESET pin is an event of an active part. -/
theorem exec_event {i : Instr} (event : isPowerCommand i = false) :
    ∃ f, Event f ∧ ∀ s, exec i s = whileActive f s := by
  cases i with
  | powerOn | resetPinAssert | resetPinRelease | powerFail => cases event
  | upstreamArrival => exact ⟨_, .upstreamArrival _, fun _ => rfl⟩
  | linkSilent => exact ⟨_, .linkSilent, fun _ => rfl⟩
  | upstreamTransmit => exact ⟨_, .upstreamTransmit, fun _ => rfl⟩
  | upstreamFrameSent => exact ⟨_, .upstreamFrameSent, fun _ => rfl⟩
  | overlongIdleGap => exact ⟨_, .idleGap _, fun _ => rfl⟩
  | timeSecond => exact ⟨_, .secondPassed, fun _ => rfl⟩
  | fieldTransactionStart => exact ⟨_, .startTransaction, fun _ => rfl⟩
  | fieldTransmitDone => exact ⟨_, .transmitDone, fun _ => rfl⟩
  | fieldReceptionStart => exact ⟨_, .receptionStart, fun _ => rfl⟩
  | fieldArrival => exact ⟨_, .fieldArrival _, fun _ => rfl⟩
  | transactionWindowExpiry => exact ⟨_, .windowExpiry, fun _ => rfl⟩
  | broadcastGuardEnd => exact ⟨_, .guardEnd, fun _ => rfl⟩
  | cadenceExpiry => exact ⟨_, .cadenceExpiry _, fun _ => rfl⟩
  | changeoverTimerExpiry => exact ⟨_, .changeoverExpiry, fun _ => rfl⟩
  | divertWatchExpiry => exact ⟨_, .divertWatchExpiry, fun _ => rfl⟩
  | stepEnd => exact ⟨_, .stepEnd _, fun _ => rfl⟩
  | rampMinute => exact ⟨_, .rampMinute _, fun _ => rfl⟩
  | dryToOvertime => exact ⟨_, .dryToOvertime _, fun _ => rfl⟩
  | abortCoolingEnd => exact ⟨_, .abortCoolingEnd _, fun _ => rfl⟩
  | refreshTimerExpiry => exact ⟨_, .refreshExpiry _, fun _ => rfl⟩
  | converterFrameStart => exact ⟨_, .frameStart, fun _ => rfl⟩
  | converterFrameComplete => exact ⟨_, .frameComplete _ _, fun _ => rfl⟩
  | converterFrameTorn => exact ⟨_, .frameTorn, fun _ => rfl⟩
  | settleTimeout => exact ⟨_, .settleTimeout, fun _ => rfl⟩
  | converterWatchExpiry => exact ⟨_, .watchExpiry, fun _ => rfl⟩
  | _ => exact ⟨_, .submit _ _, exec_request rfl⟩

/-- What the supply, the RESET pin, every event, the arbiter's choice and the tick keep, a step keeps. -/
theorem step_keeps_of_events {Q : State → Prop} (queue : ∀ s p, Q s → Q { s with pending := p })
    (powerOn : ∀ s a b c, Q s → Q (s.powerOn a b c)) (resetAssert : ∀ s, Q s → Q s.resetAssert)
    (resetRelease : ∀ s a b c, Q s → Q (s.resetRelease a b c)) (powerFail : ∀ s, Q s → Q s.powerFail)
    (choosing : ∀ s c, Q s → Q (s.choosing c)) (tick : ∀ s, Q s → Q s.ticked)
    (event : ∀ f, Event f → ∀ s, Q s → Q (f s)) {s s' : State} (h : Q s) (stepped : step s = .next s') : Q s' := by
  refine step_keeps Q queue (fun i s s' h e => ?_) tick s s' h stepped
  cases power : isPowerCommand i with
  | false =>
    obtain ⟨f, isEvent, run⟩ := exec_event power
    rw [run, whileActive, Host.Outcome.next.injEq] at e
    subst e
    split
    · exact choosing _ _ (event f isEvent s h)
    · exact h
  | true =>
    cases i with
    | powerOn => cases e; exact powerOn _ _ _ _ h
    | resetPinAssert => cases e; exact resetAssert _ h
    | resetPinRelease => cases e; exact resetRelease _ _ _ _ h
    | powerFail => cases e; exact powerFail _ h
    | _ => cases power

/-! ## What every event keeps -/

section Events
variable {f : State → State} {s : State}

theorem capacityOk_event (e : Event f) (h : Capacity.CapacityOk s) : Capacity.CapacityOk (f s) := by
  cases e <;> simp [h]

theorem storesOk_event (e : Event f) (h : Stores.StoresOk s) : Stores.StoresOk (f s) := by
  cases e <;> simp [h]

theorem noticesOk_event (e : Event f) (h : Notices.NoticesOk s) : Notices.NoticesOk (f s) := by
  cases e <;> simp [h]

theorem greenOk_event (e : Event f) (h : Green.GreenOk s) : Green.GreenOk (f s) := by
  cases e <;> simp [h]

theorem numberingOk_event (e : Event f) (h : Numbering.NumberingOk s) : Numbering.NumberingOk (f s) := by
  cases e <;> simp [h]

theorem accountsOk_feedEvent (h : Accounts.AccountsOk (f s)) : Accounts.AccountsOk (feedEvent f s) :=
  Accounts.accountsOk_of (Green.greenOk_feedEvent f s (Accounts.accountsOk_g h))
    (Accounts.recordsOk_feedEvent f s (Accounts.accountsOk_a h))

theorem accountsOk_event (e : Event f) (h : Accounts.AccountsOk s) : Accounts.AccountsOk (f s) := by
  cases e <;> simp [h, accountsOk_feedEvent]

theorem nodesOk_event (e : Event f) (h : Nodes.NodesOk s) : Nodes.NodesOk (f s) := by
  cases e <;> simp [h]

theorem storeFollows_event (e : Event f) (h : Commands.StoreFollows s) : Commands.StoreFollows (f s) := by
  cases e <;> simp [h]

theorem pressFollows_event (e : Event f) (h : Commands.PressFollows s) : Commands.PressFollows (f s) := by
  cases e <;> simp [h]

/-- An event of the Feed and Loading Unit ends with the picker command judged; the others leave command and set in step. -/
theorem pickerFollows_event (e : Event f) (h : Commands.PickerFollows s) : Commands.PickerFollows (f s) := by
  cases e <;> simp [h, Commands.pickerFollows_feedEvent]

end Events

/-! ## The laws -/

theorem greenOk_iff (s : State) : Green.GreenOk s ↔ s.GreenLaw := by
  unfold Green.GreenOk Green.GreenIn
  exact Green.greenFor_iff s

theorem capacityOk_step {s s' : State} : Capacity.CapacityOk s → step s = .next s' → Capacity.CapacityOk s' :=
  step_keeps_of_events Capacity.capacityOk_pend Capacity.capacityOk_powerOn Capacity.capacityOk_resetAssert
    Capacity.capacityOk_resetRelease Capacity.capacityOk_powerFail Capacity.capacityOk_choosing Capacity.capacityOk_ticked
    (fun _ e _ => capacityOk_event e)

theorem storesOk_step {s s' : State} : Stores.StoresOk s → step s = .next s' → Stores.StoresOk s' :=
  step_keeps_of_events Stores.storesOk_pend Stores.storesOk_powerOn Stores.storesOk_resetAssert
    Stores.storesOk_resetRelease Stores.storesOk_powerFail Stores.storesOk_choosing Stores.storesOk_ticked
    (fun _ e _ => storesOk_event e)

theorem noticesOk_step {s s' : State} : Notices.NoticesOk s → step s = .next s' → Notices.NoticesOk s' :=
  step_keeps_of_events Notices.noticesOk_pend Notices.noticesOk_powerOn Notices.noticesOk_resetAssert
    Notices.noticesOk_resetRelease Notices.noticesOk_powerFail Notices.noticesOk_choosing Notices.noticesOk_ticked
    (fun _ e _ => noticesOk_event e)

/-- Each kiln stands once in the Press Queue, so it holds at most the six kilns (R123). -/
theorem pressQueue_length {s : State} (h : s.GreenLaw) : s.press.queue.length ≤ 6 := by
  simpa using h.queueOnce.length_le_card

/-- The charges that a table of 24 lots with 6 charges each can name (R1, R4). -/
def chargeRefs (ls : List Lot) : List ChargeRef :=
  ls.flatMap (fun l => (List.range 6).map (fun i => { lot := l.number, index := i }))

theorem chargeRefs_length (ls : List Lot) : (chargeRefs ls).length = 6 * ls.length := by
  induction ls with
  | nil => rfl
  | cons l ls ih =>
    rw [chargeRefs, List.flatMap_cons, List.length_append, List.length_map, List.length_range, ← chargeRefs, ih,
      List.length_cons]
    omega

/-- A reference to a charge of a table within its capacities is among them. -/
theorem mem_chargeRefs {s : State} (room : s.WithinCapacity) {r : ChargeRef} {c : Charge} (h : s.charge? r = some c) :
    r ∈ chargeRefs s.table.lots := by
  obtain ⟨l, found, held⟩ := Option.bind_eq_some_iff.mp h
  have mem : l ∈ s.table.lots := List.mem_of_find?_eq_some found
  have named : l.number = r.lot := by simpa using List.find?_some found
  have index : r.index < 6 :=
    Nat.lt_of_lt_of_le (List.getElem?_eq_some_iff.mp held).1 (room.charges l mem)
  exact List.mem_flatMap.mpr ⟨l, mem, List.mem_map.mpr ⟨r.index, List.mem_range.mpr index, by rw [named]⟩⟩

/-- Each charge waits once, so at most the 144 charges of the Lot Table wait (R144). -/
theorem wait_length {s : State} (room : s.WithinCapacity) (accounts : s.AccountLaw) : s.tickets.wait.length ≤ 144 := by
  have among : s.tickets.wait ⊆ chargeRefs s.table.lots := fun r hr => by
    obtain ⟨c, held, -⟩ := accounts.waits r hr
    exact mem_chargeRefs room held
  have bound := (accounts.waitsOnce.subperm among).length_le
  have lots : s.table.lots.length ≤ 24 := room.lots
  rw [chargeRefs_length] at bound
  omega

/-- Settles O54, from what every step keeps of the capacities, the stores and the Notice Queue. -/
theorem capacitiesKept : Obligations.CapacitiesKept := by
  refine ⟨fun s s' room keys stepped => ?kept, fun _ => Nodes.commandQueue_length, fun _ => pressQueue_length,
    fun _ => wait_length⟩
  obtain ⟨capacity, stores, notices⟩ := (Stores.withinCapacity_iff s).mp room
  obtain ⟨notices', keys'⟩ := (Notices.noticesOk_iff s').mp
    (noticesOk_step ((Notices.noticesOk_iff s).mpr ⟨notices, keys⟩) stepped)
  exact ⟨(Stores.withinCapacity_iff s').mpr ⟨capacityOk_step capacity stepped, storesOk_step stores stepped, notices'⟩, keys'⟩

/-- Settles O55. -/
theorem greenLawKept : Obligations.GreenLawKept := by
  intro s s' law stepped
  rw [← greenOk_iff] at law ⊢
  exact step_keeps_of_events Green.greenOk_pend Green.greenOk_powerOn Green.greenOk_resetAssert Green.greenOk_resetRelease
    Green.greenOk_powerFail Green.greenOk_choosing Green.greenOk_ticked (fun _ e _ => greenOk_event e) law stepped

/-- Settles O56. -/
theorem numberingLawKept : Obligations.NumberingLawKept := by
  intro s s' law stepped
  rw [Numbering.numberingLaw_iff] at law ⊢
  exact step_keeps_of_events Numbering.numberingOk_pend Numbering.numberingOk_powerOn Numbering.numberingOk_resetAssert
    Numbering.numberingOk_resetRelease Numbering.numberingOk_powerFail Numbering.numberingOk_choosing
    Numbering.numberingOk_ticked (fun _ e _ => numberingOk_event e) law stepped

theorem accountsOk_step {s s' : State} : Accounts.AccountsOk s → step s = .next s' → Accounts.AccountsOk s' :=
  step_keeps_of_events Accounts.accountsOk_pend Accounts.accountsOk_powerOn Accounts.accountsOk_resetAssert
    Accounts.accountsOk_resetRelease Accounts.accountsOk_powerFail Accounts.accountsOk_choosing Accounts.accountsOk_ticked
    (fun _ e _ => accountsOk_event e)

theorem nodesOk_step {s s' : State} : Nodes.NodesOk s → step s = .next s' → Nodes.NodesOk s' :=
  step_keeps_of_events Nodes.nodesOk_pend Nodes.nodesOk_powerOn Nodes.nodesOk_resetAssert Nodes.nodesOk_resetRelease
    Nodes.nodesOk_powerFail Nodes.nodesOk_choosing Nodes.nodesOk_ticked (fun _ e _ => nodesOk_event e)

/-- A charge that can be looked up is of a lot in the table (R9). -/
theorem lot_of_charge {s : State} {r : ChargeRef} {c : Charge} (h : s.charge? r = some c) :
    ∃ l ∈ s.table.lots, l.number = r.lot ∧ c ∈ l.charges := by
  obtain ⟨l, found, held⟩ := Option.bind_eq_some_iff.mp h
  exact ⟨l, List.mem_of_find?_eq_some found, by simpa using List.find?_some found, List.mem_of_getElem? held⟩

/-- Lot numbers ascend, so a charge looked up under a lot's number is one of its charges. -/
theorem mem_charges_of_charge {s : State} (green : s.GreenLaw) {l : Lot} (mem : l ∈ s.table.lots) {r : ChargeRef}
    (same : r.lot = l.number) {c : Charge} (h : s.charge? r = some c) : c ∈ l.charges := by
  obtain ⟨m, found, held⟩ := Option.bind_eq_some_iff.mp h
  have unique : s.lot? l.number = some l := Accounts.lotIn_of_mem green.ascending mem
  rw [same, unique, Option.some.injEq] at found
  subst found
  exact List.mem_of_getElem? held

theorem not_atPress_of_ticketed {c : Charge} (h : c.state = .ticketed) : ¬ c.state.AtPress := by
  simp [ChargeState.AtPress, h]

section Ticketed
variable {s : State} {l : Lot} (green : s.GreenLaw) (accounts : s.AccountLaw) (mem : l ∈ s.table.lots)
  (ticketed : ∀ c ∈ l.charges, c.state = .ticketed)
include green accounts mem ticketed

/-- A lot whose charges are all TICKETED has no bale in the Bale Store (R8). -/
theorem lotBales_of_ticketed : s.lotBales l.number = [] := by
  refine List.filter_eq_nil_iff.mpr (fun b hb same => ?_)
  obtain ⟨c, held, atPress, -⟩ := accounts.bales b hb
  exact not_atPress_of_ticketed (ticketed c (mem_charges_of_charge green mem (of_decide_eq_true same) held)) atPress

/-- A lot whose charges are all TICKETED has no ticket in the Ticket Queue (R8). -/
theorem lotTickets_of_ticketed : s.lotTickets l.number = [] := by
  refine List.filter_eq_nil_iff.mpr (fun t ht same => ?_)
  obtain ⟨c, held, atPress, -⟩ := accounts.tickets t ht
  exact not_atPress_of_ticketed (ticketed c (mem_charges_of_charge green mem (of_decide_eq_true same) held)) atPress

/-- Such a lot has given every ticket and released every bale and net (R8). -/
theorem released_of_ticketed :
    l.ticketsIssued = l.ticketsTaken ∧ l.baleCount = l.releasedBales ∧ l.netTotal = l.releasedNet := by
  have sums := accounts.accounted l mem
  have bales := lotBales_of_ticketed green accounts mem ticketed
  refine ⟨?_, ?_, ?_⟩
  · rw [sums.tickets, lotTickets_of_ticketed green accounts mem ticketed, List.length_nil, Nat.add_zero]
  · rw [sums.bales, bales, List.length_nil, Nat.zero_add]
  · rw [sums.net, bales, netSum, List.map_nil, List.sum_nil, zero_add, sums.released]

end Ticketed

/-- Settles O57. -/
theorem accountLawKept : Obligations.AccountLawKept := by
  refine ⟨fun s s' green numbers accounts stepped => ?kept, fun s l => released_of_ticketed, fun s n accounts absent => ?absent⟩
  case kept =>
    exact ((Accounts.accountsOk_laws s').mp
      (accountsOk_step ((Accounts.accountsOk_laws s).mpr ⟨green, numbers, accounts⟩) stepped)).2.2
  case absent =>
    have other : ∀ (r : ChargeRef) (c : Charge), s.charge? r = some c → r.lot ≠ n := fun r c held same => by
      obtain ⟨l, mem, named, -⟩ := lot_of_charge held
      exact absent l mem (named.trans same)
    refine ⟨fun b hb => ?_, fun t ht => ?_, fun r hr => ?_, fun k r hr => ?_⟩
    · obtain ⟨c, held, -⟩ := accounts.bales b hb
      exact other _ c held
    · obtain ⟨c, held, -⟩ := accounts.tickets t ht
      exact other _ c held
    · obtain ⟨c, held, -⟩ := accounts.waits r hr
      exact other r c held
    · obtain ⟨c, held, -⟩ := accounts.kilnCharge k r hr
      exact other r c held

/-! ## The arbiter's law -/

/-- The law speaks of an active part only. -/
theorem choiceLaw_of_inactive {s : State} (inactive : s.active = false) : s.ChoiceLaw where
  held := fun active => by rw [inactive] at active; cases active
  made := fun active => by rw [inactive] at active; cases active

/-- Right after a start no source has work and no choice stands. -/
theorem choiceLaw_started (s : State) (addr : BitVec 4) (upRate fpRate : BitVec 2) :
    (s.started addr upRate fpRate).ChoiceLaw where
  held := fun _ c chosen => by cases chosen
  made := fun _ _ c work => by cases c <;> cases work

theorem choiceLaw_powerOn (s : State) (addr : BitVec 4) (upRate fpRate : BitVec 2) :
    (s.powerOn addr upRate fpRate).ChoiceLaw := by
  unfold State.powerOn
  split
  · exact choiceLaw_of_inactive rfl
  · exact choiceLaw_started s addr upRate fpRate

theorem choiceLaw_resetRelease {s : State} (addr : BitVec 4) (upRate fpRate : BitVec 2) :
    (s.resetRelease addr upRate fpRate).ChoiceLaw := by
  unfold State.resetRelease
  split
  next => exact choiceLaw_started s addr upRate fpRate
  next unpowered => exact choiceLaw_of_inactive (by simp [State.active, unpowered])

/-- A command on an active part ends with the choice made; the supply and the RESET pin leave the part without one. -/
theorem choiceLaw_exec (i : Instr) (s s' : State) (h : s.ChoiceLaw) (e : exec i s = .next s') : s'.ChoiceLaw := by
  cases power : isPowerCommand i with
  | false =>
    obtain ⟨f, -, run⟩ := exec_event power
    rw [run, whileActive, Host.Outcome.next.injEq] at e
    subst e
    split
    · exact arbitrated_choiceLaw _ _
    · exact h
  | true =>
    cases i with
    | powerOn => cases e; exact choiceLaw_powerOn _ _ _ _
    | resetPinAssert => cases e; exact choiceLaw_of_inactive (by simp [State.active, State.resetAssert])
    | resetPinRelease => cases e; exact choiceLaw_resetRelease _ _ _
    | powerFail => cases e; exact choiceLaw_of_inactive rfl
    | _ => cases power

/-- The law reads neither the waiting commands nor a timer. -/
theorem choiceLaw_congr {s t : State} (h : s.ChoiceLaw) (active : t.active = s.active)
    (free : t.segmentFree = s.segmentFree) (work : ∀ c, t.holdsWork c = s.holdsWork c)
    (chosen : t.field.chosen = s.field.chosen) : t.ChoiceLaw where
  held := fun isActive c hc => by
    rw [free, work]
    exact h.held (active ▸ isActive) c (chosen ▸ hc)
  made := fun isActive isFree c hc => by
    rw [chosen]
    exact h.made (active ▸ isActive) (free ▸ isFree) c (work c ▸ hc)

/-- Settles O58. -/
theorem nodeLawKept : Obligations.NodeLawKept := by
  refine ⟨fun s s' law stepped => ?nodes, step_keeps State.ChoiceLaw ?queue choiceLaw_exec ?tick⟩
  case nodes =>
    rw [← Nodes.nodesOk_iff] at law ⊢
    exact nodesOk_step law stepped
  case queue => exact fun s p h => choiceLaw_congr h rfl rfl (fun c => by cases c <;> rfl) rfl
  case tick => exact fun s h => choiceLaw_congr h rfl rfl (fun c => by cases c <;> rfl) rfl

/-! ## The commands and their reason sets -/

theorem commandsFollow_started (s : State) (addr : BitVec 4) (upRate fpRate : BitVec 2) :
    (s.started addr upRate fpRate).CommandsFollow := ⟨rfl, rfl, rfl⟩

theorem commandsFollow_inactive (s : State) (p : Power) : (s.inactive p).CommandsFollow := ⟨rfl, rfl, rfl⟩

theorem commandsFollow_powerOn (s : State) (addr : BitVec 4) (upRate fpRate : BitVec 2) :
    (s.powerOn addr upRate fpRate).CommandsFollow := by
  unfold State.powerOn
  split
  · exact commandsFollow_inactive s _
  · exact commandsFollow_started s addr upRate fpRate

theorem commandsFollow_resetRelease {s : State} (h : s.CommandsFollow) (addr : BitVec 4) (upRate fpRate : BitVec 2) :
    (s.resetRelease addr upRate fpRate).CommandsFollow := by
  unfold State.resetRelease
  split
  · exact commandsFollow_started s addr upRate fpRate
  · exact ⟨h.picker, h.press, h.store⟩

theorem commandsFollow_event {f : State → State} {s : State} (e : Event f) (h : s.CommandsFollow) :
    (f s).CommandsFollow := by
  obtain ⟨picker, press, store⟩ := (Commands.commandsFollow_iff s).mp h
  exact (Commands.commandsFollow_iff (f s)).mpr
    ⟨pickerFollows_event e picker, pressFollows_event e press, storeFollows_event e store⟩

/-- Settles O59. -/
theorem commandsFollowKept : Obligations.CommandsFollowKept := fun _ _ follows stepped =>
  step_keeps_of_events (fun _ _ h => ⟨h.picker, h.press, h.store⟩) (fun s a b c _ => commandsFollow_powerOn s a b c)
    (fun _ h => ⟨h.picker, h.press, h.store⟩) (fun _ a b c h => commandsFollow_resetRelease h a b c)
    (fun s _ => commandsFollow_inactive s _) (fun _ _ h => ⟨h.picker, h.press, h.store⟩)
    (fun _ h => ⟨h.picker, h.press, h.store⟩) (fun _ e _ => commandsFollow_event e) follows stepped

/-! ## Reset -/

/-- The reset state is a part just started, so it meets what every start leaves. -/
theorem started_reset : State.reset.started 0 0 0 = State.reset := rfl

theorem accountsOk_reset : Accounts.AccountsOk State.reset := Accounts.accountsOk_empty _ ⟨rfl, rfl, rfl, rfl, rfl⟩

/-- Settles O60. -/
theorem lawsHoldAtReset : Obligations.LawsHoldAtReset := by
  have capacity : Capacity.CapacityOk State.reset := Capacity.capacityOk_started State.reset 0 0 0
  have stores : Stores.StoresOk State.reset := Stores.storesOk_started State.reset 0 0 0
  obtain ⟨notices, keys⟩ := (Notices.noticesOk_iff State.reset).mp (Notices.noticesOk_started State.reset 0 0 0)
  obtain ⟨green, numbers, accounts⟩ := (Accounts.accountsOk_laws State.reset).mp accountsOk_reset
  have nodes : State.reset.NodeLaw := (Nodes.nodesOk_iff State.reset).mp (Nodes.nodesOk_started State.reset 0 0 0)
  have choice : State.reset.ChoiceLaw := choiceLaw_started State.reset 0 0 0
  have follows : State.reset.CommandsFollow := commandsFollow_started State.reset 0 0 0
  exact ⟨(Stores.withinCapacity_iff _).mpr ⟨capacity, stores, notices⟩, keys, green, numbers, accounts, nodes, choice, follows⟩

end Sys2Proof.Proofs.Kept
end

section
/-! PROOF. A step, the reset state and the power commands (R170, logs 1, 3 and 4): the front command, the events that the part
gives itself, and the tick. -/

namespace Sys2Proof.Proofs.Steps

open Sys2Proof Sys2Proof.Machine Sys2Proof.Proofs.Kept

/-! ## A step -/

theorem exec_answers (c : Instr) (s : State) : ∃ t, exec c s = .next t := by
  cases power : isPowerCommand c with
  | false =>
    obtain ⟨f, -, run⟩ := exec_event power
    exact ⟨_, run s⟩
  | true =>
    cases c with
    | powerOn | resetPinAssert | resetPinRelease | powerFail => exact ⟨_, rfl⟩
    | _ => cases power

theorem step_cons {c : Instr} {rest : List Instr} {s : State} (front : s.pending = c :: rest) :
    step s = exec c { s with pending := rest } := by
  rw [step, front]

theorem step_ownEvent {c : Instr} {s : State} (empty : s.pending = []) (due : s.ownEvent = some c) :
    step s = exec c s := by
  rw [step, empty]
  simp only [due]

theorem step_tick {s : State} (empty : s.pending = []) (idle : s.ownEvent = none) : step s = .next s.tick := by
  rw [step, empty]
  simp only [idle]

/-- Settles O1. -/
theorem stepRunsTheFrontCommand : Obligations.StepRunsTheFrontCommand := by
  refine ⟨fun c rest s => step_cons, fun s => ?_⟩
  match front : s.pending with
  | c :: rest => rw [step_cons front]; exact exec_answers c _
  | [] =>
    cases own : s.ownEvent with
    | some c => rw [step_ownEvent front own]; exact exec_answers c s
    | none => exact ⟨_, step_tick front own⟩

/-! ## Reset and power -/

theorem route_reset (i : RouteIdx) : State.reset.route i = {} := by simp [State.route, State.reset]
theorem node_reset (i : NodeIdx) : State.reset.node i = {} := by simp [State.node, State.reset]
theorem cadence_reset (c : CadenceId) : State.reset.field.cadences[c] = {} := by simp [State.reset]
theorem variety_reset (v : Fin 16) : State.reset.table.varieties[v] = {} := by simp [State.reset]
theorem kiln_reset (k : Kiln) : State.reset.kiln k = {} := by simp [State.kiln, State.reset]
theorem kilnEntry_reset (k : Kiln) : State.reset.kilnEntry k = {} := by simp [State.kilnEntry, State.reset]

/-- Settles O3. -/
theorem resetState : Obligations.ResetState := by
  unfold Obligations.ResetState
  refine ⟨rfl, rfl, rfl, rfl, rfl, rfl, rfl, rfl, rfl, rfl, rfl, rfl, rfl, rfl, fun i => ?route, fun i => ?node,
    cadence_reset, rfl, rfl, rfl, rfl, rfl, rfl, fun v => ?variety, rfl, rfl, rfl, rfl, rfl, rfl, rfl, rfl,
    fun k => ?kiln, rfl, rfl, rfl, rfl, rfl, rfl, rfl, rfl, rfl, rfl, rfl, rfl, rfl, rfl⟩
  case route => rw [route_reset]
  case node => rw [node_reset]; exact ⟨rfl, rfl, rfl, rfl⟩
  case variety => rw [variety_reset]
  case kiln => rw [kiln_reset, kilnEntry_reset]; exact ⟨rfl, rfl, rfl⟩

theorem powerOn_released {s : State} {addr : BitVec 4} {up fp : BitVec 2} (released : s.power.resetAsserted = false) :
    s.powerOn addr up fp = s.started addr up fp := by
  rw [State.powerOn, if_neg (Bool.eq_false_iff.mp released)]

theorem powerOn_asserted {s : State} {addr : BitVec 4} {up fp : BitVec 2} (asserted : s.power.resetAsserted = true) :
    s.powerOn addr up fp = s.inactive { powered := true, resetAsserted := true } := by
  rw [State.powerOn, if_pos asserted]

theorem resetRelease_powered {s : State} {addr : BitVec 4} {up fp : BitVec 2} (powered : s.power.powered = true) :
    s.resetRelease addr up fp = s.started addr up fp := by
  rw [State.resetRelease, if_pos powered]

theorem resetRelease_unpowered {s : State} {addr : BitVec 4} {up fp : BitVec 2} (unpowered : s.power.powered = false) :
    s.resetRelease addr up fp = { s with power := { powered := false, resetAsserted := false } } := by
  rw [State.resetRelease, if_neg (Bool.eq_false_iff.mp unpowered), ← unpowered]

/-- Settles O4. -/
theorem powerAndResetPin : Obligations.PowerAndResetPin := by
  refine ⟨fun s addr up fp released => congrArg _ (powerOn_released released),
    fun s addr up fp asserted => congrArg _ (powerOn_asserted asserted),
    fun s addr up fp powered => congrArg _ (resetRelease_powered powered),
    fun s addr up fp unpowered => congrArg _ (resetRelease_unpowered unpowered),
    fun s => ⟨s.resetAssert, rfl, ?asserted, rfl, rfl, rfl, rfl⟩,
    fun s => ⟨s.powerFail, rfl, rfl, rfl, rfl, rfl, rfl, rfl⟩, fun c s inactive event => ?inactive⟩
  case asserted => simp [State.active, State.resetAssert]
  case inactive =>
    obtain ⟨f, -, run⟩ := exec_event event
    rw [run, whileActive_inactive inactive]

/-! ## The tick -/

theorem stepRuns_iff (st : KilnState) : st.stepRuns = true ↔ st = .drying ∨ st = .cooling := by
  cases st <;> simp [KilnState.stepRuns]

theorem tenthMore_eq (e t : Nat) :
    tenthMore e t = (if 9 ≤ t then e + 1 else e, if 9 ≤ t then 0 else t + 1) := by
  unfold tenthMore
  split <;> rfl

/-- A tick of a kiln, with the two conditions under which its elapsed times run (R80, R87, R89). -/
theorem kilnRun_tick_eq {r : KilnRun} {stepRuns totalRuns : Bool} (step : stepRuns = r.state.stepRuns)
    (total : totalRuns = (r.state.stepRuns || r.state = .hold)) :
    r.tick = { r with
      stepElapsed := if stepRuns = true ∧ 9 ≤ r.stepFraction then r.stepElapsed + 1 else r.stepElapsed
      stepFraction := if stepRuns = false then r.stepFraction else if 9 ≤ r.stepFraction then 0 else r.stepFraction + 1
      totalElapsed := if totalRuns = false then r.totalElapsed
        else min 4294967295 (if 9 ≤ r.totalFraction then r.totalElapsed + 1 else r.totalElapsed)
      totalFraction := if totalRuns = false then r.totalFraction
        else if 9 ≤ r.totalFraction then 0 else r.totalFraction + 1
      refresh := r.refresh.map (· - 1) } := by
  have afterStep : r.tickStep = { r with
      stepElapsed := if stepRuns = true ∧ 9 ≤ r.stepFraction then r.stepElapsed + 1 else r.stepElapsed
      stepFraction := if stepRuns = false then r.stepFraction
        else if 9 ≤ r.stepFraction then 0 else r.stepFraction + 1 } := by
    cases stepRuns <;> simp [KilnRun.tickStep, ← step, tenthMore_eq]
  rw [KilnRun.tick, afterStep]
  cases totalRuns <;> simp [KilnRun.tickTotal, ← total, tenthMore_eq]

theorem kiln_ticked (s : State) (k : Kiln) : s.ticked.kiln k = (s.kiln k).tick := by simp [State.kiln, State.ticked]

theorem cadence_ticked (s : State) (c : CadenceId) : s.ticked.field.cadences[c] = s.field.cadences[c].tick := by
  simp [State.ticked]

theorem feed_tick_eq (u : Feed) : u.tick = { u with
    timer := if u.changeover = .steady ∨ u.changeover.isWaiting = true then u.timer else u.timer - 1
    divertWatch := u.divertWatch.map (· - 1) } := by
  cases h : u.changeover <;> simp [Feed.tick, h, Changeover.isWaiting]

theorem tick_active {s : State} (active : s.active = true) : s.tick = s.ticked := by rw [State.tick, if_pos active]

theorem tick_inactive {s : State} (inactive : s.active = false) : s.tick = s := by
  rw [State.tick, if_neg (Bool.eq_false_iff.mp inactive)]

/-! ## The part's own events -/

/-- The first event of a list of conditions with their events. -/
def firstDue (due : List (Bool × Instr)) : Option Instr := (due.find? (fun x => x.1)).map (fun x => x.2)

theorem firstDue_nil : firstDue [] = none := rfl

theorem firstDue_cons (b : Bool) (c : Instr) (due : List (Bool × Instr)) :
    firstDue ((b, c) :: due) = (dueIf b c).or (firstDue due) := by
  cases b <;> simp [firstDue, dueIf]

theorem firstDue_append (l due : List (Bool × Instr)) : firstDue (l ++ due) = (firstDue l).or (firstDue due) := by
  simp [firstDue, Option.map_or]

theorem firstDue_map {α : Type} (l : List α) (p : α → Bool) (e : α → Instr) :
    firstDue (l.map (fun a => (p a, e a))) = l.findSome? (fun a => dueIf (p a) (e a)) := by
  induction l with
  | nil => rfl
  | cons a l ih =>
    rw [List.map_cons, firstDue_cons, ih, List.findSome?_cons]
    cases dueIf (p a) (e a) <;> rfl

theorem firstDue_flatMap {α : Type} (l : List α) (g : α → List (Bool × Instr)) :
    firstDue (l.flatMap g) = l.findSome? (fun a => firstDue (g a)) := by
  induction l with
  | nil => rfl
  | cons a l ih =>
    rw [List.flatMap_cons, firstDue_append, ih, List.findSome?_cons]
    cases firstDue (g a) <;> rfl

theorem nextSegment_isSome_iff (s : State) : s.nextSegment.isSome = true ↔
    ∃ b, s.classifier.block = some b ∧ b.inProgress = true ∧ b.frames ≠ [] := by
  unfold State.nextSegment
  cases s.classifier.block with
  | none => simp
  | some b => cases running : b.inProgress <;> simp [running, Option.isSome_iff_ne_none]

theorem nextNotice_isSome_iff (s : State) :
    s.nextNotice.isSome = true ↔ s.link.live = true ∧ s.mgmt.notices ≠ [] := by
  cases live : s.link.live <;> simp [State.nextNotice, live, Option.isSome_iff_ne_none]

/-- The arbiter has a frame when one of its four sources has (R54). -/
theorem chooseUpstream_isSome_iff (s : State) : s.chooseUpstream.isSome = true ↔
    s.classifier.reply ≠ none ∨ s.nextSegment.isSome = true ∨ s.nextNotice.isSome = true ∨
      s.classifier.forwardQueue ≠ [] := by
  unfold State.chooseUpstream
  cases s.classifier.reply with
  | some f => simp
  | none =>
    cases s.nextSegment with
    | some f => simp
    | none =>
      cases s.nextNotice with
      | some n => simp
      | none => simp [Option.isSome_iff_ne_none]

theorem upstreamDue_iff (s : State) : s.upstreamDue = true ↔ s.classifier.sending = none ∧ (s.classifier.reply ≠ none ∨
    (∃ b, s.classifier.block = some b ∧ b.inProgress = true ∧ b.frames ≠ []) ∨
    (s.link.live = true ∧ s.mgmt.notices ≠ []) ∨ s.classifier.forwardQueue ≠ []) := by
  rw [State.upstreamDue, Bool.and_eq_true, Option.isNone_iff_eq_none, chooseUpstream_isSome_iff, nextSegment_isSome_iff,
    nextNotice_isSome_iff]

/-- On a free segment there is a choice exactly when some source has work (R38). -/
theorem choice_isSome_iff {s : State} (free : s.segmentFree = true) (before : Option FieldSource) :
    (s.choice before).isSome = true ↔ ∃ c, s.holdsWork c = true := by
  constructor
  · intro chosen
    obtain ⟨c, h⟩ := Option.isSome_iff_exists.mp chosen
    exact ⟨c, (choice_work h).2⟩
  · rintro ⟨c, work⟩
    exact choice_isSome free work

theorem holdsWork_iff (s : State) : (∃ c, s.holdsWork c = true) ↔
    s.field.commandQueue ≠ [] ∨ s.field.printRequest ≠ none ∨ s.classifier.passQueue ≠ [] ∨ s.field.pollQueue ≠ [] := by
  constructor
  · rintro ⟨c, work⟩
    cases c <;> simp_all [State.holdsWork, Option.isSome_iff_ne_none]
  · rintro (h | h | h | h)
    · exact ⟨.command, by simpa [State.holdsWork] using h⟩
    · exact ⟨.print, by simpa [State.holdsWork, Option.isSome_iff_ne_none] using h⟩
    · exact ⟨.pass, by simpa [State.holdsWork] using h⟩
    · exact ⟨.poll, by simpa [State.holdsWork] using h⟩

theorem fieldDue_iff (s : State) : s.fieldDue = true ↔ s.field.transaction = none ∧ s.link.driver = false ∧
    s.link.fpReceiving = false ∧ (s.field.commandQueue ≠ [] ∨ s.field.printRequest ≠ none ∨
      s.classifier.passQueue ≠ [] ∨ s.field.pollQueue ≠ []) := by
  rw [← holdsWork_iff]
  by_cases free : s.segmentFree = true
  · have clear : s.field.transaction = none ∧ s.link.driver = false := by simpa [State.segmentFree] using free
    simp [State.fieldDue, State.mayStart, free, clear, choice_isSome_iff free]
  · have busy : ¬ (s.field.transaction = none ∧ s.link.driver = false) := by simpa [State.segmentFree] using free
    simp only [State.fieldDue, State.mayStart, free, Bool.false_and, Bool.false_eq_true, false_iff]
    exact fun h => busy ⟨h.1, h.2.1⟩

theorem changeoverDue_eq {s : State} {draining : Bool} (h : draining = true ↔ ∃ p, s.feed.changeover = .draining p) :
    s.changeoverDue = (draining && decide (s.feed.timer = 0)) := by
  cases phase : s.feed.changeover <;> cases draining <;> simp_all [State.changeoverDue]

theorem abortMinutes_eq {s : State} {k : Kiln} {m : Nat}
    (held : ∀ d, (s.kiln k).schedule = some d → m = s.kilns.schedules[d].abortCoolMinutes)
    (free : (s.kiln k).schedule = none → m = 0) : s.abortMinutes k = m := by
  unfold State.abortMinutes
  split
  next h => exact (free h).symm
  next d h => exact (held d h).symm

theorem kilnDue_eq {s : State} {k : Kiln} {m : Nat} (minutes : s.abortMinutes k = m) : s.kilnDue k =
    firstDue [(decide ((s.kiln k).state = .drying ∧ (s.currentStep k).kind = .ramp ∧
            60 * ((s.kiln k).rampMinute + 1) ≤ (s.kiln k).stepElapsed), .rampMinute k),
         (decide (((s.kiln k).state = .drying ∧ (s.currentStep k).kind = .soak ∨
            (s.kiln k).state = .cooling ∧ (s.kiln k).aborted = false ∧ (s.currentStep k).kind = .cool) ∧
            60 * (s.currentStep k).duration ≤ (s.kiln k).stepElapsed), .stepEnd k),
         (decide ((s.kiln k).state = .drying ∧ (s.currentStep k).kind = .dryTo ∧
            60 * (s.currentStep k).duration ≤ (s.kiln k).stepElapsed), .dryToOvertime k),
         (decide ((s.kiln k).state = .cooling ∧ (s.kiln k).aborted = true ∧
            60 * m ≤ (s.kiln k).stepElapsed), .abortCoolingEnd k),
         (decide ((s.kiln k).refresh = some 0), .refreshTimerExpiry k)] := by
  simp only [firstDue_cons, firstDue_nil, State.kilnDue, State.dryingIn, State.inCoolStep, minutes, Bool.decide_and,
    Bool.decide_or, Bool.and_assoc, Bool.decide_eq_true, Bool.decide_eq_false, Option.or_none]

/-- Settles O2. -/
theorem stepOnAnEmptyQueue : Obligations.StepOnAnEmptyQueue := by
  refine ⟨fun s c => step_ownEvent, fun s empty idle inactive => ?inactive, fun s empty idle active => ?ticked,
    fun s inactive => ?none, fun s active up seg dr minutes hup hseg hdr held free due hdue => ?order⟩
  case inactive => rw [step_tick empty idle, tick_inactive inactive]
  case ticked =>
    refine ⟨s.ticked, by rw [step_tick empty idle, tick_active active], rfl, rfl, rfl, fun c => ?cadence, rfl,
      feed_tick_eq s.feed, ?kiln, rfl, rfl, rfl, rfl, rfl, rfl, empty⟩
    case cadence => rw [cadence_ticked, Cadence.tick]
    case kiln =>
      rintro k r rfl stepRuns totalRuns step total
      rw [kiln_ticked]
      refine kilnRun_tick_eq (Bool.eq_iff_iff.mpr (step.trans (stepRuns_iff _).symm)) (Bool.eq_iff_iff.mpr (total.trans ?_))
      rw [Bool.or_eq_true, stepRuns_iff, decide_eq_true_eq, or_assoc]
  case none => rw [State.ownEvent, if_neg (Bool.eq_false_iff.mp inactive)]
  case order =>
    have upstream : s.upstreamDue = up := Bool.eq_iff_iff.mpr ((upstreamDue_iff s).trans hup.symm)
    have segment : s.fieldDue = seg := Bool.eq_iff_iff.mpr ((fieldDue_iff s).trans hseg.symm)
    have kilns : ∀ k, s.abortMinutes k = minutes k := fun k => abortMinutes_eq (held k) (free k)
    rw [State.ownEvent, if_pos active, hdue]
    show _ = firstDue _
    simp only [firstDue_append, firstDue_cons, firstDue_nil, firstDue_map, firstDue_flatMap, Option.or_none, Option.or_assoc,
      upstream, segment, changeoverDue_eq hdr, State.divertDue, funext (fun k => kilnDue_eq (kilns k)), Bool.decide_and,
      Config.ticksPerSecond, Config.silenceLimit]
    rfl

end Sys2Proof.Proofs.Steps
end

section
/-! PROOF. The Upstream Port: receptions, liveness, classification, and the frames that the part sends (R42 to R46, R54, R55,
R161, R162, R166, R171, R183); and a damaged reception on the Field Port (R32). -/

namespace Sys2Proof.Proofs

open Sys2Proof Sys2Proof.Machine

/-- An event of an active part is its effect, with the arbiter's choice left open. -/
theorem exec_eq_effect {c : Instr} {f : State → State} {s t : State} (run : exec c s = whileActive f s)
    (active : s.active = true) (effect : f s = t) : ∃ ch, exec c s = .next (State.choosing ch t) := by
  rw [run, whileActive_active active, effect]
  exact ⟨_, rfl⟩

end Sys2Proof.Proofs

namespace Sys2Proof.Proofs.Upstream

open Sys2Proof Sys2Proof.Machine

section Receptions
variable {s t : State} {chars : List Byte} {f : Frame}

/-! ## Receptions (R161, R162) -/

/-- The Upstream Port after a reception has been judged: its count, and the receiver closed by an over-long one. -/
def received (s : State) (chars : List Byte) : State :=
  { s with link := { s.link with
      up := s.link.up.count (judge chars), upOverlong := decide (55 ≤ chars.length) } }

/-- The Field Port after a reception has been judged. -/
def fieldReceived (s : State) (chars : List Byte) : State :=
  { s with link := { s.link with
      fp := s.link.fp.count (judge chars), fpReceiving := false, fpOverlong := decide (55 ≤ chars.length) } }

theorem upstreamArrival_closed (closed : s.link.upOverlong = true) : s.upstreamArrival chars = s := by
  simp [State.upstreamArrival, closed]

section Open
variable (isOpen : s.link.upOverlong = false) (nonempty : chars ≠ []) (within : chars.length ≤ 55)
include isOpen nonempty within

theorem upstreamArrival_damaged (damaged : ∀ f, judge chars ≠ .valid f) :
    s.upstreamArrival chars = received s chars := by
  have whole : chars.take Config.overlong = chars := List.take_of_length_le within
  have taken : (!s.link.upOverlong && decide (chars ≠ [])) = true := by simp [isOpen, nonempty]
  unfold State.upstreamArrival
  rw [if_pos taken, whole]
  cases judged : judge chars with
  | valid f => exact absurd judged (damaged f)
  | torn | badLength | badCheck => simp only [received, judged]; rfl

theorem upstreamArrival_valid (valid : judge chars = .valid f) :
    s.upstreamArrival chars = (received s chars).validArrival.classifyUpstream f := by
  have whole : chars.take Config.overlong = chars := List.take_of_length_le within
  have taken : (!s.link.upOverlong && decide (chars ≠ [])) = true := by simp [isOpen, nonempty]
  unfold State.upstreamArrival
  rw [if_pos taken, whole]
  simp only [received, valid]
  rfl

end Open

theorem judge_nil : judge [] = .torn := rfl

/-- A valid frame is shorter than an over-long reception, and is not counted: the port is as it was. -/
theorem received_valid (isOpen : s.link.upOverlong = false) (within : chars.length ≤ 54) (valid : judge chars = .valid f) :
    received s chars = s := by
  have short : decide (55 ≤ chars.length) = s.link.upOverlong := by
    rw [isOpen, decide_eq_false_iff_not]
    omega
  rw [received, valid, short]
  rfl

/-- A valid arrival acts on liveness and is classified (R166, R42). -/
theorem upstreamArrival_eq (isOpen : s.link.upOverlong = false) (within : chars.length ≤ 54)
    (valid : judge chars = .valid f) : s.upstreamArrival chars = s.validArrival.classifyUpstream f := by
  have nonempty : chars ≠ [] := by
    rintro rfl
    rw [judge_nil] at valid
    cases valid
  rw [upstreamArrival_valid isOpen nonempty (Nat.le_succ_of_le within) valid, received_valid isOpen within valid]

/-! ## Damaged receptions on the Field Port (R32) -/

theorem fieldArrival_closed (closed : s.link.fpOverlong = true ∨ s.link.driver = true) : s.fieldArrival chars = s := by
  have off : s.fieldReceives = false := by rcases closed with h | h <;> simp [State.fieldReceives, h]
  simp [State.fieldArrival, off]

theorem fieldArrival_damaged (isOpen : s.link.fpOverlong = false) (driver : s.link.driver = false) (nonempty : chars ≠ [])
    (within : chars.length ≤ 55) (damaged : ∀ f, judge chars ≠ .valid f) :
    s.fieldArrival chars = (fieldReceived s chars).afterOther := by
  have whole : chars.take Config.overlong = chars := List.take_of_length_le within
  have taken : (s.fieldReceives && decide (chars ≠ [])) = true := by
    simp [State.fieldReceives, isOpen, driver, nonempty]
  unfold State.fieldArrival
  rw [if_pos taken, whole]
  cases judged : judge chars with
  | valid f => exact absurd judged (damaged f)
  | torn | badLength | badCheck => simp only [fieldReceived, judged]; rfl

theorem afterOther_waiting (waits : ∀ t, s.field.transaction = some t → t.waitRunOut = false) : s.afterOther = s := by
  unfold State.afterOther
  split
  next => rfl
  next t outstanding => rw [if_neg (Bool.eq_false_iff.mp (waits t outstanding))]

theorem afterOther_runOut {t : Transaction} (outstanding : s.field.transaction = some t) (out : t.waitRunOut = true) :
    s.afterOther = s.expired t := by
  simp only [State.afterOther, outstanding, if_pos out]

theorem windowExpiry_eq {t : Transaction} (outstanding : s.field.transaction = some t) (sent : t.sending = false)
    (kind : t.kind ≠ .broadcast) (quiet : s.link.fpReceiving = false) : s.windowExpiry = s.expired t := by
  simp [State.windowExpiry, outstanding, sent, kind, quiet]

/-- A wait that has run out while the damaged frame arrived ends as its expiry would. -/
theorem exec_fieldArrival_runOut {t : Transaction} (active : s.active = true) (isOpen : s.link.fpOverlong = false)
    (driver : s.link.driver = false) (nonempty : chars ≠ []) (within : chars.length ≤ 55)
    (follows : s.feed.picker = s.pickerWanted) (outstanding : s.field.transaction = some t) (out : t.waitRunOut = true)
    (sent : t.sending = false) (kind : t.kind ≠ .broadcast) (damaged : ∀ f, judge chars ≠ .valid f) :
    exec (.fieldArrival chars) s = exec .transactionWindowExpiry (fieldReceived s chars) := by
  have expires : s.fieldArrival chars = (fieldReceived s chars).expired t := by
    rw [fieldArrival_damaged isOpen driver nonempty within damaged]
    exact afterOther_runOut outstanding out
  have same : feedEvent (fun u => u.fieldArrival chars) s = (fieldReceived s chars).windowExpiry := by
    rw [windowExpiry_eq (s := fieldReceived s chars) outstanding sent kind rfl, ← expires]
    exact feedEvent_quiet (by rw [expires]; simp [fieldReceived]) (by rw [expires]; simp [fieldReceived]) follows
  show whileActive _ s = whileActive _ (fieldReceived s chars)
  rw [whileActive_active active, whileActive_active (s := fieldReceived s chars) active, same]
  rfl

end Receptions

/-- Settles O7. -/
theorem damagedReceptionOnlyCounts : Obligations.DamagedReceptionOnlyCounts := by
  have notValid : ∀ {chars : List Byte} {j : Judged}, judge chars = j → (∀ f, j ≠ .valid f) → ∀ f, judge chars ≠ .valid f :=
    fun judged damaged f => judged ▸ damaged f
  refine ⟨fun s chars active isOpen nonempty within => ?upstream, fun s chars active closed => ?upClosed,
    fun s active => exec_eq_effect (f := fun u => u.idleGap .upstream) rfl active rfl,
    fun s chars active isOpen driver nonempty within follows waits => ?field,
    fun s chars t active isOpen driver nonempty within follows outstanding out sent kind => ?runOut,
    fun s chars active closed follows => ?fieldClosed, fun s active => exec_eq_effect (f := fun u => u.idleGap .field) rfl active rfl⟩
  case upstream =>
    have counted : ∀ j, (∀ f, j ≠ .valid f) → judge chars = j → ∃ ch, exec (.upstreamArrival chars) s =
        .next (State.choosing ch { s with link := { s.link with
          up := s.link.up.count j, upOverlong := decide (55 ≤ chars.length) } }) := by
      rintro _ damaged rfl
      exact exec_eq_effect rfl active (upstreamArrival_damaged isOpen nonempty within damaged)
    exact ⟨counted .torn nofun, counted .badLength nofun, counted .badCheck nofun⟩
  case upClosed => exact exec_eq_effect rfl active (upstreamArrival_closed closed)
  case field =>
    have counted : ∀ j, (∀ f, j ≠ .valid f) → judge chars = j → ∃ ch, exec (.fieldArrival chars) s =
        .next (State.choosing ch { s with link := { s.link with
          fp := s.link.fp.count j, fpReceiving := false, fpOverlong := decide (55 ≤ chars.length) } }) := by
      rintro _ damaged rfl
      have effect : s.fieldArrival chars = fieldReceived s chars :=
        (fieldArrival_damaged isOpen driver nonempty within damaged).trans (afterOther_waiting waits)
      refine exec_eq_effect rfl active ((feedEvent_quiet ?_ ?_ follows).trans effect) <;> rw [effect] <;> rfl
    exact ⟨counted .torn nofun, counted .badLength nofun, counted .badCheck nofun⟩
  case runOut =>
    have expires : ∀ j, (∀ f, j ≠ .valid f) → judge chars = j → exec (.fieldArrival chars) s =
        exec .transactionWindowExpiry { s with link := { s.link with
          fp := s.link.fp.count j, fpReceiving := false, fpOverlong := decide (55 ≤ chars.length) } } := by
      rintro _ damaged rfl
      exact exec_fieldArrival_runOut active isOpen driver nonempty within follows outstanding out sent kind damaged
    exact ⟨expires .torn nofun, expires .badLength nofun, expires .badCheck nofun⟩
  case fieldClosed =>
    have effect : s.fieldArrival chars = s := fieldArrival_closed closed
    refine exec_eq_effect rfl active ((feedEvent_quiet ?_ ?_ follows).trans effect) <;> rw [effect]

section Classification
variable {s t : State} {f : Frame}

/-! ## Liveness (R166) -/

theorem validArrival_live (live : s.link.live = true) :
    s.validArrival = { s with link := { s.link with silence := 0 } } := by
  rw [State.validArrival, if_pos live, ← live]
  rfl

theorem validArrival_silent (silent : s.link.live = false) :
    s.validArrival = { s with link := { s.link with live := true, silence := 0 } }.raise .linkRestored 0
      ((s.link.silence / 10 : Nat) : Int) := by
  rw [State.validArrival, if_neg (Bool.eq_false_iff.mp silent)]
  rfl

theorem linkSilent_live (live : s.link.live = true) (limit : s.link.silence = 50) :
    s.linkSilent = { s with link := { s.link with live := false } } := by
  have still : max s.link.silence Config.silenceLimit = s.link.silence := by rw [limit]; rfl
  rw [State.linkSilent, if_pos live]
  simp only [State.updLink, still]

theorem linkSilent_silent (silent : s.link.live = false) : s.linkSilent = s := by
  rw [State.linkSilent, if_neg (Bool.eq_false_iff.mp silent)]

/-- Acting on liveness changes neither the Frame Classifier nor what makes a frame one for an owned actuator. -/
theorem validArrival_classifier (s : State) : s.validArrival.classifier = s.classifier := by
  unfold State.validArrival; split <;> rfl

theorem validArrival_ownAddress (s : State) : s.validArrival.ownAddress = s.ownAddress := by
  unfold State.validArrival; split <;> rfl

theorem validArrival_passOwned (s : State) (f : Frame) : s.validArrival.passOwned f = s.passOwned f := by
  unfold State.validArrival; split <;> rfl

theorem validArrival_active (s : State) : s.validArrival.active = s.active := by
  unfold State.validArrival; split <;> rfl

theorem validArrival_chosen (s : State) : s.validArrival.field.chosen = s.field.chosen := by
  unfold State.validArrival; split <;> rfl

/-! ## Classification (R42 to R46) -/

theorem isFieldAddress_iff (a : Byte) : isFieldAddress a = true ↔ 1 ≤ a.toNat ∧ a.toNat ≤ 0xDF := by
  simp [isFieldAddress]

/-- The own address lies above the field addresses and below 0xFF (R168). -/
theorem ownAddress_toNat (s : State) : s.ownAddress.toNat = 0xE0 + s.link.addr.toNat := by
  have := s.link.addr.isLt
  have base : (0xE0 : Byte).toNat = 0xE0 := rfl
  simp only [State.ownAddress, BitVec.toNat_add, BitVec.toNat_setWidth, base]
  omega

theorem classifyUpstream_misdirected (own : f.dest = s.ownAddress) (other : f.code ≠ codeRequest) :
    s.classifyUpstream f = { s with classifier := { s.classifier with
      misdirected := min 65535 (s.classifier.misdirected + 1) } } := by
  rw [State.classifyUpstream, if_pos own, if_neg other]
  rfl

theorem classifyUpstream_request (own : f.dest = s.ownAddress) (request : f.code = codeRequest) :
    s.classifyUpstream f = s.admitRequest f := by
  rw [State.classifyUpstream, if_pos own, if_pos request]

theorem admitRequest_full (full : 4 ≤ s.classifier.requests.length) :
    s.admitRequest f = { s with classifier := { s.classifier with dropped := min 65535 (s.classifier.dropped + 1) } } := by
  exact if_pos full

theorem admitRequest_waits (some : 0 < s.classifier.requests.length) (room : s.classifier.requests.length < 4) :
    s.admitRequest f = { s with classifier := { s.classifier with requests := s.classifier.requests ++ [f] } } := by
  have nonempty : s.classifier.requests ≠ [] := List.length_pos_iff.mp some
  exact (if_neg room.not_ge).trans (if_neg nonempty)

theorem classifyUpstream_pass (h : 1 ≤ f.dest.toNat ∧ f.dest.toNat ≤ 0xDF ∨ f.dest = 0xFF) (notOwn : f.dest ≠ s.ownAddress) :
    s.classifyUpstream f = s.offerPass f := by
  have field : (isFieldAddress f.dest || decide (f.dest = 0xFF)) = true := by
    rw [Bool.or_eq_true, isFieldAddress_iff, decide_eq_true_eq]
    exact h
  rw [State.classifyUpstream, if_neg notOwn, if_pos field]

theorem classifyUpstream_other (notOwn : f.dest ≠ s.ownAddress) (out : f.dest = 0 ∨ 0xE0 ≤ f.dest.toNat)
    (notAll : f.dest ≠ 0xFF) : s.classifyUpstream f = s := by
  have field : ¬ (isFieldAddress f.dest || decide (f.dest = 0xFF)) = true := by
    rw [Bool.or_eq_true, isFieldAddress_iff, decide_eq_true_eq]
    rintro (within | all)
    · rcases out with zero | high
      · rw [zero] at within
        exact absurd within.1 (by decide)
      · omega
    · exact notAll all
  rw [State.classifyUpstream, if_neg notOwn, if_neg field]

theorem offerPass_refused (owned : s.passOwned f = true) :
    s.offerPass f = s.raise .passRefused f.dest.toNat f.code.toNat := by
  rw [State.offerPass, if_pos owned]

theorem offerPass_joins (free : s.passOwned f = false) (room : s.classifier.passQueue.length < 8) :
    s.offerPass f = { s with classifier := { s.classifier with passQueue := s.classifier.passQueue ++ [f] } } := by
  rw [State.offerPass, if_neg (Bool.eq_false_iff.mp free)]
  exact if_pos room

theorem offerPass_dropped (free : s.passOwned f = false) (full : 8 ≤ s.classifier.passQueue.length) :
    s.offerPass f = s.raise .passDropped f.dest.toNat f.code.toNat := by
  rw [State.offerPass, if_neg (Bool.eq_false_iff.mp free)]
  exact if_neg full.not_gt

theorem isCommandCode_iff (c : Byte) : isCommandCode c = true ↔ c = 0x44 ∨ c = 0x45 ∨ c = 0x46 ∨ c = 0x47 := by
  rw [isCommandCode]
  simp only [Bool.or_eq_true, decide_eq_true_eq, or_assoc]
  rfl

theorem passOwned_iff (s : State) (f : Frame) : s.passOwned f = true ↔
    (f.code = 0x44 ∨ f.code = 0x45 ∨ f.code = 0x46 ∨ f.code = 0x47) ∧
    (f.dest = 0xFF ∧ (∃ i, s.owned (s.node i) = true) ∨
     f.dest ≠ 0xFF ∧ ∃ i, s.addressNode f.dest = some i ∧ s.owned (s.node i) = true) := by
  rw [State.passOwned, Bool.and_eq_true, isCommandCode_iff]
  refine and_congr_right fun _ => ?_
  by_cases all : f.dest = 0xFF
  · simp [all]
  · rw [if_neg all]
    simp only [all, ne_eq, not_false_eq_true, true_and, false_and, false_or]
    cases s.addressNode f.dest <;> simp

theorem feedHold_isEmpty_iff (h : FeedHold) : h.isEmpty = true ↔ h = { stopped := false } := by
  obtain ⟨stopped, changeover, noKiln, divert, chargeLimit, operator⟩ := h
  simp [FeedHold.isEmpty, and_assoc]

theorem owned_iff (s : State) (n : Node) : s.owned n = true ↔
    (n.role = some .burner ∧ ∃ k, n.binding = some k ∧ ((s.kiln k).state = .loaded ∨ (s.kiln k).state = .drying ∨
      (s.kiln k).state = .hold ∨ (s.kiln k).state = .cooling)) ∨
    (n.role = some .picker ∧ (s.feed.hold ≠ { stopped := false } ∨ s.feed.feedLot ≠ none)) ∨
    (n.role = some .diverter ∧ ∃ k, (s.kiln k).state = .loading) ∨
    (n.role = some .press ∧ s.press.queue ≠ []) := by
  unfold State.owned
  cases role : n.role with
  | none => simp
  | some r =>
    cases r with
    | burner =>
      cases binding : n.binding with
      | none => simp
      | some k => cases state : (s.kiln k).state <;> simp [state]
    | picker => simp [← feedHold_isEmpty_iff, Option.isSome_iff_ne_none]
    | diverter => simp
    | press => simp
    | belt | probe | moisture | printer | other => simp

end Classification

/-- Settles O8. -/
theorem linkLiveness : Obligations.LinkLiveness := by
  refine ⟨fun s chars f active isOpen within valid high notAll notOwn live => ?live,
    fun s chars f active isOpen within valid high notAll notOwn silent => ?silent,
    fun s active live limit => exec_eq_effect rfl active (linkSilent_live live limit),
    fun s active silent => exec_eq_effect rfl active (linkSilent_silent silent)⟩
  all_goals
    have effect : s.upstreamArrival chars = s.validArrival := by
      rw [upstreamArrival_eq isOpen within valid]
      exact classifyUpstream_other ((validArrival_ownAddress s).symm ▸ notOwn) (.inr high) notAll
    refine exec_eq_effect rfl active (effect.trans ?_)
  case live => exact validArrival_live live
  case silent => exact validArrival_silent silent

/-- Settles O9. -/
theorem upstreamClassification : Obligations.UpstreamClassification := by
  refine ⟨fun s chars f active isOpen within valid t ht => ?arrival, passOwned_iff, owned_iff⟩
  have classified : ∀ {u}, t.classifyUpstream f = u →
      ∃ ch, exec (.upstreamArrival chars) s = .next (State.choosing ch u) := fun h =>
    exec_eq_effect rfl active ((upstreamArrival_eq isOpen within valid).trans (ht ▸ h))
  have classifier : t.classifier = s.classifier := ht ▸ validArrival_classifier s
  have own : t.ownAddress = s.ownAddress := ht ▸ validArrival_ownAddress s
  have owned : t.passOwned f = s.passOwned f := ht ▸ validArrival_passOwned s f
  have notOwn : (1 ≤ f.dest.toNat ∧ f.dest.toNat ≤ 0xDF ∨ f.dest = 0xFF) → f.dest ≠ t.ownAddress := by
    rintro h e
    have high := ownAddress_toNat t
    have low := t.link.addr.isLt
    rw [e] at h
    rcases h with field | all
    · omega
    · rw [all] at high
      exact absurd high (by simp; omega)
  rw [← classifier, ← own, ← owned]
  exact ⟨fun h other => classified (classifyUpstream_misdirected h other),
    fun h request full => classified ((classifyUpstream_request h request).trans (admitRequest_full full)),
    fun h request some room => classified ((classifyUpstream_request h request).trans (admitRequest_waits some room)),
    fun h isOwned => classified ((classifyUpstream_pass h (notOwn h)).trans (offerPass_refused isOwned)),
    fun h free room => classified ((classifyUpstream_pass h (notOwn h)).trans (offerPass_joins free room)),
    fun h free full => classified ((classifyUpstream_pass h (notOwn h)).trans (offerPass_dropped free full)),
    fun h out notAll => classified (classifyUpstream_other h out notAll)⟩

/-! ## The Upstream Transmit Arbiter (R54, R55, R183) -/

section Arbiter
variable {s : State} {f g r : Frame} {rest : List Frame} {n : Notice} {notices : List Notice} {running : Bool}

theorem upstreamTransmit_busy {u : UpTransmit} (busy : s.classifier.sending = some u) : s.upstreamTransmit = s := by
  rw [State.upstreamTransmit, busy]

theorem upstreamTransmit_idle (none : s.chooseUpstream = none) : s.upstreamTransmit = s := by
  rw [State.upstreamTransmit, none]
  cases s.classifier.sending <;> rfl

theorem upstreamTransmit_starts {t : UpTransmit} (free : s.classifier.sending = none) (choice : s.chooseUpstream = some t) :
    s.upstreamTransmit = s.startUpstream t := by
  rw [State.upstreamTransmit, free, choice]

theorem nextSegment_eq_none
    (noBlock : ∀ b, s.classifier.block = some b → b.inProgress = false ∨ b.frames = []) : s.nextSegment = none := by
  rw [← Option.not_isSome_iff_eq_none, Steps.nextSegment_isSome_iff]
  rintro ⟨b, held, running, some⟩
  rcases noBlock b held with waits | done
  · rw [waits] at running
    cases running
  · exact some done

theorem nextNotice_eq_none (noNotice : s.link.live = false ∨ s.mgmt.notices = []) : s.nextNotice = none := by
  rcases noNotice with silent | empty
  · simp [State.nextNotice, silent]
  · simp [State.nextNotice, empty]

theorem chooseUpstream_reply (reply : s.classifier.reply = some f) :
    s.chooseUpstream = some { source := .reply, frame := f } := by
  rw [State.chooseUpstream, reply]

section NoReply
variable (noReply : s.classifier.reply = none)
include noReply

theorem chooseUpstream_segment (block : s.classifier.block = some { frames := f :: rest, inProgress := true }) :
    s.chooseUpstream = some { source := .segment, frame := f } := by
  have next : s.nextSegment = some f := by rw [State.nextSegment, block]; rfl
  rw [State.chooseUpstream, noReply]
  simp only [next]

variable (noBlock : ∀ b, s.classifier.block = some b → b.inProgress = false ∨ b.frames = [])
include noBlock

theorem chooseUpstream_notice (live : s.link.live = true) (waits : s.mgmt.notices = n :: notices) :
    s.chooseUpstream = some { source := .notice, frame := s.noticeFrame n } := by
  have next : s.nextNotice = some n := by rw [State.nextNotice, if_pos live, waits]; rfl
  rw [State.chooseUpstream, noReply]
  simp only [nextSegment_eq_none noBlock, next]

theorem chooseUpstream_forward (noNotice : s.link.live = false ∨ s.mgmt.notices = []) :
    s.chooseUpstream = s.classifier.forwardQueue.head?.map (fun f => { source := .forward, frame := f }) := by
  rw [State.chooseUpstream, noReply]
  simp only [nextSegment_eq_none noBlock, nextNotice_eq_none noNotice]

end NoReply

/-- Settles O10. -/
theorem upstreamTransmitOrder : Obligations.UpstreamTransmitOrder := by
  intro s active
  have starts : ∀ {t u}, s.classifier.sending = none → s.chooseUpstream = some t → s.startUpstream t = u →
      ∃ ch, exec .upstreamTransmit s = .next (State.choosing ch u) := fun free choice started =>
    exec_eq_effect rfl active ((upstreamTransmit_starts free choice).trans started)
  refine ⟨fun u busy => exec_eq_effect rfl active (upstreamTransmit_busy busy),
    fun f free reply => starts free (chooseUpstream_reply reply) rfl,
    fun f rest free noReply block => starts free (chooseUpstream_segment noReply block) rfl,
    fun n rest free noReply noBlock live waits payload bytes => ?notice,
    fun f rest free noReply noBlock noNotice waits => ?forward,
    fun free noReply noBlock noNotice empty => ?nothing⟩
  case notice =>
    refine starts free (chooseUpstream_notice noReply noBlock live waits) ?_
    rw [bytes]
    simp only [State.startUpstream, waits]
    rfl
  case forward =>
    have choice := chooseUpstream_forward noReply noBlock noNotice
    rw [waits] at choice
    refine starts free choice ?_
    simp only [State.startUpstream, waits]
    rfl
  case nothing =>
    have choice := chooseUpstream_forward noReply noBlock noNotice
    rw [empty] at choice
    exact exec_eq_effect rfl active (upstreamTransmit_idle choice)

/-! ## The end of a frame sent upstream (R55, R171, R183) -/

theorem completeRequest_last (last : s.classifier.requests = [r]) :
    s.completeRequest = { s with classifier := { s.classifier with requests := [], block := none } } := by
  simp only [State.completeRequest, State.executeHead, last, List.tail_cons]

theorem completeRequest_next (waits : s.classifier.requests = r :: g :: rest) :
    s.completeRequest =
      State.executeFrame { s with classifier := { s.classifier with requests := g :: rest, block := none } } g := by
  simp only [State.completeRequest, State.executeHead, waits, List.tail_cons]

theorem replySent_noBlock (noBlock : s.classifier.block = none) :
    s.replySent = State.completeRequest { s with classifier := { s.classifier with reply := none } } := by
  simp only [State.replySent, noBlock]

theorem replySent_block {b : TicketBlock} (block : s.classifier.block = some b) :
    s.replySent = { s with classifier := { s.classifier with
      reply := none, block := some { b with inProgress := true } } } := by
  simp only [State.replySent, block]

theorem segmentSent_last (block : s.classifier.block = some { frames := [f], inProgress := running }) :
    s.segmentSent = s.completeRequest := by
  simp only [State.segmentSent, block, List.tail_cons, if_pos]

theorem segmentSent_next (block : s.classifier.block = some { frames := f :: g :: rest, inProgress := running }) :
    s.segmentSent = { s with classifier := { s.classifier with
      block := some { frames := g :: rest, inProgress := running } } } := by
  simp [State.segmentSent, block]

theorem noticeSent_plain (plain : n.renewals = 0) : noticeSent (n :: notices) = notices := by
  simp [noticeSent, Notice.afterSent, plain]

theorem noticeSent_renewed (renewed : 0 < n.renewals) : noticeSent (n :: notices) =
    { n with sending := false, count := n.renewals, first := n.renewalTime, renewals := 0 } :: notices := by
  simp [noticeSent, Notice.afterSent, Nat.ne_of_gt renewed]

/-- The state with the line free again: nothing is being sent. -/
def lineFree (s : State) : State := { s with classifier := { s.classifier with sending := none } }

theorem upstreamFrameSent_reply (sent : s.classifier.sending = some { source := .reply, frame := f }) :
    s.upstreamFrameSent = (lineFree s).replySent := by
  simp only [State.upstreamFrameSent, sent, lineFree]

theorem upstreamFrameSent_segment (sent : s.classifier.sending = some { source := .segment, frame := f }) :
    s.upstreamFrameSent = (lineFree s).segmentSent := by
  simp only [State.upstreamFrameSent, sent, lineFree]

theorem upstreamFrameSent_notice (sent : s.classifier.sending = some { source := .notice, frame := f }) :
    s.upstreamFrameSent = { lineFree s with mgmt := { s.mgmt with notices := noticeSent s.mgmt.notices } } := by
  simp only [State.upstreamFrameSent, sent, lineFree]

theorem upstreamFrameSent_forward (sent : s.classifier.sending = some { source := .forward, frame := f }) :
    s.upstreamFrameSent = lineFree s := by
  simp only [State.upstreamFrameSent, sent, lineFree]

theorem executeFrame_eq {kind tag : Byte} {a : Answer} (answers : performPayload f.payload s = (kind, tag, a)) :
    s.executeFrame f = { a.state with classifier := { a.state.classifier with
      reply := some (mkFrame 0x00 a.state.ownAddress 0x61 (kind :: tag :: a.result.code :: a.data)) } } := by
  simp only [State.executeFrame, answers]
  rfl

end Arbiter

/-- Settles O11. -/
theorem upstreamFrameSent : Obligations.UpstreamFrameSent := by
  refine ⟨fun s active => ?sent, fun s f kind tag a => executeFrame_eq⟩
  have ends : ∀ {u}, s.upstreamFrameSent = u → ∃ ch, exec .upstreamFrameSent s = .next (State.choosing ch u) := fun effect =>
    exec_eq_effect rfl active effect
  refine ⟨fun idle => ends ?nothing, fun f r sent noBlock last => ends ?lastRequest,
    fun f r g rest sent noBlock waits => ends ?nextRequest, fun f b sent block => ends ?block,
    fun f g h rest b sent block => ends ?nextSegment, fun f g r b sent block last => ends ?lastSegment,
    fun f g r h rest b sent block waits => ends ?afterBlock, fun f n rest sent queue plain => ends ?notice,
    fun f n rest sent queue renewed => ends ?renewed, fun f sent => ends (upstreamFrameSent_forward sent)⟩
  case nothing => rw [State.upstreamFrameSent, idle]
  case lastRequest =>
    rw [upstreamFrameSent_reply sent, replySent_noBlock (s := lineFree s) noBlock]
    exact completeRequest_last last
  case nextRequest =>
    rw [upstreamFrameSent_reply sent, replySent_noBlock (s := lineFree s) noBlock]
    exact completeRequest_next waits
  case block => exact (upstreamFrameSent_reply sent).trans (replySent_block block)
  case nextSegment => exact (upstreamFrameSent_segment sent).trans (segmentSent_next block)
  case lastSegment =>
    rw [upstreamFrameSent_segment sent, segmentSent_last (s := lineFree s) block]
    exact completeRequest_last last
  case afterBlock =>
    rw [upstreamFrameSent_segment sent, segmentSent_last (s := lineFree s) block]
    exact completeRequest_next waits
  case notice =>
    rw [upstreamFrameSent_notice sent, queue, noticeSent_plain plain]
    rfl
  case renewed =>
    rw [upstreamFrameSent_notice sent, queue, noticeSent_renewed renewed]
    rfl

end Sys2Proof.Proofs.Upstream
end

section
/-! PROOF. Requests in general: the station time (R178), the encoding of a request (11.3), the Request Buffer (R43, R171, R172)
and a request over the wire (R160, R162, R163, R166). -/

namespace Sys2Proof.Proofs.RequestBuffer

open Sys2Proof Sys2Proof.Machine

/-! ## The station time (R178) -/

/-- Settles O12: each row is its effect on the time. -/
theorem stationTime : Obligations.StationTime := by
  unfold Obligations.StationTime
  refine ⟨fun s active => ?second, fun s tag time ready => ?set⟩
  case second => exact exec_eq_effect (f := State.secondPassed) rfl active rfl
  case set =>
    exact exec_eq_performed (r := .timeSet time) rfl ready
      (f := fun t => { t with mgmt := { t.mgmt with time := time, ticks := 0, timeSet := true } })
      (data := fun _ => bytes32 s.mgmt.time ++ bytes32 time) rfl

/-! ## The encoding of a request (11.3) -/

theorem performPayload_payload (r : Request) (tag : Byte) (s : State) :
    performPayload (r.payload tag) s = (r.kind, tag, performRequest r s) := by
  simp only [Request.payload, performPayload, decodeRequest_args]

/-- The kind, the tag and the arguments are read back from a payload, and the request from these. -/
theorem payload_inj {r q : Request} {tag tag' : Byte} (same : r.payload tag = q.payload tag') : r = q ∧ tag = tag' := by
  simp only [Request.payload, List.cons.injEq] at same
  obtain ⟨kind, tags, args⟩ := same
  have decoded := decodeRequest_args r
  rw [kind, args, decodeRequest_args] at decoded
  exact ⟨(Option.some.inj decoded).symm, tags⟩

/-- Settles O14, from `decodeRequest_args`. -/
theorem requestDecodesAsEncoded : Obligations.RequestDecodesAsEncoded := by
  unfold Obligations.RequestDecodesAsEncoded
  exact ⟨decodeRequest_args, performPayload_payload, fun _ _ _ _ same => payload_inj same⟩

/-! ## A refused request changes nothing (R172) -/

/-- An answer to a request executed in `s` that, unless it is OK, leaves `s` as it was and carries no data. -/
def UnchangedIfRefused (s : State) (a : Answer) : Prop := a.result ≠ .ok → a = refuse s a.result

section Answers
variable {s : State}

@[simp] theorem unchanged_refuse (res : Result) : UnchangedIfRefused s (refuse s res) := fun _ => rfl

@[simp] theorem unchanged_accept (t : State) (data : List Byte) : UnchangedIfRefused s (accept t data) :=
  fun refused => absurd rfl refused

@[simp] theorem unchanged_ite {p : Prop} [Decidable p] {a b : Answer} :
    UnchangedIfRefused s (if p then a else b) ↔ (p → UnchangedIfRefused s a) ∧ (¬ p → UnchangedIfRefused s b) := by
  split <;> simp [*]

variable (s)

/-- A table write is a tree of tests on the image, and every leaf refuses or accepts. -/
theorem unchanged_performTableWrite (table index : Byte) (image : List Byte) :
    UnchangedIfRefused s (performTableWrite table index image s) := by
  unfold performTableWrite
  split
  on_goal 11 => exact unchanged_refuse .format
  all_goals
    simp only [performNodeWrite, performRouteWrite, performCadenceWrite, performKilnWrite, performScheduleWrite,
      performStepWrite, performVarietyWrite, performTareWrite, performScaleSetupWrite, performStationWrite]
    repeat' split
  all_goals simp

theorem unchanged_performTableRead (table index part : Byte) :
    UnchangedIfRefused s (performTableRead table index part s) := by
  unfold performTableRead
  simp only [unchanged_ite, unchanged_refuse, implies_true, true_and]
  intro _
  split <;> simp

/-- Every request is a tree of tests whose leaves refuse or accept. -/
theorem unchanged_performRequest (r : Request) : UnchangedIfRefused s (performRequest r s) := by
  cases r with
  | tableWrite table index image => exact unchanged_performTableWrite s table index image
  | tableRead table index part => exact unchanged_performTableRead s table index part
  | _ =>
    simp only [performRequest, performStatus, performTimeSet, performRestart, performLotOpen, performLotRead,
      performLotVoid, performLotClose, performLotFeed, performFeedHold, performFillOrder, performLoadClose,
      performKilnStart, performKilnHold, performKilnResume, performKilnAbort, performKilnRead, performScaleRead,
      performScaleZero, performScaleCommand, performBaleRead, performBaleWeight, performUnloadDone, performPressHold,
      performTicketBase, performTicketRead, performTicketTake, performTicketReprint]
    repeat' split
    all_goals simp

end Answers

/-! ## The Request Buffer (R43, R171) -/

/-- A request that finds the part ready and is refused: the request in the buffer, and its REPLY. -/
theorem exec_refused {c : Instr} {tag : Byte} {r : Request} (row : requestOf c = some (tag, r)) {s : State} (ready : s.Ready)
    (refused : (performRequest r (s.admitted tag r)).result ≠ .ok) :
    ∃ ch, exec c s = .next (State.choosing ch (s.replied tag r (performRequest r (s.admitted tag r)).result [])) :=
  exec_eq_replied row ready (unchanged_performRequest _ r refused)

/-- Settles O16. -/
theorem requestBufferAdmission : Obligations.RequestBufferAdmission := by
  unfold Obligations.RequestBufferAdmission
  refine ⟨fun c tag r s row active => ⟨fun full => ?full, fun busy room => ?waits, fun empty => ?atOnce⟩,
    fun r s => unchanged_performRequest s r, fun _ _ _ _ row ready => exec_refused row ready, fun _ _ _ _ => rfl⟩
  case full => exact exec_eq_effect (exec_request row s) active (Upstream.admitRequest_full full)
  case waits => exact exec_eq_effect (exec_request row s) active (Upstream.admitRequest_waits busy room)
  case atOnce => exact exec_eq_effect (exec_request row s) active (submit_ready empty tag r)

/-! ## A request over the wire -/

theorem requestFrame_congr {s t : State} (same : t.ownAddress = s.ownAddress) (tag : Byte) (r : Request) :
    t.requestFrame tag r = s.requestFrame tag r := by
  rw [State.requestFrame, same, State.requestFrame]

theorem mkFrame_check (dest src code : Byte) (payload : List Byte) :
    (mkFrame dest src code payload).check = crc (dest :: src :: code :: byte payload.length :: payload) := by
  rw [mkFrame]

/-- What the part originates it judges valid: the length byte and the check word are those of its bytes (R160, R163). -/
theorem judge_mkFrame (dest src code : Byte) {payload : List Byte} (fits : payload.length ≤ 48) :
    judge (mkFrame dest src code payload).bytes = .valid (mkFrame dest src code payload) := by
  have length : payload.length = (byte payload.length).toNat := by
    rw [byte, BitVec.toNat_ofNat, Nat.mod_eq_of_lt (by omega)]
  have fits' : (byte payload.length).toNat ≤ 48 := length ▸ fits
  have check := word16_split (mkFrame dest src code payload).check
  rw [word16] at check
  rw [YardLink.mkFrame_bytes, YardLink.judge_whole fits' length, check, mkFrame_check, if_pos rfl]
  rfl

/-- A valid REQUEST frame to this part acts on the port's liveness and then reaches the Request Buffer (R43, R166). -/
theorem upstreamArrival_requestFrame {s : State} (isOpen : s.link.upOverlong = false) {tag : Byte} {r : Request}
    (fits : r.args.length ≤ 46) :
    s.upstreamArrival (s.requestFrame tag r).bytes = State.submit tag r s.validArrival := by
  have payload : (r.payload tag).length ≤ 48 := by simp only [Request.payload, List.length_cons]; omega
  have valid : judge (s.requestFrame tag r).bytes = .valid (s.requestFrame tag r) := judge_mkFrame _ _ _ payload
  have within : (s.requestFrame tag r).bytes.length ≤ 54 := by
    simp only [State.requestFrame, YardLink.mkFrame_bytes, List.length_cons, List.length_append, List.length_nil]
    omega
  have own := Upstream.validArrival_ownAddress s
  rw [Upstream.upstreamArrival_eq isOpen within valid, Upstream.classifyUpstream_request own.symm rfl, State.submit,
    requestFrame_congr own]

/-- Settles O17. -/
theorem requestOverTheWire : Obligations.RequestOverTheWire := by
  unfold Obligations.RequestOverTheWire
  refine ⟨fun dest src code payload fits => judge_mkFrame dest src code fits, fun c tag r s row active isOpen fits => ?_⟩
  calc exec (.upstreamArrival (s.requestFrame tag r).bytes) s
      = .next ((State.submit tag r s.validArrival).arbitrated s.field.chosen) := by
        rw [← upstreamArrival_requestFrame isOpen fits]
        exact whileActive_active active
    _ = whileActive (State.submit tag r) s.validArrival := by
        rw [whileActive_active ((Upstream.validArrival_active s).trans active), Upstream.validArrival_chosen]
    _ = exec c s.validArrival := (exec_request row s.validArrival).symm

end Sys2Proof.Proofs.RequestBuffer
end

section
/-! PROOF. The bytes of the fields of a frame and the codes of the enumerated fields (R185, R186, 11.7). -/

namespace Sys2Proof.Proofs.FieldBytes

open Sys2Proof Sys2Proof.Machine

/-! ## Counts, high byte first -/

/-- The byte that a shift to the right brings to the bottom of a word. -/
theorem setWidth_ushiftRight_ofNat {w : Nat} (n k : Nat) (fits : k + 8 ≤ w) :
    (BitVec.ofNat w n >>> k).setWidth 8 = byte (n / 2 ^ k) := by
  apply BitVec.eq_of_getLsbD_eq
  intro i small
  have inside : k + i < w := by omega
  simp only [byte, BitVec.getLsbD_setWidth, BitVec.getLsbD_ushiftRight, BitVec.getLsbD_ofNat, small, inside,
    Nat.testBit_div_two_pow, decide_true, Bool.true_and, Nat.add_comm]

theorem setWidth_ofNat {w : Nat} (n : Nat) (fits : 8 ≤ w) : (BitVec.ofNat w n).setWidth 8 = byte n := by
  have unshifted := setWidth_ushiftRight_ofNat (w := w) n 0 (by omega)
  rwa [BitVec.ushiftRight_zero, pow_zero, Nat.div_one] at unshifted

theorem be16_bytes (n : Nat) : be16 n = [byte (n / 256), byte n] := by
  rw [be16, bytes16, setWidth_ushiftRight_ofNat n 8 (by omega), setWidth_ofNat n (by omega)]
  rfl

theorem be32_bytes (n : Nat) : be32 n = [byte (n / 16777216), byte (n / 65536), byte (n / 256), byte n] := by
  rw [be32, bytes32, setWidth_ushiftRight_ofNat n 24 (by omega), setWidth_ushiftRight_ofNat n 16 (by omega),
    setWidth_ushiftRight_ofNat n 8 (by omega), setWidth_ofNat n (by omega)]
  rfl

theorem bytes16_eq (w : Word16) : bytes16 w = be16 w.toNat := by rw [be16, BitVec.ofNat_toNat, BitVec.setWidth_eq]

theorem bytes32_eq (w : Word32) : bytes32 w = be32 w.toNat := by rw [be32, BitVec.ofNat_toNat, BitVec.setWidth_eq]

/-! ## Signed counts, two's complement -/

theorem ofInt_eq_ofNat {w : Nat} (i : Int) : BitVec.ofInt w i = BitVec.ofNat w (i % (2 ^ w : Nat)).toNat := by
  apply BitVec.eq_of_toNat_eq
  rw [BitVec.toNat_ofInt, BitVec.toNat_ofNat, Nat.mod_eq_of_lt]
  have positive : 0 < 2 ^ w := Nat.two_pow_pos w
  have below := Int.emod_lt_of_pos i (Int.natCast_pos.mpr positive)
  omega

theorem int16_eq (i : Int) : int16 i = be16 (i % 65536).toNat := congrArg bytes16 (ofInt_eq_ofNat i)

theorem int32_eq (i : Int) : int32 i = be32 (i % 4294967296).toNat := congrArg bytes32 (ofInt_eq_ofNat i)

theorem int24_within {i : Int} (low : -8388608 ≤ i) (high : i ≤ 8388607) {n : Nat} (h : n = (i % 16777216).toNat) :
    int24 i = [byte (n / 65536), byte (n / 256), byte n] := by
  have held : max (-8388608) (min 8388607 i) = i := by omega
  have word : BitVec.ofInt 24 i = BitVec.ofNat 24 n := h ▸ ofInt_eq_ofNat i
  rw [int24, held, word]
  simp only [setWidth_ushiftRight_ofNat n 16 (by omega : 16 + 8 ≤ 24), setWidth_ushiftRight_ofNat n 8 (by omega : 8 + 8 ≤ 24),
    setWidth_ofNat n (by omega : 8 ≤ 24)]
  rfl

theorem int24_below {i : Int} (low : i < -8388608) : int24 i = [0x80, 0x00, 0x00] := by
  have held : max (-8388608) (min 8388607 i) = -8388608 := by omega
  rw [int24, held]
  rfl

theorem int24_above {i : Int} (high : 8388607 < i) : int24 i = [0x7F, 0xFF, 0xFF] := by
  have held : max (-8388608) (min 8388607 i) = 8388607 := by omega
  rw [int24, held]
  rfl

/-! ## Absent codes -/

theorem offCode_eq {w : Nat} {code v : BitVec w} : offCode code v = if v = code then code - 1 else v := rfl

theorem ofNat_eq_iff {w n c : Nat} (hn : n < 2 ^ w) (hc : c < 2 ^ w) : BitVec.ofNat w n = BitVec.ofNat w c ↔ n = c := by
  rw [← BitVec.toNat_inj, BitVec.toNat_ofNat, BitVec.toNat_ofNat, Nat.mod_eq_of_lt hn, Nat.mod_eq_of_lt hc]

theorem ofNat_sub_one {w c : Nat} (positive : 0 < c) : BitVec.ofNat w c - 1 = BitVec.ofNat w (c - 1) := by
  obtain ⟨k, rfl⟩ := Nat.exists_eq_succ_of_ne_zero positive.ne'
  rw [Nat.succ_sub_one, Nat.succ_eq_add_one, BitVec.ofNat_add]
  exact BitVec.add_sub_cancel _ _

/-- A count that equals the absent code is sent as the code before it. -/
theorem offCode_ofNat {w n c : Nat} (hn : n < 2 ^ w) (hc : c < 2 ^ w) (positive : 0 < c) :
    offCode (BitVec.ofNat w c) (BitVec.ofNat w n) = BitVec.ofNat w (if n = c then c - 1 else n) := by
  rw [offCode]
  simp only [ofNat_eq_iff hn hc, ofNat_sub_one positive]
  split <;> rfl

theorem optU16_some {n : Nat} (fits : n ≤ 65535) : optU16 (some n) = be16 (if n = 0xFFFF then 0xFFFE else n) :=
  congrArg bytes16 (offCode_ofNat (w := 16) (c := 0xFFFF) (by omega) (by omega) (by omega))

theorem optU32_some {n : Nat} (fits : n ≤ 4294967295) :
    optU32 (some n) = be32 (if n = 0xFFFFFFFF then 0xFFFFFFFE else n) :=
  congrArg bytes32 (offCode_ofNat (w := 32) (c := 0xFFFFFFFF) (by omega) (by omega) (by omega))

theorem optTime_some (t : Time) : optTime (some t) = be32 (if t.toNat = 0xFFFFFFFF then 0xFFFFFFFE else t.toNat) :=
  optU32_some (Nat.le_of_lt_succ t.isLt)

theorem noticeValue_some (v : Word32) :
    noticeValue (some v) = be32 (if v.toNat = 0x7FFFFFFF then 0x7FFFFFFE else v.toNat) := by
  have word : v = BitVec.ofNat 32 v.toNat := by rw [BitVec.ofNat_toNat, BitVec.setWidth_eq]
  have sent := offCode_ofNat (w := 32) (c := 0x7FFFFFFF) v.isLt (by omega) (by omega)
  rw [← word] at sent
  exact congrArg bytes32 sent

theorem optI16_some {i : Int} (low : -32768 ≤ i) (high : i ≤ 32767) :
    optI16 (some i) = int16 (if i = 0x7FFF then 0x7FFE else i) := by
  have sent : optI16 (some i) = be16 (if (i % 65536).toNat = 0x7FFF then 0x7FFE else (i % 65536).toNat) := by
    have off := offCode_ofNat (w := 16) (n := (i % 65536).toNat) (c := 0x7FFF) (by omega) (by omega) (by omega)
    exact (congrArg (fun w => bytes16 (offCode 0x7FFF w)) (ofInt_eq_ofNat i)).trans (congrArg bytes16 off)
  rw [sent, int16_eq]
  congr 1
  split_ifs <;> omega

theorem optI32_some {i : Int} (low : -2147483648 ≤ i) (high : i ≤ 2147483647) :
    optI32 (some i) = int32 (if i = 0x7FFFFFFF then 0x7FFFFFFE else i) := by
  have sent : optI32 (some i)
      = be32 (if (i % 4294967296).toNat = 0x7FFFFFFF then 0x7FFFFFFE else (i % 4294967296).toNat) := by
    have off := offCode_ofNat (w := 32) (n := (i % 4294967296).toNat) (c := 0x7FFFFFFF) (by omega) (by omega) (by omega)
    exact (congrArg (fun w => bytes32 (offCode 0x7FFFFFFF w)) (ofInt_eq_ofNat i)).trans (congrArg bytes32 off)
  rw [sent, int32_eq]
  congr 1
  split_ifs <;> omega

/-- A number that is not loaded is sent as all ones. -/
theorem numberBytes_loaded {n : Nat} (loaded : n ≠ 0) : numberBytes n = be32 n := if_neg loaded

/-! ## Sets and flags, bit 0 first -/

theorem testBit_bits (bs : List Bool) (i : Nat) :
    (bs.foldr (fun (b : Bool) (n : Nat) => (if b then 1 else 0) + 2 * n) 0).testBit i = bs.getD i false := by
  induction bs generalizing i with
  | nil => simp
  | cons b bs ih =>
    rw [List.foldr_cons]
    cases i with
    | zero => cases b <;> simp [Nat.testBit_zero]
    | succ i =>
      have half : ((if b then 1 else 0) + 2 * bs.foldr (fun (b : Bool) (n : Nat) => (if b then 1 else 0) + 2 * n) 0) / 2
          = bs.foldr (fun (b : Bool) (n : Nat) => (if b then 1 else 0) + 2 * n) 0 := by
        cases b <;> simp
        omega
      rw [Nat.testBit_succ, half, ih, List.getD_cons_succ]

theorem getLsbD_bitsByte (bs : List Bool) {i : Nat} (small : i < 8) : (bitsByte bs).getLsbD i = bs.getD i false := by
  rw [bitsByte, byte, BitVec.getLsbD_ofNat, decide_eq_true small, Bool.true_and, testBit_bits]

theorem bits_bitsByte (bs : List Bool) :
    [0, 1, 2, 3, 4, 5, 6, 7].map (bitsByte bs).getLsbD = [0, 1, 2, 3, 4, 5, 6, 7].map (bs.getD · false) :=
  List.map_congr_left fun i member => getLsbD_bitsByte bs (by simp at member; omega)

theorem bale_flags (b : Bale) : [0, 1, 2, 3, 4, 5, 6, 7].map b.flags.getLsbD
    = [b.manual, b.low, b.high, b.wet, decide (b.tareCode = none), false, false, false] := by
  have unknown : b.tareUnknown = decide (b.tareCode = none) := by
    rw [Bale.tareUnknown]
    cases b.tareCode <;> rfl
  rw [← unknown]
  exact bits_bitsByte _

/-! ## Codes of the enumerated fields (R186) -/

theorem role_ofCode (n : Nat) (r : Role) : Role.ofCode n = some r ↔ r.code = n :=
  ⟨Role.code_ofCode, fun h => h ▸ Role.ofCode_code r⟩

theorem routeAction_ofCode (n : Nat) (a : RouteAction) : RouteAction.ofCode n = some a ↔ a ≠ .none ∧ a.code = n := by
  exact ⟨fun h => (RouteAction.code_ofCode h).symm, fun ⟨used, h⟩ => h ▸ RouteAction.ofCode_code used⟩

theorem eventSelector_ofCode (n : Nat) (e : EventSelector) : EventSelector.ofCode n = some e ↔ e.code = n :=
  ⟨EventSelector.code_ofCode, fun h => h ▸ EventSelector.ofCode_code e⟩

theorem routeDefault_ofCode (n : Nat) (d : RouteDefault) : RouteDefault.ofCode n = some d ↔ d.code = n := by
  refine ⟨fun h => ?_, fun h => h ▸ by cases d <;> rfl⟩
  unfold RouteDefault.ofCode at h
  split at h <;> cases h <;> rfl

theorem stepKind_ofCode (n : Nat) (k : StepKind) : StepKind.ofCode n = some k ↔ k.code = n :=
  ⟨StepKind.code_ofCode, fun h => h ▸ StepKind.ofCode_code k⟩

theorem notice_codes {alarms infos : List NoticeKind}
    (ha : alarms = [.nodeLost, .commandRefused, .kilnHold, .kilnOvertime, .feedHeld, .pressHeld, .scaleFault,
      .baleUnrecorded, .beltJump, .printerFault, .chargeLimit])
    (hi : infos = [.nodeBack, .pollOverrun, .passDropped, .passRefused, .passTimeout, .routeMismatch, .linkRestored,
      .spill, .shortCharge, .kilnDried, .baleTolerance, .scaleSequence, .ticketReady]) :
    (alarms ++ infos).map NoticeKind.code = (List.range 24).map (· + 1) ∧
    (∀ k ∈ alarms, k.isAlarm = true) ∧ (∀ k ∈ infos, k.isAlarm = false) := by
  subst ha hi
  decide

/-- Settles O13: each field by its lemma; the codes and the absent codes are closed evaluations. -/
theorem fieldCodes : Obligations.FieldCodes := by
  unfold Obligations.FieldCodes
  exact ⟨fun n => ⟨be16_bytes n, be32_bytes n⟩, fun i => ⟨int16_eq i, int32_eq i⟩,
    fun i low high n h => int24_within low high h, fun i => ⟨int24_below, int24_above⟩,
    fun w x => ⟨bytes16_eq w, bytes32_eq x⟩, rfl, rfl, rfl, fun _ => rfl, rfl, fun _ => rfl, rfl, fun _ => optU16_some,
    rfl, fun _ => optI16_some, rfl, fun _ => optU32_some, rfl, optTime_some, rfl, fun _ => optI32_some, rfl,
    noticeValue_some, rfl, fun _ => numberBytes_loaded, rfl, fun _ => ⟨rfl, rfl⟩, fun _ => rfl, fun _ => rfl,
    fun h => bits_bitsByte _, fun h => bits_bitsByte _, fun h => bits_bitsByte _, fun c => bits_bitsByte _,
    bale_flags, fun l => bits_bitsByte _, fun t => bits_bitsByte _, rfl, role_ofCode, rfl, rfl, rfl,
    routeAction_ofCode, rfl, eventSelector_ofCode, rfl, routeDefault_ofCode, rfl, rfl, rfl, rfl, stepKind_ofCode, rfl,
    fun _ => KilnResumes.ofCode_eq_none, fun _ => rfl, rfl, rfl, rfl, rfl, rfl, rfl, fun _ _ => notice_codes⟩

end Sys2Proof.Proofs.FieldBytes
end

section
/-! PROOF. The requests that read (R104, R120, R175, R177): what each answers, and the bytes of what is read (11.4, 11.5). -/

namespace Sys2Proof.Proofs

open Sys2Proof Sys2Proof.Machine

/-- A request that reads leaves all but the Request Buffer and the pending REPLY as it was, and carries what it has read. -/
theorem exec_eq_read {c : Instr} {tag : Byte} {r : Request} (row : requestOf c = some (tag, r)) {s : State} (ready : s.Ready)
    {data : List Byte} (answer : performRequest r (s.admitted tag r) = accept (s.admitted tag r) data) :
    ∃ ch, exec c s = .next (State.choosing ch (s.replied tag r .ok data)) :=
  exec_eq_performed row ready (f := id) (data := fun _ => data) answer

end Sys2Proof.Proofs

namespace Sys2Proof.Proofs.Reads

open Sys2Proof Sys2Proof.Machine

/-! ## Sizes of the optional fields -/

theorem optByte_length (o : Option Nat) : (optByte o).length = 1 := by cases o <;> rfl
theorem optI16_length (o : Option Int) : (optI16 o).length = 2 := by cases o <;> rfl
theorem optU32_length (o : Option Nat) : (optU32 o).length = 4 := by cases o <;> rfl
theorem optI32_length (o : Option Int) : (optI32 o).length = 4 := by cases o <;> rfl
theorem optTime_length (o : Option Time) : (optTime o).length = 4 := optU32_length _
theorem numberBytes_length (n : Nat) : (numberBytes n).length = 4 := by unfold numberBytes; split <;> rfl
theorem be16_length (n : Nat) : (be16 n).length = 2 := rfl
theorem be32_length (n : Nat) : (be32 n).length = 4 := rfl
theorem int16_length (i : Int) : (int16 i).length = 2 := rfl
theorem int32_length (i : Int) : (int32 i).length = 4 := rfl

theorem commandedField_length (c : Option Commanded) : (commandedField c).length = 4 := by
  rcases c with _ | ⟨⟨⟩⟩ <;> rfl

/-! ## Three flags in a byte -/

theorem bitsByte_three (a b c : Bool) :
    bitsByte [a, b, c] = (if a = true then 1 else 0) + (if b = true then 2 else 0) + (if c = true then 4 else 0) := by
  cases a <;> cases b <;> cases c <;> rfl

/-! ## KILN-READ (R104) -/

/-- The charge field of a kiln image. -/
def chargeField : Option ChargeRef → List Byte
  | none => be16 0 ++ [0xFF]
  | some c => be16 c.lot ++ [byte c.index]

/-- The command fields of a kiln image, of the burner bound to the kiln. -/
def burnerFields (s : State) : Option NodeIdx → List Byte
  | none => bytes32 0xFFFFFFFF ++ [0xFF]
  | some i => commandedField (s.node i).commanded ++ [flagByte (s.node i).confirmed]

theorem kilnImage_fields (s : State) (k : Kiln) :
    s.kilnImage k = [byte (s.kiln k).state.code] ++ chargeField (s.kiln k).charge
      ++ optByte ((s.kiln k).schedule.map (fun d => d.val)) ++ [byte (s.kiln k).stepIndex]
      ++ int16 (s.kiln k).entrySetpoint ++ int16 (s.kiln k).setpoint ++ be32 (s.kiln k).stepElapsed
      ++ be32 (s.kiln k).totalElapsed ++ optI16 (s.kiln k).lastAir ++ optTime (s.kiln k).lastAirTime
      ++ optU16 (s.kiln k).lastExhaust ++ optTime (s.kiln k).lastExhaustTime
      ++ [byte (s.kiln k).overLimit, byte (s.kiln k).dryQualify, (s.kiln k).hold.byte, flagByte (s.kiln k).aborted]
      ++ optByte (s.stepKindField k)
      ++ [byte (s.nodeStateOf (s.boundNode .probe k)).code, byte (s.nodeStateOf (s.boundNode .burner k)).code]
      ++ burnerFields s (s.boundNode .burner k) := rfl

theorem chargeField_length (c : Option ChargeRef) : (chargeField c).length = 3 := by cases c <;> rfl

theorem burnerFields_length (s : State) (i : Option NodeIdx) : (burnerFields s i).length = 5 := by
  cases i with
  | none => rfl
  | some i => rw [burnerFields, List.length_append, commandedField_length]; rfl

theorem kilnImage_length (s : State) (k : Kiln) : (s.kilnImage k).length = 42 := by
  simp only [kilnImage_fields, List.length_append, chargeField_length, burnerFields_length, optByte_length, optI16_length,
    optTime_length, Tickets.optU16_length, int16_length, be32_length, List.length_cons, List.length_nil]

section
variable {s : State} {k : Kiln}

theorem runsSchedule_iff (st : KilnState) : st.runsSchedule = true ↔ st = .drying ∨ st = .hold ∨ st = .cooling := by
  cases st <;> decide

theorem stepKindField_running
    (running : ((s.kiln k).state = .drying ∨ (s.kiln k).state = .hold ∨ (s.kiln k).state = .cooling) ∧
      (s.kiln k).schedule ≠ none) : optByte (s.stepKindField k) = [byte (s.currentStep k).kind.code] := by
  have taken : ((s.kiln k).state.runsSchedule && (s.kiln k).schedule.isSome) = true := by
    rw [Bool.and_eq_true, runsSchedule_iff, Option.isSome_iff_ne_none]
    exact running
  rw [State.stepKindField, if_pos taken, optByte]

theorem stepKindField_idle
    (idle : ¬(((s.kiln k).state = .drying ∨ (s.kiln k).state = .hold ∨ (s.kiln k).state = .cooling) ∧
      (s.kiln k).schedule ≠ none)) : optByte (s.stepKindField k) = [0xFF] := by
  have untaken : ¬ ((s.kiln k).state.runsSchedule && (s.kiln k).schedule.isSome) = true := by
    rw [Bool.and_eq_true, runsSchedule_iff, Option.isSome_iff_ne_none]
    exact idle
  rw [State.stepKindField, if_neg untaken, optByte]

/-- The kiln image from its four fields that are given by cases. -/
theorem kilnImage_bytes {charge stepKind probe burner : List Byte} (chargeIs : chargeField (s.kiln k).charge = charge)
    (stepKindIs : optByte (s.stepKindField k) = stepKind)
    (probeIs : [byte (s.nodeStateOf (s.boundNode .probe k)).code] = probe)
    (burnerIs : byte (s.nodeStateOf (s.boundNode .burner k)).code :: burnerFields s (s.boundNode .burner k) = burner) :
    s.kilnImage k = [byte (s.kiln k).state.code] ++ charge ++ optByte ((s.kiln k).schedule.map (fun d => d.val)) ++
      [byte (s.kiln k).stepIndex] ++ int16 (s.kiln k).entrySetpoint ++ int16 (s.kiln k).setpoint ++
      be32 (s.kiln k).stepElapsed ++ be32 (s.kiln k).totalElapsed ++ optI16 (s.kiln k).lastAir ++
      optTime (s.kiln k).lastAirTime ++ optU16 (s.kiln k).lastExhaust ++ optTime (s.kiln k).lastExhaustTime ++
      [byte (s.kiln k).overLimit, byte (s.kiln k).dryQualify, (s.kiln k).hold.byte, flagByte (s.kiln k).aborted] ++
      stepKind ++ probe ++ burner := by
  subst chargeIs stepKindIs probeIs burnerIs
  rw [kilnImage_fields]
  simp only [List.append_assoc, List.cons_append, List.nil_append]

/-- The state byte and the command fields of the burner, bound or not. -/
theorem burner_bytes {burner : List Byte} (absent : s.boundNode .burner k = none → burner = [0, 0xFF, 0xFF, 0xFF, 0xFF, 0xFF])
    (bound : ∀ i, s.boundNode .burner k = some i →
      burner = byte (s.node i).state.code :: commandedField (s.node i).commanded ++ [flagByte (s.node i).confirmed]) :
    byte (s.nodeStateOf (s.boundNode .burner k)).code :: burnerFields s (s.boundNode .burner k) = burner := by
  cases h : s.boundNode .burner k with
  | none => exact (absent h).symm
  | some i => exact (bound i h).symm

theorem probe_byte {probe : List Byte} (absent : s.boundNode .probe k = none → probe = [0])
    (bound : ∀ i, s.boundNode .probe k = some i → probe = [byte (s.node i).state.code]) :
    [byte (s.nodeStateOf (s.boundNode .probe k)).code] = probe := by
  cases h : s.boundNode .probe k with
  | none => exact (absent h).symm
  | some i => exact (bound i h).symm

theorem charge_bytes {charge : List Byte} (absent : (s.kiln k).charge = none → charge = [0, 0, 0xFF])
    (held : ∀ c, (s.kiln k).charge = some c → charge = be16 c.lot ++ [byte c.index]) :
    chargeField (s.kiln k).charge = charge := by
  cases h : (s.kiln k).charge with
  | none => exact (absent h).symm
  | some c => exact (held c h).symm

theorem stepKind_byte {stepKind : List Byte}
    (running : ((s.kiln k).state = .drying ∨ (s.kiln k).state = .hold ∨ (s.kiln k).state = .cooling) ∧
      (s.kiln k).schedule ≠ none → stepKind = [byte (s.currentStep k).kind.code])
    (idle : ¬(((s.kiln k).state = .drying ∨ (s.kiln k).state = .hold ∨ (s.kiln k).state = .cooling) ∧
      (s.kiln k).schedule ≠ none) → stepKind = [0xFF]) : optByte (s.stepKindField k) = stepKind := by
  by_cases h : ((s.kiln k).state = .drying ∨ (s.kiln k).state = .hold ∨ (s.kiln k).state = .cooling) ∧
      (s.kiln k).schedule ≠ none
  · rw [stepKindField_running h, running h]
  · rw [stepKindField_idle h, idle h]

theorem performKilnRead_named {b : Byte} (named : kilnOf b = some k) : performKilnRead b s = accept s (s.kilnImage k) := by
  rw [performKilnRead, named]

theorem performKilnRead_range {b : Byte} (out : 6 ≤ b.toNat) : performKilnRead b s = refuse s .range := by
  rw [performKilnRead, kilnOf_none out]

end

/-! ## SCALE-READ (R120) -/

theorem scale_page_eq (c : Scale) : c.page =
    [byte c.state.code, (if c.captured = true then 1 else 0) + (if c.cycleOpen = true then 2 else 0) +
      (if c.stable ≠ none then 4 else 0)] ++
    optI32 (c.lastBlock.bind (fun b => b.weight)) ++ optI32 (c.lastBlock.map (fun b => b.raw)) ++ optI32 c.stable ++
    [byte c.samples.length, byte c.commands.length,
     byte (if c.state = .settling then (c.settle.getD 0 + 9) / 10 else 0), byte c.good] := by
  rw [Scale.page, bitsByte_three]
  simp only [Option.isSome_iff_ne_none]
  rfl

/-! ## STATUS (R177) -/

theorem statusPage0_eq (s : State) : s.statusPage0 = [0, 0xB4, 0x16, 0x01, s.ownAddress, flagByte s.link.live] ++
    be16 s.link.up.check ++ be16 s.link.up.length ++ be16 s.link.up.torn ++
    be16 s.link.fp.check ++ be16 s.link.fp.length ++ be16 s.link.fp.torn ++
    be16 s.link.unsolicited ++ be16 s.classifier.dropped ++ be16 s.classifier.misdirected ++
    [(if s.mgmt.overflow = true then 1 else 0) + (if s.mgmt.timeSet = true then 2 else 0) +
       (if s.tickets.baseSet = true then 4 else 0),
     byte s.classifier.requests.length, byte s.field.pollQueue.length, byte s.classifier.passQueue.length,
     byte s.field.commandQueue.length, byte s.classifier.forwardQueue.length, byte s.mgmt.notices.length] ++
    bytes32 s.mgmt.time := by
  rw [State.statusPage0, bitsByte_three]
  simp only [PortCounts.bytes, List.append_assoc]
  rfl

theorem statusPage1_eq (s : State) : s.statusPage1 = [1] ++ numberBytes s.tickets.nextTicket ++ numberBytes s.tickets.nextBale ++
    optU32 s.feed.feedLot ++ optU32 s.feed.beltLot ++
    [byte s.feed.changeover.code, s.feed.hold.byte, s.press.hold.byte, kilnByte s.feed.loading,
     byte (s.kiln 0).state.code, byte (s.kiln 1).state.code, byte (s.kiln 2).state.code,
     byte (s.kiln 3).state.code, byte (s.kiln 4).state.code, byte (s.kiln 5).state.code,
     byte s.scale.state.code, byte s.tickets.queue.length, byte s.tickets.wait.length] ++
    be16 (256 - s.press.bales.length) ++ be32 s.feed.unassigned := by
  have kilns : (List.finRange 6).map (fun k => byte (s.kiln k).state.code) =
      [byte (s.kiln 0).state.code, byte (s.kiln 1).state.code, byte (s.kiln 2).state.code,
       byte (s.kiln 3).state.code, byte (s.kiln 4).state.code, byte (s.kiln 5).state.code] := rfl
  rw [State.statusPage1, kilns]
  simp only [List.append_assoc, List.cons_append, List.nil_append]
  rfl

theorem statusPage0_length (s : State) : s.statusPage0.length = 35 := by
  simp only [statusPage0_eq, List.length_append, be16_length, bytes32_length, List.length_cons, List.length_nil]

theorem statusPage1_length (s : State) : s.statusPage1.length = 36 := by
  simp only [statusPage1_eq, List.length_append, be16_length, be32_length, optU32_length, numberBytes_length,
    List.length_cons, List.length_nil]

section
variable {s : State} {clear page : Byte}

theorem performStatus_range (out : 1 < clear.toNat ∨ 1 < page.toNat ∨ (clear = 1 ∧ page = 1)) :
    performStatus clear page s = refuse s .range := by
  have refused : (1 < clear.toNat || 1 < page.toNat || (clear = 1 && page = 1)) = true := by
    simpa [or_assoc] using out
  exact if_pos refused

theorem performStatus_page (within : page.toNat ≤ 1) :
    performStatus 0 page s = accept s (if page = 1 then s.statusPage1 else s.statusPage0) := by
  have inRange : ¬ (1 < (0 : Byte).toNat || 1 < page.toNat || ((0 : Byte) = 1 && page = 1)) = true := by
    simpa using within
  rw [performStatus, if_neg inRange]
  split <;> rfl

theorem performStatus_clear : performStatus 1 0 s = accept s.clearCounts s.statusPage0 := rfl

end

/-! ## TABLE-READ (R175) -/

section
variable {s : State} {table index part : Byte} {bs : List Byte}

theorem performTableRead_format (beyond : 9 < table.toNat) : performTableRead table index part s = refuse s .format :=
  if_pos beyond

/-- A table has no runtime fields beyond its entries. -/
theorem entryRuntime_none {table index : Nat} (absent : s.entryImage table index = none) : s.entryRuntime table index = none := by
  unfold State.entryImage at absent
  unfold State.entryRuntime
  split
  · simpa using absent
  · simpa using absent
  · simp only [Option.map_eq_none_iff, Vector.getElem?_eq_none_iff] at absent
    exact dif_neg absent.not_gt
  · rfl

variable (known : table.toNat ≤ 9)
include known

theorem performTableRead_image (image : s.entryImage table.toNat index.toNat = some bs) :
    performTableRead table index 0 s = accept s (table :: index :: 0 :: bs) := by
  rw [performTableRead, if_neg known.not_gt]
  simp only [if_pos, image]
  rfl

theorem performTableRead_runtime (runtime : s.entryRuntime table.toNat index.toNat = some bs) :
    performTableRead table index 1 s = accept s (table :: index :: 1 :: bs) := by
  have other : ¬ (1 : Byte) = 0 := by decide
  rw [performTableRead, if_neg known.not_gt]
  simp only [if_neg other, if_pos, runtime]
  rfl

theorem performTableRead_range (out : 1 < part.toNat ∨ s.entryImage table.toNat index.toNat = none ∨
      (part = 1 ∧ s.entryRuntime table.toNat index.toNat = none)) :
    performTableRead table index part s = refuse s .range := by
  rw [performTableRead, if_neg known.not_gt]
  by_cases image : part = 0
  · have absent : s.entryImage table.toNat index.toNat = none := by
      rcases out with above | absent | ⟨runtime, -⟩
      · exact absurd above (by simp [image])
      · exact absent
      · exact absurd (runtime.symm.trans image) (by decide)
    simp only [if_pos image, absent]
  · by_cases runtime : part = 1
    · have absent : s.entryRuntime table.toNat index.toNat = none := by
        rcases out with above | absent | ⟨-, absent⟩
        · exact absurd above (by simp [runtime])
        · exact entryRuntime_none absent
        · exact absent
      simp only [if_neg image, if_pos runtime, absent]
    · simp only [if_neg image, if_neg runtime]

end

/-! ## The entries of the tables (10.2) -/

section
variable (s : State)

theorem entryImage_node (i : NodeIdx) : s.entryImage 0 i.val = some (s.node i).image := by simp [State.entryImage, State.node]

theorem entryRuntime_node (i : NodeIdx) : s.entryRuntime 0 i.val = some (s.node i).runtime := by
  simp [State.entryRuntime, State.node]

theorem entryImage_route (i : RouteIdx) : s.entryImage 1 i.val = some (s.route i).image := by
  simp [State.entryImage, State.route]

theorem entryImage_cadence (c : CadenceId) : s.entryImage 2 c.val = some s.field.cadences[c].image := by
  simp [State.entryImage]

theorem entryRuntime_cadence (c : CadenceId) :
    s.entryRuntime 2 c.val = some (be16 (if s.field.cadences[c].enabled then s.field.cadences[c].countdown else 0)) := by
  simp [State.entryRuntime]

theorem entryImage_kiln (k : Kiln) : s.entryImage 3 k.val = some (s.kilnEntry k).image := by
  simp [State.entryImage, State.kilnEntry]

theorem entryRuntime_kiln (k : Kiln) : s.entryRuntime 3 k.val = some (s.kilnImage k) := by
  simp [State.entryRuntime]

theorem entryImage_schedule (d : Fin 8) : s.entryImage 4 d.val = some s.kilns.schedules[d].image := by
  simp [State.entryImage]

theorem entryImage_step (n : Fin 128) : s.entryImage 5 n.val = some s.kilns.steps[n].image := by
  simp [State.entryImage]

theorem entryImage_variety (v : Fin 16) : s.entryImage 6 v.val = some s.table.varieties[v].image := by
  simp [State.entryImage]

theorem entryImage_tare (c : Fin 8) : s.entryImage 7 c.val = some (be16 s.press.tares[c] ++ [0, 0]) := by
  simp [State.entryImage]

/-- A table ends at its entry count. -/
theorem entryImage_beyond {table index n : Nat} (count : [48, 64, 8, 6, 8, 128, 16, 8, 1, 1][table]? = some n)
    (beyond : n ≤ index) : s.entryImage table index = none := by
  unfold State.entryImage
  split
  case h_9 | h_10 =>
    cases count
    exact if_neg (by omega)
  case h_11 => rfl
  all_goals
    cases count
    simp [beyond]

theorem entryRuntime_other {table index : Nat} (notNode : table ≠ 0) (notCadence : table ≠ 2) (notKiln : table ≠ 3) :
    s.entryRuntime table index = none := by
  unfold State.entryRuntime
  split
  · exact absurd rfl notNode
  · exact absurd rfl notCadence
  · exact absurd rfl notKiln
  · rfl

end

/-- The entry that TABLE-READ returns, by table and index. -/
theorem entries (s : State) :
    (∀ i : NodeIdx, s.entryImage 0 i.val = some (s.node i).image ∧ s.entryRuntime 0 i.val = some (s.node i).runtime) ∧
    (∀ i : RouteIdx, s.entryImage 1 i.val = some (s.route i).image) ∧
    (∀ c : CadenceId, s.entryImage 2 c.val = some s.field.cadences[c].image ∧
      s.entryRuntime 2 c.val
        = some (be16 (if s.field.cadences[c].enabled then s.field.cadences[c].countdown else 0))) ∧
    (∀ k : Kiln, s.entryImage 3 k.val = some (s.kilnEntry k).image ∧ s.entryRuntime 3 k.val = some (s.kilnImage k)) ∧
    (∀ d : Fin 8, s.entryImage 4 d.val = some s.kilns.schedules[d].image) ∧
    (∀ n : Fin 128, s.entryImage 5 n.val = some s.kilns.steps[n].image) ∧
    (∀ v : Fin 16, s.entryImage 6 v.val = some s.table.varieties[v].image) ∧
    (∀ c : Fin 8, s.entryImage 7 c.val = some (be16 s.press.tares[c] ++ [0, 0])) ∧
    s.entryImage 8 0 = some s.scale.setup.image ∧ s.entryImage 9 0 = some s.mgmt.station.image ∧
    (∀ table index n : Nat, [48, 64, 8, 6, 8, 128, 16, 8, 1, 1][table]? = some n → n ≤ index →
      s.entryImage table index = none ∧ s.entryRuntime table index = none) ∧
    (∀ table index : Nat, table ≠ 0 → table ≠ 2 → table ≠ 3 → s.entryRuntime table index = none) :=
  ⟨fun i => ⟨entryImage_node s i, entryRuntime_node s i⟩, entryImage_route s,
    fun c => ⟨entryImage_cadence s c, entryRuntime_cadence s c⟩, fun k => ⟨entryImage_kiln s k, entryRuntime_kiln s k⟩,
    entryImage_schedule s, entryImage_step s, entryImage_variety s, entryImage_tare s, rfl, rfl,
    fun _ _ _ count beyond => ⟨entryImage_beyond s count beyond, entryRuntime_none (entryImage_beyond s count beyond)⟩,
    fun _ _ => entryRuntime_other s⟩

theorem node_image_eq (n : Node) {role cadence : Byte} (noRole : n.role = none → role = 0)
    (roleIs : ∀ r, n.role = some r → role = byte r.code) (noCadence : n.cadence = none → cadence = 0xFF)
    (cadenceIs : ∀ c, n.cadence = some c → cadence = byte c.val) :
    n.image = [n.address, role, kilnByte n.binding, cadence, byte n.window, byte n.missLimit, 0, 0] := by
  have roleByte : byte (n.role.elim 0 Role.code) = role := by
    cases h : n.role with
    | none => exact (noRole h).symm
    | some r => exact (roleIs r h).symm
  have cadenceByte : n.cadence.elim 0xFF (fun c => byte c.val) = cadence := by
    cases h : n.cadence with
    | none => exact (noCadence h).symm
    | some c => exact (cadenceIs c h).symm
  rw [Node.image, roleByte, cadenceByte]

theorem route_image_eq (r : Route) : r.image = [(if r.used = true then 1 else 0) + (if r.signed = true then 2 else 0) +
    (if r.copy = true then 4 else 0), r.source, r.code, byte r.action.code, byte r.offset, byte r.width,
    byte r.selector.code, 0] := by
  rw [Route.image, bitsByte_three]

/-- Settles O18. -/
theorem readsChangeNothing : Obligations.ReadsChangeNothing := by
  unfold Obligations.ReadsChangeNothing
  refine ⟨fun s tag ready => ⟨fun b k named => ?kiln, fun b out => ?kilnRange, kilnImage_length s, statusPage0_length s,
      statusPage1_length s, ?scale, fun _ _ _ beyond => ?format, fun _ _ _ known image => ?image,
      fun _ _ _ known runtime => ?runtime, fun _ _ _ known out => ?range, fun page within => ?page, ?clear,
      fun _ _ out => ?statusRange⟩,
    entries, ?kilnImage, fun s => ⟨statusPage0_eq s, statusPage1_eq s⟩,
    fun n _ _ noRole role noCadence cadence => ⟨node_image_eq n noRole role noCadence cadence, rfl⟩, route_image_eq,
    fun _ => rfl, fun _ => rfl, fun _ => rfl, fun _ => rfl, fun _ => rfl, fun _ => rfl, fun _ => rfl⟩
  case kiln => exact exec_eq_read (r := .kilnRead b) rfl ready (performKilnRead_named named)
  case kilnRange => exact exec_eq_replied (r := .kilnRead b) rfl ready (performKilnRead_range out)
  case scale => exact exec_eq_read (r := .scaleRead) rfl ready (congrArg (accept _) (scale_page_eq s.scale))
  case format => exact exec_eq_replied (r := .tableRead _ _ _) rfl ready (performTableRead_format beyond)
  case image => exact exec_eq_read (r := .tableRead _ _ _) rfl ready (performTableRead_image known image)
  case runtime => exact exec_eq_read (r := .tableRead _ _ _) rfl ready (performTableRead_runtime known runtime)
  case range => exact exec_eq_replied (r := .tableRead _ _ _) rfl ready (performTableRead_range known out)
  case page => exact exec_eq_read (r := .status 0 page) rfl ready (performStatus_page within)
  case clear =>
    exact exec_eq_performed (r := .status 1 0) rfl ready (f := State.clearCounts)
      (data := fun _ => (s.admitted tag (.status 1 0)).statusPage0) performStatus_clear
  case statusRange => exact exec_eq_replied (r := .status _ _) rfl ready (performStatus_range out)
  case kilnImage =>
    rintro s k _ rfl charge stepKind probe burner noCharge charged running idle noProbe probed noBurner burnt
    exact kilnImage_bytes (charge_bytes noCharge charged) (stepKind_byte running idle) (probe_byte noProbe probed)
      (burner_bytes noBurner burnt)

end Sys2Proof.Proofs.Reads
end

section
/-! PROOF. LOT-READ and BALE-READ (R14, R139), on a table that ascends by its number. -/

namespace Sys2Proof.Proofs.RecordReads

open Sys2Proof Sys2Proof.Machine

/-! ## A list that ascends by a key -/

section Ascending
variable {α : Type} {key : α → Nat} {pre post : List α} {x : α}
  (ascends : ((pre ++ x :: post).map key).Pairwise (· < ·))
include ascends

theorem key_lt_of_mem_pre {y : α} (member : y ∈ pre) : key y < key x := by
  rw [List.pairwise_map, List.pairwise_append] at ascends
  obtain ⟨-, -, across⟩ := ascends
  exact across y member x List.mem_cons_self

theorem key_lt_of_mem_post {y : α} (member : y ∈ post) : key x < key y := by
  rw [List.pairwise_map, List.pairwise_append] at ascends
  obtain ⟨-, tail, -⟩ := ascends
  exact List.rel_of_pairwise_cons tail member

theorem find?_key : (pre ++ x :: post).find? (fun y => key y = key x) = some x := by
  have before : pre.find? (fun y => decide (key y = key x)) = none := by
    rw [List.find?_eq_none]
    intro y member
    have := key_lt_of_mem_pre ascends member
    simp only [decide_eq_true_eq]
    omega
  rw [List.find?_append, before, Option.none_or, List.find?_cons_of_pos (by simp)]

/-- The record above the present one is the next in the list. -/
theorem find?_above : (pre ++ x :: post).find? (fun y => key x < key y) = post.head? := by
  have before : pre.find? (fun y => decide (key x < key y)) = none := by
    rw [List.find?_eq_none]
    intro y member
    have := key_lt_of_mem_pre ascends member
    simp only [decide_eq_true_eq]
    omega
  have after : post.find? (fun y => decide (key x < key y)) = post.head? := by
    cases h : post with
    | nil => rfl
    | cons y rest =>
      have above := key_lt_of_mem_post ascends (h ▸ List.mem_cons_self : y ∈ post)
      rw [List.find?_cons_of_pos (by simpa using above), List.head?_cons]
  rw [List.find?_append, before, Option.none_or, List.find?_cons_of_neg (by simp), after]

end Ascending

theorem toNat_ne_zero {w : Nat} {v : BitVec w} (h : v ≠ 0) : v.toNat ≠ 0 := by simpa [← BitVec.toNat_inj] using h

/-! ## LOT-READ (R14) -/

section Lots
variable {s : State} {lot : Word16} {item : Byte} {pre post : List Lot} {l : Lot} {c : Charge}

theorem lotNamed_eq (ascends : (s.table.lots.map (fun l => l.number)).Pairwise (· < ·)) (split : s.table.lots = pre ++ l :: post)
    (named : (lot = 0 ∧ pre = []) ∨ (lot ≠ 0 ∧ l.number = lot.toNat)) : s.lotNamed lot.toNat = some l := by
  rw [split] at ascends
  rcases named with ⟨rfl, rfl⟩ | ⟨nonzero, number⟩
  · simp [State.lotNamed, split]
  · rw [State.lotNamed, if_neg (toNat_ne_zero nonzero), State.lot?, split, ← number]
    exact find?_key ascends

theorem nextLotNumber_eq (ascends : (s.table.lots.map (fun l => l.number)).Pairwise (· < ·))
    (split : s.table.lots = pre ++ l :: post) : s.nextLotNumber l.number = post.head?.map (fun m => m.number) := by
  rw [split] at ascends
  rw [State.nextLotNumber, split]
  exact congrArg _ (find?_above ascends)

theorem lotNamed_none (absent : (lot = 0 ∧ s.table.lots = []) ∨ (lot ≠ 0 ∧ ∀ l ∈ s.table.lots, l.number ≠ lot.toNat)) :
    s.lotNamed lot.toNat = none := by
  rcases absent with ⟨rfl, empty⟩ | ⟨nonzero, absent⟩
  · simp [State.lotNamed, empty]
  · rw [State.lotNamed, if_neg (toNat_ne_zero nonzero), Lots.lot?_eq_none_iff]
    exact absent

theorem performLotRead_unknown (absent : s.lotNamed lot.toNat = none) : performLotRead lot item s = refuse s .unknown := by
  simp only [performLotRead, absent]

section Named
variable (named : s.lotNamed lot.toNat = some l)
include named

theorem performLotRead_lot : performLotRead lot 0xFF s = accept s (l.image (s.nextLotNumber l.number)) := by
  rw [performLotRead, named]
  exact if_pos rfl

theorem performLotRead_range (above : 5 < item.toNat) (notLot : item ≠ 0xFF) : performLotRead lot item s = refuse s .range := by
  rw [performLotRead, named]
  exact (if_neg notLot).trans (if_pos above)

theorem performLotRead_charge (within : item.toNat ≤ 5) (found : l.charges[item.toNat]? = some c) :
    performLotRead lot item s = accept s (c.image l.number item.toNat) := by
  have notLot : item ≠ 0xFF := by rintro rfl; exact absurd within (by decide)
  simp only [performLotRead, named, if_neg notLot, if_neg within.not_gt, found]

theorem performLotRead_noCharge (within : item.toNat ≤ 5) (absent : l.charges.length ≤ item.toNat) :
    performLotRead lot item s = refuse s .unknown := by
  have notLot : item ≠ 0xFF := by rintro rfl; exact absurd within (by decide)
  have none : l.charges[item.toNat]? = none := List.getElem?_eq_none_iff.mpr absent
  simp only [performLotRead, named, if_neg notLot, if_neg within.not_gt, none]

end Named
end Lots

theorem lot_image_length (l : Lot) (next : Option Nat) : (l.image next).length = 39 := by
  simp only [Lot.image, List.length_append, Reads.be16_length, Reads.be32_length, Reads.int32_length, Reads.optU32_length,
    List.length_cons, List.length_nil]

theorem lot_image_eq (l : Lot) (next : Option Nat) :
    l.image next = be16 l.number ++ be16 l.grower ++ [byte l.variety.val, byte l.state.code] ++ bytes32 l.openTime ++
      [byte l.charges.length] ++ be32 l.greenTotal ++ be32 l.spill ++ be16 l.baleCount ++ int32 l.netTotal ++
      be16 l.releasedBales ++ int32 l.releasedNet ++ be16 l.ticketsIssued ++ be16 l.ticketsTaken ++ optU32 next := by
  rw [Lot.image, ← FieldBytes.bytes32_eq]

theorem charge_image_length (c : Charge) (lot index : Nat) : (c.image lot index).length = 33 := by
  simp only [Charge.image, List.length_append, Reads.be16_length, Reads.be32_length, Reads.int32_length,
    Reads.optU32_length, Reads.optTime_length, List.length_cons, List.length_nil]

theorem charge_image_eq (c : Charge) (lot index : Nat) :
    c.image lot index = be16 lot ++ [byte index, byte c.kiln.val, byte c.state.code, c.flags] ++ be32 c.green ++
      bytes32 c.fillStart ++ optTime c.fillEnd ++ optTime c.dried ++ be16 c.bales ++ int32 c.net ++
      [byte c.partTickets] ++ optU32 c.finalTicket := by
  rw [Charge.image, ← FieldBytes.bytes32_eq]

/-! ## BALE-READ (R139) -/

section Bales
variable {s : State} {bale : Word32} {pre post : List Bale} {b : Bale}

theorem performBaleRead_eq (ascends : (s.press.bales.map (fun b => b.number)).Pairwise (· < ·))
    (split : s.press.bales = pre ++ b :: post) (named : (bale = 0 ∧ pre = []) ∨ (bale ≠ 0 ∧ b.number = bale.toNat)) :
    performBaleRead bale s = accept s (b.image (post.head?.map (fun c => c.number))) := by
  rw [split] at ascends
  have found : s.baleNamed bale.toNat = some b := by
    rcases named with ⟨rfl, rfl⟩ | ⟨nonzero, number⟩
    · simp [State.baleNamed, split]
    · rw [State.baleNamed, if_neg (toNat_ne_zero nonzero), State.bale?, split, ← number]
      exact find?_key ascends
  have next : s.press.bales.find? (fun x => b.number < x.number) = post.head? := split ▸ find?_above ascends
  simp only [performBaleRead, found, next]

theorem performBaleRead_unknown
    (absent : (bale = 0 ∧ s.press.bales = []) ∨ (bale ≠ 0 ∧ ∀ b ∈ s.press.bales, b.number ≠ bale.toNat)) :
    performBaleRead bale s = refuse s .unknown := by
  have none : s.baleNamed bale.toNat = none := by
    rcases absent with ⟨rfl, empty⟩ | ⟨nonzero, absent⟩
    · simp [State.baleNamed, empty]
    · rw [State.baleNamed, if_neg (toNat_ne_zero nonzero), State.bale?, List.find?_eq_none]
      simpa using absent
  simp only [performBaleRead, none]

end Bales

theorem bale_image_length (b : Bale) (next : Option Nat) : (b.image next).length = 35 := by
  simp only [Bale.image, List.length_append, Reads.be16_length, Reads.be32_length, Reads.optI32_length,
    Reads.optByte_length, Tickets.optU16_length, Reads.optU32_length, List.length_cons, List.length_nil]

theorem bale_image_eq (b : Bale) (next : Option Nat) :
    b.image next = be32 b.number ++ be16 b.lot ++ [byte b.index, byte b.kiln.val, byte b.status.code, b.flags] ++
      optI32 b.gross ++ optByte (b.tareCode.map (fun c => c.val)) ++ be16 b.tare ++ optI32 b.net ++ optU16 b.moisture ++
      bytes32 b.time ++ optU32 b.ticket ++ optU32 next := by
  rw [Bale.image, ← FieldBytes.bytes32_eq]

/-- Settles O19. -/
theorem lotAndBaleReads : Obligations.LotAndBaleReads := by
  unfold Obligations.LotAndBaleReads
  intro s tag ready
  refine ⟨fun lot pre post l ascends split named => ?lots, fun lot i absent => ?noLot,
    fun l next => ⟨lot_image_length l next, lot_image_eq l next⟩,
    fun c lot index => ⟨charge_image_length c lot index, charge_image_eq c lot index⟩,
    fun bale pre post b ascends split named => ?bale, fun bale absent => ?noBale,
    fun b next => ⟨bale_image_length b next, bale_image_eq b next⟩⟩
  case lots =>
    have found (i : Byte) : (s.admitted tag (.lotRead lot i)).lotNamed lot.toNat = some l := lotNamed_eq ascends split named
    have next : (s.admitted tag (.lotRead lot 0xFF)).nextLotNumber l.number = post.head?.map (fun m => m.number) :=
      nextLotNumber_eq ascends split
    refine ⟨?_, fun i c within charge => ?_, fun i within absent => ?_, fun i above notLot => ?_⟩
    · exact exec_eq_read (r := .lotRead lot 0xFF) rfl ready (next ▸ performLotRead_lot (found 0xFF))
    · exact exec_eq_read (r := .lotRead lot i) rfl ready (performLotRead_charge (found i) within charge)
    · exact exec_eq_replied (r := .lotRead lot i) rfl ready (performLotRead_noCharge (found i) within absent)
    · exact exec_eq_replied (r := .lotRead lot i) rfl ready (performLotRead_range (found i) above notLot)
  case noLot => exact exec_eq_replied (r := .lotRead lot i) rfl ready (performLotRead_unknown (lotNamed_none absent))
  case bale => exact exec_eq_read (r := .baleRead bale) rfl ready (performBaleRead_eq ascends split named)
  case noBale => exact exec_eq_replied (r := .baleRead bale) rfl ready (performBaleRead_unknown absent)

end Sys2Proof.Proofs.RecordReads
end

section
/-! PROOF. The accepted writes of the tables and their refusals (R11, R19 to R22, R26, R49, R79, R82, R83, R85, R112, R129, R174,
R176). -/

namespace Sys2Proof.Proofs.TableWrites

open Sys2Proof Sys2Proof.Machine

section
variable {s : State} {index : Byte}

/-! ## ROUTE (R49) -/

theorem performRouteWrite_accept (h : index.toNat < 64) {r : Route} (inRange : r.InRange) :
    performRouteWrite index r.image s
      = accept { s with classifier := { s.classifier with routes := s.classifier.routes.set index.toNat r } } [1, index] := by
  obtain ⟨f, src, c, a, o, w, e, image, flags, read⟩ := routeImageOf_image inRange
  have formed : ¬ (8 ≤ f.toNat || (0 : Byte) ≠ 0) = true := by simpa using flags
  rw [image]
  simp only [performRouteWrite, if_neg formed, dif_pos h, read]
  rfl

theorem performRouteWrite_range {f a b c d e g : Byte} (flags : f.toNat < 8)
    (out : 64 ≤ index.toNat ∨ ∀ r : Route, r.InRange → r.image ≠ [f, a, b, c, d, e, g, 0]) :
    performRouteWrite index [f, a, b, c, d, e, g, 0] s = refuse s .range := by
  have formed : ¬ (8 ≤ f.toNat || (0 : Byte) ≠ 0) = true := by simpa using flags
  rw [performRouteWrite, if_neg formed]
  by_cases h : index.toNat < 64
  · have noEntry := out.resolve_left h.not_ge
    cases read : routeImageOf f a b c d e g with
    | none => exact dif_pos h
    | some r =>
      obtain ⟨inRange, image⟩ := routeImageOf_only flags read
      exact absurd image (noEntry r inRange)
  · exact dif_neg h

/-! ## CADENCE (R26) -/

theorem performCadenceWrite_whole (h : index.toNat < 8) (e p1 p2 : Byte) :
    performCadenceWrite index [e, 0, p1, p2] s =
      if 1 < e.toNat || (word16 p1 p2).toNat = 0 || 6000 < (word16 p1 p2).toNat then refuse s .range
      else accept (s.updCadence ⟨index.toNat, h⟩ (fun _ =>
        { enabled := e = 1, period := (word16 p1 p2).toNat
          countdown := if e = 1 then (word16 p1 p2).toNat else 0 })) [2, index] := by
  have formed : ¬ (0 : Byte) ≠ 0 := not_not_intro rfl
  rw [performCadenceWrite, if_neg formed, dif_pos h]
  rfl

theorem performCadenceWrite_accept (h : index.toNat < 8) {c : Cadence} (inRange : c.InRange) :
    performCadenceWrite index c.image s
      = accept { s with field := { s.field with
          cadences := s.field.cadences.set index.toNat { c with countdown := if c.enabled then c.period else 0 } } }
        [2, index] := by
  obtain ⟨low, high⟩ := inRange
  obtain ⟨p1, p2, bytes, period⟩ := be16_read (n := c.period) (by omega)
  have image : c.image = [flagByte c.enabled, 0, p1, p2] := by rw [Cadence.image, bytes]; rfl
  have flag := flagByte_le c.enabled
  have valid : ¬ (1 < (flagByte c.enabled).toNat || c.period = 0 || 6000 < c.period) = true := by simp; omega
  rw [image, performCadenceWrite_whole h, period, if_neg valid, State.updCadence, flagByte_one]
  cases c with
  | mk enabled period countdown => cases enabled <;> rfl

theorem performCadenceWrite_range {a b d : Byte}
    (out : 8 ≤ index.toNat ∨ ∀ c : Cadence, c.InRange → c.image ≠ [a, 0, b, d]) :
    performCadenceWrite index [a, 0, b, d] s = refuse s .range := by
  by_cases h : index.toNat < 8
  · have noEntry := out.resolve_left h.not_ge
    rw [performCadenceWrite_whole h]
    refine if_pos ?_
    by_contra valid
    simp only [Bool.or_eq_true, decide_eq_true_eq] at valid
    refine noEntry { enabled := a = 1, period := (word16 b d).toNat } ⟨?_, ?_⟩ ?_
    · dsimp; omega
    · dsimp; omega
    · rw [Cadence.image, be16_word16, flagByte_of (by omega)]
      rfl
  · have formed : ¬ (0 : Byte) ≠ 0 := not_not_intro rfl
    rw [performCadenceWrite, if_neg formed, dif_neg h]

/-! ## TARE (R129) -/

theorem performTareWrite_whole (a b : Byte) :
    performTareWrite index [a, b, 0, 0] s = if _h : index.toNat < 8 then
      accept { s with press := { s.press with tares := s.press.tares.set index.toNat (word16 a b).toNat } } [7, index]
      else refuse s .range := by
  have formed : ¬ ((0 : Byte) ≠ 0 || (0 : Byte) ≠ 0) = true := by decide
  rw [performTareWrite, if_neg formed]
  rfl

theorem performTareWrite_accept (h : index.toNat < 8) {tare : Nat} (fits : tare ≤ 65535) :
    performTareWrite index (be16 tare ++ [0, 0]) s
      = accept { s with press := { s.press with tares := s.press.tares.set index.toNat tare } } [7, index] := by
  obtain ⟨a, b, bytes, value⟩ := be16_read (n := tare) (by omega)
  rw [bytes, List.cons_append, List.cons_append, List.nil_append, performTareWrite_whole, dif_pos h, value]

/-- Settles O20. -/
theorem plainTableWrites : Obligations.PlainTableWrites := by
  unfold Obligations.PlainTableWrites
  intro s tag index ready
  refine ⟨fun h r inRange => ?route, fun f a b c d e g flags out => ?routeRange, fun h c inRange => ?cadence,
    fun a b d out => ?cadenceRange, fun h tare fits => ?tare, fun a b beyond => ?tareRange⟩
  case route =>
    exact exec_eq_performed (r := .tableWrite 1 index r.image) rfl ready (f := fun t => { t with
      classifier := { t.classifier with routes := t.classifier.routes.set index.toNat r } }) (data := fun _ => [1, index])
      (performRouteWrite_accept h inRange)
  case routeRange => exact exec_eq_replied (r := .tableWrite 1 index _) rfl ready (performRouteWrite_range flags out)
  case cadence =>
    exact exec_eq_performed (r := .tableWrite 2 index c.image) rfl ready (f := fun t => { t with field := { t.field with
      cadences := t.field.cadences.set index.toNat { c with countdown := if c.enabled then c.period else 0 } } })
      (data := fun _ => [2, index]) (performCadenceWrite_accept h inRange)
  case cadenceRange => exact exec_eq_replied (r := .tableWrite 2 index _) rfl ready (performCadenceWrite_range out)
  case tare =>
    exact exec_eq_performed (r := .tableWrite 7 index _) rfl ready (f := fun t => { t with
      press := { t.press with tares := t.press.tares.set index.toNat tare } }) (data := fun _ => [7, index])
      (performTareWrite_accept h fits)
  case tareRange =>
    exact exec_eq_replied (r := .tableWrite 7 index _) rfl ready
      ((performTareWrite_whole a b).trans (dif_neg beyond.not_gt))

/-! ## SCHEDULE and STEP (R82, R83, R85) -/

section
variable {k : Kiln} {d : Fin 8}

theorem runnable_iff {e : Schedule} :
    s.runnable e = true ↔ ∃ i, i < e.count ∧ (s.stepAt (e.first + i)).kind = .fin := by
  rw [State.runnable, Bool.and_eq_true, KilnStarts.hasEnd_iff, decide_eq_true_eq]
  refine and_iff_right_of_imp ?_
  rintro ⟨i, inside, -⟩
  omega

theorem referenced_iff : s.referenced k = some d ↔ s.References k d := by
  unfold State.referenced State.References
  split
  next loaded =>
    have notRunning : ¬ ((s.kiln k).state = .drying ∨ (s.kiln k).state = .hold ∨ (s.kiln k).state = .cooling) := by
      rw [loaded]; decide
    rw [or_iff_left (fun h => notRunning h.1), and_iff_right loaded]
    cases variety : s.kilnVariety k with
    | none => simp
    | some w =>
      simp only [Option.ite_none_right_eq_some, Option.some.injEq, runnable_iff, exists_eq_left']
      constructor
      · rintro ⟨ends, rfl⟩
        exact ⟨rfl, ends⟩
      · rintro ⟨rfl, ends⟩
        exact ⟨ends, rfl⟩
  next notLoaded =>
    rw [or_iff_right (fun h => notLoaded h.1), ← Reads.runsSchedule_iff, Option.ite_none_right_eq_some]

theorem scheduleInUse_iff : s.scheduleInUse d = true ↔ ∃ k, s.References k d := by
  simp [State.scheduleInUse, referenced_iff]

theorem stepInUse_iff {n : Nat} : s.stepInUse n = true ↔ ∃ k d, s.References k d ∧ s.kilns.schedules[d].first ≤ n ∧
    n < s.kilns.schedules[d].first + s.kilns.schedules[d].count := by
  simp only [State.stepInUse, List.any_eq_true, List.mem_finRange, true_and, ← referenced_iff]
  refine exists_congr fun k => ?_
  cases held : s.referenced k with
  | none => simp
  | some d => simp

theorem performScheduleWrite_read (h : index.toNat < 8) {d : Schedule} (inRange : d.InRange) :
    performScheduleWrite index d.image s = if s.scheduleInUse ⟨index.toNat, h⟩ then refuse s .inUse
      else accept { s with kilns := { s.kilns with schedules := s.kilns.schedules.set index.toNat d } } [4, index] := by
  obtain ⟨first, count, t1, t2, m1, m2, fan, image, read⟩ := scheduleImageOf_image inRange
  have formed : ¬ (0 : Byte) ≠ 0 := not_not_intro rfl
  rw [image]
  simp only [performScheduleWrite, if_neg formed, dif_pos h, read]
  rfl

theorem performScheduleWrite_range {a b c d e f g : Byte}
    (out : 8 ≤ index.toNat ∨ ∀ x : Schedule, x.InRange → x.image ≠ [a, b, c, d, e, f, g, 0]) :
    performScheduleWrite index [a, b, c, d, e, f, g, 0] s = refuse s .range := by
  have formed : ¬ (0 : Byte) ≠ 0 := not_not_intro rfl
  rw [performScheduleWrite, if_neg formed]
  by_cases h : index.toNat < 8
  · have noEntry := out.resolve_left h.not_ge
    cases read : scheduleImageOf a b (word16 c d).toNat (word16 e f).toNat g with
    | none => exact dif_pos h
    | some x =>
      obtain ⟨inRange, image⟩ := scheduleImageOf_only read
      exact absurd image (noEntry x inRange)
  · exact dif_neg h

theorem performStepWrite_read (h : index.toNat < 128) {e : Step} (inRange : e.InRange) :
    performStepWrite index e.image s = if s.stepInUse index.toNat then refuse s .inUse
      else accept { s with kilns := { s.kilns with steps := s.kilns.steps.set index.toNat e } } [5, index] := by
  obtain ⟨kind, d1, d2, t1, t2, l1, l2, fan, image, read⟩ := stepImageOf_image inRange
  have formed : ¬ ((0 : Byte) ≠ 0 || (0 : Byte) ≠ 0) = true := by decide
  rw [image]
  simp only [performStepWrite, if_neg formed, dif_pos h, read]
  rfl

theorem performStepWrite_range {a b c d e f g h : Byte}
    (out : 128 ≤ index.toNat ∨ ∀ x : Step, x.InRange → x.image ≠ [a, 0, b, c, d, e, f, g, h, 0]) :
    performStepWrite index [a, 0, b, c, d, e, f, g, h, 0] s = refuse s .range := by
  have formed : ¬ ((0 : Byte) ≠ 0 || (0 : Byte) ≠ 0) = true := by decide
  rw [performStepWrite, if_neg formed]
  by_cases within : index.toNat < 128
  · have noEntry := out.resolve_left within.not_ge
    cases read : stepImageOf a (word16 b c).toNat (word16 d e).toNat (word16 f g).toNat h with
    | none => exact dif_pos within
    | some x =>
      obtain ⟨inRange, image⟩ := stepImageOf_only read
      exact absurd image (noEntry x inRange)
  · exact dif_neg within

end

/-! ## VARIETY (R11) -/

theorem varietyInUse_iff {n : Nat} : s.varietyInUse n = true ↔ ∃ l ∈ s.table.lots, l.variety.val = n := by
  simp [State.varietyInUse]

theorem performVarietyWrite_read (h : index.toNat < 16) {v : Variety} (inRange : v.InRange) :
    performVarietyWrite index v.image s = if s.varietyInUse index.toNat then refuse s .inUse
      else accept { s with table := { s.table with varieties := s.table.varieties.set index.toNat v } } [6, index] := by
  obtain ⟨valid, sched, h1, h2, q, a1, a2, a3, a4, b1, b2, b3, b4, m1, m2, image, read⟩ := varietyImageOf_image inRange
  have formed : ¬ ((0 : Byte) ≠ 0 || (0 : Byte) ≠ 0 || (0 : Byte) ≠ 0) = true := by decide
  rw [image]
  simp only [performVarietyWrite, if_neg formed, dif_pos h, read]
  rfl

theorem performVarietyWrite_range {a b c d e a1 a2 a3 a4 b1 b2 b3 b4 m n : Byte}
    (out : 16 ≤ index.toNat ∨
      ∀ x : Variety, x.InRange → x.image ≠ [a, b, c, d, e, 0, a1, a2, a3, a4, b1, b2, b3, b4, m, n, 0, 0]) :
    performVarietyWrite index [a, b, c, d, e, 0, a1, a2, a3, a4, b1, b2, b3, b4, m, n, 0, 0] s = refuse s .range := by
  have formed : ¬ ((0 : Byte) ≠ 0 || (0 : Byte) ≠ 0 || (0 : Byte) ≠ 0) = true := by decide
  rw [performVarietyWrite, if_neg formed]
  by_cases h : index.toNat < 16
  · have noEntry := out.resolve_left h.not_ge
    cases read : varietyImageOf a b (word16 c d).toNat e (word32 a1 a2 a3 a4).toNat (word32 b1 b2 b3 b4).toNat
        (word16 m n).toNat with
    | none => exact dif_pos h
    | some x =>
      obtain ⟨inRange, image⟩ := varietyImageOf_only read
      exact absurd image (noEntry x inRange)
  · exact dif_neg h

/-- Settles O21: whole entries are read; then the use of the entry decides. -/
theorem guardedTableWrites : Obligations.GuardedTableWrites := by
  unfold Obligations.GuardedTableWrites
  intro s tag index ready
  refine ⟨fun h d inRange unused => ?schedule, fun h d inRange used => ?scheduleUsed,
    fun a b c d e f g out => ?scheduleRange, fun h e inRange unused => ?step, fun h e inRange used => ?stepUsed,
    fun a b c d e f g h out => ?stepRange, fun h v inRange unused => ?variety, fun v h inRange used => ?varietyUsed,
    fun a b c d e a1 a2 a3 a4 b1 b2 b3 b4 m n out => ?varietyRange⟩
  case schedule =>
    have free : ¬ (s.admitted tag (.tableWrite 4 index d.image)).scheduleInUse ⟨index.toNat, h⟩ = true :=
      fun used => (scheduleInUse_iff.mp used).elim unused
    exact exec_eq_performed (r := .tableWrite 4 index d.image) rfl ready (f := fun t => { t with kilns := { t.kilns with
      schedules := t.kilns.schedules.set index.toNat d } }) (data := fun _ => [4, index])
      ((performScheduleWrite_read h inRange).trans (if_neg free))
  case scheduleUsed =>
    have held : (s.admitted tag (.tableWrite 4 index d.image)).scheduleInUse ⟨index.toNat, h⟩ = true :=
      scheduleInUse_iff.mpr used
    exact exec_eq_replied (r := .tableWrite 4 index d.image) rfl ready
      ((performScheduleWrite_read h inRange).trans (if_pos held))
  case scheduleRange => exact exec_eq_replied (r := .tableWrite 4 index _) rfl ready (performScheduleWrite_range out)
  case step =>
    have free : ¬ (s.admitted tag (.tableWrite 5 index e.image)).stepInUse index.toNat = true := by
      rw [stepInUse_iff]
      rintro ⟨k, d, referenced, within⟩
      exact unused k d referenced within
    exact exec_eq_performed (r := .tableWrite 5 index e.image) rfl ready (f := fun t => { t with kilns := { t.kilns with
      steps := t.kilns.steps.set index.toNat e } }) (data := fun _ => [5, index])
      ((performStepWrite_read h inRange).trans (if_neg free))
  case stepUsed =>
    have held : (s.admitted tag (.tableWrite 5 index e.image)).stepInUse index.toNat = true := stepInUse_iff.mpr used
    exact exec_eq_replied (r := .tableWrite 5 index e.image) rfl ready
      ((performStepWrite_read h inRange).trans (if_pos held))
  case stepRange => exact exec_eq_replied (r := .tableWrite 5 index _) rfl ready (performStepWrite_range out)
  case variety =>
    have free : ¬ (s.admitted tag (.tableWrite 6 index v.image)).varietyInUse index.toNat = true := by
      rw [varietyInUse_iff]
      rintro ⟨l, member, named⟩
      exact unused l member named
    exact exec_eq_performed (r := .tableWrite 6 index v.image) rfl ready (f := fun t => { t with table := { t.table with
      varieties := t.table.varieties.set index.toNat v } }) (data := fun _ => [6, index])
      ((performVarietyWrite_read h inRange).trans (if_neg free))
  case varietyUsed =>
    have held : (s.admitted tag (.tableWrite 6 index v.image)).varietyInUse index.toNat = true := varietyInUse_iff.mpr used
    exact exec_eq_replied (r := .tableWrite 6 index v.image) rfl ready
      ((performVarietyWrite_read h inRange).trans (if_pos held))
  case varietyRange => exact exec_eq_replied (r := .tableWrite 6 index _) rfl ready (performVarietyWrite_range out)

end
end Sys2Proof.Proofs.TableWrites
end

section
/-! PROOF. The accepted writes of KILN, SCALE-SETUP and STATION, and their refusals (R79, R112, R174, R176). -/

namespace Sys2Proof.Proofs.UnitWrites

open Sys2Proof Sys2Proof.Machine

section
variable {s : State} {index : Byte}

/-! ## KILN (R79) -/

theorem performKilnWrite_read {k : Kiln} (named : kilnOf index = some k) {e : KilnEntry} (inRange : e.InRange) :
    performKilnWrite index e.image s = if (s.kiln k).state ≠ .empty then refuse s .inUse
      else accept (feedEvent (fun s => (s.setKilnEntry k e).attemptSelection) s) [3, index] := by
  obtain ⟨c1, c2, c3, c4, load, auto, r1, r2, fan, streak, image, read⟩ := kilnImageOf_image inRange
  have formed : ¬ ((0 : Byte) ≠ 0 || (0 : Byte) ≠ 0) = true := by decide
  rw [image]
  simp only [performKilnWrite, if_neg formed, named, read]
  rfl

theorem performKilnWrite_range {a b c d e f g h i j : Byte}
    (out : 6 ≤ index.toNat ∨ ∀ x : KilnEntry, x.InRange → x.image ≠ [a, b, c, d, e, f, g, h, i, j, 0, 0]) :
    performKilnWrite index [a, b, c, d, e, f, g, h, i, j, 0, 0] s = refuse s .range := by
  have formed : ¬ ((0 : Byte) ≠ 0 || (0 : Byte) ≠ 0) = true := by decide
  rw [performKilnWrite, if_neg formed]
  rcases out with beyond | noEntry
  · rw [kilnOf_none beyond]
  · cases read : kilnImageOf (word32 a b c d).toNat e f (word16 g h).toNat i j with
    | none => cases kilnOf index <;> rfl
    | some x =>
      obtain ⟨inRange, image⟩ := kilnImageOf_only read
      exact absurd image (noEntry x inRange)

/-! ## SCALE-SETUP (R112) -/

/-- The Scale Setup that an image lays out. -/
def setupRead (zero : Word32) (span : Word16) (watermark stability : Byte) (band track limit : Word16) (gross : Word32)
    (settle idle : Byte) : ScaleSetup :=
  { zeroOffset := zero.toInt, span := span.toNat, watermark := watermark.toNat, stability := stability.toNat
    band := band.toNat, zeroTrackBand := track.toNat, zeroLimit := limit.toNat, minGross := gross.toNat
    settleTimeout := settle.toNat, idleWord := idle }

section
variable {z1 z2 z3 z4 s1 s2 n m b1 b2 t1 t2 l1 l2 g1 g2 g3 g4 settle idle : Byte}

theorem setupRead_image : (setupRead (word32 z1 z2 z3 z4) (word16 s1 s2) n m (word16 b1 b2) (word16 t1 t2) (word16 l1 l2)
    (word32 g1 g2 g3 g4) settle idle).image
      = [z1, z2, z3, z4, s1, s2, n, m, b1, b2, t1, t2, l1, l2, g1, g2, g3, g4, settle, idle] := by
  simp only [ScaleSetup.image, setupRead, int32, BitVec.ofInt_toInt, bytes32_word32, be16_word16, be32_word32,
    byte_of_toNat]
  rfl

theorem setupRead_inRange_iff {zero : Word32} {span band track limit : Word16} {gross : Word32} :
    (setupRead zero span n m band track limit gross settle idle).InRange ↔
    ¬ ((n ≠ 2 && n ≠ 4 && n ≠ 8 && n ≠ 16) || m.toNat < 2 || 8 < m.toNat || Config.maxWeight < gross.toNat ||
       settle.toNat < 5 || 60 < settle.toNat) = true := by
  have weight := maxWeight_eq
  have low := zero.le_toInt
  have high := zero.toInt_lt
  have watermark (v : Nat) (small : v < 256) : n = BitVec.ofNat 8 v ↔ n.toNat = v := by
    rw [← BitVec.toNat_inj, BitVec.toNat_ofNat, Nat.mod_eq_of_lt small]
  have n2 : n = 2 ↔ n.toNat = 2 := watermark 2 (by omega)
  have n4 : n = 4 ↔ n.toNat = 4 := watermark 4 (by omega)
  have n8 : n = 8 ↔ n.toNat = 8 := watermark 8 (by omega)
  have n16 : n = 16 ↔ n.toNat = 16 := watermark 16 (by omega)
  simp only [ScaleSetup.InRange, setupRead, Bool.or_eq_true, Bool.and_eq_true, decide_eq_true_eq, ne_eq, n2, n4, n8, n16, weight]
  omega

theorem performScaleSetupWrite_whole :
    performScaleSetupWrite 0 [z1, z2, z3, z4, s1, s2, n, m, b1, b2, t1, t2, l1, l2, g1, g2, g3, g4, settle, idle] s =
      if (n ≠ 2 && n ≠ 4 && n ≠ 8 && n ≠ 16) || m.toNat < 2 || 8 < m.toNat ||
        Config.maxWeight < (word32 g1 g2 g3 g4).toNat || settle.toNat < 5 || 60 < settle.toNat then refuse s .range
      else if s.scale.state = .settling || s.scale.state = .clearing then refuse s .inUse
      else accept (s.updScale (fun c => c.withSetup (setupRead (word32 z1 z2 z3 z4) (word16 s1 s2) n m (word16 b1 b2)
        (word16 t1 t2) (word16 l1 l2) (word32 g1 g2 g3 g4) settle idle))) [8, 0] := rfl

end

/-- Every Scale Setup in range is read from the bytes of its image. -/
theorem exists_setupRead {u : ScaleSetup} (inRange : u.InRange) :
    ∃ z1 z2 z3 z4 s1 s2 n m b1 b2 t1 t2 l1 l2 g1 g2 g3 g4 settle idle,
      setupRead (word32 z1 z2 z3 z4) (word16 s1 s2) n m (word16 b1 b2) (word16 t1 t2) (word16 l1 l2)
        (word32 g1 g2 g3 g4) settle idle = u := by
  obtain ⟨low, high, span, watermark, -, stability, band, track, limit, gross, -, settle⟩ := inRange
  obtain ⟨z1, z2, z3, z4, -, zero⟩ := word32_bytes32 (BitVec.ofInt 32 u.zeroOffset)
  obtain ⟨s1, s2, -, spanIs⟩ := be16_read (n := u.span) (by omega)
  obtain ⟨b1, b2, -, bandIs⟩ := be16_read (n := u.band) (by omega)
  obtain ⟨t1, t2, -, trackIs⟩ := be16_read (n := u.zeroTrackBand) (by omega)
  obtain ⟨l1, l2, -, limitIs⟩ := be16_read (n := u.zeroLimit) (by omega)
  obtain ⟨g1, g2, g3, g4, -, grossIs⟩ := be32_read (n := u.minGross) (by omega)
  have zeroIs : (word32 z1 z2 z3 z4).toInt = u.zeroOffset := by
    rw [zero, BitVec.toInt_ofInt]
    exact Int.bmod_eq_of_le (by omega) (by omega)
  refine ⟨z1, z2, z3, z4, s1, s2, byte u.watermark, byte u.stability, b1, b2, t1, t2, l1, l2, g1, g2, g3, g4,
    byte u.settleTimeout, u.idleWord, ?_⟩
  rw [setupRead, zeroIs, spanIs, bandIs, trackIs, limitIs, grossIs, byte_toNat (by omega : u.watermark < 256),
    byte_toNat (by omega : u.stability < 256), byte_toNat (by omega : u.settleTimeout < 256)]

theorem performScaleSetupWrite_read {u : ScaleSetup} (inRange : u.InRange) :
    performScaleSetupWrite 0 u.image s =
      if s.scale.state = .settling || s.scale.state = .clearing then refuse s .inUse
      else accept (s.updScale (fun c => c.withSetup u)) [8, 0] := by
  obtain ⟨z1, z2, z3, z4, s1, s2, n, m, b1, b2, t1, t2, l1, l2, g1, g2, g3, g4, settle, idle, rfl⟩ := exists_setupRead inRange
  rw [setupRead_image, performScaleSetupWrite_whole]
  exact if_neg (setupRead_inRange_iff.mp inRange)

theorem performScaleSetupWrite_range {image : List Byte} (length : image.length = 20)
    (out : index ≠ 0 ∨ ∀ u : ScaleSetup, u.InRange → u.image ≠ image) :
    performScaleSetupWrite index image s = refuse s .range := by
  match image, length with
  | [z1, z2, z3, z4, s1, s2, n, m, b1, b2, t1, t2, l1, l2, g1, g2, g3, g4, settle, idle], rfl =>
    by_cases other : index = 0
    · subst other
      have noSetup := out.resolve_left (not_not_intro rfl)
      rw [performScaleSetupWrite_whole]
      refine if_pos ?_
      by_contra valid
      exact noSetup _ (setupRead_inRange_iff.mpr valid) setupRead_image
    · exact if_pos other

/-- The scale's state after a write outside SETTLING and CLEARING. -/
theorem withSetup_eq {c : Scale} (u : ScaleSetup) (notSettling : c.state ≠ .settling) (notClearing : c.state ≠ .clearing) :
    c.withSetup u = { c with
      setup := u, samples := [], history := [], stable := none
      state := if u.span = 0 then .unconfigured else if c.state = .fault then .fault else .idle
      cycleOpen := if c.state = .fault ∧ u.span = 0 then false else c.cycleOpen
      good := if c.state = .fault ∧ u.span = 0 then 0 else c.good } := by
  unfold Scale.withSetup
  split
  next state => by_cases span : u.span = 0 <;> simp [state, span, Scale.clearData, Scale.clearHistory]
  next state => by_cases span : u.span = 0 <;> simp [state, span, Scale.clearData, Scale.clearHistory]
  next state => by_cases span : u.span = 0 <;> simp [state, span, Scale.clearData, Scale.clearHistory]
  next state => exact absurd state notSettling
  next state => exact absurd state notClearing

/-! ## STATION (R176) -/

theorem performStationWrite_whole (t1 t2 i1 i2 threshold : Byte) (rd : RouteDefault) :
    performStationWrite 0 [t1, t2, i1, i2, threshold, byte rd.code, 0, 0] s =
      if 600 < (word16 t1 t2).toNat || (word16 i1 i2).toNat = 0 || threshold.toNat < 1 || 32 < threshold.toNat then
        refuse s .range
      else if s.feed.changeover ≠ .steady && (word16 t1 t2).toNat ≠ s.mgmt.station.transit then refuse s .inUse
      else accept (State.judgeStore { s with mgmt := { s.mgmt with station :=
        { transit := (word16 t1 t2).toNat, maxIncrement := (word16 i1 i2).toNat, threshold := threshold.toNat,
          routeDefault := rd } } }) [9, 0] := by
  cases rd <;> rfl

theorem performStationWrite_read {e : Station} (inRange : e.InRange) :
    performStationWrite 0 e.image s =
      if s.feed.changeover ≠ .steady && e.transit ≠ s.mgmt.station.transit then refuse s .inUse
      else accept (State.judgeStore { s with mgmt := { s.mgmt with station := e } }) [9, 0] := by
  obtain ⟨transit, low, high, least, most⟩ := inRange
  obtain ⟨t1, t2, transitBytes, transitIs⟩ := be16_read (n := e.transit) (by omega)
  obtain ⟨i1, i2, incBytes, incIs⟩ := be16_read (n := e.maxIncrement) (by omega)
  have image : e.image = [t1, t2, i1, i2, byte e.threshold, byte e.routeDefault.code, 0, 0] := by
    rw [Station.image, transitBytes, incBytes]
    rfl
  have threshold : (byte e.threshold).toNat = e.threshold := byte_toNat (by omega)
  have valid : ¬ (600 < e.transit || e.maxIncrement = 0 || e.threshold < 1 || 32 < e.threshold) = true := by
    simp; omega
  rw [image, performStationWrite_whole, transitIs, incIs, threshold, if_neg valid]

theorem performStationWrite_range {a b c d e f : Byte}
    (out : index ≠ 0 ∨ ∀ x : Station, x.InRange → x.image ≠ [a, b, c, d, e, f, 0, 0]) :
    performStationWrite index [a, b, c, d, e, f, 0, 0] s = refuse s .range := by
  have formed : ¬ ((0 : Byte) ≠ 0 || (0 : Byte) ≠ 0) = true := by decide
  by_cases first : index = 0
  · subst first
    have noEntry := out.resolve_left (not_not_intro rfl)
    cases read : RouteDefault.ofCode f.toNat with
    | none => simp only [performStationWrite, if_neg formed, read]; rfl
    | some rd =>
      have code : byte rd.code = f := by rw [(FieldBytes.routeDefault_ofCode _ _).mp read, byte_of_toNat]
      rw [← code, performStationWrite_whole]
      refine if_pos ?_
      by_contra valid
      simp only [Bool.or_eq_true, decide_eq_true_eq] at valid
      refine noEntry { transit := (word16 a b).toNat, maxIncrement := (word16 c d).toNat, threshold := e.toNat,
                       routeDefault := rd } ?_ ?_
      · have := (word16 c d).isLt
        refine ⟨?_, ?_, ?_, ?_, ?_⟩ <;> dsimp <;> omega
      · simp only [Station.image, be16_word16, byte_of_toNat, code]
        rfl
  · rw [performStationWrite, if_neg formed, if_pos first]

end

/-- Settles O22: whole entries are read; then the state of the unit decides. -/
theorem unitTableWrites : Obligations.UnitTableWrites := by
  unfold Obligations.UnitTableWrites
  intro s tag index ready
  refine ⟨fun k e named inRange empty => ?kiln, fun k e named inRange busy => ?kilnUsed,
    fun a b c d e f g h i j out => ?kilnRange, fun u inRange notSettling notClearing => ?scale,
    fun u inRange busy => ?scaleUsed, fun image length out => ?scaleRange, fun e inRange free => ?station,
    fun e inRange changing moved => ?stationUsed, fun a b c d e f out => ?stationRange⟩
  case kiln =>
    exact exec_eq_performed (r := .tableWrite 3 index e.image) rfl ready
      (f := feedEvent (fun t => (t.setKilnEntry k e).attemptSelection)) (data := fun _ => [3, index])
      ((performKilnWrite_read named inRange).trans (if_neg (not_not_intro empty)))
  case kilnUsed =>
    exact exec_eq_replied (r := .tableWrite 3 index e.image) rfl ready
      ((performKilnWrite_read named inRange).trans (if_pos busy))
  case kilnRange => exact exec_eq_replied (r := .tableWrite 3 index _) rfl ready (performKilnWrite_range out)
  case scale =>
    have idle : ¬ (s.scale.state = .settling || s.scale.state = .clearing) = true := by simp [notSettling, notClearing]
    have effect : (s.admitted tag (.tableWrite 8 0 u.image)).updScale (fun c => c.withSetup u) = _ :=
      congrArg (fun c : Scale => { s.admitted tag (.tableWrite 8 0 u.image) with scale := c })
        (withSetup_eq u notSettling notClearing)
    exact exec_eq_performed (r := .tableWrite 8 0 u.image) rfl ready (f := fun t => { t with scale := { t.scale with
        setup := u, samples := [], history := [], stable := none
        state := if u.span = 0 then .unconfigured else if t.scale.state = .fault then .fault else .idle
        cycleOpen := if t.scale.state = .fault ∧ u.span = 0 then false else t.scale.cycleOpen
        good := if t.scale.state = .fault ∧ u.span = 0 then 0 else t.scale.good } }) (data := fun _ => [8, 0])
      ((performScaleSetupWrite_read inRange).trans ((if_neg idle).trans (congrArg (accept · [8, 0]) effect)))
  case scaleUsed =>
    have busy : (s.scale.state = .settling || s.scale.state = .clearing) = true := by simpa using busy
    exact exec_eq_replied (r := .tableWrite 8 0 u.image) rfl ready
      ((performScaleSetupWrite_read inRange).trans (if_pos busy))
  case scaleRange => exact exec_eq_replied (r := .tableWrite 8 index _) rfl ready (performScaleSetupWrite_range length out)
  case station =>
    have free : ¬ (s.feed.changeover ≠ .steady && e.transit ≠ s.mgmt.station.transit) = true := by
      simpa [imp_iff_not_or] using free
    exact exec_eq_performed (r := .tableWrite 9 0 e.image) rfl ready
      (f := fun t => State.judgeStore { t with mgmt := { t.mgmt with station := e } }) (data := fun _ => [9, 0])
      ((performStationWrite_read inRange).trans (if_neg free))
  case stationUsed =>
    have used : (s.feed.changeover ≠ .steady && e.transit ≠ s.mgmt.station.transit) = true := by simp [changing, moved]
    exact exec_eq_replied (r := .tableWrite 9 0 e.image) rfl ready
      ((performStationWrite_read inRange).trans (if_pos used))
  case stationRange => exact exec_eq_replied (r := .tableWrite 9 index _) rfl ready (performStationWrite_range out)

end Sys2Proof.Proofs.UnitWrites
end

section
/-! PROOF. The NODE write (R19 to R22, R156, R174). -/

namespace Sys2Proof.Proofs.NodeWrites

open Sys2Proof Sys2Proof.Machine

section
variable {s : State} {index : Byte} {i : NodeIdx} {n : Node} {a : Byte} {role : Role} {b : Option Kiln}
  {c : Option CadenceId} {w m : Nat}

/-! ## The checks of R19 to R21 -/

theorem isLight_iff :
    (NodeImage.entry a role b c w m).isLight n = true ↔ n.address = a ∧ n.role = some role ∧ n.binding = b := by
  simp [NodeImage.isLight, and_assoc]

theorem nodeConflict_empty : s.nodeConflict i .empty = false := by simp [State.nodeConflict, NodeImage.clashes]

theorem isSingleton_iff : role.isSingleton = true ↔
    role = .belt ∨ role = .picker ∨ role = .diverter ∨ role = .press ∨ role = .moisture ∨ role = .printer := by
  cases role <;> decide

theorem isBound_iff : role.isBound = true ↔ role = .probe ∨ role = .burner := by cases role <;> decide

theorem clashes_iff : (NodeImage.entry a role b c w m).clashes n = true ↔
    n.address = a ∨
    (n.role = some role ∧
      (role = .belt ∨ role = .picker ∨ role = .diverter ∨ role = .press ∨ role = .moisture ∨ role = .printer)) ∨
    (n.role = some role ∧ (role = .probe ∨ role = .burner) ∧ n.binding = b) := by
  simp only [NodeImage.clashes, Bool.or_eq_true, Bool.and_eq_true, decide_eq_true_eq, isSingleton_iff, isBound_iff]
  tauto

theorem nodeConflict_iff : s.nodeConflict i (.entry a role b c w m) = true ↔ ∃ j, j ≠ i ∧
    ((s.node j).address = a ∨
      ((s.node j).role = some role ∧
        (role = .belt ∨ role = .picker ∨ role = .diverter ∨ role = .press ∨ role = .moisture ∨ role = .printer)) ∨
      ((s.node j).role = some role ∧ (role = .probe ∨ role = .burner) ∧ (s.node j).binding = b)) := by
  simp only [State.nodeConflict, List.any_eq_true, List.mem_finRange, true_and, Bool.and_eq_true, decide_eq_true_eq,
    clashes_iff]

theorem nodeInUse_iff : s.nodeInUse n = true ↔
    ((n.role = some .probe ∨ n.role = some .burner) ∧ ∃ k, n.binding = some k ∧ (s.kiln k).state ≠ .empty) ∨
    ((n.role = some .belt ∨ n.role = some .picker ∨ n.role = some .diverter) ∧
      (s.feed.feedLot ≠ none ∨ s.feed.beltLot ≠ none)) ∨
    (n.role = some .press ∧ s.press.queue ≠ []) ∨
    (n.role = some .printer ∧ s.tickets.process = .sending) := by
  unfold State.nodeInUse
  rcases n.role with _ | role
  · simp
  · cases role <;> cases n.binding <;> simp [Option.isSome_iff_ne_none]

/-! ## The outcome of a NODE write -/

theorem performNodeWrite_read (h : index.toNat < 48) {g : NodeImage} (inRange : g.InRange) :
    performNodeWrite index g.bytes s =
      if s.nodeConflict ⟨index.toNat, h⟩ g then refuse s .conflict
      else if !g.isLight (s.node ⟨index.toNat, h⟩) && s.nodeInUse (s.node ⟨index.toNat, h⟩) then refuse s .inUse
      else accept (s.writeNode ⟨index.toNat, h⟩ g) [0, index] := by
  obtain ⟨a, r, b, c, w, m, bytes, read⟩ := nodeImageOf_bytes inRange
  have formed : ¬ ((0 : Byte) ≠ 0 || (0 : Byte) ≠ 0) = true := by decide
  rw [bytes]
  simp only [performNodeWrite, if_neg formed, dif_pos h, read]
  rfl

theorem performNodeWrite_range {a b c d e f : Byte}
    (out : 48 ≤ index.toNat ∨ ∀ g : NodeImage, g.InRange → g.bytes ≠ [a, b, c, d, e, f, 0, 0]) :
    performNodeWrite index [a, b, c, d, e, f, 0, 0] s = refuse s .range := by
  have formed : ¬ ((0 : Byte) ≠ 0 || (0 : Byte) ≠ 0) = true := by decide
  rw [performNodeWrite, if_neg formed]
  by_cases h : index.toNat < 48
  · have noEntry := out.resolve_left h.not_ge
    cases read : nodeImageOf a b c d e f with
    | none => exact dif_pos h
    | some g =>
      obtain ⟨inRange, bytes⟩ := nodeImageOf_only read
      exact absurd bytes (noEntry g inRange)
  · exact dif_neg h

section Read
variable (h : index.toNat < 48) {g : NodeImage} (inRange : g.InRange)
include inRange

theorem performNodeWrite_conflict (conflict : s.nodeConflict ⟨index.toNat, h⟩ g = true) :
    performNodeWrite index g.bytes s = refuse s .conflict :=
  (performNodeWrite_read h inRange).trans (if_pos conflict)

variable (unique : s.nodeConflict ⟨index.toNat, h⟩ g = false)
include unique

theorem performNodeWrite_inUse (heavy : g.isLight (s.node ⟨index.toNat, h⟩) = false)
    (used : s.nodeInUse (s.node ⟨index.toNat, h⟩) = true) : performNodeWrite index g.bytes s = refuse s .inUse := by
  rw [performNodeWrite_read h inRange, if_neg (by rw [unique]; decide), heavy, used]
  rfl

theorem performNodeWrite_accept
    (allowed : g.isLight (s.node ⟨index.toNat, h⟩) = true ∨ s.nodeInUse (s.node ⟨index.toNat, h⟩) = false) :
    performNodeWrite index g.bytes s = accept (s.writeNode ⟨index.toNat, h⟩ g) [0, index] := by
  have free : ¬ (!g.isLight (s.node ⟨index.toNat, h⟩) && s.nodeInUse (s.node ⟨index.toNat, h⟩)) = true := by
    rcases allowed with light | unused
    · simp [light]
    · simp [unused]
  rw [performNodeWrite_read h inRange, if_neg (by rw [unique]; decide), if_neg free]

end Read

/-- The Poll Queue keeps the node only while it has a cadence. -/
theorem afterWrite_light (f : FieldMaster) : f.afterWrite i c.isSome true =
    { f with pollQueue := if c = none then f.pollQueue.filter (fun j => j ≠ i) else f.pollQueue } := by
  cases c <;> rfl

theorem afterWrite_heavy (f : FieldMaster) : f.afterWrite i c.isSome false =
    { f with
      pollQueue := if c = none then f.pollQueue.filter (fun j => j ≠ i) else f.pollQueue
      commandQueue := f.commandQueue.filter (fun e => e.node ≠ i)
      transaction := f.transaction.map (fun x => if x.node = some i then { x with detached := true } else x) } := by
  cases c <;> rfl

theorem writeNode_light (address : (s.node i).address = a) (roleIs : (s.node i).role = some role)
    (binding : (s.node i).binding = b) :
    s.writeNode i (.entry a role b c w m) = State.printerWritten
      { s with field := { s.field with
        nodes := s.field.nodes.set i
          { s.node i with cadence := c, window := w, missLimit := m, state := .unknown, misses := 0 }
        pollQueue := if c = none then s.field.pollQueue.filter (fun j => j ≠ i) else s.field.pollQueue } }
      (some role) (some role) := by
  have light : (NodeImage.entry a role b c w m).isLight (s.node i) = true := isLight_iff.mpr ⟨address, roleIs, binding⟩
  have written : s.writtenNode (.entry a role b c w m) (s.node i) =
      { s.node i with cadence := c, window := w, missLimit := m, state := .unknown, misses := 0 } := if_pos light
  simp only [State.writeNode, written, light, afterWrite_light, roleIs]
  rfl

theorem writeNode_heavy (heavy : (NodeImage.entry a role b c w m).isLight (s.node i) = false) :
    s.writeNode i (.entry a role b c w m) = State.printerWritten
      { s with field := { s.field with
        nodes := s.field.nodes.set i
          { address := a, role := some role, binding := b, cadence := c, window := w, missLimit := m
            state := .unknown, misses := 0, lastAnswer := none, lastTotalizer := 0, baseline := false
            commanded := s.commandedFor role b, confirmed := false }
        pollQueue := if c = none then s.field.pollQueue.filter (fun j => j ≠ i) else s.field.pollQueue
        commandQueue := s.field.commandQueue.filter (fun e => e.node ≠ i)
        transaction := s.field.transaction.map (fun x => if x.node = some i then { x with detached := true } else x) } }
      (s.node i).role (some role) := by
  have written : s.writtenNode (.entry a role b c w m) (s.node i) =
      { address := a, role := some role, binding := b, cadence := c, window := w, missLimit := m
        state := .unknown, misses := 0, lastAnswer := none, lastTotalizer := 0, baseline := false
        commanded := s.commandedFor role b, confirmed := false } := if_neg (Bool.eq_false_iff.mp heavy)
  simp only [State.writeNode, written, heavy, afterWrite_heavy]
  rfl

/-! ## The print process (R156) -/

section
variable {before after : Option Role}

theorem printerWritten_sending (printer : after = some .printer) (sending : s.tickets.process = .sending) :
    s.printerWritten before after = s := by
  simp [State.printerWritten, printer, sending]

theorem printerWritten_scans (printer : after = some .printer) (notSending : s.tickets.process ≠ .sending) :
    s.printerWritten before after = s.printScan := by
  rw [State.printerWritten, if_pos printer]
  cases process : s.tickets.process with
  | sending => exact absurd process notSending
  | idle | halted | scan => rfl

theorem printerWritten_lost (notPrinter : after ≠ some .printer) (wasPrinter : before = some .printer) :
    s.printerWritten before after = { s with tickets := { s.tickets with process := .idle } } := by
  rw [State.printerWritten, if_neg notPrinter, if_pos wasPrinter]
  rfl

theorem printerWritten_other (notPrinter : after ≠ some .printer) (wasNot : before ≠ some .printer) :
    s.printerWritten before after = s := by
  rw [State.printerWritten, if_neg notPrinter, if_neg wasNot]

end

end

/-- Settles O23. -/
theorem nodeTableWrite : Obligations.NodeTableWrite := by
  unfold Obligations.NodeTableWrite
  refine ⟨fun s tag index g ready inRange h => ?_, ⟨fun n a role b c w m => ⟨isLight_iff, rfl⟩,
    fun s i => nodeConflict_empty, fun s i a role b c w m => nodeConflict_iff, fun s n => nodeInUse_iff,
    fun s tag index a b c d e f ready out =>
      exec_eq_replied (r := .tableWrite 0 index _) rfl ready (performNodeWrite_range out)⟩,
    fun s before after => ⟨printerWritten_sending, printerWritten_scans, printerWritten_lost, printerWritten_other⟩⟩
  intro i n
  have accepted {f : State → State}
      (unique : s.nodeConflict i g = false) (allowed : g.isLight n = true ∨ s.nodeInUse n = false)
      (effect : (s.admitted tag (.tableWrite 0 index g.bytes)).writeNode i g = f (s.admitted tag (.tableWrite 0 index g.bytes))) :
      ∃ ch, exec (.nodeWrite tag index g.bytes) s
        = .next (State.choosing ch (s.performed tag (.tableWrite 0 index g.bytes) f (fun _ => [0, index]))) :=
    exec_eq_performed (r := .tableWrite 0 index g.bytes) rfl ready (data := fun _ => [0, index])
      ((performNodeWrite_accept (s := s.admitted tag (.tableWrite 0 index g.bytes)) h inRange unique allowed).trans
        (congrArg (accept · [0, index]) effect))
  refine ⟨fun conflict => ?conflict, fun unique heavy used => ?inUse, ?light, ?heavy, ?empty⟩
  case conflict =>
    exact exec_eq_replied (r := .tableWrite 0 index g.bytes) rfl ready (performNodeWrite_conflict h inRange conflict)
  case inUse =>
    exact exec_eq_replied (r := .tableWrite 0 index g.bytes) rfl ready (performNodeWrite_inUse h inRange unique heavy used)
  case light =>
    rintro a role b c w m rfl unique address roleIs binding
    exact accepted unique (Or.inl (isLight_iff.mpr ⟨address, roleIs, binding⟩)) (writeNode_light address roleIs binding)
  case heavy =>
    rintro a role b c w m rfl unique heavy unused
    refine accepted unique (Or.inr unused) ((writeNode_heavy (s := s.admitted tag _) heavy).trans ?_)
    cases role <;> cases b <;> rfl
  case empty =>
    rintro rfl unused
    exact accepted nodeConflict_empty (Or.inr unused) rfl

end Sys2Proof.Proofs.NodeWrites
end

section
/-! PROOF. RESTART with scope FIELD and with scope STATION (R40, R179, R180). -/

namespace Sys2Proof.Proofs.Restarts

open Sys2Proof Sys2Proof.Machine

section
variable {s : State}

theorem stationInUse_iff : s.stationInUse = true ↔
    s.table.lots ≠ [] ∨ (∃ k, (s.kiln k).state ≠ .empty) ∨ s.tickets.queue ≠ [] ∨ s.press.bales ≠ [] := by
  simp [State.stationInUse, or_assoc]

theorem performRestart_inUse (used : s.stationInUse = true) : performRestart 1 s = refuse s .inUse := if_pos used

theorem performRestart_station (unused : s.stationInUse = false) : performRestart 1 s = accept s.restartStation [1] :=
  if_neg (Bool.eq_false_iff.mp unused)

theorem performRestart_range {scope : Byte} (above : 1 < scope.toNat) : performRestart scope s = refuse s .range := by
  unfold performRestart
  match scope.toNat, above with
  | _ + 2, _ => rfl

end

/-- Settles O24. -/
theorem restartScopes : Obligations.RestartScopes := by
  unfold Obligations.RestartScopes
  refine ⟨fun s tag ready => ?field, fun s tag ready => ⟨fun used => ?inUse, fun lots kilns tickets bales => ?station,
    fun scope above => performRestart_range above⟩⟩
  case field => exact exec_eq_performed (r := .restart 0) rfl ready (data := fun _ => [0]) rfl
  case inUse => 
    have held : (s.admitted tag (.restart 1)).stationInUse = true := stationInUse_iff.mpr used
    exact exec_eq_replied (r := .restart 1) rfl ready (performRestart_inUse held)
  case station =>
    have free : (s.admitted tag (.restart 1)).stationInUse = false := by
      rw [← Bool.not_eq_true, stationInUse_iff]
      rintro (lot | ⟨k, kiln⟩ | ticket | bale)
      · exact lot lots
      · exact kiln (kilns k)
      · exact ticket tickets
      · exact bale bales
    exact exec_eq_performed (r := .restart 1) rfl ready (f := State.restartStation) (data := fun _ => [1]) 
      (performRestart_station free)

end Sys2Proof.Proofs.Restarts
end

section
/-! PROOF. The Field Transmit Arbiter: its choice, and the transaction of the source it has chosen (R33 to R36, R38, R39). -/

namespace Sys2Proof.Proofs.FieldStarts

open Sys2Proof Sys2Proof.Machine

section
variable {s : State}

/-! ## The sources (R38, R39) -/

theorem segmentFree_iff : s.segmentFree = true ↔ s.field.transaction = none ∧ s.link.driver = false := by
  simp [State.segmentFree]

theorem holdsWork_command : s.holdsWork .command = true ↔ s.field.commandQueue ≠ [] := by simp [State.holdsWork]

theorem holdsWork_print : s.holdsWork .print = true ↔ s.field.printRequest ≠ none := by
  simp [State.holdsWork, Option.isSome_iff_ne_none]

theorem holdsWork_pass : s.holdsWork .pass = true ↔ s.classifier.passQueue ≠ [] := by simp [State.holdsWork]

theorem holdsWork_poll : s.holdsWork .poll = true ↔ s.field.pollQueue ≠ [] := by simp [State.holdsWork]

theorem pollTurn_iff : s.pollTurn = true ↔ s.field.pollQueue ≠ [] ∧ s.field.passStreak = 4 := by
  rw [State.pollTurn, Bool.and_eq_true, holdsWork_poll, decide_eq_true_eq]
  rfl

theorem firstSource_command (command : s.field.commandQueue ≠ []) : s.firstSource = some .command :=
  if_pos (holdsWork_command.mpr command)

section NoCommand
variable (noCommand : s.field.commandQueue = [])
include noCommand

theorem firstSource_print (print : s.field.printRequest ≠ none) : s.firstSource = some .print := by
  have command : ¬ s.holdsWork .command = true := by rw [holdsWork_command]; exact not_not_intro noCommand
  exact (if_neg command).trans (if_pos (holdsWork_print.mpr print))

variable (noPrint : s.field.printRequest = none)
include noPrint

/-- With no command and no print request, the streak decides between a pass and a poll. -/
theorem firstSource_queues : s.firstSource = if s.holdsWork .pass && !s.pollTurn then some .pass
    else if s.holdsWork .poll then some .poll else none := by
  have command : ¬ s.holdsWork .command = true := by rw [holdsWork_command]; exact not_not_intro noCommand
  have print : ¬ s.holdsWork .print = true := by rw [holdsWork_print]; exact not_not_intro noPrint
  exact (if_neg command).trans (if_neg print)

theorem firstSource_pass (pass : s.classifier.passQueue ≠ []) (turn : s.field.pollQueue = [] ∨ s.field.passStreak ≠ 4) :
    s.firstSource = some .pass := by
  have noTurn : s.pollTurn = false := by
    rw [← Bool.not_eq_true, pollTurn_iff, not_and_or, not_not]
    exact turn
  rw [firstSource_queues noCommand noPrint, holdsWork_pass.mpr pass, noTurn]
  rfl

theorem firstSource_poll (poll : s.field.pollQueue ≠ []) (turn : s.classifier.passQueue = [] ∨ s.field.passStreak = 4) :
    s.firstSource = some .poll := by
  have noPass : ¬ (s.holdsWork .pass && !s.pollTurn) = true := by
    rw [Bool.and_eq_true, holdsWork_pass, Bool.not_eq_true', ← Bool.not_eq_true, pollTurn_iff]
    tauto
  rw [firstSource_queues noCommand noPrint, if_neg noPass, if_pos (holdsWork_poll.mpr poll)]

theorem firstSource_none (noPass : s.classifier.passQueue = []) (noPoll : s.field.pollQueue = []) : s.firstSource = none := by
  have pass : s.holdsWork .pass = false := by rw [← Bool.not_eq_true, holdsWork_pass]; exact not_not_intro noPass
  have poll : s.holdsWork .poll = false := by rw [← Bool.not_eq_true, holdsWork_poll]; exact not_not_intro noPoll
  rw [firstSource_queues noCommand noPrint, pass, poll]
  rfl

end NoCommand

/-! ## The choice after an event (R38, R160) -/

/-- What the choice made on the state is, by what was chosen before. -/
theorem chosen_arbitrated {t : State} {before : Option FieldSource} (chosen : t.field.chosen = t.choice before) :
    ((t.field.transaction ≠ none ∨ t.link.driver = true) → t.field.chosen = none) ∧
    (t.field.transaction = none → t.link.driver = false →
      (∀ x, before = some x → t.holdsWork x = true → t.field.chosen = some x) ∧
      ((∀ x, before = some x → t.holdsWork x = false) →
        (t.field.commandQueue ≠ [] → t.field.chosen = some .command) ∧
        (t.field.commandQueue = [] → t.field.printRequest ≠ none → t.field.chosen = some .print) ∧
        (t.field.commandQueue = [] → t.field.printRequest = none →
          (t.classifier.passQueue ≠ [] → (t.field.pollQueue = [] ∨ t.field.passStreak ≠ 4) →
            t.field.chosen = some .pass) ∧
          (t.field.pollQueue ≠ [] → (t.classifier.passQueue = [] ∨ t.field.passStreak = 4) →
            t.field.chosen = some .poll) ∧
          (t.classifier.passQueue = [] → t.field.pollQueue = [] → t.field.chosen = none)))) := by
  rw [chosen]
  refine ⟨fun busy => choice_busy ?_, fun noTransaction driver => ?_⟩
  · rw [← Bool.not_eq_true, segmentFree_iff]
    rintro ⟨noTransaction, driver⟩
    rcases busy with outstanding | sending
    · exact outstanding noTransaction
    · rw [driver] at sending
      cases sending
  · have free : t.segmentFree = true := segmentFree_iff.mpr ⟨noTransaction, driver⟩
    refine ⟨?_, fun spent => ?_⟩
    · rintro x rfl work
      exact choice_standing free work
    · rw [choice_first free spent]
      exact ⟨firstSource_command, firstSource_print, fun noCommand noPrint => ⟨firstSource_pass noCommand noPrint,
        firstSource_poll noCommand noPrint, firstSource_none noCommand noPrint⟩⟩

/-- At the end of every event the choice is made from what the sources hold then. -/
theorem exec_chosen {c : Instr} {t : State} (active : s.active = true) (event : isPowerCommand c = false)
    (run : exec c s = .next t) : t.field.chosen = t.choice s.field.chosen := by
  obtain ⟨f, -, effect⟩ := Kept.exec_event event
  rw [effect, whileActive_active active] at run
  cases run
  rfl

/-! ## The start of a transaction (R33 to R36, R38) -/

theorem mayStart_iff :
    s.mayStart = true ↔ s.field.transaction = none ∧ s.link.driver = false ∧ s.link.fpReceiving = false := by
  simp [State.mayStart, segmentFree_iff, and_assoc]

theorem mayStart_free (may : s.mayStart = true) : s.segmentFree = true := by
  obtain ⟨noTransaction, driver, -⟩ := mayStart_iff.mp may
  exact segmentFree_iff.mpr ⟨noTransaction, driver⟩

theorem startTransaction_busy
    (busy : s.field.transaction ≠ none ∨ s.link.driver = true ∨ s.link.fpReceiving = true) : s.startTransaction = s := by
  refine if_neg ?_
  rw [mayStart_iff]
  rintro ⟨noTransaction, driver, quiet⟩
  rcases busy with outstanding | sending | receiving
  · exact outstanding noTransaction
  · rw [driver] at sending
    cases sending
  · rw [quiet] at receiving
    cases receiving

section Free
variable (may : s.mayStart = true)
include may

theorem startTransaction_idle (none : s.choice s.field.chosen = none) : s.startTransaction = s := by
  simp only [State.startTransaction, if_pos may, none]

/-- The chosen source's transaction starts: the source chosen before, or the first with work when that one has none. -/
theorem startTransaction_source {x : FieldSource} (work : s.holdsWork x = true)
    (chosen : s.field.chosen = some x ∨
      (∀ y, s.field.chosen = some y → s.holdsWork y = false) ∧ s.firstSource = some x) :
    s.startTransaction = s.startSource x := by
  have free := mayStart_free may
  have choice : s.choice s.field.chosen = some x := by
    rcases chosen with standing | ⟨spent, first⟩
    · rw [standing, choice_standing free work]
    · rw [choice_first free spent, first]
  simp only [State.startTransaction, if_pos may, choice]

end Free

theorem startSource_command {c : Command} {rest : List Command} (queue : s.field.commandQueue = c :: rest) :
    s.startSource .command = State.beginning { s with field := { s.field with commandQueue := rest } }
      { kind := .command c.payload.code, address := (s.node c.node).address, node := some c.node, detached := false
        frames := [mkFrame (s.node c.node).address s.ownAddress c.payload.code c.payload.payload]
        window := (s.node c.node).window, sending := true, waitRunOut := false } := by
  simp only [State.startSource, queue]
  rfl

theorem startSource_print {n : Nat} {i : NodeIdx} {t : Ticket} (request : s.field.printRequest = some n)
    (printer : s.roleNode .printer = some i) (ticket : s.ticket? n = some t) :
    s.startSource .print = State.beginning { s with field := { s.field with printRequest := none } }
      { kind := .block n, address := (s.node i).address, node := some i, detached := false
        frames := t.segments.map (mkFrame (s.node i).address s.ownAddress 0x50)
        window := (s.node i).window, sending := true, waitRunOut := false } := by
  simp only [State.startSource, request, State.startBlock, printer, ticket]
  rfl

theorem startSource_pass {f : Frame} {fs : List Frame} (queue : s.classifier.passQueue = f :: fs) :
    s.startSource .pass = State.beginning
      { s with
        classifier := { s.classifier with passQueue := fs }
        field := { s.field with passStreak := if s.field.pollQueue = [] then 0 else min 4 (s.field.passStreak + 1) } }
      { kind := if f.dest = 0xFF then .broadcast else .pass
        address := f.dest
        node := if f.dest = 0xFF then none else s.addressNode f.dest
        detached := false, frames := [f]
        window := if f.dest = 0xFF then 2 else ((s.addressNode f.dest).map (fun i => (s.node i).window)).getD 10
        sending := true, waitRunOut := false } := by
  simp only [State.startSource, queue, State.startPass]
  by_cases all : f.dest = 0xFF
  · simp only [if_pos all]
    rfl
  · simp only [if_neg all]
    cases s.addressNode f.dest <;> rfl

theorem startSource_poll {i : NodeIdx} {is : List NodeIdx} (queue : s.field.pollQueue = i :: is) :
    s.startSource .poll = State.beginning { s with field := { s.field with pollQueue := is, passStreak := 0 } }
      { kind := .poll, address := (s.node i).address, node := some i, detached := false
        frames := [mkFrame (s.node i).address s.ownAddress 0x40 []]
        window := (s.node i).window, sending := true, waitRunOut := false } := by
  simp only [State.startSource, queue]
  rfl

end

/-- Settles O26: the choice, and then the start of the source it names. -/
theorem fieldTransactionStart : Obligations.FieldTransactionStart := by
  unfold Obligations.FieldTransactionStart
  refine ⟨fun s => ⟨holdsWork_command, holdsWork_print, holdsWork_pass, holdsWork_poll⟩,
    fun c s t active event run => chosen_arbitrated (exec_chosen active event run), fun s active => ⟨fun busy => ?busy, ?free⟩⟩
  case busy => exact exec_eq_effect rfl active (startTransaction_busy busy)
  case free =>
    rintro noTransaction driver quiet _ rfl
    have may : s.mayStart = true := mayStart_iff.mpr ⟨noTransaction, driver, quiet⟩
    have starts {x : FieldSource} {u : State} (work : s.holdsWork x = true) (source : s.startSource x = u)
        (chosen : s.field.chosen = some x ∨
          (∀ y, s.field.chosen = some y → s.holdsWork y = false) ∧ s.firstSource = some x) :
        ∃ ch, exec .fieldTransactionStart s = .next (State.choosing ch u) :=
      exec_eq_effect rfl active ((startTransaction_source may work chosen).trans source)
    refine ⟨fun c rest queue chosen => ?command, fun n i t request printer ticket chosen => ?print,
      fun f fs queue chosen => ?pass, fun i is queue chosen => ?poll, fun noCommand noPrint noPass noPoll => ?none⟩
    case command =>
      have work : s.field.commandQueue ≠ [] := by simp [queue]
      exact starts (holdsWork_command.mpr work) (startSource_command queue)
        (chosen.imp_right fun spent => ⟨spent, firstSource_command work⟩)
    case print =>
      have work : s.field.printRequest ≠ none := by simp [request]
      exact starts (holdsWork_print.mpr work) (startSource_print request printer ticket)
        (chosen.imp_right fun ⟨spent, noCommand⟩ => ⟨spent, firstSource_print noCommand work⟩)
    case pass =>
      have work : s.classifier.passQueue ≠ [] := by simp [queue]
      exact starts (holdsWork_pass.mpr work) (startSource_pass queue)
        (chosen.imp_right fun ⟨spent, noCommand, noPrint, turn⟩ => ⟨spent, firstSource_pass noCommand noPrint work turn⟩)
    case poll =>
      have work : s.field.pollQueue ≠ [] := by simp [queue]
      exact starts (holdsWork_poll.mpr work) (startSource_poll queue)
        (chosen.imp_right fun ⟨spent, noCommand, noPrint, turn⟩ => ⟨spent, firstSource_poll noCommand noPrint work turn⟩)
    case none =>
      have idle : s.choice s.field.chosen = none := by
        rw [← Option.not_isSome_iff_eq_none, Steps.choice_isSome_iff (mayStart_free may), Steps.holdsWork_iff]
        simp [noCommand, noPrint, noPass, noPoll]
      exact exec_eq_effect rfl active (startTransaction_idle may idle)

end Sys2Proof.Proofs.FieldStarts
end

section
/-! PROOF. The field segment in time, and the valid frames that arrive on it (R23, R31 to R37, R47, R155, R165). -/

namespace Sys2Proof.Proofs.FieldSegment

open Sys2Proof Sys2Proof.Machine

section
variable {s : State} {t : Transaction}

/-! ## The end of a wait (R32, R35, R155) -/

theorem missOn_node {i : NodeIdx} (node : t.node = some i) (attached : t.detached = false) : s.missOn t = s.nodeMissed i := by
  simp [State.missOn, node, attached]

theorem missOn_nobody (nobody : t.node = none ∨ t.detached = true) : s.missOn t = s := by
  rcases nobody with node | detached
  · simp [State.missOn, node]
  · cases node : t.node <;> simp [State.missOn, node, detached]

theorem expired_block {n : Nat} (kind : t.kind = .block n) :
    s.expired t = State.missOn { s with
      field := { s.field with transaction := none }
      tickets := { s.tickets with
        process := .halted
        queue := s.tickets.queue.map (fun x => if x.number = n then { x with print := .unprinted } else x) } } t := by
  simp only [State.expired, kind]
  rfl

theorem expired_other (notBlock : ∀ n, t.kind ≠ .block n) (notBroadcast : t.kind ≠ .broadcast) :
    s.expired t = (if t.kind = .pass then s.endTransaction.raise .passTimeout t.address.toNat 0
      else s.endTransaction).missOn t := by
  cases kind : t.kind with
  | poll | command _ | pass => simp only [State.expired, kind]; rfl
  | broadcast => exact absurd kind notBroadcast
  | block n => exact absurd kind (notBlock n)

section Outstanding
variable (outstanding : s.field.transaction = some t)
include outstanding

theorem windowExpiry_sending (notWaiting : t.sending = true ∨ t.kind = .broadcast) : s.windowExpiry = s := by
  have stays : (t.sending || decide (t.kind = .broadcast)) = true := by simpa using notWaiting
  simp only [State.windowExpiry, outstanding, if_pos stays]

theorem windowExpiry_receiving (sent : t.sending = false) (kind : t.kind ≠ .broadcast) (receiving : s.link.fpReceiving = true) :
    s.windowExpiry = { s with field := { s.field with transaction := some { t with waitRunOut := true } } } := by
  simp [State.windowExpiry, outstanding, sent, kind, receiving]

theorem guardEnd_ends (kind : t.kind = .broadcast) (sent : t.sending = false) : s.guardEnd = s.endTransaction := by
  simp [State.guardEnd, outstanding, kind, sent]

theorem guardEnd_stays (other : t.kind ≠ .broadcast ∨ t.sending = true) : s.guardEnd = s := by
  have stays : ¬ (decide (t.kind = .broadcast) && !t.sending) = true := by
    simpa [imp_iff_not_or] using other
  simp only [State.guardEnd, outstanding, if_neg stays]

end Outstanding

theorem receptionStart_open (driver : s.link.driver = false) (isOpen : s.link.fpOverlong = false) :
    s.receptionStart = { s with link := { s.link with fpReceiving := true } } := by
  simp [State.receptionStart, State.fieldReceives, driver, isOpen]

theorem receptionStart_closed (closed : s.link.driver = true ∨ s.link.fpOverlong = true) : s.receptionStart = s := by
  have off : ¬ s.fieldReceives = true := by rcases closed with h | h <;> simp [State.fieldReceives, h]
  exact if_neg off

theorem windowExpiry_none (none : s.field.transaction = none) : s.windowExpiry = s := by simp only [State.windowExpiry, none]

theorem guardEnd_none (none : s.field.transaction = none) : s.guardEnd = s := by simp only [State.guardEnd, none]

end

/-- Settles O27. -/
theorem fieldSegmentTiming : Obligations.FieldSegmentTiming := by
  unfold Obligations.FieldSegmentTiming
  intro s active
  refine ⟨exec_eq_effect (f := State.transmitDone) rfl active rfl,
    fun driver isOpen => exec_eq_effect rfl active (receptionStart_open driver isOpen),
    fun closed => exec_eq_effect rfl active (receptionStart_closed closed),
    fun none => ⟨exec_eq_effect rfl active (windowExpiry_none none), exec_eq_effect rfl active (guardEnd_none none)⟩,
    fun t outstanding => ⟨fun notWaiting => ?stays, fun sent kind receiving => ?extended, ?ends,
      fun kind sent => ?guard, fun other => ?guardStays⟩⟩
  case stays => exact exec_eq_effect rfl active (windowExpiry_sending outstanding notWaiting)
  case extended => exact exec_eq_effect rfl active (windowExpiry_receiving outstanding sent kind receiving)
  case guard => exact exec_eq_effect rfl active (guardEnd_ends outstanding kind sent)
  case guardStays => exact exec_eq_effect rfl active (guardEnd_stays outstanding other)
  case ends =>
    rintro sent kind quiet _ rfl
    have ends {v w : State} (expires : s.expired t = v.missOn t) (miss : v.missOn t = w) :
        ∃ ch, exec .transactionWindowExpiry s = .next (State.choosing ch w) :=
      exec_eq_effect rfl active ((Upstream.windowExpiry_eq outstanding sent kind quiet).trans (expires.trans miss))
    refine ⟨?_, ?_⟩
    · rintro _ rfl notBlock
      exact ⟨fun i node attached => ends (expired_other notBlock kind) (missOn_node node attached),
        fun nobody => ends (expired_other notBlock kind) (missOn_nobody nobody)⟩
    · rintro n block _ rfl
      exact ⟨fun i node attached => ends (expired_block block) (missOn_node node attached),
        fun nobody => ends (expired_block block) (missOn_nobody nobody)⟩

/-! ## A valid frame on the Field Port (R23, R37, R47) -/

section
variable {s : State} {t : Transaction} {f : Frame} {chars : List Byte}

theorem fieldArrival_valid (isOpen : s.link.fpOverlong = false) (driver : s.link.driver = false)
    (within : chars.length ≤ 54) (valid : judge chars = .valid f) :
    s.fieldArrival chars = State.offerFrame { s with link := { s.link with fpReceiving := false } } f := by
  have nonempty : chars ≠ [] := by
    rintro rfl
    rw [Upstream.judge_nil] at valid
    cases valid
  have whole : chars.take Config.overlong = chars := List.take_of_length_le (Nat.le_succ_of_le within)
  have taken : (s.fieldReceives && decide (chars ≠ [])) = true := by simp [State.fieldReceives, isOpen, driver, nonempty]
  have short : decide (Config.overlong ≤ chars.length) = s.link.fpOverlong := by
    rw [isOpen, decide_eq_false_iff_not]
    exact Nat.not_le.mpr (Nat.lt_succ_of_le within)
  unfold State.fieldArrival
  rw [if_pos taken, whole]
  simp only [valid, short]
  rfl

theorem offerFrame_none (none : s.field.transaction = none) : s.offerFrame f = s.countUnsolicited := by
  simp only [State.offerFrame, none]

section Outstanding
variable (outstanding : s.field.transaction = some t)
include outstanding

theorem offerFrame_other (other : f.src ≠ t.address ∨ t.kind.accepts f.code = false) :
    s.offerFrame f = s.countUnsolicited.afterOther := by
  have untaken : ¬ (decide (f.src = t.address) && t.kind.accepts f.code) = true := by
    rw [Bool.and_eq_true, decide_eq_true_eq, not_and_or, Bool.not_eq_true]
    exact other
  simp only [State.offerFrame, outstanding, if_neg untaken]

variable (source : f.src = t.address) (accepted : t.kind.accepts f.code = true)
include source accepted

theorem offerFrame_answer : s.offerFrame f = s.answered t f := by
  simp only [State.offerFrame, outstanding, source, accepted, decide_true, Bool.and_self, if_pos]

theorem offerFrame_detached (detached : t.detached = true) : s.offerFrame f = s.endTransaction.countUnsolicited := by
  rw [offerFrame_answer outstanding source accepted]
  exact if_pos detached

theorem offerFrame_node (attached : t.detached = false) {i : NodeIdx} (node : t.node = some i) :
    s.offerFrame f = ((s.endTransaction.nodeAnswered i).answerBody t i f).reportAnswer i := by
  rw [offerFrame_answer outstanding source accepted]
  simp [State.answered, attached, node]

theorem offerFrame_pass (attached : t.detached = false) (node : t.node = none) (pass : t.kind = .pass) :
    s.offerFrame f = s.endTransaction.forward f := by
  rw [offerFrame_answer outstanding source accepted]
  simp [State.answered, attached, node, pass]

end Outstanding

/-- A poll's answer is classified unless it is a NIL or carries nothing. -/
theorem pollAnswered_eq {i : NodeIdx} (accepted : TransactionKind.poll.accepts f.code = true) :
    s.pollAnswered i f = if f.code = 0x41 ∨ f.payload = [] then s else s.classify i f := by
  have nil : isNodeData f.code = true ↔ f.code ≠ 0x41 := by
    simp only [TransactionKind.accepts, Bool.or_eq_true, decide_eq_true_eq] at accepted
    constructor
    · rintro data rfl'
      rw [rfl'] at data
      exact absurd data (by decide)
    · exact fun other => accepted.resolve_right other
  have data : (isNodeData f.code && decide (1 ≤ f.payload.length)) = true ↔ ¬ (f.code = 0x41 ∨ f.payload = []) := by
    rw [Bool.and_eq_true, nil, decide_eq_true_eq, not_or, Nat.one_le_iff_ne_zero, Ne, Ne, List.length_eq_zero_iff]
  unfold State.pollAnswered
  by_cases drop : f.code = 0x41 ∨ f.payload = []
  · rw [if_neg (by rw [data]; exact not_not_intro drop), if_pos drop]
  · rw [if_pos (data.mpr drop), if_neg drop]

/-- A frame that leaves the unit's own state as it was ends no event of the unit. -/
theorem exec_fieldArrival_quiet {u : State} (active : s.active = true) (follows : s.feed.picker = s.pickerWanted)
    (effect : s.fieldArrival chars = u) (feed : u.feed = s.feed) :
    ∃ ch, exec (.fieldArrival chars) s = .next (State.choosing ch u) := by
  refine exec_eq_effect (f := feedEvent (fun v => v.fieldArrival chars)) rfl active ?_
  rw [feedEvent_quiet (by rw [effect, feed]) (by rw [effect, feed]) follows, effect]

theorem forward_feed : (s.forward f).feed = s.feed := by unfold State.forward; split <;> rfl

end

/-- Settles O28. -/
theorem fieldAnswers : Obligations.FieldAnswers := by
  unfold Obligations.FieldAnswers
  rintro s chars f active isOpen driver within valid follows u uIs w wIs
  have arrival : s.fieldArrival chars = u.offerFrame f := uIs ▸ fieldArrival_valid isOpen driver within valid
  have counted : u.countUnsolicited = w := wIs ▸ rfl
  have fieldU : u.field = s.field := uIs ▸ rfl
  have fieldW : w.field = s.field := wIs ▸ fieldU
  have feedU : u.feed = s.feed := uIs ▸ rfl
  have feedW : w.feed = s.feed := wIs ▸ feedU
  refine ⟨fun none => ?none, fun t outstanding => ?some⟩
  case none =>
    have effect : s.fieldArrival chars = w := arrival.trans ((offerFrame_none (fieldU ▸ none)).trans counted)
    exact exec_fieldArrival_quiet active follows effect feedW
  case some =>
    have outstandingU : u.field.transaction = some t := fieldU ▸ outstanding
    have outstandingW : w.field.transaction = some t := fieldW ▸ outstanding
    refine ⟨fun other => ⟨fun waiting => ?unsolicited, fun out sent kind => ?runOut⟩,
      fun source accepted => ⟨fun detached => ?detached, fun i attached node out outIs => ?answer,
        fun attached node pass => ?pass⟩⟩
    case unsolicited =>
      have waits : ∀ t, w.field.transaction = some t → t.waitRunOut = false := by
        intro t' h
        rw [outstandingW] at h
        cases h
        exact waiting
      have effect : s.fieldArrival chars = w := by
        rw [arrival, offerFrame_other outstandingU other, counted, Upstream.afterOther_waiting waits]
      exact exec_fieldArrival_quiet active follows effect feedW
    case runOut =>
      have quiet : w.link.fpReceiving = false := by rw [wIs, uIs]
      have expires : s.fieldArrival chars = w.expired t := by
        rw [arrival, offerFrame_other outstandingU other, counted, Upstream.afterOther_runOut outstandingW out]
      have same : feedEvent (fun v => v.fieldArrival chars) s = w.windowExpiry := by
        rw [Upstream.windowExpiry_eq outstandingW sent kind quiet, ← expires]
        exact feedEvent_quiet (by rw [expires]; simp [feedW]) (by rw [expires]; simp [feedW]) follows
      have activeW : w.active = true := by rw [wIs, uIs]; exact active
      show whileActive _ s = whileActive _ w
      rw [whileActive_active active, whileActive_active activeW, same, fieldW]
    case detached =>
      have effect : s.fieldArrival chars = { w with field := { w.field with transaction := none } } := by
        rw [arrival, offerFrame_detached outstandingU source accepted detached, wIs]
        rfl
      exact exec_fieldArrival_quiet active follows effect feedW
    case answer =>
      have body (v : State) : v.answerBody t i f = out v := by
        subst outIs
        cases kind : t.kind with
        | poll =>
          rw [kind] at accepted
          simp only [State.answerBody, kind, pollAnswered_eq accepted]
        | command code => simp only [State.answerBody, kind]; rfl
        | pass | broadcast => simp only [State.answerBody, kind]
        | block n => simp only [State.answerBody, kind]; rfl
      refine exec_eq_effect (f := feedEvent (fun v => v.fieldArrival chars)) rfl active (feedEvent_congr ?_)
      rw [arrival, offerFrame_node outstandingU source accepted attached node, body, uIs]
      rfl
    case pass =>
      have effect : s.fieldArrival chars = State.forward { u with field := { u.field with transaction := none } } f := by
        rw [arrival, offerFrame_pass outstandingU source accepted attached node pass]
        rfl
      exact exec_fieldArrival_quiet active follows effect (forward_feed.trans feedU)

end Sys2Proof.Proofs.FieldSegment
end

section
/-! PROOF. What a valid answer and a miss do to a node's entry, and the reports to the jobs (R23 to R25, R31, R73); the lookup of a
poll reply in the Route Table, and its action (R50 to R53). -/

namespace Sys2Proof.Proofs.NodesAndRoutes

open Sys2Proof Sys2Proof.Machine

/-! ## The codes that a transaction accepts (R23) -/

theorem accepts_poll (c : Byte) : TransactionKind.poll.accepts c = true ↔ (1 ≤ c.toNat ∧ c.toNat ≤ 0x3F) ∨ c = 0x41 := by
  simp only [TransactionKind.accepts, isNodeData, Bool.or_eq_true, Bool.and_eq_true, decide_eq_true_eq]
  rfl

theorem accepts_command (code c : Byte) : (TransactionKind.command code).accepts c = true ↔ c = 0x4E ∨ c = 0x4F := by
  simp only [TransactionKind.accepts, Bool.or_eq_true, decide_eq_true_eq]
  rfl

theorem accepts_block (n : Nat) (c : Byte) : (TransactionKind.block n).accepts c = true ↔ c = 0x51 ∨ c = 0x52 := by
  simp only [TransactionKind.accepts, Bool.or_eq_true, decide_eq_true_eq]
  rfl

section
variable {s : State}

/-! ## The report of a confirmation (R31, R73) -/

theorem reportConfirmed_loading {k : Kiln} (loading : s.feed.loading = some k) :
    s.reportConfirmed (.divert (some k)) = { s with feed := { s.feed with
      divertConfirmed := true, divertWatch := none, hold := { s.feed.hold with divert := false } } } := by
  have here : (s.feed.loading.isSome && decide (some k = s.feed.loading)) = true := by simp [loading]
  exact if_pos here

theorem reportConfirmed_elsewhere {target : Option Kiln} (elsewhere : target = none ∨ target ≠ s.feed.loading) :
    s.reportConfirmed (.divert target) = s := by
  have other : ¬ (s.feed.loading.isSome && decide (target = s.feed.loading)) = true := by
    rw [Bool.and_eq_true, decide_eq_true_eq]
    rintro ⟨loading, same⟩
    rcases elsewhere with none | different
    · rw [← same, none] at loading
      cases loading
    · exact different same
  exact if_neg other

/-! ## Answers and misses on an entry (R23, R24) -/

theorem setNode_setNode (i : NodeIdx) (m n : Node) : (s.setNode i m).setNode i n = s.setNode i n := by
  simp [State.setNode]

section
variable {i : NodeIdx}

theorem nodeAnswered_present (present : (s.node i).state ≠ .lost) :
    s.nodeAnswered i = s.setNode i { s.node i with misses := 0, lastAnswer := some s.mgmt.time, state := .online } :=
  if_neg present

theorem nodeAnswered_lost (lost : (s.node i).state = .lost) :
    s.nodeAnswered i = (s.setNode i { s.node i with misses := 0, lastAnswer := some s.mgmt.time, state := .online }).raise
      .nodeBack (s.node i).address.toNat (s.node i).misses :=
  if_pos lost

theorem nodeMissed_below (below : (s.node i).state = .lost ∨ min 15 ((s.node i).misses + 1) < (s.node i).missLimit) :
    s.nodeMissed i = s.setNode i { s.node i with misses := min 15 ((s.node i).misses + 1) } := by
  refine if_neg ?_
  rcases below with lost | below
  · simp [lost]
  · simp only [Bool.and_eq_true, decide_eq_true_eq, not_and]
    exact fun _ => Nat.not_le.mpr below

theorem nodeMissed_limit (state : (s.node i).state = .unknown ∨ (s.node i).state = .online)
    (reached : (s.node i).missLimit ≤ min 15 ((s.node i).misses + 1)) :
    s.nodeMissed i = ((s.setNode i { s.node i with misses := min 15 ((s.node i).misses + 1), state := .lost }).raise
      .nodeLost (s.node i).address.toNat (s.node i).missLimit).reportLost (s.node i) := by
  have lost : ((decide ((s.node i).state = .unknown) || decide ((s.node i).state = .online)) &&
      decide ((s.node i).missLimit ≤ min 15 ((s.node i).misses + 1))) = true := by
    simpa only [Bool.and_eq_true, Bool.or_eq_true, decide_eq_true_eq] using ⟨state, reached⟩
  simp only [State.nodeMissed, if_pos lost, setNode_setNode]

/-! ## The reports to the jobs (R25) -/

theorem reportAnswer_belt (belt : (s.node i).role = some .belt) : s.reportAnswer i = s.beltAnswered := by
  simp only [State.reportAnswer, belt]

theorem beltAnswered_waiting {p : Option Nat} (waiting : s.feed.changeover = .waiting p) :
    s.beltAnswered = s.completeChangeover := by
  simp [State.beltAnswered, waiting, Changeover.isWaiting]

theorem beltAnswered_other (notWaiting : ∀ p, s.feed.changeover ≠ .waiting p) : s.beltAnswered = s := by
  refine if_neg ?_
  cases phase : s.feed.changeover with
  | waiting p => exact absurd phase (notWaiting p)
  | steady | draining _ => simp [Changeover.isWaiting]

theorem reportAnswer_printer (printer : (s.node i).role = some .printer) :
    s.reportAnswer i = if s.tickets.process = .halted then s.printScan else s := by
  simp only [State.reportAnswer, printer]

theorem reportAnswer_other (notBelt : (s.node i).role ≠ some .belt) (notPrinter : (s.node i).role ≠ some .printer) :
    s.reportAnswer i = s := by
  unfold State.reportAnswer
  split
  next belt => exact absurd belt notBelt
  next printer => exact absurd printer notPrinter
  all_goals rfl

variable {n : Node}

theorem reportLost_probe {k : Kiln} (binding : n.binding = some k) (probe : n.role = some .probe) :
    s.reportLost n = s.holdKiln k .probe := by
  simp only [State.reportLost, probe, State.holdBound, binding]

theorem reportLost_burner {k : Kiln} (binding : n.binding = some k) (burner : n.role = some .burner) :
    s.reportLost n = s.holdKiln k .burner := by
  simp only [State.reportLost, burner, State.holdBound, binding]

theorem reportLost_printer (printer : n.role = some .printer) :
    s.reportLost n = if s.tickets.process = .idle then s.setProcess .halted else s := by
  simp only [State.reportLost, printer]

theorem reportLost_other (notProbe : n.role ≠ some .probe) (notBurner : n.role ≠ some .burner)
    (notPrinter : n.role ≠ some .printer) : s.reportLost n = s := by
  unfold State.reportLost
  split
  next probe => exact absurd probe notProbe
  next burner => exact absurd burner notBurner
  next printer => exact absurd printer notPrinter
  all_goals rfl

end
end

/-- Settles O29. -/
theorem nodeAnswersAndMisses : Obligations.NodeAnswersAndMisses := by
  unfold Obligations.NodeAnswersAndMisses
  refine ⟨accepts_poll, accepts_command, fun _ => rfl, fun _ => rfl, accepts_block, fun _ _ _ => ⟨rfl, rfl, rfl⟩,
    fun _ _ => reportConfirmed_loading, fun _ _ => reportConfirmed_elsewhere, fun s i => ⟨nodeAnswered_present,
      nodeAnswered_lost, nodeMissed_below, nodeMissed_limit, fun n => ⟨fun _ => reportLost_probe,
        fun _ => reportLost_burner, fun printer idle => ?lostIdle, fun printer busy => ?lostBusy, reportLost_other⟩,
      fun belt => ⟨fun p waiting => ?waiting, fun notWaiting => ?notWaiting⟩,
      fun printer => ⟨fun halted => ?halted, fun running => ?running⟩, reportAnswer_other⟩⟩
  case lostIdle => exact (reportLost_printer printer).trans (if_pos idle)
  case lostBusy => exact (reportLost_printer printer).trans (if_neg busy)
  case waiting => exact (reportAnswer_belt belt).trans (beltAnswered_waiting waiting)
  case notWaiting => exact (reportAnswer_belt belt).trans (beltAnswered_other notWaiting)
  case halted => exact (reportAnswer_printer printer).trans (if_pos halted)
  case running => exact (reportAnswer_printer printer).trans (if_neg running)

/-! ## The lookup (R50) -/

section
variable {s : State} {src code : Byte} {x : RouteIdx}

theorem hasKey_iff {r : Route} : r.hasKey src code = true ↔ r.used = true ∧ r.source = src ∧ r.code = code := by
  simp [Route.hasKey, and_assoc]

theorem findRoute_iff : s.findRoute src code = some x ↔
    ((s.route x).used = true ∧ (s.route x).source = src ∧ (s.route x).code = code) ∧
      ∀ y < x, ¬((s.route y).used = true ∧ (s.route y).source = src ∧ (s.route y).code = code) := by
  rw [State.findRoute, ← Fin.find?_eq_find?_finRange, Fin.find?_eq_some_iff, hasKey_iff]
  simp only [← Bool.not_eq_true, hasKey_iff]

theorem findRoute_none_iff : s.findRoute src code = none ↔
    ∀ y, ¬((s.route y).used = true ∧ (s.route y).source = src ∧ (s.route y).code = code) := by
  rw [State.findRoute, ← Fin.find?_eq_find?_finRange, Fin.find?_eq_none_iff]
  simp only [← Bool.not_eq_true, hasKey_iff]

/-- The exact entry of lowest index, and with none the any-source entry of lowest index. -/
theorem lookupRoute_iff : s.lookupRoute src code = some x ↔
    s.findRoute src code = some x ∨ (s.findRoute 0 code = some x ∧ s.findRoute src code = none) := by
  unfold State.lookupRoute
  cases s.findRoute src code <;> simp

/-! ## The action of a route (R51, R52) -/

section
variable {i : NodeIdx} {f : Frame} {r : Route}

theorem classify_default (none : s.lookupRoute f.src f.code = none) :
    s.classify i f = if s.mgmt.station.routeDefault = .forward then s.forward f else s := by
  simp only [State.classify, none]
  cases s.mgmt.station.routeDefault <;> rfl

section Found
variable (found : s.lookupRoute f.src f.code = some x)
include found

theorem classify_forward (forward : (s.route x).action = .forward) : s.classify i f = s.forward f := by
  simp only [State.classify, found, forward]

theorem classify_drop (drop : (s.route x).action = .drop) :
    s.classify i f = if (s.route x).copy then s.forward f else s := by
  simp only [State.classify, found, drop]
  rfl

theorem classify_job (notForward : (s.route x).action ≠ .forward) (notDrop : (s.route x).action ≠ .drop)
    (used : (s.route x).action ≠ .none) :
    s.classify i f = (s.jobAction (s.route x) x i f).copyIf (s.route x).copy f := by
  simp only [State.classify, found]
  cases action : (s.route x).action with
  | none => exact absurd action used
  | drop => exact absurd action notDrop
  | forward => exact absurd action notForward
  | green | kilnAir | kilnExhaust | baleEvent | moisture => rfl

end Found

theorem jobAction_eq : s.jobAction r x i f =
    if roleFits r.action (s.node i) ∧ r.lengthFits f then s.applyRoute r i f
    else s.raise .routeMismatch x.val f.src.toNat := by
  simp only [State.jobAction, Bool.and_eq_true]

theorem lengthFits_iff : r.lengthFits f = true ↔
    (r.action = .baleEvent ∧ (r.selector = .offScale ∨ r.selector = .unloadDone)) ∨
      r.offset + r.width ≤ f.payload.length := by
  simp [Route.lengthFits, Route.readsValue]

/-! ## The value of a reading (R51) -/

theorem beNat_append (bs : List Byte) (b : Byte) : beNat (bs ++ [b]) = beNat bs * 256 + b.toNat := by
  simp [beNat]

theorem beNat_lt (bs : List Byte) : beNat bs < 2 ^ (8 * bs.length) := by
  induction bs using List.reverseRecOn with
  | nil => simp [beNat]
  | append_singleton bs b ih =>
    have small := b.isLt
    have power : 2 ^ (8 * (bs ++ [b]).length) = 2 ^ (8 * bs.length) * 256 := by
      rw [List.length_append, List.length_singleton, Nat.mul_add, Nat.pow_add]
    rw [beNat_append, power]
    omega

theorem signedOf_bounds {w n : Nat} (positive : 1 ≤ w) (small : n < 2 ^ w) :
    -(2 ^ (w - 1) : Nat) ≤ signedOf w n ∧ signedOf w n < (2 ^ (w - 1) : Nat) := by
  have half : 2 ^ w = 2 ^ (w - 1) + 2 ^ (w - 1) := by rw [← Nat.two_mul, ← Nat.pow_succ', Nat.succ_eq_add_one, Nat.sub_add_cancel positive]
  have halfInt : (2 : Int) ^ w = ((2 ^ w : Nat) : Int) := by norm_cast
  unfold signedOf
  split <;> omega

/-- The bytes that a route reads are at most its width, so the reading fits its bits. -/
theorem reading_lt {width : Nat} (fits : r.width = width) :
    beNat ((f.payload.drop r.offset).take r.width) < 2 ^ (8 * width) :=
  (beNat_lt _).trans_le (Nat.pow_le_pow_right (by omega) (by rw [List.length_take]; omega))

theorem value_unsigned (narrow : r.width ≤ 4) (unsigned : r.signed = false) :
    (r.value f).toNat = beNat ((f.payload.drop r.offset).take r.width) := by
  have small := reading_lt (f := f) (r := r) rfl
  have bound : 2 ^ (8 * r.width) ≤ 2 ^ 32 := Nat.pow_le_pow_right (by omega) (by omega)
  rw [Route.value, unsigned]
  exact Nat.mod_eq_of_lt (by omega)

theorem value_signed (narrow : r.width ≤ 4) (positive : 1 ≤ r.width) (signed : r.signed = true) :
    (r.value f).toInt = signedOf (8 * r.width) (beNat ((f.payload.drop r.offset).take r.width)) := by
  obtain ⟨low, high⟩ := signedOf_bounds (by omega) (reading_lt (f := f) (r := r) rfl)
  have bound : 2 ^ (8 * r.width - 1) ≤ 2 ^ 31 := Nat.pow_le_pow_right (by omega) (by omega)
  rw [Route.value, signed, if_pos rfl, BitVec.toInt_ofInt]
  exact Int.bmod_eq_of_le (by omega) (by omega)

/-! ## The Forward Queue (R53) -/

theorem forward_silent (silent : s.link.live = false) : s.forward f = s := by simp [State.forward, silent]

theorem forward_joins (live : s.link.live = true) (room : s.classifier.forwardQueue.length < 16) :
    s.forward f = { s with classifier := { s.classifier with forwardQueue := s.classifier.forwardQueue ++ [f] } } := by
  have notFull : ¬ Config.forwardCapacity ≤ s.classifier.forwardQueue.length := Nat.not_le.mpr room
  simp only [State.forward, if_pos live, if_neg notFull]

theorem forward_full {g : Frame} {rest : List Frame} (live : s.link.live = true)
    (queue : s.classifier.forwardQueue = g :: rest) (full : 16 ≤ s.classifier.forwardQueue.length) :
    s.forward f = { s with classifier := { s.classifier with forwardQueue := rest ++ [f] } } := by
  have isFull : Config.forwardCapacity ≤ (g :: rest).length := queue ▸ full
  simp only [State.forward, if_pos live, queue, if_pos isFull, List.tail_cons]

end
end

/-- Settles O30. -/
theorem routeLookupAndActions : Obligations.RouteLookupAndActions := by
  unfold Obligations.RouteLookupAndActions
  refine ⟨fun s src code x => ?lookup, fun _ _ _ => classify_default, fun s i f x found => ⟨classify_forward found,
      classify_drop found, fun notForward notDrop used t tIs => ?job⟩,
    fun n => ?roles, fun r f => lengthFits_iff, fun r f narrow => ⟨fun unsigned => ?unsigned, fun signed positive _ => ?signed⟩,
    fun s r i f => ?apply, fun s f => ⟨forward_silent, forward_joins, fun _ _ => forward_full⟩⟩
  case lookup =>
    rw [lookupRoute_iff, findRoute_iff, findRoute_iff, findRoute_none_iff]
    tauto
  case job =>
    rw [classify_job found notForward notDrop used, jobAction_eq, ← tIs]
    rfl
  case roles => simp [roleFits, Option.isSome_iff_ne_none]
  case unsigned =>
    have value := value_unsigned (f := f) narrow unsigned
    refine ⟨value, ?_⟩
    rw [Route.number, unsigned, ← value]
    rfl
  case signed => exact ⟨if_pos signed, value_signed narrow positive signed⟩
  case apply =>
    refine ⟨fun green => ?_, fun k binding => ⟨fun air => ?_, fun exhaust => ?_⟩,
      fun event => ⟨fun on => ?_, fun off => ?_, fun unload => ?_⟩, fun moisture => ?_⟩
    all_goals simp only [State.applyRoute, *]

end Sys2Proof.Proofs.NodesAndRoutes
end

section
/-! PROOF. The Feed and Loading Unit: the changeover and the divert watch, the fill close, kiln selection with the end of an event,
and belt crediting (R58 to R60, R62 to R68, R70 to R75). -/

namespace Sys2Proof.Proofs.Feeding

open Sys2Proof Sys2Proof.Machine

section
variable {s : State}

/-! ## The changeover timer and the divert watch (R60, R62) -/

theorem changeoverExpiry_other (notDraining : ∀ p, s.feed.changeover ≠ .draining p) : s.changeoverExpiry = s := by
  unfold State.changeoverExpiry
  split
  next p draining => exact absurd draining (notDraining p)
  all_goals rfl

section Draining
variable {p : Option Nat} (draining : s.feed.changeover = .draining p)
include draining

theorem changeoverExpiry_completes (belt : s.feed.beltLot = none ∨ s.isOnline (s.roleNode .belt) = true) :
    s.changeoverExpiry = State.completeChangeover { s with feed := { s.feed with timer := 0 } } := by
  have here : (decide (s.feed.beltLot = none) || s.isOnline (s.roleNode .belt)) = true := by simpa using belt
  unfold State.changeoverExpiry
  split
  next q phase => exact if_pos here
  next phase => cases draining.symm.trans phase
  next phase => cases draining.symm.trans phase

theorem changeoverExpiry_waits (lot : s.feed.beltLot ≠ none) (offline : s.isOnline (s.roleNode .belt) = false) :
    s.changeoverExpiry = { s with feed := { s.feed with timer := 0, changeover := .waiting p } } := by
  have away : ¬ (decide (s.feed.beltLot = none) || s.isOnline (s.roleNode .belt)) = true := by simp [lot, offline]
  simp only [State.changeoverExpiry, draining, if_neg away]
  rfl

end Draining

theorem divertWatchExpiry_expires {n : Nat} (watch : s.feed.divertWatch = some n) (divert : s.feed.hold.divert = true) :
    s.divertWatchExpiry = State.raise { s with feed := { s.feed with divertWatch := none } }
      .feedHeld (s.feed.beltLot.getD 0) 3 := by
  have expires : (s.feed.divertWatch.isSome && s.feed.hold.divert) = true := by simp [watch, divert]
  exact if_pos expires

theorem divertWatchExpiry_other (other : s.feed.divertWatch = none ∨ s.feed.hold.divert = false) : s.divertWatchExpiry = s := by
  have stays : ¬ (s.feed.divertWatch.isSome && s.feed.hold.divert) = true := by
    rcases other with none | clear
    · simp [none]
    · simp [clear]
  exact if_neg stays

/-- An event that leaves the reason set and the picker command as they were. -/
theorem exec_feedEvent_quiet {c : Instr} {f : State → State} {t : State} (run : exec c s = whileActive (feedEvent f) s)
    (active : s.active = true) (follows : s.feed.picker = s.pickerWanted) (effect : f s = t)
    (hold : t.feed.hold = s.feed.hold) (picker : t.feed.picker = s.feed.picker) :
    ∃ ch, exec c s = .next (State.choosing ch t) := by
  refine exec_eq_effect run active ?_
  rw [feedEvent_quiet (by rw [effect, hold]) (by rw [effect, picker]) follows, effect]

/-! ## The completion of a changeover (R63) -/

theorem finishOldLot_finishes {b : Nat} (belt : s.feed.beltLot = some b) (notFed : s.feed.feedLot ≠ some b)
    (notPending : s.feed.changeover.pending ≠ some b) :
    s.finishOldLot = s.updLot b (fun l => { l with state := .finished }) := by
  have old : ¬ (decide (s.feed.feedLot = some b) || decide (s.feed.changeover.pending = some b)) = true := by
    simp [notFed, notPending]
  simp only [State.finishOldLot, belt, if_neg old]

theorem finishOldLot_keeps (kept : s.feed.beltLot = none ∨ s.feed.beltLot = s.feed.feedLot ∨
    s.feed.beltLot = s.feed.changeover.pending) : s.finishOldLot = s := by
  cases belt : s.feed.beltLot with
  | none => simp only [State.finishOldLot, belt]
  | some b =>
    have current : (decide (s.feed.feedLot = some b) || decide (s.feed.changeover.pending = some b)) = true := by
      rw [belt] at kept
      rcases kept with none | fed | pending
      · cases none
      · simp [← fed]
      · simp [← pending]
    simp only [State.finishOldLot, belt, if_pos current]

theorem finishOldLot_changeover : s.finishOldLot.feed = s.feed := by
  unfold State.finishOldLot
  split
  · rfl
  · split <;> rfl

theorem pending_of_changing {p : Option Nat} (changing : s.feed.changeover = .draining p ∨ s.feed.changeover = .waiting p) :
    s.feed.changeover.pending = p := by
  rcases changing with phase | phase <;> rw [phase] <;> rfl

theorem completeChangeover_eq {t : State} {p : Option Nat}
    (changing : s.feed.changeover = .draining p ∨ s.feed.changeover = .waiting p)
    (noFill : s.feed.loading = none → t = s) (fill : ∀ k, s.feed.loading = some k → t = s.closeFill k) :
    s.completeChangeover = State.attemptSelection
      { t.finishOldLot with feed := { t.finishOldLot.feed with
        beltLot := p, changeover := .steady
        hold := { t.finishOldLot.feed.hold with changeover := false, noKiln := false, chargeLimit := false } } } := by
  have pending : t.finishOldLot.feed.changeover.pending = p := by
    rw [finishOldLot_changeover, ← pending_of_changing changing]
    cases loading : s.feed.loading with
    | none => rw [noFill loading]
    | some k => rw [fill k loading]; simp
  unfold State.completeChangeover
  rw [← pending]
  cases loading : s.feed.loading with
  | none => rw [noFill loading]; rfl
  | some k => rw [fill k loading]; rfl

end

/-- Settles O32. -/
theorem changeoverAndDivertWatch : Obligations.ChangeoverAndDivertWatch := by
  unfold Obligations.ChangeoverAndDivertWatch
  refine ⟨fun s active follows => ⟨fun notDraining => ?other, fun p draining belt => ?completes,
    fun p draining lot offline => ?waits, fun n watch divert => ?watch, fun other => ?noWatch⟩,
    fun s t u p changing fill finish => ?completion⟩
  case other => exact exec_feedEvent_quiet rfl active follows (changeoverExpiry_other notDraining) rfl rfl
  case completes =>
    exact exec_eq_effect (f := feedEvent State.changeoverExpiry) rfl active
      (feedEvent_congr (changeoverExpiry_completes draining belt))
  case waits => exact exec_feedEvent_quiet rfl active follows (changeoverExpiry_waits draining lot offline) rfl rfl
  case watch => exact exec_feedEvent_quiet rfl active follows (divertWatchExpiry_expires watch divert) (by simp) (by simp)
  case noWatch => exact exec_feedEvent_quiet rfl active follows (divertWatchExpiry_other other) rfl rfl
  case completion =>
    obtain ⟨noFill, filling⟩ := fill
    obtain ⟨finishes, keeps⟩ := finish
    have feed : t.feed.beltLot = s.feed.beltLot ∧ t.feed.feedLot = s.feed.feedLot ∧ t.feed.changeover = s.feed.changeover := by
      cases loading : s.feed.loading with
      | none => rw [noFill loading]; exact ⟨rfl, rfl, rfl⟩
      | some k => rw [filling k loading]; simp
    obtain ⟨belt, fed, phase⟩ := feed
    have pending : t.feed.changeover.pending = p := phase ▸ pending_of_changing changing
    have finished : t.finishOldLot = u := by
      by_cases kept : s.feed.beltLot = none ∨ s.feed.beltLot = s.feed.feedLot ∨ s.feed.beltLot = p
      · rw [keeps kept]
        exact finishOldLot_keeps (by rw [belt, fed, pending]; exact kept)
      · rw [not_or, not_or] at kept
        obtain ⟨some, notFed, notPending⟩ := kept
        obtain ⟨b, lot⟩ := Option.ne_none_iff_exists'.mp some
        rw [lot] at notFed notPending
        rw [finishes b lot (Ne.symm notFed) (Ne.symm notPending)]
        exact finishOldLot_finishes (belt.trans lot) (by rw [fed]; exact (Ne.symm notFed)) (by rw [pending]; exact (Ne.symm notPending))
    rw [completeChangeover_eq changing noFill filling, finished]

/-! ## The fill close (R74, R75) -/

section
variable {s : State} {k : Kiln} {r : ChargeRef} {c : Charge}

theorem closeCharge_eq (charged : (s.kiln k).charge = some r) (charge : s.charge? r = some c) {short : Bool}
    (isShort : short = decide (c.green * 100 < (s.kilnEntry k).minLoad * (s.kilnEntry k).capacity)) {t : State}
    (closed : t = s.updCharge r (fun x => { x with
      state := .kilning, fillEnd := some s.mgmt.time, short := x.short || short })) :
    s.closeCharge k = if short then t.raise .shortCharge k.val c.green else t := by
  have held : (s.kiln k).charge.bind s.charge? = some c := by rw [charged, Option.bind_some, charge]
  subst isShort closed
  simp only [State.closeCharge, held, KilnResumes.updKilnCharge_eq charged]
  rfl

theorem performLoadClose_none (none : s.feed.loading = none) : performLoadClose s = refuse s .state := by
  simp only [performLoadClose, none]

theorem performLoadClose_accept (loading : s.feed.loading = some k) (charged : (s.kiln k).charge = some r) {t : State}
    (effect : t = feedEvent (fun t => (t.closeFill k).attemptSelection) s) :
    performLoadClose s = accept t (byte k.val :: be16 r.lot ++ [byte r.index] ++
      be32 (((t.charge? r).map (fun c => c.green)).getD 0) ++
      [flagByte (((t.charge? r).map (fun c => c.short)).getD false)]) := by
  subst effect
  simp only [performLoadClose, loading, charged]
  rfl

end

/-- Settles O34. -/
theorem fillClose : Obligations.FillClose := by
  unfold Obligations.FillClose
  refine ⟨fun s tag ready => ⟨fun none => ?none, fun k r loading charged => ?loadClose⟩,
    fun s k r c charged charge short isShort t u v closed raised loaded w parked => ?close⟩
  case none => exact exec_eq_replied (r := .loadClose) rfl ready (performLoadClose_none none)
  case loadClose =>
    exact exec_eq_performed (r := .loadClose) rfl ready (f := feedEvent (fun t => (t.closeFill k).attemptSelection))
      (performLoadClose_accept (s := s.admitted tag .loadClose) loading charged rfl)
  case close =>
    have here : s.closeCharge k = u := (closeCharge_eq charged charge isShort closed).trans raised.symm
    unfold State.closeFill
    rw [here, parked, loaded]
    rfl

/-! ## Kiln selection (R70 to R72) -/

section
variable {s : State} {b : Nat} {k : Kiln} {l : Lot}

theorem attemptSelection_none
    (nothing : s.feed.beltLot = none ∨ s.feed.loading ≠ none ∨ ∃ p, s.feed.changeover = .waiting p) :
    s.attemptSelection = s := by
  unfold State.attemptSelection
  split
  next b belt idle =>
    refine if_pos ?_
    rcases nothing with none | loading | ⟨p, waiting⟩
    · rw [none] at belt
      cases belt
    · exact absurd idle loading
    · rw [waiting]
      rfl
  next => rfl

section Attempt
variable (belt : s.feed.beltLot = some b) (idle : s.feed.loading = none)
  (notWaiting : ∀ p, s.feed.changeover ≠ .waiting p)
include belt idle notWaiting

theorem attemptSelection_selects : s.attemptSelection = s.selectKiln b := by
  have phase : ¬ s.feed.changeover.isWaiting = true := by
    cases phase : s.feed.changeover with
    | waiting p => exact absurd phase (notWaiting p)
    | steady | draining _ => simp [Changeover.isWaiting]
  simp only [State.attemptSelection, belt, idle, if_neg phase]

end Attempt

theorem kilnFound_none (spent : ∀ k ∈ s.feed.fillOrder, ¬((s.kiln k).state = .empty ∧ 0 < (s.kilnEntry k).capacity)) :
    s.kilnFound = none := by
  rw [State.kilnFound, List.find?_eq_none]
  simpa using spent

theorem kilnFound_first {pre post : List Kiln} (order : s.feed.fillOrder = pre ++ k :: post)
    (empty : (s.kiln k).state = .empty) (capacity : 0 < (s.kilnEntry k).capacity)
    (first : ∀ j ∈ pre, ¬((s.kiln j).state = .empty ∧ 0 < (s.kilnEntry j).capacity)) : s.kilnFound = some k := by
  rw [State.kilnFound, order, List.find?_append, List.find?_eq_none.mpr (by simpa using first), Option.none_or,
    List.find?_cons_of_pos (by simp [empty, capacity])]

theorem selectKiln_none (none : s.kilnFound = none) :
    s.selectKiln b = { s with feed := { s.feed with hold := { s.feed.hold with noKiln := true } } } := by
  simp only [State.selectKiln, none]
  rfl

section Found
variable (found : s.kilnFound = some k) (lot : s.lot? b = some l)
include found lot

theorem selectKiln_limit (full : 6 ≤ l.charges.length) {t : State}
    (tIs : t = if s.feed.hold.chargeLimit then s else s.raise .chargeLimit b k.val) :
    s.selectKiln b = { t with feed := { t.feed with
      hold := { t.feed.hold with noKiln := false, chargeLimit := true } } } := by
  have limit : ¬ ((s.lot? b).map (fun l => l.charges.length)).getD 0 < Config.chargeCapacity := by
    rw [lot]
    exact Nat.not_lt.mpr full
  subst tIs
  simp only [State.selectKiln, found, if_neg limit]
  rfl

theorem selectKiln_takes (room : l.charges.length < 6) :
    s.selectKiln b = (s.updHold (fun h => { h with noKiln := false })).takeKiln b k := by
  have below : ((s.lot? b).map (fun l => l.charges.length)).getD 0 < Config.chargeCapacity := by
    rw [lot]
    exact room
  simp only [State.selectKiln, found, if_pos below]

end Found

/-- The lot, the kiln and the feed as the taking of a kiln leaves them, before the diverter is commanded. -/
def taken (s : State) (b : Nat) (k : Kiln) (index : Nat) : State :=
  { s.updLot b (fun m => { m with charges := m.charges ++ [newCharge k s.mgmt.time] }) with
    kilns := (s.updKiln k (fun r => { r with state := .loading, charge := some { lot := b, index } })).kilns
    feed := { s.feed with loading := some k, divertConfirmed := false, hold := { s.feed.hold with noKiln := false } } }

theorem takeKiln_eq (lot : s.lot? b = some l) {u : State}
    (uIs : u = (taken s b k l.charges.length).writeCommanded ((taken s b k l.charges.length).roleNode .diverter)
      (.divert (some k))) :
    (s.updHold (fun h => { h with noKiln := false })).takeKiln b k =
      (u.updHold (fun h => { h with divert := true })).startDivertWatch := by
  have index : (((s.updHold (fun h => { h with noKiln := false })).lot? b).map (fun l => l.charges.length)).getD 0
      = l.charges.length := by
    rw [show (s.updHold (fun h => { h with noKiln := false })).lot? b = some l from lot]
    rfl
  subst uIs
  rw [State.takeKiln, index]
  rfl

section Watch
variable {u : State} {t : State} {c : Commanded} (uIs : u = t.writeCommanded (t.roleNode .diverter) c)
include uIs

theorem startDivertWatch_polled {i : NodeIdx} {d : CadenceId} (diverter : t.roleNode .diverter = some i)
    (cadence : (t.node i).cadence = some d) :
    (u.updHold (fun h => { h with divert := true })).startDivertWatch = { u with feed := { u.feed with
      hold := { u.feed.hold with divert := true }, divertWatch := some t.field.cadences[d].period } } := by
  have polled : ((u.updHold (fun h => { h with divert := true })).roleNode .diverter).bind
      (fun i => ((u.updHold (fun h => { h with divert := true })).node i).cadence) = some d := by
    rw [show (u.updHold (fun h => { h with divert := true })).roleNode .diverter = some i by
      rw [← diverter, uIs]; exact roleNode_writeCommanded t _ c .diverter]
    rw [Option.bind_some, ← cadence, uIs]
    exact cadence_writeCommanded t _ c i
  have cadences : u.field.cadences = t.field.cadences := by rw [uIs]; simp
  rw [← cadences]
  simp only [State.startDivertWatch, polled]
  rfl

theorem startDivertWatch_unpolled
    (unpolled : t.roleNode .diverter = none ∨ ∃ i, t.roleNode .diverter = some i ∧ (t.node i).cadence = none)
    (belt : t.feed.beltLot = some b) :
    (u.updHold (fun h => { h with divert := true })).startDivertWatch = State.raise { u with feed := { u.feed with
      hold := { u.feed.hold with divert := true }, divertWatch := none } } .feedHeld b 3 := by
  have none : ((u.updHold (fun h => { h with divert := true })).roleNode .diverter).bind
      (fun i => ((u.updHold (fun h => { h with divert := true })).node i).cadence) = none := by
    rw [show (u.updHold (fun h => { h with divert := true })).roleNode .diverter = t.roleNode .diverter by
      rw [uIs]; exact roleNode_writeCommanded t _ c .diverter]
    rcases unpolled with absent | ⟨i, diverter, cadence⟩
    · rw [absent]
      rfl
    · rw [diverter, Option.bind_some, ← cadence, uIs]
      exact cadence_writeCommanded t _ c i
  have lot : u.feed.beltLot = some b := by rw [uIs, ← belt]; simp
  simp only [State.startDivertWatch, none, State.raiseFeedHeld]
  rw [show ((u.updHold (fun h => { h with divert := true })).updFeed (fun u => { u with divertWatch := Option.none })).feed.beltLot
    = some b from lot]
  rfl

end Watch

/-! ## The end of an event of the unit (R58, R59) -/

theorem hold_isEmpty_iff (h : FeedHold) : h.isEmpty = true ↔ h = { stopped := false } := by
  cases h
  simp [FeedHold.isEmpty, and_assoc]

theorem feedEvent_steady {f : State → State} {u : State} {want : RunHold} (judged : (f s).judgeHeld s.feed.hold = u)
    (wanted : u.pickerWanted = want) (follows : u.feed.picker = want) : feedEvent f s = u := by
  rw [feedEvent, judged]
  exact if_pos (follows.trans wanted.symm)

theorem feedEvent_moves {f : State → State} {u : State} {want : RunHold} (judged : (f s).judgeHeld s.feed.hold = u)
    (wanted : u.pickerWanted = want) (moves : u.feed.picker ≠ want) : feedEvent f s =
      State.writeCommanded { u with feed := { u.feed with picker := want } } (u.roleNode .picker) (.feed want) := by
  subst wanted
  rw [feedEvent, judged]
  exact if_neg moves

theorem judgeHeld_feed (before : FeedHold) : (s.judgeHeld before).feed = s.feed := by
  unfold State.judgeHeld
  split <;> split <;> simp [State.raiseFeedHeld]

end

/-- Settles O35. -/
theorem kilnSelectionAndPicker : Obligations.KilnSelectionAndPicker := by
  unfold Obligations.KilnSelectionAndPicker
  refine ⟨fun s => attemptSelection_none, fun s b belt idle notWaiting => ⟨fun none => ?none,
    fun pre post k order empty capacity first l lot => ⟨fun full t tIs => ?limit, fun room t u tIs uIs => ?takes⟩⟩,
    fun f s t u tIs uIs want wantIs => ?picker⟩
  case none => exact (attemptSelection_selects belt idle notWaiting).trans (selectKiln_none (kilnFound_none none))
  case limit =>
    exact (attemptSelection_selects belt idle notWaiting).trans
      (selectKiln_limit (kilnFound_first order empty capacity first) lot full tIs)
  case takes =>
    have takes : s.attemptSelection = (u.updHold (fun h => { h with divert := true })).startDivertWatch :=
      (attemptSelection_selects belt idle notWaiting).trans
        ((selectKiln_takes (kilnFound_first order empty capacity first) lot room).trans (takeKiln_eq lot (by rw [uIs, tIs]; rfl)))
    refine ⟨fun i c diverter cadence => ?_, fun unpolled => ?_⟩
    · rw [takes, startDivertWatch_polled uIs (i := i) (d := c) (by rw [tIs]; exact diverter) (by rw [tIs]; exact cadence), tIs]
      rfl
    · rw [takes, startDivertWatch_unpolled uIs (by rw [tIs]; exact unpolled) (by rw [tIs]; exact belt)]
  case picker =>
    have judged : (f s).judgeHeld s.feed.hold = u := by
      rw [uIs, tIs]
      simp only [State.judgeHeld, Bool.and_eq_true, Bool.not_eq_true']
      split_ifs <;> simp [State.raiseFeedHeld, reasonNoKiln, reasonChargeLimit]
    have feed : u.feed = t.feed := by rw [← judged, judgeHeld_feed, tIs]
    have wanted : u.pickerWanted = want := by
      rw [wantIs, State.pickerWanted, feed]
      simp only [hold_isEmpty_iff]
    rw [← feed]
    exact ⟨feedEvent_steady judged wanted, feedEvent_moves judged wanted⟩

end Sys2Proof.Proofs.Feeding
end

section
/-! PROOF. Belt crediting (R6, R65 to R68). -/

namespace Sys2Proof.Proofs.Crediting

open Sys2Proof Sys2Proof.Machine

section
variable {s : State} {i : NodeIdx} {value inc : Word32}

/-! ## A GREEN reading (R65, R66) -/

/-- The entry after a GREEN reading: the last totalizer takes every value. -/
def totalized (s : State) (i : NodeIdx) (value : Word32) : State :=
  s.setNode i { s.node i with lastTotalizer := value, baseline := true }

theorem green_first (noBaseline : (s.node i).baseline = false) : s.green i value = totalized s i value :=
  if_neg (Bool.eq_false_iff.mp noBaseline)

theorem isJump_iff {n : Nat} : s.isJump n = true ↔ s.mgmt.station.maxIncrement < n ∨
    ∃ b l, s.feed.beltLot = some b ∧ s.lot? b = some l ∧ 2147483646 < l.greenTotal + n := by
  have above : s.beltGreen.any (fun g => Config.maxWeight < g + n) = true ↔
      ∃ b l, s.feed.beltLot = some b ∧ s.lot? b = some l ∧ 2147483646 < l.greenTotal + n := by
    rw [maxWeight_eq, State.beltGreen]
    cases s.feed.beltLot with
    | none => simp
    | some b => cases lot : s.lot? b <;> simp [lot]
  rw [State.isJump, Bool.or_eq_true, decide_eq_true_eq, above]

section Baseline
variable (increment : inc = value - (s.node i).lastTotalizer) (baseline : (s.node i).baseline = true)
include increment baseline

/-- A reading after the first, by its increment. -/
theorem green_increment : s.green i value = if inc = 0 then totalized s i value
    else if s.isJump inc.toNat then (totalized s i value).raiseOpt .beltJump (s.node i).address.toNat (some inc)
    else (totalized s i value).credit inc.toNat := by
  subst increment
  exact if_pos baseline

theorem green_jump (nonzero : inc ≠ 0) (jump : s.mgmt.station.maxIncrement < inc.toNat ∨
      ∃ b l, s.feed.beltLot = some b ∧ s.lot? b = some l ∧ 2147483646 < l.greenTotal + inc.toNat) :
    s.green i value = (totalized s i value).raiseOpt .beltJump (s.node i).address.toNat (some inc) := by
  rw [green_increment increment baseline, if_neg nonzero, if_pos (isJump_iff.mpr jump)]

theorem green_credits (nonzero : inc ≠ 0) (below : inc.toNat ≤ s.mgmt.station.maxIncrement)
    (room : ∀ b l, s.feed.beltLot = some b → s.lot? b = some l → l.greenTotal + inc.toNat ≤ 2147483646) :
    s.green i value = (totalized s i value).credit inc.toNat := by
  have noJump : ¬ s.isJump inc.toNat = true := by
    rw [isJump_iff]
    rintro (above | ⟨b, l, belt, lot, above⟩)
    · exact absurd below (Nat.not_le.mpr above)
    · exact absurd (room b l belt lot) (Nat.not_le.mpr above)
  rw [green_increment increment baseline, if_neg nonzero, if_neg noJump]

end Baseline

/-! ## The destination of an increment (R67, R68) -/

section
variable {n b : Nat} {k : Kiln} {r : ChargeRef} {c : Charge} {l : Lot}

theorem credit_unassigned (noLot : s.feed.beltLot = none) :
    s.credit n = { s with feed := { s.feed with unassigned := min 2147483646 (s.feed.unassigned + n) } } := by
  unfold State.credit
  split
  next => rfl
  next b belt => cases belt.symm.trans noLot

theorem credit_spill (belt : s.feed.beltLot = some b) (lot : s.lot? b = some l)
    (nowhere : s.feed.loading = none ∨ s.feed.divertConfirmed = false) :
    s.credit n = (s.updLot b (fun l => { l with greenTotal := l.greenTotal + n, spill := l.spill + n })).raise
      .spill b (l.spill + n : Nat) := by
  have spill : (((s.updLot b (fun l => { l with greenTotal := l.greenTotal + n, spill := l.spill + n })).lot? b).map
      (fun l => (l.spill : Int))).getD 0 = ((l.spill + n : Nat) : Int) := by
    rw [lot_updLot (hf := by intro l; rfl), lot]
    simp
  rw [← spill, State.credit, belt]
  rcases nowhere with none | unconfirmed
  · simp only [none]
  · simp only [unconfirmed]
    cases s.feed.loading <;> rfl

theorem charge?_updLot {f : Lot → Lot} (number : ∀ l, (f l).number = l.number) (charges : ∀ l, (f l).charges = l.charges) :
    (s.updLot b f).charge? r = s.charge? r := by
  rw [State.charge?, lot_updLot (hf := number), State.charge?]
  cases s.lot? r.lot with
  | none => rfl
  | some l => by_cases here : r.lot = b <;> simp [here, charges]

/-- The lot and the charge in the loading kiln, credited with an increment. -/
def credited (s : State) (b n : Nat) (r : ChargeRef) : State :=
  (s.updLot b (fun l => { l with greenTotal := l.greenTotal + n })).updCharge r (fun c => { c with green := c.green + n })

theorem credit_fill (belt : s.feed.beltLot = some b) (loading : s.feed.loading = some k)
    (confirmed : s.feed.divertConfirmed = true) (charged : (s.kiln k).charge = some r) (charge : s.charge? r = some c) :
    s.credit n = if (s.kilnEntry k).capacity ≤ c.green + n then ((credited s b n r).closeFill k).attemptSelection
      else credited s b n r := by
  have destination : (s.updLot b (fun l => { l with greenTotal := l.greenTotal + n })).updKilnCharge k
      (fun c => { c with green := c.green + n }) = credited s b n r := 
    KilnResumes.updKilnCharge_eq (s := s.updLot b (fun l => { l with greenTotal := l.greenTotal + n })) charged _
  have held : ((credited s b n r).kiln k).charge.bind (credited s b n r).charge? = some { c with green := c.green + n } := by
    rw [show ((credited s b n r).kiln k).charge = some r from charged, Option.bind_some, credited, charge_updCharge,
      charge?_updLot (by intro l; rfl) (by intro l; rfl), charge, Option.map_some]
  simp only [State.credit, belt, loading, confirmed, destination, held]
  rfl

end
end

/-- Settles O36. -/
theorem beltCrediting : Obligations.BeltCrediting := by
  unfold Obligations.BeltCrediting
  refine ⟨?_, fun s n => ⟨credit_unassigned, fun b l belt lot nowhere => credit_spill belt lot nowhere, ?_⟩⟩
  · rintro s i value _ rfl
    exact ⟨green_first, fun inc increment baseline =>
      ⟨fun zero => (green_increment increment baseline).trans (if_pos zero), green_jump increment baseline,
        green_credits increment baseline⟩⟩
  · rintro b k r c belt loading confirmed charged - charge _ rfl
    have fill := credit_fill (n := n) belt loading confirmed charged charge
    exact ⟨fun below => fill.trans (if_neg (Nat.not_le.mpr below)), fun reached => fill.trans (if_pos reached)⟩

end Sys2Proof.Proofs.Crediting
end

section
/-! PROOF. The kilns' burner command and steps: the command called for and its refresh, the entry to a step, the going DRIED, and
the ends of the steps (R86 to R92, R103). -/

namespace Sys2Proof.Proofs.KilnSteps

open Sys2Proof Sys2Proof.Machine

section
variable {s : State} {k : Kiln}

/-! ## The burner command (R86, R87) -/

theorem presentBurner_off (off : (s.kiln k).state = .empty ∨ (s.kiln k).state = .loading ∨ (s.kiln k).state = .loaded ∨
    (s.kiln k).state = .dried ∨ (s.kiln k).state = .unloading) :
    s.presentBurner k = { setpoint := 0, fan := 0, enabled := false } := by
  rcases off with state | state | state | state | state <;> simp only [State.presentBurner, state]

theorem presentBurner_drying (drying : (s.kiln k).state = .drying) :
    s.presentBurner k = { setpoint := (s.kiln k).setpoint, fan := (s.currentStep k).fan, enabled := true } := by
  simp only [State.presentBurner, drying]

theorem presentBurner_hold (hold : (s.kiln k).state = .hold) :
    s.presentBurner k = { setpoint := 0, fan := (s.kilnEntry k).holdFan, enabled := false } := by
  simp only [State.presentBurner, hold]

theorem presentBurner_cooling (cooling : (s.kiln k).state = .cooling) (running : (s.kiln k).aborted = false) :
    s.presentBurner k = { setpoint := 0, fan := (s.currentStep k).fan, enabled := false } := by
  simp [State.presentBurner, cooling, running]

theorem presentBurner_aborted {d : Fin 8} (cooling : (s.kiln k).state = .cooling) (aborted : (s.kiln k).aborted = true)
    (schedule : (s.kiln k).schedule = some d) :
    s.presentBurner k = { setpoint := 0, fan := s.kilns.schedules[d].abortCoolFan, enabled := false } := by
  simp [State.presentBurner, cooling, aborted, schedule]

/-- The command called for does not turn on the refresh timer. -/
theorem presentBurner_refresh (timer : KilnRun → Option Nat) :
    (s.updKiln k (fun r => { r with refresh := timer r })).presentBurner k = s.presentBurner k := by
  have record := kiln_updKiln_self s k (fun r => { r with refresh := timer r })
  unfold State.presentBurner State.currentStep
  rw [record]
  rfl

theorem writeBurner_eq {t : State} (tIs : t = s.updKiln k (fun r => { r with
      refresh := if r.state = .drying ∨ r.state = .hold ∨ r.state = .cooling
        then some (10 * (s.kilnEntry k).refresh) else none })) :
    s.writeBurner k = t.writeCommanded (s.boundNode .burner k) (.setpoint (s.presentBurner k)) := by
  have timer : s.updKiln k (fun r => { r with
      refresh := if r.state.refreshes then some (10 * (s.kilnEntry k).refresh) else none }) = t := by
    rw [tIs]
    refine updKiln_congr _ _ _ _ ?_
    cases state : (s.kiln k).state <;> simp [KilnState.refreshes]
  have command : t.presentBurner k = s.presentBurner k := by rw [← timer, presentBurner_refresh]
  have bound : t.boundNode .burner k = s.boundNode .burner k := by rw [tIs]; rfl
  simp only [State.writeBurner, timer, command, bound]

theorem refreshExpiry_running {n : Nat} (running : (s.kiln k).refresh = some n) : s.refreshExpiry k = s.writeBurner k := by
  simp [State.refreshExpiry, running]

theorem refreshExpiry_stopped (stopped : (s.kiln k).refresh = none) : s.refreshExpiry k = s := by
  simp [State.refreshExpiry, stopped]

/-! ## The entry to a step, and the going DRIED (R88, R90) -/

/-- The kiln's record at the entry to a step. -/
def entered (s : State) (k : Kiln) (state : KilnState) (setpoint : Int) : State :=
  s.updKiln k (fun r => { r with
    stepElapsed := 0, stepFraction := 0, rampMinute := 0, overLimit := 0, dryQualify := 0
    entrySetpoint := r.setpoint, state := state, setpoint := setpoint })

theorem enterStep_ramp (ramp : (s.currentStep k).kind = .ramp) :
    s.enterStep k = (entered s k .drying (s.kiln k).setpoint).writeBurner k := by
  have record : (s.updKiln k KilnRun.beginStep).updKiln k (fun r => { r with state := .drying })
      = entered s k .drying (s.kiln k).setpoint := by
    rw [updKiln_updKiln]
    exact updKiln_congr _ _ _ _ rfl
  simp only [State.enterStep, ramp, record]

theorem enterStep_target (target : (s.currentStep k).kind = .soak ∨ (s.currentStep k).kind = .dryTo) :
    s.enterStep k = (entered s k .drying (s.currentStep k).target).writeBurner k := by
  have record : (s.updKiln k KilnRun.beginStep).updKiln k
      (fun r => { r with state := .drying, setpoint := (s.currentStep k).target })
      = entered s k .drying (s.currentStep k).target := by
    rw [updKiln_updKiln]
    rfl
  rcases target with kind | kind <;> simp only [State.enterStep, kind, record]

theorem enterStep_cool (cool : (s.currentStep k).kind = .cool) :
    s.enterStep k = (entered s k .cooling (s.kiln k).setpoint).writeBurner k := by
  have record : (s.updKiln k KilnRun.beginStep).updKiln k (fun r => { r with state := .cooling })
      = entered s k .cooling (s.kiln k).setpoint := by
    rw [updKiln_updKiln]
    exact updKiln_congr _ _ _ _ rfl
  simp only [State.enterStep, cool, record]

theorem enterStep_fin (fin : (s.currentStep k).kind = .fin) :
    s.enterStep k = (entered s k (s.kiln k).state (s.kiln k).setpoint).kilnDried k := by
  have record : s.updKiln k KilnRun.beginStep = entered s k (s.kiln k).state (s.kiln k).setpoint :=
    updKiln_congr _ _ _ _ rfl
  simp only [State.enterStep, fin, record]

theorem kilnDried_eq {r : ChargeRef} (charged : (s.kiln k).charge = some r) :
    s.kilnDried k = ((((s.updKiln k (fun x => { x with state := .dried, overLimit := 0, dryQualify := 0, hold := {} })).updCharge
      r (fun c => { c with state := .awaitPress, dried := some s.mgmt.time })).writeBurner k).raise
        .kilnDried k.val (s.kiln k).totalElapsed).joinPressQueue k := by
  have held : ((s.updKiln k (fun x => { x with state := .dried, overLimit := 0, dryQualify := 0, hold := {} })).kiln k).charge
      = some r := by rw [kiln_updKiln_self, charged]
  simp only [State.kilnDried, KilnResumes.updKilnCharge_eq held]
  rfl

end

/-- Settles O37. -/
theorem burnerAndStepEntry : Obligations.BurnerAndStepEntry := by
  unfold Obligations.BurnerAndStepEntry
  refine ⟨fun s k => ⟨presentBurner_off, presentBurner_drying, presentBurner_hold, presentBurner_cooling,
      fun _ => presentBurner_aborted, fun _ => writeBurner_eq, fun active n running => ?running, fun active stopped => ?stopped⟩,
    ?enter, fun s k r => kilnDried_eq⟩
  case running => exact exec_eq_effect (f := fun t => t.refreshExpiry k) rfl active (refreshExpiry_running running)
  case stopped => exact exec_eq_effect (f := fun t => t.refreshExpiry k) rfl active (refreshExpiry_stopped stopped)
  case enter =>
    rintro s k _ rfl
    exact ⟨enterStep_ramp, enterStep_target, enterStep_cool, enterStep_fin⟩

/-! ## The ends of the steps (R89, R91, R92, R103) -/

section
variable {s : State} {k : Kiln}

theorem dryingIn_iff {kind : StepKind} :
    s.dryingIn k kind = true ↔ (s.kiln k).state = .drying ∧ (s.currentStep k).kind = kind := by
  simp [State.dryingIn]

theorem inCoolStep_iff : s.inCoolStep k = true ↔
    (s.kiln k).state = .cooling ∧ (s.kiln k).aborted = false ∧ (s.currentStep k).kind = .cool := by
  simp [State.inCoolStep, and_assoc]

section Ramp
variable (drying : (s.kiln k).state = .drying) (ramp : (s.currentStep k).kind = .ramp)
include drying ramp

theorem stepEnd_ramp : s.stepEnd k = (s.updKiln k (fun r => { r with
    setpoint := (s.currentStep k).target, stepIndex := r.stepIndex + 1 })).enterStep k := by
  rw [State.stepEnd, if_pos (dryingIn_iff.mpr ⟨drying, ramp⟩), State.nextStep, updKiln_updKiln]

theorem rampMinute_ends (last : (s.currentStep k).duration ≤ (s.kiln k).rampMinute + 1) : s.rampMinute k = s.stepEnd k := by
  rw [State.rampMinute, if_pos (dryingIn_iff.mpr ⟨drying, ramp⟩)]
  exact if_pos last

theorem rampMinute_passes {m : Nat} {sp : Int} {t : State} (minute : m = (s.kiln k).rampMinute + 1)
    (before : m < (s.currentStep k).duration)
    (setpoint : sp = (s.kiln k).entrySetpoint +
      Int.tdiv (((s.currentStep k).target - (s.kiln k).entrySetpoint) * m) (s.currentStep k).duration)
    (tIs : t = s.updKiln k (fun r => { r with
      rampMinute := m, setpoint := sp, stepElapsed := max r.stepElapsed (60 * m)
      stepFraction := if r.stepElapsed < 60 * m then 0 else r.stepFraction })) :
    s.rampMinute k = if sp = (s.kiln k).setpoint then t else t.writeBurner k := by
  subst tIs setpoint minute
  rw [State.rampMinute, if_pos (dryingIn_iff.mpr ⟨drying, ramp⟩)]
  exact if_neg before.not_ge

end Ramp

theorem stepEnd_next (ends : (s.kiln k).state = .drying ∧ (s.currentStep k).kind = .soak ∨
    (s.kiln k).state = .cooling ∧ (s.kiln k).aborted = false ∧ (s.currentStep k).kind = .cool) :
    s.stepEnd k = (s.updKiln k (fun r => { r with stepIndex := r.stepIndex + 1 })).enterStep k := by
  have notRamp : ¬ s.dryingIn k .ramp = true := by
    rw [dryingIn_iff]
    rintro ⟨-, ramp⟩
    rcases ends with ⟨-, kind⟩ | ⟨-, -, kind⟩ <;> cases ramp.symm.trans kind
  have next : (s.dryingIn k .soak || s.inCoolStep k) = true := by
    rw [Bool.or_eq_true, dryingIn_iff, inCoolStep_iff]
    exact ends
  rw [State.stepEnd, if_neg notRamp, if_pos next, State.nextStep]

theorem stepEnd_other
    (notHeated : ¬((s.kiln k).state = .drying ∧ ((s.currentStep k).kind = .ramp ∨ (s.currentStep k).kind = .soak)))
    (notCool : ¬((s.kiln k).state = .cooling ∧ (s.kiln k).aborted = false ∧ (s.currentStep k).kind = .cool)) :
    s.stepEnd k = s := by
  have notRamp : ¬ s.dryingIn k .ramp = true := by
    rw [dryingIn_iff]
    exact fun ⟨drying, ramp⟩ => notHeated ⟨drying, Or.inl ramp⟩
  have notNext : ¬ (s.dryingIn k .soak || s.inCoolStep k) = true := by
    rw [Bool.or_eq_true, dryingIn_iff, inCoolStep_iff]
    rintro (⟨drying, soak⟩ | cool)
    · exact notHeated ⟨drying, Or.inr soak⟩
    · exact notCool cool
  rw [State.stepEnd, if_neg notRamp, if_neg notNext]

theorem rampMinute_other (notRamp : ¬((s.kiln k).state = .drying ∧ (s.currentStep k).kind = .ramp)) : s.rampMinute k = s := by
  rw [State.rampMinute, if_neg (fun ramp => notRamp (dryingIn_iff.mp ramp))]

theorem dryToOvertime_holds (drying : (s.kiln k).state = .drying) (dryTo : (s.currentStep k).kind = .dryTo) :
    s.dryToOvertime k = ((s.updKiln k (fun r => { r with
      stepElapsed := 60 * (s.currentStep k).duration, stepFraction := 0 })).raise
        .kilnOvertime k.val (s.kiln k).stepIndex).holdKiln k .overtime := by
  rw [State.dryToOvertime, if_pos (dryingIn_iff.mpr ⟨drying, dryTo⟩)]

theorem dryToOvertime_other (notDryTo : ¬((s.kiln k).state = .drying ∧ (s.currentStep k).kind = .dryTo)) :
    s.dryToOvertime k = s := by
  rw [State.dryToOvertime, if_neg (fun dryTo => notDryTo (dryingIn_iff.mp dryTo))]

theorem abortCoolingEnd_dries {d : Fin 8} (cooling : (s.kiln k).state = .cooling) (aborted : (s.kiln k).aborted = true)
    (schedule : (s.kiln k).schedule = some d) :
    s.abortCoolingEnd k = (s.updKiln k (fun r => { r with
      stepElapsed := 60 * (s.kilns.schedules[d]).abortCoolMinutes, stepFraction := 0 })).kilnDried k := by
  have minutes : s.abortMinutes k = s.kilns.schedules[d].abortCoolMinutes := by simp only [State.abortMinutes, schedule]
  have ends : ((s.kiln k).state = .cooling && (s.kiln k).aborted) = true := by simp [cooling, aborted]
  rw [State.abortCoolingEnd, if_pos ends, minutes]

theorem abortCoolingEnd_other (other : ¬((s.kiln k).state = .cooling ∧ (s.kiln k).aborted = true)) :
    s.abortCoolingEnd k = s := by
  have stays : ¬ ((s.kiln k).state = .cooling && (s.kiln k).aborted) = true := by
    rw [Bool.and_eq_true, decide_eq_true_eq]
    exact other
  rw [State.abortCoolingEnd, if_neg stays]

end

/-- Settles O38. -/
theorem stepEnds : Obligations.StepEnds := by
  unfold Obligations.StepEnds
  intro s k active
  have ends {t : State} (effect : s.stepEnd k = t) : ∃ ch, exec (.stepEnd k) s = .next (State.choosing ch t) :=
    exec_eq_effect (f := fun t => t.stepEnd k) rfl active effect
  have minute {t : State} (effect : s.rampMinute k = t) : ∃ ch, exec (.rampMinute k) s = .next (State.choosing ch t) :=
    exec_eq_effect (f := fun t => t.rampMinute k) rfl active effect
  have overtime {t : State} (effect : s.dryToOvertime k = t) :
      ∃ ch, exec (.dryToOvertime k) s = .next (State.choosing ch t) :=
    exec_eq_effect (f := fun t => t.dryToOvertime k) rfl active effect
  have cooled {t : State} (effect : s.abortCoolingEnd k = t) :
      ∃ ch, exec (.abortCoolingEnd k) s = .next (State.choosing ch t) :=
    exec_eq_effect (f := fun t => t.abortCoolingEnd k) rfl active effect
  refine ⟨fun drying ramp => ⟨ends (stepEnd_ramp drying ramp), fun last => ?last, fun m sp t minuteIs before setpoint tIs => ?passes⟩,
    fun next => ends (stepEnd_next next), fun notHeated notCool => ends (stepEnd_other notHeated notCool),
    fun notRamp => minute (rampMinute_other notRamp), fun drying dryTo => overtime (dryToOvertime_holds drying dryTo),
    fun notDryTo => overtime (dryToOvertime_other notDryTo),
    fun d cooling aborted schedule => cooled (abortCoolingEnd_dries cooling aborted schedule),
    fun other => cooled (abortCoolingEnd_other other)⟩
  case last =>
    show whileActive (fun t => t.rampMinute k) s = whileActive (fun t => t.stepEnd k) s
    rw [whileActive_active active, whileActive_active active, rampMinute_ends drying ramp last]
  case passes =>
    have passes := rampMinute_passes drying ramp minuteIs before setpoint tIs
    exact ⟨fun same => minute (passes.trans (if_pos same)), fun moved => minute (passes.trans (if_neg moved))⟩

end Sys2Proof.Proofs.KilnSteps
end

section
/-! PROOF. The Scale Engine: the converter's frames and their samples, blocks and stability, and the entry to FAULT (R106 to R111,
R113, R115, R117, R118). -/

namespace Sys2Proof.Proofs.Scales

open Sys2Proof Sys2Proof.Machine

section
variable {s : State}

/-! ## Samples (R109, R117) -/

section Samples
variable {status : Byte} {sample : Int}

theorem takeSample_reference (reference : status.getLsbD 5 = true) :
    s.takeSample status sample = State.faultCause { s with scale := { s.scale with pendingA := none } } .reference := by
  have flag : statusReference status = true := reference
  simp only [State.takeSample, flag, Bool.true_or, if_pos]
  rfl

section NoReference
variable (noReference : status.getLsbD 5 = false)
include noReference

theorem takeSample_overrange (overrange : status.getLsbD 6 = true) :
    s.takeSample status sample = State.faultCause { s with scale := { s.scale with pendingA := none } } .overrange := by
  have reference : statusReference status = false := noReference
  have flag : statusOverrange status = true := overrange
  simp only [State.takeSample, reference, flag, Bool.or_true, if_pos]
  rfl

variable (inRange : status.getLsbD 6 = false)
include inRange

theorem not_faulty : ¬ (statusReference status || statusOverrange status) = true := by
  have reference : statusReference status = false := noReference
  have overrange : statusOverrange status = false := inRange
  rw [reference, overrange]
  decide

theorem takeSample_channelA (channelA : status.getLsbD 7 = false) :
    s.takeSample status sample = { s with scale := { s.scale with pendingA := some sample } } := by
  have flag : ¬ statusChannelB status = true := Bool.eq_false_iff.mp channelA
  rw [State.takeSample, if_neg (not_faulty noReference inRange), if_neg flag]
  rfl

section ChannelB
variable (channelB : status.getLsbD 7 = true)
include channelB

theorem takeSample_unpaired (unpaired : s.scale.pendingA = none) : s.takeSample status sample = s := by
  have flag : statusChannelB status = true := channelB
  rw [State.takeSample, if_neg (not_faulty noReference inRange), if_pos flag, unpaired]

theorem takeSample_paired {a : Int} (paired : s.scale.pendingA = some a) :
    s.takeSample status sample = State.takeReading { s with scale := { s.scale with pendingA := none } } (a + sample) := by
  have flag : statusChannelB status = true := channelB
  rw [State.takeSample, if_neg (not_faulty noReference inRange), if_pos flag]
  simp only [paired]
  rfl

end ChannelB
end NoReference
end Samples

/-! ## Good readings (R110, R117) -/

section Readings
variable {r : Int}

theorem takeReading_faultFirst (fault : s.scale.state = .fault) (first : s.scale.good = 0) :
    s.takeReading r = { s with scale := { s.scale with good := 1 } } := by
  have one : s.scale.good + 1 < 2 := by omega
  have count : s.scale.good + 1 = 1 := by omega
  rw [State.takeReading, if_pos fault, if_pos one, State.updScale, count]

theorem takeReading_faultEnds (fault : s.scale.state = .fault) (second : 1 ≤ s.scale.good) :
    s.takeReading r = { s with scale := { s.scale with
      state := .idle, good := 0, cycleOpen := false, history := [], stable := none } } := by
  have two : ¬ s.scale.good + 1 < 2 := by omega
  rw [State.takeReading, if_pos fault, if_neg two]
  rfl

section Reading
variable (noFault : s.scale.state ≠ .fault) {d : Scale} (joined : d = { s.scale with samples := s.scale.samples ++ [r] })
include noFault joined

theorem takeReading_waits (few : d.samples.length < s.scale.setup.watermark) :
    s.takeReading r = { s with scale := d } := by
  subst joined
  have below : ¬ s.scale.setup.watermark ≤ s.scale.samples.length + 1 := by simpa using few
  rw [State.takeReading, if_neg noFault]
  exact if_neg below

theorem takeReading_block (full : s.scale.setup.watermark ≤ d.samples.length) :
    s.takeReading r = State.judgeBlock { s with scale := d.formBlock } := by
  subst joined
  have reached : s.scale.setup.watermark ≤ s.scale.samples.length + 1 := by simpa using full
  rw [State.takeReading, if_neg noFault]
  exact if_pos reached

end Reading
end Readings

/-! ## The converter's frames (R106 to R108, R115) -/

theorem frameStart_busy (busy : s.scale.frame ≠ none) : s.frameStart = s := by
  obtain ⟨f, frame⟩ := Option.ne_none_iff_exists'.mp busy
  simp only [State.frameStart, frame]

theorem frameStart_idle (free : s.scale.frame = none) (empty : s.scale.commands = []) :
    s.frameStart = { s with scale := { s.scale with
      frame := some { sends := s.scale.setup.idleWord ++ (0 : BitVec 24), fromFifo := false } } } := by
  simp only [State.frameStart, free, State.updScale, empty, ConverterFrame.carrying]

theorem frameStart_word {w : Byte} {ws : List Byte} (free : s.scale.frame = none) (fifo : s.scale.commands = w :: ws) :
    s.frameStart = { s with scale := { s.scale with
      frame := some { sends := w ++ (0 : BitVec 24), fromFifo := true } } } := by
  simp only [State.frameStart, free, State.updScale, fifo, ConverterFrame.carrying]

theorem frameComplete_none {status : Byte} {sample : BitVec 24} (none : s.scale.frame = none) :
    s.frameComplete status sample = s := by
  rw [State.frameComplete, none]

theorem frameComplete_frame {status : Byte} {sample : BitVec 24} {f : ConverterFrame} {c : Scale}
    (frame : s.scale.frame = some f) (cIs : c = { s.scale with
      frame := none, watch := 10, commands := if f.fromFifo = true then s.scale.commands.tail else s.scale.commands }) :
    s.frameComplete status sample = State.takeSample { s with scale := c } status sample.toInt := by
  subst cIs
  rw [State.frameComplete, frame]
  rfl

theorem settleTimeout_settling (settling : s.scale.state = .settling) :
    s.settleTimeout = State.notCaptured { s with scale := { s.scale with
      state := .clearing, captured := false, settle := none } } := if_pos settling

theorem settleTimeout_other (other : s.scale.state ≠ .settling) : s.settleTimeout = s := if_neg other

end

/-- Settles O42: a complete frame is its sample, and a sample is a fault, half a pair, or a reading. -/
theorem converterFrames : Obligations.ConverterFrames := by
  unfold Obligations.ConverterFrames
  intro s active
  refine ⟨fun busy => exec_eq_effect rfl active (frameStart_busy busy),
    fun free empty => exec_eq_effect rfl active (frameStart_idle free empty),
    fun w ws free fifo => exec_eq_effect rfl active (frameStart_word free fifo),
    exec_eq_effect (f := State.frameTorn) rfl active rfl, exec_eq_effect (f := State.watchExpiry) rfl active rfl,
    fun settling => exec_eq_effect rfl active (settleTimeout_settling settling),
    fun other => exec_eq_effect rfl active (settleTimeout_other other), fun status sample => ⟨fun none => ?none, ?frame⟩⟩
  case none => exact exec_eq_effect (f := fun t => t.frameComplete status sample) rfl active (frameComplete_none none)
  case frame =>
    intro f c frame cIs
    have sampled {t : State} (effect : State.takeSample { s with scale := c } status sample.toInt = t) :
        ∃ ch, exec (.converterFrameComplete status sample) s = .next (State.choosing ch t) :=
      exec_eq_effect (f := fun t => t.frameComplete status sample) rfl active ((frameComplete_frame frame cIs).trans effect)
    have pending : c.pendingA = s.scale.pendingA := by rw [cIs]
    have state : c.state = s.scale.state := by rw [cIs]
    have good : c.good = s.scale.good := by rw [cIs]
    rw [← pending, ← state, ← good]
    refine ⟨fun reference => sampled (takeSample_reference reference),
      fun noReference overrange => sampled (takeSample_overrange noReference overrange),
      fun noReference inRange => ⟨fun channelA => sampled (takeSample_channelA noReference inRange channelA),
        fun channelB unpaired => sampled (takeSample_unpaired noReference inRange channelB unpaired),
        fun a channelB paired => ?_⟩⟩
    have read {t : State}
        (effect : State.takeReading { s with scale := { c with pendingA := none } } (a + sample.toInt) = t) :
        ∃ ch, exec (.converterFrameComplete status sample) s = .next (State.choosing ch t) :=
      sampled ((takeSample_paired noReference inRange channelB paired).trans effect)
    exact ⟨fun fault first => read (takeReading_faultFirst fault first),
      fun fault second => read (takeReading_faultEnds fault second), fun noFault d joined =>
        ⟨fun few => read (takeReading_waits noFault joined few), fun full => read (takeReading_block noFault joined full)⟩⟩

/-! ## Blocks (R110) -/

theorem formBlock_eq (c : Scale) {raw : Int} (rawIs : raw = Int.tdiv c.samples.sum c.setup.watermark) {w : Option Int}
    (weight : w = if c.setup.span = 0 then none else
      some (max (-2147483647) (min 2147483646 (Int.tdiv ((raw - c.setup.zeroOffset) * c.setup.span) 65536))))
    {h : List ScaleBlock} (history : h = (c.history ++ [ScaleBlock.mk raw w]).drop ((c.history.length + 1) - 8)) :
    c.formBlock = { c with
      samples := [], history := h, lastBlock := some { raw := raw, weight := w }, stable := stableOf c.setup h } := by
  have weightIs : weightOf c.setup raw = w := weight ▸ rfl
  have kept : lastN Config.historyCapacity (c.history ++ [{ raw := raw, weight := w }]) = h := by
    rw [history, lastN, List.length_append, List.length_singleton]
    rfl
  simp only [Scale.formBlock, ScaleRequests.meanOf_eq_tdiv_sum, ← rawIs, weightIs, kept]

/-! ## Stability (R111) -/

/-- The largest less the smallest, by any two entries. -/
theorem spread_le_iff {l : List Int} {band : Nat} : spread l ≤ band ↔ ∀ x ∈ l, ∀ y ∈ l, x - y ≤ band := by
  cases l with
  | nil => simp [spread]
  | cons a l =>
    obtain ⟨maxMem, maxLe⟩ := List.max?_eq_some_iff.mp (List.max?_cons' (x := a) (xs := l))
    obtain ⟨minMem, minLe⟩ := List.min?_eq_some_iff.mp (List.min?_cons' (x := a) (xs := l))
    constructor
    · intro narrow x hx y hy
      have := maxLe x hx
      have := minLe y hy
      rw [spread] at narrow
      omega
    · intro close
      exact close _ maxMem _ minMem

section
variable {u : ScaleSetup} {h : List ScaleBlock} {ws : List Int}

theorem stableOf_few (weights : ws = h.filterMap (fun b => b.weight)) (few : ws.length < u.stability) : stableOf u h = none := by
  have unstable : ¬ (decide (u.stability ≤ (weightsOf h).length) && decide (spread (lastN u.stability (weightsOf h)) ≤ u.band))
      = true := by
    rw [Bool.and_eq_true, decide_eq_true_eq]
    rintro ⟨enough, -⟩
    rw [weightsOf, ← weights] at enough
    omega
  exact if_neg unstable

section Last
variable {pre last : List Int} (weights : ws = h.filterMap (fun b => b.weight)) (split : ws = pre ++ last)
  (length : last.length = u.stability)
include weights split length

/-- With M weights, the last M decide. -/
theorem stableOf_last : stableOf u h = if spread last ≤ u.band then some (Int.tdiv last.sum u.stability) else none := by
  have all : weightsOf h = pre ++ last := by rw [← split, weights, weightsOf]
  have taken : lastN u.stability (weightsOf h) = last := by
    rw [all, lastN, List.length_append, length, Nat.add_sub_cancel, List.drop_left]
  have enough : u.stability ≤ (weightsOf h).length := by
    rw [all, List.length_append, length]
    omega
  simp only [stableOf, taken, ScaleRequests.meanOf_eq_tdiv_sum, decide_eq_true enough, Bool.true_and, decide_eq_true_eq]

theorem stableOf_stable (close : ∀ x ∈ last, ∀ y ∈ last, x - y ≤ u.band) :
    stableOf u h = some (Int.tdiv last.sum u.stability) := by
  rw [stableOf_last weights split length, if_pos (spread_le_iff.mpr close)]

theorem stableOf_apart (apart : ∃ x ∈ last, ∃ y ∈ last, (u.band : Int) < x - y) : stableOf u h = none := by
  obtain ⟨x, hx, y, hy, far⟩ := apart
  rw [stableOf_last weights split length, if_neg (fun narrow => absurd (spread_le_iff.mp narrow x hx y hy) (Int.not_le.mpr far))]

end Last
end

/-! ## The judgement of a block (R113, R115, R118) -/

section
variable {s : State} {w : Int}

theorem judgeBlock_quiet (quiet : s.scale.state = .unconfigured ∨ s.scale.state = .clearing ∨ s.scale.state = .fault) :
    s.judgeBlock = s := by
  rcases quiet with state | state | state <;> simp only [State.judgeBlock, state]

theorem judgeBlock_idle (idle : s.scale.state = .idle) : s.judgeBlock = s.updScale Scale.track := by
  simp only [State.judgeBlock, idle]

theorem judgeBlock_unstable (unstable : s.scale.stable = none) : s.judgeBlock = s := by
  unfold State.judgeBlock
  split
  next => rw [State.updScale, Scale.track, unstable]
  next => rw [unstable]
  all_goals rfl

section Settling
variable (settling : s.scale.state = .settling) (stable : s.scale.stable = some w)
include settling stable

theorem judgeBlock_light (light : w < s.scale.setup.minGross) : s.judgeBlock = s := by
  simp only [State.judgeBlock, settling, stable, if_neg light.not_ge]

theorem judgeBlock_captures (heavy : (s.scale.setup.minGross : Int) ≤ w) :
    s.judgeBlock = State.captured
      { s with scale := { s.scale with state := .clearing, captured := true, settle := none } } w := by
  unfold State.judgeBlock
  split
  case h_2 =>
    split
    next unstable => cases stable.symm.trans unstable
    next v found =>
      cases Option.some.inj (stable.symm.trans found)
      exact if_pos heavy
  all_goals
    next other => cases settling.symm.trans other

end Settling

section Idle
variable (idle : s.scale.state = .idle) (stable : s.scale.stable = some w)
include idle stable

theorem judgeBlock_noTracking (outside : s.scale.setup.zeroTrackBand = 0 ∨ s.scale.setup.zeroTrackBand < w.natAbs) :
    s.judgeBlock = s := by
  have still : ¬ (decide (0 < s.scale.setup.zeroTrackBand) && decide (w.natAbs ≤ s.scale.setup.zeroTrackBand)) = true := by
    simp only [Bool.and_eq_true, decide_eq_true_eq]
    omega
  rw [judgeBlock_idle idle, State.updScale, Scale.track, stable]
  exact congrArg (fun c => { s with scale := c }) (if_neg still)

theorem judgeBlock_tracks (tracking : 0 < s.scale.setup.zeroTrackBand) (within : w.natAbs ≤ s.scale.setup.zeroTrackBand) {z : Int}
    (zero : z = Int.tdiv ((s.scale.history.drop (s.scale.history.length - s.scale.setup.stability)).map (fun b => b.raw)).sum
      s.scale.setup.stability) :
    s.judgeBlock = { s with scale := { s.scale with
      history := [], stable := none, setup := { s.scale.setup with zeroOffset := z } } } := by
  have moves : (decide (0 < s.scale.setup.zeroTrackBand) && decide (w.natAbs ≤ s.scale.setup.zeroTrackBand)) = true := by
    simp [tracking, within]
  have zeroIs : s.scale.newZero = z := (ScaleRequests.newZero_eq s.scale).trans zero.symm
  have absorbed : s.scale.absorb = { s.scale with
      history := [], stable := none, setup := { s.scale.setup with zeroOffset := z } } := by rw [Scale.absorb, zeroIs]; rfl
  rw [judgeBlock_idle idle, State.updScale, Scale.track, stable, ← absorbed]
  exact congrArg (fun c => { s with scale := c }) (if_pos moves)

end Idle

/-! ## Causes of FAULT (R117) -/

variable {cause : FaultCause}

theorem faultCause_unconfigured (state : s.scale.state = .unconfigured) : s.faultCause cause = s := by
  simp only [State.faultCause, state]

theorem faultCause_fault (state : s.scale.state = .fault) :
    s.faultCause cause = { s with scale := { s.scale with good := 0 } } := by
  unfold State.faultCause
  split
  case h_2 => rfl
  all_goals
    next other => cases state.symm.trans other

theorem faultCause_enters (working : s.scale.state = .idle ∨ s.scale.state = .settling ∨ s.scale.state = .clearing) {t : State}
    (tIs : t = State.raise { s with scale := { s.scale with
      state := .fault, pendingA := none, samples := [], history := [], stable := none, lastBlock := none, good := 0
      settle := none, captured := false
      cycleOpen := decide (s.scale.state = .settling ∨ s.scale.state = .clearing) } } .scaleFault 0 cause.code) :
    s.faultCause cause = if s.scale.state = .settling then t.notCaptured else t := by
  have entered : (s.updScale Scale.enterFault).raise .scaleFault 0 cause.code = t := by
    rw [tIs, Bool.decide_or]
    rfl
  have enters : s.faultCause cause = s.enterFault cause := by
    rcases working with state | state | state <;> simp only [State.faultCause, state]
  rw [enters, State.enterFault, entered]

end

/-- Settles O43. -/
theorem blocksAndFaults : Obligations.BlocksAndFaults := by
  unfold Obligations.BlocksAndFaults
  refine ⟨fun c _ rawIs _ weight _ history => formBlock_eq c rawIs weight history, fun u h ws weights _ =>
      ⟨stableOf_few weights, fun pre last split length =>
        ⟨stableOf_stable weights split length, stableOf_apart weights split length⟩⟩,
    fun s => ⟨judgeBlock_quiet, judgeBlock_unstable, fun w settling stable =>
      ⟨judgeBlock_light settling stable, judgeBlock_captures settling stable⟩, fun w idle stable =>
      ⟨judgeBlock_noTracking idle stable, fun tracking within z zero => judgeBlock_tracks idle stable tracking within zero⟩⟩,
    fun s cause => ⟨faultCause_unconfigured, faultCause_fault, fun t working tIs => ⟨fun settling => ?_, fun other => ?_⟩⟩⟩
  · exact (faultCause_enters working tIs).trans (if_pos settling)
  · exact (faultCause_enters working tIs).trans (if_neg other)

end Sys2Proof.Proofs.Scales
end

section
/-! PROOF. ON-SCALE readings, the records they make, and MOISTURE readings (R114, R129, R130, R133, R141). -/

namespace Sys2Proof.Proofs.Platform

open Sys2Proof Sys2Proof.Machine

section
variable {s : State} {value : Word32}

/-! ## ON-SCALE by the scale's state (R114) -/

theorem onScale_busy (busy : s.scale.state = .settling ∨ s.scale.state = .clearing) :
    s.onScale value = s.raise .scaleSequence 0 1 := by
  rcases busy with state | state <;> simp only [State.onScale, State.scaleOnScale, state, onScaleAnswer] <;> rfl

theorem onScale_idle (idle : s.scale.state = .idle) :
    s.onScale value = State.newCycle { s with scale := { s.scale with
      state := .settling, pendingA := none, samples := [], history := [], stable := none
      settle := some (10 * s.scale.setup.settleTimeout) } } value true := by
  simp only [State.onScale, State.scaleOnScale, idle, onScaleAnswer]
  rfl

theorem scaleOnScale_fault (fault : s.scale.state = .fault) :
    s.scaleOnScale = { s with scale := { s.scale with cycleOpen := true } } := by
  unfold State.scaleOnScale
  split
  case h_2 => rfl
  all_goals
    next other => cases fault.symm.trans other

theorem onScale_fault (fault : s.scale.state = .fault) :
    s.onScale value = State.newCycle { s with scale := { s.scale with cycleOpen := true } } value false := by
  have answer : onScaleAnswer s.scale.state = .notCaptured := by rw [fault, onScaleAnswer]
  rw [← scaleOnScale_fault fault]
  simp only [State.onScale, answer]

theorem onScale_unconfigured (unconfigured : s.scale.state = .unconfigured) :
    s.onScale value = (s.raise .scaleSequence 0 1).newCycle value false := by
  simp only [State.onScale, State.scaleOnScale, unconfigured, onScaleAnswer]
  rfl

/-! ## A cycle with a record (R129, R130) -/

theorem tareOf_eq {code : Option (Fin 8)} {tare : Nat}
    (coded : ∀ c : Fin 8, value.toNat = c.val → code = some c ∧ tare = s.press.tares[c])
    (uncoded : 8 ≤ value.toNat → code = none ∧ tare = 0) : s.tareOf value = (code, tare) := by
  by_cases small : value.toNat < 8
  · obtain ⟨rfl, rfl⟩ := coded ⟨value.toNat, small⟩ rfl
    exact dif_pos small
  · obtain ⟨rfl, rfl⟩ := uncoded (Nat.le_of_not_lt small)
    exact dif_neg small

theorem baleCharge_some {k : Kiln} {ks : List Kiln} {r : ChargeRef} {l : Lot} (queue : s.press.queue = k :: ks)
    (charge : (s.kiln k).charge = some r) (lot : s.lot? r.lot = some l) (bales : l.baleCount < 65535)
    (room : s.press.bales.length < 256) (low : 1 ≤ s.tickets.nextBale) (high : s.tickets.nextBale ≤ 0xFFFFFFF0) :
    s.baleCharge = some (k, r) := by
  have free : 0 < s.freeCount := Nat.sub_pos_of_lt room
  have numbered : s.tickets.nextBale ≤ Config.maxNumber := high
  simp [State.baleCharge, queue, charge, lot, bales, free, low, numbered]

theorem newCycle_recorded {k : Kiln} {r : ChargeRef} {weighing : Bool} (charge : s.baleCharge = some (k, r)) :
    s.newCycle value weighing = s.createBale k r value weighing := by
  simp only [State.newCycle, charge]

section
variable {k : Kiln} {r : ChargeRef} {code : Option (Fin 8)} {tare n : Nat} {weighing : Bool} {t : State}
  (tared : s.tareOf value = (code, tare)) (number : n = s.tickets.nextBale)
  (tIs : t = State.judgeStore (State.updCharge (State.updLot
    { s with
      press := { s.press with
        cycle := .bale n
        bales := s.press.bales ++ [{
          number := n, lot := r.lot, index := r.index, kiln := k
          status := if weighing = true then .weighing else .awaitingWeight
          gross := none, tareCode := code, tare := tare, net := none, moisture := none, time := s.mgmt.time
          manual := !weighing, low := false, high := false, wet := false, ticket := none }] }
      tickets := { s.tickets with nextBale := n + 1, lastBale := some n } }
    r.lot (fun l => { l with baleCount := l.baleCount + 1 })) r (fun c => { c with bales := c.bales + 1 })))
include tared number tIs

theorem createBale_eq : s.createBale k r value weighing = if weighing = true then t else t.offerCharge r := by
  rw [tIs, number, State.createBale, tared]
  rfl

end

/-! ## A cycle without a record (R130, R141) -/

theorem baleCharge_none (cause : s.press.queue = [] ∨ 256 ≤ s.press.bales.length ∨ s.tickets.nextBale = 0 ∨
    0xFFFFFFF0 < s.tickets.nextBale ∨
    ∃ k ks r l, s.press.queue = k :: ks ∧ (s.kiln k).charge = some r ∧ s.lot? r.lot = some l ∧ 65535 ≤ l.baleCount) :
    s.baleCharge = none := by
  unfold State.baleCharge
  split
  next => rfl
  next k ks queue =>
    split
    next => rfl
    next r charge =>
      refine if_neg fun can => ?_
      simp only [Bool.and_eq_true, decide_eq_true_eq, Option.any_eq_true] at can
      obtain ⟨⟨⟨free, l, lot, bales⟩, low⟩, high⟩ := can
      have room : s.press.bales.length < 256 := Nat.lt_of_sub_pos free
      have numbered : s.tickets.nextBale ≤ 0xFFFFFFF0 := high
      rcases cause with none | full | zero | exhausted | ⟨k', ks', r', l', queue', charge', lot', exhausted⟩
      · cases queue.symm.trans none
      · omega
      · omega
      · omega
      · cases queue.symm.trans queue'
        cases charge.symm.trans charge'
        cases lot.symm.trans lot'
        omega

theorem newCycle_unrecorded {weighing : Bool} (noCharge : s.baleCharge = none) :
    s.newCycle value weighing = if weighing = true then { s with press := { s.press with cycle := .unrecorded } }
      else State.raiseOpt { s with press := { s.press with cycle := .unrecorded } } .baleUnrecorded 0 none := by
  simp only [State.newCycle, noCharge]

/-! ## MOISTURE (R133) -/

theorem moisture_noBale
    (cycle : s.press.cycle = .none ∨ s.press.cycle = .unrecorded ∨ ∃ n, s.press.cycle = .bale n ∧ s.bale? n = none) :
    s.moisture value = s := by
  rcases cycle with cycle | cycle | ⟨n, cycle, gone⟩
  · simp only [State.moisture, cycle]
  · simp only [State.moisture, cycle]
  · simp only [State.moisture, cycle, gone]

theorem baleVariety_lot {b : Bale} {l : Lot} (lot : s.lot? b.lot = some l) : s.baleVariety b = s.varietyOf l := by
  rw [State.baleVariety, lot, Option.map_some, Option.getD_some]

section
variable {n : Nat} {b : Bale} (cycle : s.press.cycle = .bale n) (bale : s.bale? n = some b)
include cycle bale

theorem moisture_awaiting (awaiting : b.status = .awaitingWeight) : s.moisture value = s := by
  simp only [State.moisture, cycle, bale, if_pos awaiting]

theorem moisture_bale {l : Lot} (weighing : b.status ≠ .awaitingWeight) (lot : s.lot? b.lot = some l) :
    s.moisture value = s.updBale n (fun x => { x with
      moisture := some (min 65535 value.toNat)
      wet := x.wet || decide ((s.varietyOf l).maxMoisture < min 65535 value.toNat) }) := by
  simp only [State.moisture, cycle, bale, if_neg weighing, baleVariety_lot lot]

end
end

/-- Settles O45. -/
theorem onScaleAndMoisture : Obligations.OnScaleAndMoisture := by
  unfold Obligations.OnScaleAndMoisture
  refine ⟨fun s value => ⟨onScale_busy, onScale_idle, onScale_fault, onScale_unconfigured⟩,
    fun s value weighing => ⟨?recorded, fun cause => ?unrecorded⟩,
    fun s value => ⟨moisture_noBale, fun n b cycle bale =>
      ⟨moisture_awaiting cycle bale, fun l weighing lot => moisture_bale cycle bale weighing lot⟩⟩⟩
  case recorded =>
    intro k ks r l n queue charge lot bales room number low high code tare coded uncoded t tIs
    have made : s.newCycle value weighing = if weighing = true then t else t.offerCharge r :=
      (newCycle_recorded (baleCharge_some queue charge lot bales room (number ▸ low) (number ▸ high))).trans
        (createBale_eq (tareOf_eq coded uncoded) number tIs)
    exact ⟨fun weighs => made.trans (if_pos weighs), fun waits => made.trans (if_neg (Bool.eq_false_iff.mp waits))⟩
  case unrecorded =>
    have made := newCycle_unrecorded (value := value) (weighing := weighing) (baleCharge_none cause)
    exact ⟨fun weighs => made.trans (if_pos weighs), fun waits => made.trans (if_neg (Bool.eq_false_iff.mp waits))⟩

end Sys2Proof.Proofs.Platform
end

section
/-! PROOF. Bales: the two outcomes of a cycle, OFF-SCALE readings, the filling of a weight, and BALE-WEIGHT (R116, R131 to R134,
R138). -/

namespace Sys2Proof.Proofs.BaleWeight

open Sys2Proof Sys2Proof.Machine

section
variable {s : State}

/-! ## The outcomes of a cycle (R131, R132) -/

section Outcomes
variable {weight : Int}

theorem outcome_noCycle (cycle : s.press.cycle = .none) : s.captured weight = s ∧ s.notCaptured = s := by
  simp only [State.captured, State.notCaptured, cycle, and_self]

theorem outcome_unrecorded (cycle : s.press.cycle = .unrecorded) :
    s.captured weight = s.raise .baleUnrecorded 0 weight ∧ s.notCaptured = s.raiseOpt .baleUnrecorded 0 none := by
  simp only [State.captured, State.notCaptured, cycle, and_self]

section
variable {n : Nat} (cycle : s.press.cycle = .bale n)
include cycle

theorem outcome_notWeighing (notWeighing : ∀ b, s.bale? n = some b → b.status ≠ .weighing) :
    s.captured weight = s ∧ s.notCaptured = s := by
  cases bale : s.bale? n with
  | none => simp only [State.captured, State.notCaptured, cycle, bale, and_self]
  | some b => simp only [State.captured, State.notCaptured, cycle, bale, if_neg (notWeighing b bale), and_self]

theorem outcome_weighing {b : Bale} (bale : s.bale? n = some b) (weighing : b.status = .weighing) :
    s.captured weight = (s.fillBale b weight).offerCharge { lot := b.lot, index := b.index } ∧
      s.notCaptured = (s.updBale n (fun x => { x with status := .awaitingWeight, manual := true })).offerCharge
        { lot := b.lot, index := b.index } := by
  simp only [State.captured, State.notCaptured, cycle, bale, if_pos weighing, and_self]

end
end Outcomes

/-! ## OFF-SCALE by the scale's state (R116) -/

theorem offScale_clearing (clearing : s.scale.state = .clearing) :
    s.offScale = { s with
      scale := { s.scale with state := .idle, captured := false, settle := none, history := [], stable := none }
      press := { s.press with cycle := .none } } := by
  simp only [State.offScale, clearing]
  rfl

theorem offScale_fault (fault : s.scale.state = .fault) :
    s.offScale = { s with scale := { s.scale with cycleOpen := false }, press := { s.press with cycle := .none } } := by
  unfold State.offScale
  split
  case h_3 => rfl
  all_goals
    next other => cases fault.symm.trans other

theorem offScale_settling {u t : State} (settling : s.scale.state = .settling)
    (uIs : u = State.notCaptured { s with scale := { s.scale with settle := none } })
    (tIs : t = State.raise { u with scale := { u.scale with
      state := .idle, captured := false, settle := none, history := [], stable := none } } .scaleSequence 0 2) :
    s.offScale = { t with press := { t.press with cycle := .none } } := by
  subst tIs uIs
  unfold State.offScale
  split
  case h_2 => rfl
  all_goals
    next other => cases settling.symm.trans other

theorem offScale_quiet (quiet : s.scale.state = .idle ∨ s.scale.state = .unconfigured) :
    s.offScale = { s with press := { s.press with cycle := .none } } := by
  rcases quiet with state | state <;> simp only [State.offScale, state]

/-! ## The filling of a weight (R131, R134, R138) -/

section Filling
variable {b : Bale} {l : Lot} {gross net : Int} (lot : s.lot? b.lot = some l) (netIs : net = gross - b.tare)
  {low high : Bool} (lowIs : low = decide (net < (s.varietyOf l).targetMin))
  (highIs : high = decide (((s.varietyOf l).targetMax : Int) < net))
include lot netIs lowIs highIs

theorem fillBale_eq {t : State} (tIs : t = ((s.updBale b.number (fun x => { x with
      gross := some gross, net := some net, status := .weighed, low := x.low || low, high := x.high || high })).updLot b.lot
        (fun l => { l with netTotal := wrap32 (l.netTotal + net) })).updCharge { lot := b.lot, index := b.index }
        (fun c => { c with net := wrap32 (c.net + net) })) :
    s.fillBale b gross = if (low || high) = true then t.raise .baleTolerance b.number net else t := by
  subst netIs lowIs highIs tIs
  rw [State.fillBale, Platform.baleVariety_lot lot]
  rfl

end Filling

/-- A record changed is found again under its number. -/
theorem bale?_updBale {n : Nat} {f : Bale → Bale} (keeps : ∀ b, (f b).number = b.number) {b : Bale}
    (bale : s.bale? n = some b) : (s.updBale n f).bale? n = some (f b) := by
  have number : b.number = n := by simpa using List.find?_some bale
  have sameKey : ((fun x : Bale => decide (x.number = n)) ∘ fun x => if x.number = n then f x else x)
      = fun x => decide (x.number = n) := by
    funext x
    by_cases named : x.number = n <;> simp [named, keeps]
  have found : s.press.bales.find? (fun x => decide (x.number = n)) = some b := bale
  change (s.press.bales.map _).find? _ = _
  rw [List.find?_map, sameKey, found, Option.map_some, if_pos number]

theorem bale?_fillBale {b : Bale} {gross : Int} (bale : s.bale? b.number = some b) :
    (s.fillBale b gross).bale? b.number = some { b.judged (s.baleVariety b) (gross - b.tare) with
      gross := some gross, net := some (gross - b.tare), status := .weighed } := by
  have filled := bale?_updBale (s := s)
    (f := fun x => { x.judged (s.baleVariety b) (gross - b.tare) with
      gross := some gross, net := some (gross - b.tare), status := .weighed }) (fun _ => rfl) bale
  simp only [State.fillBale]
  split <;> exact filled

/-! ## BALE-WEIGHT (R138) -/

variable {bale gross : Word32}

theorem performBaleWeight_range (heavy : 2147483646 < gross.toNat) : performBaleWeight bale gross s = refuse s .range :=
  if_pos heavy

section InRange
variable (inRange : gross.toNat ≤ 2147483646)
include inRange

theorem not_maxWeight_lt : ¬ Config.maxWeight < gross.toNat := Nat.not_lt.mpr inRange

theorem performBaleWeight_unknown (unknown : s.bale? bale.toNat = none) :
    performBaleWeight bale gross s = refuse s .unknown := by
  simp only [performBaleWeight, if_neg (not_maxWeight_lt inRange), unknown]

section Found
variable {b : Bale} (found : s.bale? bale.toNat = some b)
include found

theorem performBaleWeight_state (other : b.status ≠ .awaitingWeight) :
    performBaleWeight bale gross s = refuse s .state := by
  simp only [performBaleWeight, if_neg (not_maxWeight_lt inRange), found, if_pos other]

theorem performBaleWeight_accepts {l : Lot} {x : Bale} (awaiting : b.status = .awaitingWeight) (lot : s.lot? b.lot = some l)
    (xIs : x = { b with
      low := b.low || decide ((gross.toNat : Int) - b.tare < (s.varietyOf l).targetMin)
      high := b.high || decide (((s.varietyOf l).targetMax : Int) < (gross.toNat : Int) - b.tare) }) :
    performBaleWeight bale gross s = accept ((s.fillBale b gross.toNat).offerCharge { lot := b.lot, index := b.index })
      (bytes32 bale ++ int32 ((gross.toNat : Int) - b.tare) ++ [x.flags]) := by
  have number : b.number = bale.toNat := by simpa using List.find?_some found
  have filled := bale?_fillBale (gross := gross.toNat) (number ▸ found)
  have flags : (((s.fillBale b gross.toNat).bale? b.number).map Bale.flags).getD 0 = x.flags := by
    rw [filled, Platform.baleVariety_lot lot, xIs]
    rfl
  simp only [performBaleWeight, if_neg (not_maxWeight_lt inRange), found, if_neg (not_not_intro awaiting), flags]

end Found
end InRange
end

/-- Settles O46. -/
theorem baleWeights : Obligations.BaleWeights := by
  unfold Obligations.BaleWeights
  refine ⟨fun s weight => ⟨outcome_noCycle, outcome_unrecorded, fun n cycle =>
      ⟨outcome_notWeighing cycle, fun b => outcome_weighing cycle⟩⟩, fun s t tIs => ?offScale,
    fun s b l gross net lot netIs low high lowIs highIs t tIs => ?filling, fun s tag bale gross ready => ⟨?range, ?inRange⟩⟩
  case offScale =>
    split at tIs
    next clearing => rw [offScale_clearing clearing, tIs]
    next fault => rw [offScale_fault fault, tIs]
    next settling => exact offScale_settling settling rfl tIs
    next idle => rw [offScale_quiet (.inl idle), tIs]
    next unconfigured => rw [offScale_quiet (.inr unconfigured), tIs]
  case filling =>
    have filled := fillBale_eq lot netIs lowIs highIs tIs
    exact ⟨fun notLow notHigh => by rw [filled, notLow, notHigh]; rfl,
      fun off => filled.trans (if_pos (Bool.or_eq_true_iff.mpr off))⟩
  case range =>
    exact fun heavy => exec_eq_replied (r := .baleWeight bale gross) rfl ready (performBaleWeight_range heavy)
  case inRange =>
    intro inRange
    refine ⟨fun unknown => exec_eq_replied (r := .baleWeight bale gross) rfl ready
      (performBaleWeight_unknown inRange (s := s.admitted tag _) unknown), fun b found => ⟨fun other =>
        exec_eq_replied (r := .baleWeight bale gross) rfl ready
          (performBaleWeight_state inRange (s := s.admitted tag _) found other), fun l x awaiting lot xIs => ?_⟩⟩
    exact exec_eq_performed (r := .baleWeight bale gross) rfl ready
      (f := fun t => (t.fillBale b gross.toNat).offerCharge { lot := b.lot, index := b.index })
      (data := fun _ => bytes32 bale ++ int32 ((gross.toNat : Int) - b.tare) ++ [x.flags])
      (performBaleWeight_accepts inRange (s := s.admitted tag _) found awaiting lot xIs)

end Sys2Proof.Proofs.BaleWeight
end

section
/-! PROOF. Unload done: the head kiln leaves the Press Queue, and the request UNLOAD-DONE (R81, R124 to R126). -/

namespace Sys2Proof.Proofs.Unload

open Sys2Proof Sys2Proof.Machine

section
variable {s : State} {k : Kiln} {r : ChargeRef}

/-! ## The Press Queue's head (R123, R124) -/

theorem becomeHead_eq (charge : (s.kiln k).charge = some r) :
    s.becomeHead k = (s.updKiln k (fun x => { x with state := .unloading })).updCharge r
      (fun c => { c with state := .pressing }) :=
  KilnResumes.updKilnCharge_eq (by rw [kiln_updKiln_self, charge]) _

theorem joinPressQueue_behind (queue : s.press.queue ≠ []) :
    s.joinPressQueue k = { s with press := { s.press with queue := s.press.queue ++ [k] } } := if_neg queue

theorem joinPressQueue_head (queue : s.press.queue = []) :
    s.joinPressQueue k = (State.becomeHead { s with press := { s.press with queue := [k] } } k).judgePress := by
  have joined : s.press.queue ++ [k] = [k] := by rw [queue, List.nil_append]
  rw [State.joinPressQueue, joined]
  exact if_pos queue

theorem advanceHead_eq {v : State} {ks : List Kiln} (queue : s.press.queue = ks)
    (advanced : (ks = [] → v = s) ∧ ∀ j js, ks = j :: js → v = s.becomeHead j) : s.advanceHead = v := by
  obtain ⟨empty, next⟩ := advanced
  cases ks with
  | nil => simp only [State.advanceHead, queue, empty rfl]
  | cons j js => simp only [State.advanceHead, queue, next j js rfl]

/-! ## Unload done (R81, R125) -/

theorem unloadDone_noHead (queue : s.press.queue = []) : s.unloadDone = s := by
  simp only [State.unloadDone, queue]

theorem unloadDone_head {ks : List Kiln} (queue : s.press.queue = k :: ks) (charge : (s.kiln k).charge = some r)
    {t u v : State}
    (tIs : t = State.updCharge { s with press := { s.press with queue := ks } } r (fun c => { c with state := .pressed }))
    (uIs : u = (t.updKiln k (fun x => { ({} : KilnRun) with
        lastAir := x.lastAir, lastAirTime := x.lastAirTime
        lastExhaust := x.lastExhaust, lastExhaustTime := x.lastExhaustTime })).writeBurner k)
    (advanced : (ks = [] → v = u) ∧ ∀ j js, ks = j :: js → v = u.becomeHead j) :
    s.unloadDone = ((v.testComposition r).judgePress.attemptSelection).serve := by
  have popped : State.updKilnCharge { s with press := { s.press with queue := s.press.queue.tail } } k
      (fun c => { c with state := .pressed }) = t := by
    rw [tIs, queue]
    exact KilnResumes.updKilnCharge_eq (s := { s with press := { s.press with queue := ks } }) charge _
  have emptied : t.kilnEmptied k = u := uIs.symm
  have rest : u.press.queue = ks := by
    rw [uIs, tIs]
    simp
  have unloads : s.unloadDone = s.unloadHead k := by simp only [State.unloadDone, queue]
  simp only [unloads, State.unloadHead, popped, emptied, advanceHead_eq rest advanced, charge]

/-! ## UNLOAD-DONE (R126) -/

theorem kilnByte_eq (o : Option Kiln) : kilnByte o = (o.map (fun j => byte j.val)).getD 0xFF := by
  cases o <;> rfl

variable {b : Byte}

theorem performUnloadDone_range (out : 6 ≤ b.toNat) : performUnloadDone b s = refuse s .range := by
  simp only [performUnloadDone, kilnOf_none out]

section Kiln
variable (named : kilnOf b = some k)
include named

theorem performUnloadDone_state (other : s.press.queue.head? ≠ some k) : performUnloadDone b s = refuse s .state := by
  simp only [performUnloadDone, named, if_pos other]

theorem performUnloadDone_accepts (head : s.press.queue.head? = some k) (charge : (s.kiln k).charge = some r) {t : State}
    (tIs : t = feedEvent State.unloadDone s) :
    performUnloadDone b s = accept t (b :: be16 r.lot ++ [byte r.index] ++
      be16 (((t.charge? r).map (fun c => c.bales)).getD 0) ++ int32 (((t.charge? r).map (fun c => c.net)).getD 0) ++
      [((t.press.queue.head?).map (fun j => byte j.val)).getD 0xFF]) := by
  simp only [performUnloadDone, named, if_neg (not_not_intro head), charge, Option.getD_some, ← tIs, kilnByte_eq]
  rfl

end Kiln
end

/-- Settles O47. -/
theorem unloadDone : Obligations.UnloadDone := by
  unfold Obligations.UnloadDone
  refine ⟨fun s => unloadDone_noHead, fun s k ks r queue charge t u v tIs uIs advanced => ?head,
    fun s k r => becomeHead_eq, fun s k => ⟨joinPressQueue_behind, joinPressQueue_head⟩,
    fun s tag b ready => ⟨fun out => ?range, fun k named => ⟨fun other => ?state, fun r head charge => ?accepts⟩⟩⟩
  case head => exact unloadDone_head queue charge tIs uIs advanced
  case range => exact exec_eq_replied (r := .unloadDone b) rfl ready (performUnloadDone_range out)
  case state =>
    exact exec_eq_replied (r := .unloadDone b) rfl ready (performUnloadDone_state (s := s.admitted tag _) named other)
  case accepts =>
    exact exec_eq_performed (r := .unloadDone b) rfl ready (f := feedEvent State.unloadDone)
      (performUnloadDone_accepts (s := s.admitted tag _) named head charge rfl)

end Sys2Proof.Proofs.Unload
end

section
/-! PROOF. The Ticket Unit: when a charge is ready, the composition test, and the service of the Compose Wait list (R143 to R146). -/

namespace Sys2Proof.Proofs.Readiness

open Sys2Proof Sys2Proof.Machine

/-! ## Readiness (R143) -/

/-- A run of n is a beginning of n entries that all have the property. -/
theorem le_length_takeWhile_iff {α : Type} {p : α → Bool} {l : List α} {n : Nat} :
    n ≤ (l.takeWhile p).length ↔ ∃ run rest, l = run ++ rest ∧ run.length = n ∧ ∀ x ∈ run, p x = true := by
  constructor
  · intro long
    refine ⟨(l.takeWhile p).take n, (l.takeWhile p).drop n ++ l.dropWhile p, ?_, List.length_take_of_le long, fun x hx => ?_⟩
    · rw [← List.append_assoc, List.take_append_drop, List.takeWhile_append_dropWhile]
    · exact List.mem_takeWhile_imp (List.mem_of_mem_take hx)
  · rintro ⟨run, rest, rfl, rfl, all⟩
    rw [List.takeWhile_append_of_pos all, List.length_append]
    exact Nat.le_add_right _ _

theorem isWeighed_iff {b : Bale} : b.isWeighed = true ↔ b.status = .weighed := by
  rw [Bale.isWeighed, decide_eq_true_eq]

section
variable {s : State} {r : ChargeRef}

section
variable {bs : List Bale} (balesIs : bs = s.press.bales.filter (fun b => decide (b.lot = r.lot ∧ b.index = r.index ∧ b.ticket = none)))
include balesIs

theorem unticketed_eq : s.unticketed r = bs := by
  rw [balesIs, State.unticketed]
  refine List.filter_congr fun b _ => ?_
  rw [Bool.eq_iff_iff]
  simp only [Bool.and_eq_true, decide_eq_true_eq, Option.isNone_iff_eq_none, and_assoc]

theorem chargeReady_iff : s.chargeReady r = true ↔ ∃ c, s.charge? r = some c ∧ c.finalTicket = none ∧
    ((c.state = .pressing ∧ ∃ run rest, bs = run ++ rest ∧ run.length = 32 ∧ ∀ b ∈ run, b.status = .weighed) ∨
     (c.state = .pressed ∧ ∀ b ∈ bs, b.status = .weighed)) := by
  have full : Config.ticketLines ≤ (s.runOf r).length ↔
      ∃ run rest, bs = run ++ rest ∧ run.length = 32 ∧ ∀ b ∈ run, b.status = .weighed := by
    rw [State.runOf, unticketed_eq balesIs]
    simp only [← isWeighed_iff]
    exact le_length_takeWhile_iff
  cases charge : s.charge? r with
  | none => simp [State.chargeReady, charge]
  | some c =>
    simp only [State.chargeReady, charge, unticketed_eq balesIs, Bool.and_eq_true, Bool.or_eq_true, decide_eq_true_eq,
      Option.isNone_iff_eq_none, List.all_eq_true, isWeighed_iff, full, Option.some.injEq, exists_eq_left']

end

/-! ## The composition test (R143, R144) -/

theorem testComposition_not (not : s.chargeReady r = false ∨ r ∈ s.tickets.wait) : s.testComposition r = s := by
  refine if_neg fun joins => ?_
  simp only [Bool.and_eq_true, Bool.not_eq_true', List.contains_eq_mem, decide_eq_false_iff_not] at joins
  obtain ⟨ready, free⟩ := joins
  rcases not with notReady | waits
  · exact Bool.false_ne_true (notReady.symm.trans ready)
  · exact free waits

theorem testComposition_joins (ready : s.chargeReady r = true) (free : r ∉ s.tickets.wait) :
    s.testComposition r = { s with tickets := { s.tickets with wait := s.tickets.wait ++ [r] } } := by
  have joins : (s.chargeReady r && !s.tickets.wait.contains r) = true := by simp [ready, free]
  exact if_pos joins

theorem wait_testComposition_length : (s.testComposition r).tickets.wait.length ≤ s.tickets.wait.length + 1 := by
  unfold State.testComposition
  split
  · exact (List.length_append ..).le
  · exact Nat.le_succ _

/-! ## What a composition does to the two lists (R146, R148) -/

theorem queue_promptPrint_length : s.promptPrint.tickets.queue.length = s.tickets.queue.length := by
  have scan : s.printScan.tickets.queue.length = s.tickets.queue.length := by
    unfold State.printScan
    repeat' split
    all_goals simp [State.setProcess, State.setPrint]
  unfold State.promptPrint
  split
  · exact scan
  · exact scan
  · rfl
  · rfl

theorem queue_issueTicket_length {t : Ticket} : (s.issueTicket r t).tickets.queue.length = s.tickets.queue.length + 1 := by
  simp [State.issueTicket, queue_promptPrint_length]

/-- How many more steps a service can take: every step composes a ticket or takes an entry off the list. -/
def serviceBound (s : State) : Nat := (16 - s.tickets.queue.length) + s.tickets.wait.length

theorem serviceBound_compose (room : s.tickets.queue.length < 16) : serviceBound (s.compose r) ≤ serviceBound s := by
  unfold State.compose
  split
  next l c _ _ =>
    simp only
    split
    · rfl
    · have waits := wait_testComposition_length (r := r)
        (s := s.issueTicket r (makeTicket s.tickets.nextTicket l r.index c (s.taken r) (s.wouldBeFinal r c) s.now))
      have kept : (s.issueTicket r
          (makeTicket s.tickets.nextTicket l r.index c (s.taken r) (s.wouldBeFinal r c) s.now)).tickets.wait = s.tickets.wait := by
        simp
      rw [kept] at waits
      simp only [serviceBound, testComposition_frame, queue_issueTicket_length]
      omega
  next => rfl

/-! ## The service (R145) -/

theorem canCompose_iff : s.canCompose = true ↔
    s.tickets.queue.length < 16 ∧ 1 ≤ s.tickets.nextTicket ∧ s.tickets.nextTicket ≤ 0xFFFFFFF0 := by
  simp only [State.canCompose, Bool.and_eq_true, decide_eq_true_eq, and_assoc]
  rfl

theorem serveFuel_stopped (stopped : s.tickets.wait = [] ∨ s.canCompose = false) (n : Nat) : State.serveFuel n s = s := by
  cases n with
  | zero => rfl
  | succ n =>
    unfold State.serveFuel
    split
    next => rfl
    next r rest waiting =>
      rcases stopped with empty | cannot
      · cases waiting.symm.trans empty
      · exact if_neg (Bool.eq_false_iff.mp cannot)

section Next
variable {rest : List ChargeRef} (waiting : s.tickets.wait = r :: rest) (can : s.canCompose = true)
include waiting can

theorem serveFuel_next (n : Nat) : State.serveFuel (n + 1) s
    = State.serveFuel n (State.compose { s with tickets := { s.tickets with wait := rest } } r) := by
  rw [State.serveFuel]
  simp only [waiting, if_pos can]

theorem serviceBound_next :
    serviceBound (State.compose { s with tickets := { s.tickets with wait := rest } } r) < serviceBound s := by
  obtain ⟨room, -, -⟩ := canCompose_iff.mp can
  have composed := serviceBound_compose (s := { s with tickets := { s.tickets with wait := rest } }) (r := r) room
  have taken : serviceBound { s with tickets := { s.tickets with wait := rest } } + 1 = serviceBound s := by
    simp only [serviceBound, waiting, List.length_cons]
    omega
  omega

end Next

/-- A service with enough fuel ends as every other with enough fuel. -/
theorem serveFuel_enough {n : Nat} : ∀ {s : State} {m : Nat}, serviceBound s ≤ n → serviceBound s ≤ m →
    State.serveFuel n s = State.serveFuel m s := by
  induction n with
  | zero =>
    intro s m none _
    have empty : s.tickets.wait = [] := List.length_eq_zero_iff.mp (by unfold serviceBound at none; omega)
    rw [serveFuel_stopped (.inl empty), serveFuel_stopped (.inl empty)]
  | succ n ih =>
    intro s m enough enough'
    match waiting : s.tickets.wait, can : s.canCompose with
    | [], _ => rw [serveFuel_stopped (.inl waiting), serveFuel_stopped (.inl waiting)]
    | _ :: _, false => rw [serveFuel_stopped (.inr can), serveFuel_stopped (.inr can)]
    | r :: rest, true =>
      have less := serviceBound_next waiting can
      obtain ⟨m, rfl⟩ := Nat.exists_eq_add_one_of_ne_zero (show m ≠ 0 by omega)
      rw [serveFuel_next waiting can, serveFuel_next waiting can]
      exact ih (by omega) (by omega)

theorem serve_eq_serveFuel {n : Nat} (enough : serviceBound s ≤ n) : s.serve = State.serveFuel n s :=
  serveFuel_enough (Nat.add_le_add_right (Nat.sub_le _ _) _) enough

theorem serve_stopped (stopped : s.tickets.wait = [] ∨ 16 ≤ s.tickets.queue.length ∨ s.tickets.nextTicket = 0 ∨
    0xFFFFFFF0 < s.tickets.nextTicket) : s.serve = s := by
  refine serveFuel_stopped (stopped.imp_right fun cannot => ?_) _
  rw [Bool.eq_false_iff, ne_eq, canCompose_iff]
  omega

theorem serve_next {rest : List ChargeRef} (waiting : s.tickets.wait = r :: rest) (room : s.tickets.queue.length < 16)
    (low : 1 ≤ s.tickets.nextTicket) (high : s.tickets.nextTicket ≤ 0xFFFFFFF0) :
    s.serve = (State.compose { s with tickets := { s.tickets with wait := rest } } r).serve := by
  have can : s.canCompose = true := canCompose_iff.mpr ⟨room, low, high⟩
  have less := serviceBound_next waiting can
  rw [serve_eq_serveFuel (Nat.le_succ (serviceBound s)), serveFuel_next waiting can, serve_eq_serveFuel less.le]

end

/-- Settles O50. -/
theorem ticketReadiness : Obligations.TicketReadiness := by
  unfold Obligations.TicketReadiness
  exact ⟨fun s r bs balesIs => ⟨chargeReady_iff balesIs, testComposition_not, testComposition_joins, rfl⟩,
    fun s => ⟨serve_stopped, fun r rest => serve_next⟩⟩

end Sys2Proof.Proofs.Readiness
end

section
/-! PROOF. The Ticket Unit: the composition of one ticket, and the scan of the print process (R146 to R148, R153, R154). -/

namespace Sys2Proof.Proofs.Composition

open Sys2Proof Sys2Proof.Machine

section
variable {s : State} {r : ChargeRef}

/-! ## The bales a composition takes (R143, R146) -/

section Taken
variable {bs run : List Bale}
  (balesIs : bs = s.press.bales.filter (fun b => decide (b.lot = r.lot ∧ b.index = r.index ∧ b.ticket = none)))
  (runIs : run = (bs.takeWhile (fun b => decide (b.status = .weighed))).take 32)
include balesIs runIs

theorem taken_eq : s.taken r = run := by
  rw [runIs, State.taken, State.runOf, Readiness.unticketed_eq balesIs]
  rfl

theorem wouldBeFinal_eq {c : Charge} {final : Bool} (finalIs : final = decide (c.state = .pressed ∧ run.length = bs.length)) :
    s.wouldBeFinal r c = final := by
  rw [finalIs, State.wouldBeFinal, taken_eq balesIs runIs, Readiness.unticketed_eq balesIs, Bool.decide_and]
  exact congrArg _ (decide_eq_decide.mpr eq_comm)

end Taken

/-! ## The ticket (R147) -/

theorem yieldOf_eq (final : Bool) (net : Int) (green : Nat) : yieldOf final net green =
    if final = true ∧ green ≠ 0 then some (max 0 (min 65534 (Int.tdiv (net * 1000) green))).toNat else none := by
  simp only [yieldOf, Bool.and_eq_true, decide_eq_true_eq]

theorem makeTicket_eq {l : Lot} {i n : Nat} {c : Charge} {run : List Bale} {final : Bool} {now : Time} {lines : List TicketLine}
    (linesIs : lines = run.map lineOf) : makeTicket n l i c run final now = {
      number := n, lot := l.number, grower := l.grower, variety := l.variety, kiln := c.kiln, index := i
      part := c.partTickets, final := final, green := c.green, lines := lines
      totalNet := wrap32 (lines.map (fun x => x.net)).sum
      yield := if final = true ∧ c.green ≠ 0
        then some (max 0 (min 65534 (Int.tdiv (c.net * 1000) c.green))).toNat else none
      short := c.short, aborted := c.aborted, held := c.held, overtime := c.overtime
      manual := lines.any (fun x => x.manual), tolerance := lines.any (fun x => x.low || x.high)
      wet := lines.any (fun x => x.wet), issued := now, print := .unprinted } := by
  have total : lines.foldl (fun n x => n + x.net) 0 = (lines.map (fun x => x.net)).sum := by
    rw [Laws.Accounts.foldl_net, zero_add]
  rw [makeTicket, ← linesIs, ← yieldOf_eq, ← total]

/-! ## Composing a charge (R146, R148) -/

section Compose
variable {l : Lot} {c : Charge} {final : Bool} (lot : s.lot? r.lot = some l) (charge : s.charge? r = some c)
  (would : s.wouldBeFinal r c = final)
include lot charge would

theorem compose_nothing (nothing : s.taken r = []) (notFinal : final = false) : s.compose r = s := by
  simp only [State.compose, lot, charge, would, nothing, notFinal]
  rfl

theorem compose_issues {run : List Bale} (taken : s.taken r = run) (something : run ≠ [] ∨ final = true) :
    s.compose r = (s.issueTicket r (makeTicket s.tickets.nextTicket l r.index c run final s.mgmt.time)).testComposition r := by
  have composes : ¬ (run.isEmpty && !final) = true := by
    rcases something with lines | isFinal
    · simp [lines]
    · simp [isFinal]
  simp only [State.compose, lot, charge, would, taken, if_neg composes]
  rfl

end Compose

/-- The bales that get a ticket's number are those that its lines name. -/
theorem issueTicket_eq {t : Ticket} {n : Nat} {lines : List TicketLine} {final : Bool} (number : t.number = n)
    (linesAre : t.lines = lines) (finality : t.final = final) : s.issueTicket r t = (((State.updLot
      { s with
        tickets := { s.tickets with queue := s.tickets.queue ++ [t], lastTicket := some n, nextTicket := n + 1 }
        press := { s.press with bales := s.press.bales.map (fun b =>
          if ∃ x ∈ lines, x.bale = b.number then { b with ticket := some n } else b) } }
      r.lot (fun l => { l with ticketsIssued := l.ticketsIssued + 1 })).updCharge r (fun c =>
        if final = true then { c with finalTicket := some n }
        else { c with partTickets := min 255 (c.partTickets + 1) })).raise .ticketReady r.lot n).promptPrint := by
  subst number linesAre finality
  have listed : ∀ b : Bale, t.lists b.number = true ↔ ∃ x ∈ t.lines, x.bale = b.number := by
    simp [Ticket.lists]
  simp only [State.issueTicket, listed]

/-! ## The print process (R153, R154) -/

theorem promptPrint_busy (busy : s.tickets.process = .sending ∨ s.tickets.process = .halted) : s.promptPrint = s := by
  rcases busy with process | process <;> simp only [State.promptPrint, process]

theorem promptPrint_idle (idle : s.tickets.process = .idle) : s.promptPrint = s.printScan := by
  simp only [State.promptPrint, idle]

theorem printScan_noPrinter (noPrinter : s.roleNode .printer = none) :
    s.printScan = { s with tickets := { s.tickets with process := .idle } } := by
  simp only [State.printScan, noPrinter]
  rfl

section Printer
variable {i : NodeIdx} (printer : s.roleNode .printer = some i)
include printer

theorem printScan_lost (lost : (s.node i).state = .lost) :
    s.printScan = { s with tickets := { s.tickets with process := .halted } } := by
  simp only [State.printScan, printer, if_pos lost]
  rfl

section Present
variable (present : (s.node i).state ≠ .lost)
include present

theorem printScan_nothing (nothing : ∀ t ∈ s.tickets.queue, t.print ≠ .unprinted) :
    s.printScan = { s with tickets := { s.tickets with process := .idle } } := by
  have noNext : s.nextUnprinted = none := List.find?_eq_none.mpr fun t mem => by simpa using nothing t mem
  simp only [State.printScan, printer, if_neg present, noNext]
  rfl

theorem printScan_prints {pre post : List Ticket} {t : Ticket} (queue : s.tickets.queue = pre ++ t :: post)
    (unprinted : t.print = .unprinted) (first : ∀ x ∈ pre, x.print ≠ .unprinted) : s.printScan = { s with
      tickets := { s.tickets with
        process := .sending
        queue := s.tickets.queue.map (fun x => if x.number = t.number then { x with print := .printing } else x) }
      field := { s.field with printRequest := some t.number } } := by
  have next : s.nextUnprinted = some t := by
    refine List.find?_eq_some_iff_append.mpr ⟨decide_eq_true unprinted, pre, post, queue, fun x mem => ?_⟩
    simpa using first x mem
  simp only [State.printScan, printer, if_neg present, next]
  rfl

end Present
end Printer
end

/-- Settles O51. -/
theorem ticketComposition : Obligations.TicketComposition := by
  unfold Obligations.TicketComposition
  refine ⟨fun s r l c bs run lot charge balesIs runIs final finalIs => ?compose, fun s => ⟨promptPrint_busy, promptPrint_idle,
    printScan_noPrinter, fun i printer => ⟨printScan_lost printer, printScan_nothing printer, fun pre t post present =>
      printScan_prints printer present⟩⟩⟩
  case compose =>
    have taken : s.taken r = run := taken_eq balesIs runIs
    have would : s.wouldBeFinal r c = final := wouldBeFinal_eq balesIs runIs finalIs
    refine ⟨fun nothing notFinal => compose_nothing lot charge would (taken.trans nothing) notFinal,
      fun something n lines nIs linesIs t tIs => ?_⟩
    have ticket : makeTicket s.tickets.nextTicket l r.index c run final s.mgmt.time = t := by
      rw [tIs, nIs]
      exact makeTicket_eq linesIs
    rw [compose_issues lot charge would taken something, ticket,
      issueTicket_eq (n := n) (lines := lines) (final := final) (by rw [tIs]) (by rw [tIs]) (by rw [tIs])]

end Sys2Proof.Proofs.Composition
end

section
/-! PROOF. Shared operations: the lookup of a node, the write of a commanded state, and the raising of a notice (R19, R29, R30,
R182 to R184). -/

namespace Sys2Proof.Proofs.Commands

open Sys2Proof Sys2Proof.Machine

section
variable {s : State}

/-! ## The lookup of a node (R19) -/

theorem findNode_eq_none_iff {p : Node → Bool} : s.findNode p = none ↔ ∀ i, p (s.node i) = false := by
  rw [State.findNode, List.find?_eq_none]
  simp only [List.mem_finRange, forall_const, Bool.not_eq_true]

theorem findNode_eq_some_iff {p : Node → Bool} {i : NodeIdx} :
    s.findNode p = some i ↔ p (s.node i) = true ∧ ∀ j < i, p (s.node j) = false := by
  rw [State.findNode, ← Fin.find?_eq_find?_finRange, Fin.find?_eq_some_iff]

theorem boundNode_eq {r : Role} {k : Kiln} :
    s.boundNode r k = s.findNode (fun n => decide (n.role = some r ∧ n.binding = some k)) := by
  simp only [State.boundNode, Bool.decide_and]

theorem addressNode_eq {a : Byte} : s.addressNode a = s.findNode (fun n => decide (n.address ≠ 0 ∧ n.address = a)) := by
  simp only [State.addressNode, Bool.decide_and]

/-! ## The write of a commanded state (R29, R30) -/

section Placed
variable {i : NodeIdx} {c : Commanded}

theorem any_command_iff {q : List Command} : q.any (fun e => e.node = i && e.payload.code = c.code) = true ↔
    ∃ e ∈ q, e.node = i ∧ e.payload.code = c.code := by
  simp only [List.any_eq_true, Bool.and_eq_true, decide_eq_true_eq]

theorem placeIn_joins {q : List Command} (new : ∀ e ∈ q, ¬(e.node = i ∧ e.payload.code = c.code)) :
    placeIn i c q = q ++ [{ node := i, payload := c }] := by
  refine if_neg fun found => ?_
  obtain ⟨e, mem, same⟩ := any_command_iff.mp found
  exact new e mem same

theorem placeIn_replaces {q : List Command} (old : ∃ e ∈ q, e.node = i ∧ e.payload.code = c.code) :
    placeIn i c q = q.map (fun e => if e.node = i ∧ e.payload.code = c.code then { e with payload := c } else e) := by
  rw [placeIn, if_pos (any_command_iff.mpr old)]
  simp only [Bool.and_eq_true, decide_eq_true_eq]

theorem placeIn_eq {q q' : List Command}
    (joins : (∀ e ∈ q, ¬(e.node = i ∧ e.payload.code = c.code)) → q' = q ++ [{ node := i, payload := c }])
    (replaces : (∃ e ∈ q, e.node = i ∧ e.payload.code = c.code) →
      q' = q.map (fun e => if e.node = i ∧ e.payload.code = c.code then { e with payload := c } else e)) :
    placeIn i c q = q' := by
  by_cases old : ∃ e ∈ q, e.node = i ∧ e.payload.code = c.code
  · rw [placeIn_replaces old, replaces old]
  · have new : ∀ e ∈ q, ¬(e.node = i ∧ e.payload.code = c.code) := fun e mem same => old ⟨e, mem, same⟩
    rw [placeIn_joins new, joins new]

theorem writeCommanded_node {q : List Command} (placed : placeIn i c s.field.commandQueue = q) :
    s.writeCommanded (some i) c = { s with field := { s.field with
      nodes := s.field.nodes.set i { s.node i with commanded := some c, confirmed := false }, commandQueue := q } } := by
  rw [← placed]
  rfl

end Placed

/-! ## The raising of a notice (R182 to R184) -/

section Raise
variable {k : NoticeKind} {o : Nat} {v : Option Word32}

theorem hasKey_iff {n : Notice} : n.hasKey k o = true ↔ n.kind = k ∧ n.object = o := by
  simp only [Notice.hasKey, Bool.and_eq_true, decide_eq_true_eq]

theorem evictable_iff {n : Notice} : n.evictable = true ↔ n.kind.isAlarm = false ∧ n.sending = false := by
  simp only [Notice.evictable, Bool.and_eq_true, Bool.not_eq_true']

section In
variable {now : Time} {q : List Notice} {overflow : Bool}

theorem raiseIn_held (held : ∃ n ∈ q, n.kind = k ∧ n.object = o) : raiseIn k o v now q overflow =
    (q.map (fun n => if n.kind = k ∧ n.object = o then n.touch now v else n), overflow) := by
  have found : q.any (Notice.hasKey k o) = true := by simpa only [List.any_eq_true, hasKey_iff] using held
  rw [raiseIn, if_pos found]
  simp only [hasKey_iff]

section New
variable (new : ∀ n ∈ q, ¬(n.kind = k ∧ n.object = o))
include new

theorem not_any_hasKey : ¬ q.any (Notice.hasKey k o) = true := by
  simp only [List.any_eq_true, hasKey_iff]
  rintro ⟨n, mem, same⟩
  exact new n mem same

theorem raiseIn_room (room : q.length < 32) :
    raiseIn k o v now q overflow = (q ++ [Notice.fresh k o v now], overflow) := by
  rw [raiseIn, if_neg (not_any_hasKey new)]
  exact if_pos room

section Full
variable (full : 32 ≤ q.length)
include full

theorem raiseIn_evicts {pre post : List Notice} {n : Notice} (alarm : k.isAlarm = true) (queue : q = pre ++ n :: post)
    (evictable : n.evictable = true) (first : ∀ x ∈ pre, ¬ x.evictable = true) :
    raiseIn k o v now q overflow = (pre ++ post ++ [Notice.fresh k o v now], overflow) := by
  have possible : (k.isAlarm && q.any Notice.evictable) = true := by simp [alarm, queue, evictable]
  have erased : q.eraseP Notice.evictable = pre ++ post := by
    rw [queue, List.eraseP_append_right _ first, List.eraseP_cons_of_pos evictable]
  rw [raiseIn, if_neg (not_any_hasKey new), if_neg (show ¬ q.length < Config.noticeCapacity from Nat.not_lt.mpr full),
    if_pos possible, erased]

theorem raiseIn_lost (lost : k.isAlarm = false ∨ ∀ n ∈ q, ¬ n.evictable = true) :
    raiseIn k o v now q overflow = (q, true) := by
  have impossible : ¬ (k.isAlarm && q.any Notice.evictable) = true := by
    rw [Bool.and_eq_true, List.any_eq_true]
    rintro ⟨alarm, n, mem, evictable⟩
    rcases lost with event | none
    · exact Bool.false_ne_true (event.symm.trans alarm)
    · exact none n mem evictable
  rw [raiseIn, if_neg (not_any_hasKey new), if_neg (show ¬ q.length < Config.noticeCapacity from Nat.not_lt.mpr full),
    if_neg impossible]

end Full
end New
end In

theorem raiseOpt_eq {q : List Notice} {overflow : Bool}
    (raised : raiseIn k o v s.mgmt.time s.mgmt.notices s.mgmt.overflow = (q, overflow)) :
    s.raiseOpt k o v = { s with mgmt := { s.mgmt with notices := q, overflow := overflow } } := by
  rw [State.raiseOpt, State.now, raised]

end Raise
end

/-- Settles O53. -/
theorem commandedWritesAndNotices : Obligations.CommandedWritesAndNotices := by
  unfold Obligations.CommandedWritesAndNotices
  refine ⟨fun s p => ⟨findNode_eq_none_iff, fun i => findNode_eq_some_iff⟩,
    fun s r k a => ⟨rfl, boundNode_eq, addressNode_eq, rfl, fun i => rfl⟩,
    fun s c => ⟨rfl, fun i q joins replaces => writeCommanded_node (placeIn_eq joins replaces)⟩, ?raising, fun s k o v => rfl⟩
  case raising =>
    rintro s k o v _ rfl
    refine ⟨fun held => raiseOpt_eq (raiseIn_held held), fun new => ⟨fun room => raiseOpt_eq (raiseIn_room new room), fun full =>
      ⟨fun pre n post alarm queue event idle first => raiseOpt_eq (raiseIn_evicts new full alarm queue ?_ ?_),
        fun lost => raiseOpt_eq (raiseIn_lost new full ?_)⟩⟩⟩
    · exact evictable_iff.mpr ⟨event, idle⟩
    · exact fun x mem evictable => first x mem (evictable_iff.mp evictable)
    · exact lost.imp_right fun none n mem evictable => none n mem (evictable_iff.mp evictable)

end Sys2Proof.Proofs.Commands
end
